-- ==== Sys2Proof/Word.lean ====
section
/-! DEFINITION. The words, selectors and code fields of the HX2 instruction set, as plain enumerations:
spec/02 R41 to R53, R64, R67 and R68. -/

namespace Sys2Proof

/-- An instruction word (R41). -/
abbrev Word32 := BitVec 32
/-- A scalar register (R123). -/
abbrev Word64 := BitVec 64
/-- A vector register, a latch of C or a queue entry (R143, R164). -/
abbrev VWord := BitVec 2048

/-- The four sequencers of a core, in the order of the ring of R25: K 0, L 1, C 2, S 3. -/
inductive Seq where
  | k | l | c | s
  deriving DecidableEq, Repr

/-- The number of a sequencer (R113: K as 0 and S as 3). -/
def Seq.idx : Seq → Fin 4
  | .k => 0 | .l => 1 | .c => 2 | .s => 3

/-- The sequencer of a number. -/
def Seq.ofIdx : Fin 4 → Seq
  | 0 => .k | 1 => .l | 2 => .c | 3 => .s

/-- The ring bits of a first word: bits 31 to 28 (R41). -/
structure Ring where
  wp : Bool
  wn : Bool
  sp : Bool
  sn : Bool
  deriving DecidableEq, Repr

/-- The ring bits and the guard of a first word: bits 31 to 24 (R41). -/
structure Hdr where
  ring : Ring
  gn : Bool
  gp : Fin 8
  deriving DecidableEq, Repr

/-- The signals of a second word, which act at completion (R42). -/
structure Comp where
  sp : Bool
  sn : Bool
  deriving DecidableEq, Repr

/-- A source selector (R45). In a vector operand position of C, `reg` names a v register. -/
inductive Sel where
  | reg (r : Fin 32)
  | latch (b : Fin 4)
  | pop (q : Fin 8)
  | peek (q : Fin 8)
  deriving DecidableEq, Repr

/-- The 6-bit code of a selector (R45). -/
def Sel.code : Sel → Nat
  | .reg r => r.val
  | .latch b => 32 + b.val
  | .pop q => 40 + q.val
  | .peek q => 48 + q.val

/-- Whether the sequencer may use the selector (R45): C pops and peeks q0 to q5, S q6 and q7, K and L none. -/
def Sel.ok (q : Seq) : Sel → Bool
  | .reg _ => true
  | .latch _ => true
  | .pop n | .peek n =>
    match q with
    | .c => n.val < 6
    | .s => 6 ≤ n.val
    | _ => false

/-- A destination field (R47): an indexed register, or the latch of the class alone (N = 1). -/
inductive Dest where
  | reg (r : Fin 32)
  | latch
  deriving DecidableEq, Repr

/-- The 6-bit code of a destination field (R47). -/
def Dest.code : Dest → Nat
  | .reg r => r.val
  | .latch => 32

/-- The number formats, in the order of their codes (R51). -/
inductive Fmt where
  | t2 | int4 | int8 | int16 | int32 | e4m3 | e5m2 | fp16 | bf16 | fp32 | e8m2
  deriving DecidableEq, Repr

/-- The 4-bit code of a format (R51). -/
def Fmt.code : Fmt → Nat
  | .t2 => 0 | .int4 => 1 | .int8 => 2 | .int16 => 3 | .int32 => 4 | .e4m3 => 5
  | .e5m2 => 6 | .fp16 => 7 | .bf16 => 8 | .fp32 => 9 | .e8m2 => 10

/-- The format of a code; none for the reserved codes (R51). -/
def Fmt.ofCode : Nat → Option Fmt
  | 0 => some .t2 | 1 => some .int4 | 2 => some .int8 | 3 => some .int16 | 4 => some .int32
  | 5 => some .e4m3 | 6 => some .e5m2 | 7 => some .fp16 | 8 => some .bf16 | 9 => some .fp32
  | 10 => some .e8m2
  | _ => none

/-- The rounding modes, in the order of their codes (R52). -/
inductive RMode where
  | rne | rtz | rdn | rup | rna
  deriving DecidableEq, Repr

/-- The 3-bit code of a rounding mode (R52). -/
def RMode.code : RMode → Nat
  | .rne => 0 | .rtz => 1 | .rdn => 2 | .rup => 3 | .rna => 4

/-- The rounding mode of a code; none for the reserved codes (R52). -/
def RMode.ofCode : Nat → Option RMode
  | 0 => some .rne | 1 => some .rtz | 2 => some .rdn | 3 => some .rup | 4 => some .rna
  | _ => none

/-- The scopes, in the order of their codes (R53). -/
inductive Scope where
  | core | quad | dev | sys
  deriving DecidableEq, Repr

/-- The 2-bit code of a scope (R53). -/
def Scope.code : Scope → Nat
  | .core => 0 | .quad => 1 | .dev => 2 | .sys => 3

/-- The scope of the low two bits of a number (R53). -/
def Scope.ofCode (n : Nat) : Scope :=
  match n % 4 with
  | 0 => .core | 1 => .quad | 2 => .dev | _ => .sys

/-- The fates of a local access (R53, R153). -/
inductive Fate where
  | keep | retain | drop
  deriving DecidableEq, Repr

/-- The 2-bit code of a fate (R53). -/
def Fate.code : Fate → Nat
  | .keep => 0 | .retain => 1 | .drop => 2

/-- The fate of a code; none for the reserved code (R53). -/
def Fate.ofCode : Nat → Option Fate
  | 0 => some .keep | 1 => some .retain | 2 => some .drop | _ => none

/-- The bank states that a request can name (R53, R187). -/
inductive SupplyReq where
  | full | retention | off
  deriving DecidableEq, Repr

/-- The 2-bit code of a requested state (R53). -/
def SupplyReq.code : SupplyReq → Nat
  | .full => 0 | .retention => 1 | .off => 2

/-- The requested state of a code; none for the reserved code (R53). -/
def SupplyReq.ofCode : Nat → Option SupplyReq
  | 0 => some .full | 1 => some .retention | 2 => some .off | _ => none

/-- The access sizes of the LS and SS formats, in the order of their codes (R64). -/
inductive Sz where
  | b | bu | h | hu | w | wu | d
  deriving DecidableEq, Repr

/-- The 3-bit code of a size (R64). -/
def Sz.code : Sz → Nat
  | .b => 0 | .bu => 1 | .h => 2 | .hu => 3 | .w => 4 | .wu => 5 | .d => 6

/-- The size of a code; none for code 7 (R64). -/
def Sz.ofCode : Nat → Option Sz
  | 0 => some .b | 1 => some .bu | 2 => some .h | 3 => some .hu | 4 => some .w | 5 => some .wu
  | 6 => some .d
  | _ => none

/-- The bytes of a size: 2^(SZ div 2) (R154). -/
def Sz.bytes : Sz → Nat
  | .b => 1 | .bu => 1 | .h => 2 | .hu => 2 | .w => 4 | .wu => 4 | .d => 8

/-- Whether a store accepts the size: the signed sizes and .D (R64). -/
def Sz.storeOk : Sz → Bool
  | .b => true | .h => true | .w => true | .d => true
  | .bu => false | .hu => false | .wu => false

/-- Whether a load of the size extends by sign (R64). -/
def Sz.signed : Sz → Bool
  | .b => true | .h => true | .w => true
  | _ => false

/-- The element sizes of GATHER and SCATTER (R65). -/
inductive Esz where
  | e8 | e16 | e32
  deriving DecidableEq, Repr

/-- The 2-bit code of an element size (R65). -/
def Esz.code : Esz → Nat
  | .e8 => 0 | .e16 => 1 | .e32 => 2

/-- The element size of a code; none for the reserved code (R65). -/
def Esz.ofCode : Nat → Option Esz
  | 0 => some .e8 | 1 => some .e16 | 2 => some .e32 | _ => none

/-- The integer vector types, in the order of their codes (R67). -/
inductive VITy where
  | int8 | int16 | int32 | uint8 | uint16 | uint32
  deriving DecidableEq, Repr

/-- The 3-bit code of an integer vector type (R67). -/
def VITy.code : VITy → Nat
  | .int8 => 0 | .int16 => 1 | .int32 => 2 | .uint8 => 3 | .uint16 => 4 | .uint32 => 5

/-- The integer vector type of a code; none for 6 and above (R67). -/
def VITy.ofCode : Nat → Option VITy
  | 0 => some .int8 | 1 => some .int16 | 2 => some .int32 | 3 => some .uint8
  | 4 => some .uint16 | 5 => some .uint32
  | _ => none

/-- The width in bits of an integer vector type (R164). -/
def VITy.width : VITy → Nat
  | .int8 => 8 | .uint8 => 8 | .int16 => 16 | .uint16 => 16 | .int32 => 32 | .uint32 => 32

/-- Whether the type is signed (R174). -/
def VITy.signed : VITy → Bool
  | .int8 => true | .int16 => true | .int32 => true
  | .uint8 => false | .uint16 => false | .uint32 => false

/-- The float vector types, in the order of their codes (R67). -/
inductive VFTy where
  | fp32 | fp16 | bf16
  deriving DecidableEq, Repr

/-- The 3-bit code of a float vector type (R67). -/
def VFTy.code : VFTy → Nat
  | .fp32 => 0 | .fp16 => 1 | .bf16 => 2

/-- The float vector type of a code; none for 3 and above (R67). -/
def VFTy.ofCode : Nat → Option VFTy
  | 0 => some .fp32 | 1 => some .fp16 | 2 => some .bf16 | _ => none

/-- The format of a float vector type. -/
def VFTy.fmt : VFTy → Fmt
  | .fp32 => .fp32 | .fp16 => .fp16 | .bf16 => .bf16

/-- The element types of VCMP and of the reductions: the VC codes (R68). -/
inductive VTy where
  | i (t : VITy)
  | f (t : VFTy)
  deriving DecidableEq, Repr

/-- The 4-bit VC code of a type (R68). -/
def VTy.code : VTy → Nat
  | .i t => t.code
  | .f .fp32 => 6
  | .f .fp16 => 7
  | .f .bf16 => 8

/-- The type of a VC code; none for 9 and above (R68). -/
def VTy.ofCode : Nat → Option VTy
  | 0 => some (.i .int8) | 1 => some (.i .int16) | 2 => some (.i .int32)
  | 3 => some (.i .uint8) | 4 => some (.i .uint16) | 5 => some (.i .uint32)
  | 6 => some (.f .fp32) | 7 => some (.f .fp16) | 8 => some (.f .bf16)
  | _ => none

/-- The compare conditions of VCMP, in the order of their codes (R68). -/
inductive VCond where
  | eq | lt | le | un
  deriving DecidableEq, Repr

/-- The 4-bit code of a condition (R68). -/
def VCond.code : VCond → Nat
  | .eq => 0 | .lt => 1 | .le => 2 | .un => 3

/-- The condition of a code; none for 4 and above (R68). -/
def VCond.ofCode : Nat → Option VCond
  | 0 => some .eq | 1 => some .lt | 2 => some .le | 3 => some .un | _ => none

/-- The trip count of LOOP (R60): an immediate or a selector. -/
inductive LoopCount where
  | imm (n : BitVec 12)
  | sel (a : Sel)
  deriving DecidableEq, Repr

/-- The fields of the ATOM word that every operation carries (R65): SCOPE, ACQ, REL and SZ. -/
structure AtomF where
  scope : Scope
  acq : Bool
  rel : Bool
  dbl : Bool
  deriving DecidableEq, Repr

/-- The fields of the CPY word (R65). -/
structure CopyF where
  scope : Scope
  acq : Bool
  rel : Bool
  deriving DecidableEq, Repr

/-- The fields of the MD word (R69). -/
structure DrainF where
  dprog : Fin 64
  dr : Bool
  fl : Bool
  fsel : Fin 16
  acq : Bool
  rel : Bool
  scope : Scope
  win : Fin 4
  deriving DecidableEq, Repr

/-- The bits of a word from `lo`, `len` of them, as a number. -/
def fld (w : Word32) (lo len : Nat) : Nat := w.toNat / 2 ^ lo % 2 ^ len

/-- One bit of a word. -/
def bitAt (w : Word32) (lo : Nat) : Bool := fld w lo 1 == 1

/-- The operation that a detector reports against (R348): its sequencer, when it has one, its address, and the rc in which
it read or produced the bad value. -/
structure OpRef where
  seqr : Option (Fin 4)
  pc : BitVec 48
  at_ : Nat
  deriving DecidableEq, Repr

/-- A stored place that carries parity (R126, R185, R205, R348): a scalar register, a predicate or a latch of a sequencer, a
lane of a vector register, a mask, an entry of a queue, a tile byte, an element of an accumulator, a local byte, or a special
register. -/
inductive Place where
  | sreg (q : Fin 4) (r : Fin 32)
  | pred (q : Fin 4) (p : Fin 8)
  | latch (q : Fin 4) (b : Fin 4)
  | lane (r : Fin 32) (i : Fin 64)
  | mask (m : Fin 8)
  | queue (q : Fin 8) (i : Fin 4)
  | tile (t : Fin 8) (i : Nat)
  | acc (a : Fin 4) (i : Nat)
  | byte (a : Nat)
  | special (srn : BitVec 12)
  deriving DecidableEq, Repr

/-- What a detector's report concerns (R348 to R351): an operation outside the drain path; a residue error in a lane of a vector
operation, with the rc in which the operation issued; the drain path, with the rc; a stored place with the bad bits it holds,
read by an operation, and whether the run had written it before; an I-cache line; a TLB entry; drain memory, with the rc in
which a program was decoded if one was; a piece of a channel's copy; the timing monitors of the copy domain, with the channel at
work and the rc; a commit-buffer line; a device line; a single-bit error in data of a partition; a Feldspar flit of a partition;
state read by a save or by the migration path. -/
inductive Report where
  | operation (o : OpRef)
  | residue (o : OpRef) (issued : Nat) (lane : Fin 64)
  | drainPath (at_ : Nat)
  | storage (o : OpRef) (place : Place) (bad : Nat) (written : Bool)
  | icache (q : Fin 4) (line : Nat)
  | tlb (stream : Option (Fin 4)) (entry : Nat)
  | drainMemory (decode : Option Nat)
  | piece (x : Fin 4)
  | channel (x : Fin 4) (at_ : Nat)
  | cbLine (id : Nat)
  | hbmLine (n : Nat)
  | single (p : Fin 16) (addr : Nat)
  | flit (p : Fin 16) (addr : Nat)
  | moved
  deriving DecidableEq, Repr

/-- How an Ethernet port handles an IEEE 1588 event message (R405). -/
inductive PtpMode where
  | receive
  | oneStep
  | twoStep
  deriving DecidableEq, Repr

/-- An IEEE 1588 event message at an Ethernet port (R405): its number and how the port handles it. -/
structure PtpMsg where
  msg : Nat
  mode : PtpMode
  deriving DecidableEq, Repr

/-- Where the stamp of an event message goes (R405): with the received message, into the frame, or into the transmit
descriptor. -/
inductive PtpPlace where
  | received
  | frame
  | descriptor
  deriving DecidableEq, Repr

/-- The management and debug registers whose writes have no row of their own, of the die the write goes to, and three
acts of its firmware that take what the hardware posted: the head of a launch queue (R327), the migration candidates
(R270), the interrupts (R325, R385). Then the rate correction by which the firmware slews Quartz (R321), the port that it
chooses to discipline Quartz (R405), the host's writes through a partition's BAR0 window and to a register through PF0
BAR0, and the firmware's permission of the latter (R404). -/
inductive MReg where
  | ptroot (p : Fin 16)
  | sdcmd
  | sdstat
  | migthresh
  | linkret
  | cohctl
  | partcfg (p : Fin 16)
  | partlim (p : Fin 16)
  | allot (p : Fin 16) (i : Fin 8)
  | partstat (p : Fin 16)
  | ttctl
  | ttstat
  | tteA (i : Fin 256)
  | tteB (i : Fin 256)
  | elogcfg (p : Fin 16)
  | qstep
  | grpctl (t : Fin 256)
  | grpmem (t : Fin 256) (m : Fin 16)
  | rstctl
  | pwrcap
  | cntalloc (k : Fin 16)
  | cntbase (p : Fin 16)
  | cntcfg (k : Fin 16) (i : Fin 8)
  | cntval (k : Fin 16) (i : Fin 8)
  | shtime
  | tncfg (p : Fin 16)
  | tntrig (p : Fin 16)
  | dbgperm
  | dbgctl (k : Fin 16)
  | dbgbp (k : Fin 16) (i : Fin 4)
  | mbcfg (p : Fin 16)
  | bootwin (a : BitVec 22)
  | launchTake (p : Fin 16)
  | migTake
  | irqTake
  | slew
  | discipline (d : Fin 2)
  | mbptr (p : Fin 16)
  | vfBar0 (p : Fin 16) (off : BitVec 12)
  | pfBar0 (r : MReg)
  | permit (r : MReg) (on : Bool)
  deriving DecidableEq, Repr

end Sys2Proof
end

