-- ==== Sys2Proof/Syntax.lean ====
section
/-! DEFINITION. The one inductive of the instructions and steps of spec/opcode_table.json, one constructor per row.
The first part holds the instruction words of the four sequencers (spec/02), the second the steps of engines, dies
and the outside world (spec/95), which have no encoding. -/

namespace Sys2Proof

/-- The rows of the opcode table. -/
inductive Instr where
  /-- NOP (R102) No operation; only its ring actions. -/
  | nop (h : Hdr)
  /-- BRK (R102) Requests a debug stop when breakpoints are enabled for the partition; otherwise no effect. -/
  | brk (h : Hdr)
  /-- XFENCE_CORE (R301) Waits until the sequencer's earlier private stores are performed at core scope. -/
  | xfenceCore (h : Hdr)
  /-- XFENCE_QUAD (R301) Waits for private stores and for F(quad) to reach PTS. -/
  | xfenceQuad (h : Hdr)
  /-- XFENCE_DEV (R301) Waits for private stores and for F(device) to reach PTS. -/
  | xfenceDev (h : Hdr)
  /-- XFENCE_SYS (R301) Waits for private stores and for F(system) to reach PTS. -/
  | xfenceSys (h : Hdr)
  /-- COMMIT (R110) The sequencer arrives at the region rendezvous with its tag, P bit and drop mask. -/
  | commit (r : Ring) (p : Bool) (drop : BitVec 4) (tag : BitVec 8)
  /-- HALT (R112) The final COMMIT of a stream; the task ends after the rendezvous completes. -/
  | halt (r : Ring) (p : Bool) (drop : BitVec 4) (tag : BitVec 8)
  /-- ADD (R133) 64-bit add, written to the register and to b0. -/
  | add (h : Hdr) (d : Dest) (a b : Sel)
  /-- SUB (R133) 64-bit subtract. -/
  | sub (h : Hdr) (d : Dest) (a b : Sel)
  /-- AND (R133) Bitwise AND. -/
  | and (h : Hdr) (d : Dest) (a b : Sel)
  /-- OR (R133) Bitwise OR. -/
  | or (h : Hdr) (d : Dest) (a b : Sel)
  /-- XOR (R133) Bitwise XOR. -/
  | xor (h : Hdr) (d : Dest) (a b : Sel)
  /-- SHL (R133) Logical shift left by B[5:0]. -/
  | shl (h : Hdr) (d : Dest) (a b : Sel)
  /-- SHR (R133) Logical shift right by B[5:0]. -/
  | shr (h : Hdr) (d : Dest) (a b : Sel)
  /-- SRA (R133) Arithmetic shift right by B[5:0]. -/
  | sra (h : Hdr) (d : Dest) (a b : Sel)
  /-- MUL (R133) Low 64 bits of the product, written to the register and to b1. -/
  | mul (h : Hdr) (d : Dest) (a b : Sel)
  /-- ADDI (R134) Adds a 6-bit signed immediate. -/
  | addi (h : Hdr) (d : Dest) (a : Sel) (imm : BitVec 6)
  /-- LI (R134) Loads a sign-extended 12-bit immediate. -/
  | li (h : Hdr) (d : Dest) (imm : BitVec 12)
  /-- ADDI_LONG (R136) ALUX: adds a 22-bit signed immediate. -/
  | addiLong (h : Hdr) (d : Dest) (a : Sel) (imm : BitVec 22) (c : Comp)
  /-- ANDI (R136) ALUX: AND with a signed immediate. -/
  | andi (h : Hdr) (d : Dest) (a : Sel) (imm : BitVec 22) (c : Comp)
  /-- ORI (R136) ALUX: OR with a signed immediate. -/
  | ori (h : Hdr) (d : Dest) (a : Sel) (imm : BitVec 22) (c : Comp)
  /-- XORI (R136) ALUX: XOR with a signed immediate. -/
  | xori (h : Hdr) (d : Dest) (a : Sel) (imm : BitVec 22) (c : Comp)
  /-- SHLI (R136) ALUX: shift left by an immediate. -/
  | shli (h : Hdr) (d : Dest) (a : Sel) (n : Fin 64) (c : Comp)
  /-- SHRI (R136) ALUX: logical shift right by an immediate. -/
  | shri (h : Hdr) (d : Dest) (a : Sel) (n : Fin 64) (c : Comp)
  /-- SRAI (R136) ALUX: arithmetic shift right by an immediate. -/
  | srai (h : Hdr) (d : Dest) (a : Sel) (n : Fin 64) (c : Comp)
  /-- MULH (R136) ALUX: high half of the signed product. -/
  | mulh (h : Hdr) (d : Dest) (a b : Sel) (c : Comp)
  /-- MULHU (R136) ALUX: high half of the unsigned product. -/
  | mulhu (h : Hdr) (d : Dest) (a b : Sel) (c : Comp)
  /-- MIN (R136) ALUX: signed minimum. -/
  | min (h : Hdr) (d : Dest) (a b : Sel) (c : Comp)
  /-- MAX (R136) ALUX: signed maximum. -/
  | max (h : Hdr) (d : Dest) (a b : Sel) (c : Comp)
  /-- MINU (R136) ALUX: unsigned minimum. -/
  | minu (h : Hdr) (d : Dest) (a b : Sel) (c : Comp)
  /-- MAXU (R136) ALUX: unsigned maximum. -/
  | maxu (h : Hdr) (d : Dest) (a b : Sel) (c : Comp)
  /-- EXT (R136) ALUX: zero-extended bit-field extract. -/
  | ext (h : Hdr) (d : Dest) (a : Sel) (pos width1 : Fin 64) (c : Comp)
  /-- EXTS (R136) ALUX: sign-extended bit-field extract. -/
  | exts (h : Hdr) (d : Dest) (a : Sel) (pos width1 : Fin 64) (c : Comp)
  /-- INS (R136) ALUX: inserts a field of A into a copy of B. -/
  | ins (h : Hdr) (d : Dest) (a b : Sel) (pos width1 : Fin 64) (c : Comp)
  /-- CLZ (R136) ALUX: counts leading zero bits. -/
  | clz (h : Hdr) (d : Dest) (a : Sel) (c : Comp)
  /-- CTZ (R136) ALUX: counts trailing zero bits. -/
  | ctz (h : Hdr) (d : Dest) (a : Sel) (c : Comp)
  /-- POPC (R136) ALUX: counts one bits. -/
  | popc (h : Hdr) (d : Dest) (a : Sel) (c : Comp)
  /-- LIH (R136) ALUX: shifts A left by 22 and ORs in a 22-bit immediate. -/
  | lih (h : Hdr) (d : Dest) (a : Sel) (imm : BitVec 22) (c : Comp)
  /-- CMPEQ (R137) Writes the equality of two operands and its negation to predicates. -/
  | cmpeq (h : Hdr) (pt pf : Fin 8) (a b : Sel)
  /-- CMPLT (R137) Signed less-than compare to predicates. -/
  | cmplt (h : Hdr) (pt pf : Fin 8) (a b : Sel)
  /-- CMPLTU (R137) Unsigned less-than compare to predicates. -/
  | cmpltu (h : Hdr) (pt pf : Fin 8) (a b : Sel)
  /-- CMPEQI (R137) Equality compare with a 22-bit immediate. -/
  | cmpeqi (h : Hdr) (pt pf : Fin 8) (a : Sel) (imm : BitVec 22) (c : Comp)
  /-- CMPLTI (R137) Signed less-than compare with an immediate. -/
  | cmplti (h : Hdr) (pt pf : Fin 8) (a : Sel) (imm : BitVec 22) (c : Comp)
  /-- CMPLTUI (R137) Unsigned less-than compare with an immediate. -/
  | cmpltui (h : Hdr) (pt pf : Fin 8) (a : Sel) (imm : BitVec 22) (c : Comp)
  /-- PAND (R138) AND of two optionally negated predicates. -/
  | pand (h : Hdr) (xd xa xb : Fin 8) (na nb : Bool)
  /-- POR (R138) OR of two optionally negated predicates. -/
  | por (h : Hdr) (xd xa xb : Fin 8) (na nb : Bool)
  /-- PXOR (R138) XOR of two optionally negated predicates. -/
  | pxor (h : Hdr) (xd xa xb : Fin 8) (na nb : Bool)
  /-- PMOV (R138) Copies an optionally negated predicate. -/
  | pmov (h : Hdr) (xd xa : Fin 8) (na : Bool)
  /-- BR (R103) PC-relative branch when the guard is true. -/
  | br (h : Hdr) (off : BitVec 18)
  /-- BRL (R103) PC-relative branch that writes the return address to s31. -/
  | brl (h : Hdr) (off : BitVec 18)
  /-- JR (R103) Jumps to a register target, optionally linking PC+4 to D and b0. -/
  | jr (h : Hdr) (d : Dest) (a : Sel)
  /-- LOOP (R105) Sets up a hardware loop, optionally software-pipelined, with a trip count and a body length. -/
  | loop (h : Hdr) (x : Fin 4) (swp : Bool) (n : LoopCount) (lid : BitVec 8) (len : BitVec 18) (c : Comp)
  /-- MFSR (R139) Reads a special register into s[S] and b0. -/
  | mfsr (h : Hdr) (r : Fin 32) (srn : BitVec 12)
  /-- MTSR (R139) Writes a special register from s[S], with that register's checks. -/
  | mtsr (h : Hdr) (r : Fin 32) (srn : BitVec 12)
  /-- LD (R154) Scalar load from private or window local store. -/
  | ld (h : Hdr) (d : Dest) (a : Sel) (sz : Sz)
  /-- LDX (R154) Scalar local load with an offset and a fate. -/
  | ldx (h : Hdr) (d : Dest) (a : Sel) (sz : Sz) (fate : Fate) (off : BitVec 24) (c : Comp)
  /-- LDD (R154) Scalar device load at device or system scope, optionally acquiring. -/
  | ldd (h : Hdr) (d : Dest) (a : Sel) (sz : Sz) (scope : Scope) (acq : Bool) (off : BitVec 24) (c : Comp)
  /-- ST (R156) Scalar store to private or window local store. -/
  | st (h : Hdr) (v a : Sel) (sz : Sz)
  /-- STX (R156) Scalar local store with an offset and a fate. -/
  | stx (h : Hdr) (v a : Sel) (sz : Sz) (fate : Fate) (off : BitVec 24) (c : Comp)
  /-- STD (R156) Device store, buffered in the commit buffer. -/
  | std (h : Hdr) (v a : Sel) (sz : Sz) (scope : Scope) (rel : Bool) (off : BitVec 24) (c : Comp)
  /-- LDQ (R157) Reserves a q0-q5 entry and fills it with 256 local bytes. -/
  | ldq (h : Hdr) (q : Fin 8) (a : Sel) (fate : Fate) (off : BitVec 24) (c : Comp)
  /-- LDDQ (R157) Reserves a queue entry and fills it from four device lines. -/
  | lddq (h : Hdr) (q : Fin 8) (a : Sel) (scope : Scope) (acq : Bool) (off : BitVec 24) (c : Comp)
  /-- STQ (R157) Pops q6 or q7 and writes the 256-byte entry to local store. -/
  | stq (h : Hdr) (q : Fin 8) (a : Sel) (fate : Fate) (off : BitVec 24) (c : Comp)
  /-- GATHER (R158) Gathers indexed private-store elements into a queue entry. -/
  | gather (h : Hdr) (q : Fin 8) (a b : Sel) (fate : Fate) (esz : Esz) (off : BitVec 24) (c : Comp)
  /-- SCATTER (R158) Scatters the elements of a popped entry to indexed private-store addresses. -/
  | scatter (h : Hdr) (q : Fin 8) (a b : Sel) (fate : Fate) (esz : Esz) (off : BitVec 24) (c : Comp)
  /-- ATOM_ADD (R305) Atomic add at the home. -/
  | atomAdd (h : Hdr) (d : Dest) (a b : Sel) (f : AtomF) (c : Comp)
  /-- ATOM_AND (R305) Atomic AND. -/
  | atomAnd (h : Hdr) (d : Dest) (a b : Sel) (f : AtomF) (c : Comp)
  /-- ATOM_OR (R305) Atomic OR. -/
  | atomOr (h : Hdr) (d : Dest) (a b : Sel) (f : AtomF) (c : Comp)
  /-- ATOM_XOR (R305) Atomic XOR. -/
  | atomXor (h : Hdr) (d : Dest) (a b : Sel) (f : AtomF) (c : Comp)
  /-- ATOM_MIN (R305) Atomic signed minimum. -/
  | atomMin (h : Hdr) (d : Dest) (a b : Sel) (f : AtomF) (c : Comp)
  /-- ATOM_MAX (R305) Atomic signed maximum. -/
  | atomMax (h : Hdr) (d : Dest) (a b : Sel) (f : AtomF) (c : Comp)
  /-- ATOM_MINU (R305) Atomic unsigned minimum. -/
  | atomMinu (h : Hdr) (d : Dest) (a b : Sel) (f : AtomF) (c : Comp)
  /-- ATOM_MAXU (R305) Atomic unsigned maximum. -/
  | atomMaxu (h : Hdr) (d : Dest) (a b : Sel) (f : AtomF) (c : Comp)
  /-- ATOM_SWAP (R305) Atomic swap. -/
  | atomSwap (h : Hdr) (d : Dest) (a b : Sel) (f : AtomF) (c : Comp)
  /-- ATOM_CAS (R305) Atomic compare-and-swap. -/
  | atomCas (h : Hdr) (d : Dest) (a b cmp : Sel) (f : AtomF) (c : Comp)
  /-- PREF (R271) Translates an address and brings its line into the home memory-side cache; faults are dropped. -/
  | pref (h : Hdr) (a : Sel) (scope : Scope) (off : BitVec 24) (c : Comp)
  /-- PREFI (R118) Prefetches up to 16 instruction lines into a target stream's I-cache. -/
  | prefi (h : Hdr) (x : Fin 4) (a : Sel) (nl : Fin 16) (off : BitVec 24) (c : Comp)
  /-- TLD (R211) Loads a tile from private local store. -/
  | tld (h : Hdr) (t : Fin 8) (a : Sel) (fate : Fate) (off : BitVec 24) (c : Comp)
  /-- TLDW (R213) Loads a tile as convolution windows described by a shape record. -/
  | tldw (h : Hdr) (t : Fin 8) (a b : Sel) (fate : Fate) (row0 col0 : BitVec 12) (c : Comp)
  /-- BANK (R193) Requests a supply state for 1 to 16 consecutive local-store banks. -/
  | bank (h : Hdr) (a : Sel) (st : SupplyReq) (cnt : Fin 16)
  /-- SYNCWAIT (R286) Stalls until a sync word's GEN reaches a value, then returns FLAGS and GEN. -/
  | syncwait (h : Hdr) (d : Dest) (a b : Sel) (off : BitVec 24) (c : Comp)
  /-- COPY (R280) Checks a copy command and enqueues it on a channel. -/
  | copy (h : Hdr) (x : Fin 4) (a : Sel) (f : CopyF) (c : Comp)
  /-- COPY_R (R280) Checks a routed copy command and enqueues it as deferred. -/
  | copyR (h : Hdr) (x : Fin 4) (a : Sel) (f : CopyF) (c : Comp)
  /-- DWIN (R237) Sets a drain window's base, row stride and length. -/
  | dwin (h : Hdr) (x : Fin 4) (a b : Sel) (len : BitVec 24) (c : Comp)
  /-- LAUNCH (R328) Reads a launch record and buffers it for release at commit. -/
  | launch (h : Hdr) (a : Sel) (c : Comp)
  /-- YIELD_N (R114) Takes a pending pre-emption at node-boundary depth right after a commit. -/
  | yieldN (h : Hdr)
  /-- SWPT (R377) Switch point: arrives at the rendezvous and takes the cut's program counters from the switch-table entry of the level in force. -/
  | swpt (h : Hdr) (a : Sel)
  /-- GROUP_RANK (R338) Returns this task's rank in a team. -/
  | groupRank (h : Hdr) (d : Dest) (a : Sel)
  /-- GROUP_SIZE (R338) Returns a team's member count. -/
  | groupSize (h : Hdr) (d : Dest) (a : Sel)
  /-- BAR (R340) Barrier: commit A, arrival, wait, then commit B; traps on a non-zero status. -/
  | bar (h : Hdr) (a : Sel)
  /-- BARW (R340) Barrier that returns its status and epoch instead of trapping. -/
  | barw (h : Hdr) (d : Dest) (a : Sel)
  /-- VADD (R174) Integer vector add, optionally saturating. -/
  | vadd (h : Hdr) (d : Dest) (a b : Sel) (ty : VITy) (sat : Bool) (c : Comp)
  /-- VSUB (R174) Integer vector subtract. -/
  | vsub (h : Hdr) (d : Dest) (a b : Sel) (ty : VITy) (sat : Bool) (c : Comp)
  /-- VMUL (R174) Integer vector multiply. -/
  | vmul (h : Hdr) (d : Dest) (a b : Sel) (ty : VITy) (sat : Bool) (c : Comp)
  /-- VMULH (R174) High half of the integer vector product. -/
  | vmulh (h : Hdr) (d : Dest) (a b : Sel) (ty : VITy) (c : Comp)
  /-- VMIN (R174) Integer vector minimum. -/
  | vmin (h : Hdr) (d : Dest) (a b : Sel) (ty : VITy) (c : Comp)
  /-- VMAX (R174) Integer vector maximum. -/
  | vmax (h : Hdr) (d : Dest) (a b : Sel) (ty : VITy) (c : Comp)
  /-- VAND (R174) Vector AND. -/
  | vand (h : Hdr) (d : Dest) (a b : Sel) (ty : VITy) (c : Comp)
  /-- VOR (R174) Vector OR. -/
  | vor (h : Hdr) (d : Dest) (a b : Sel) (ty : VITy) (c : Comp)
  /-- VXOR (R174) Vector XOR. -/
  | vxor (h : Hdr) (d : Dest) (a b : Sel) (ty : VITy) (c : Comp)
  /-- VSHL (R174) Vector shift left. -/
  | vshl (h : Hdr) (d : Dest) (a b : Sel) (ty : VITy) (c : Comp)
  /-- VSHR (R174) Vector logical shift right. -/
  | vshr (h : Hdr) (d : Dest) (a b : Sel) (ty : VITy) (c : Comp)
  /-- VSRA (R174) Vector arithmetic shift right. -/
  | vsra (h : Hdr) (d : Dest) (a b : Sel) (ty : VITy) (c : Comp)
  /-- VABS (R174) Integer vector absolute value. -/
  | vabs (h : Hdr) (d : Dest) (a : Sel) (ty : VITy) (sat : Bool) (c : Comp)
  /-- VNEG (R174) Integer vector negation. -/
  | vneg (h : Hdr) (d : Dest) (a : Sel) (ty : VITy) (sat : Bool) (c : Comp)
  /-- VMAD (R174) Integer vector multiply-add. -/
  | vmad (h : Hdr) (d : Dest) (a b x : Sel) (ty : VITy) (sat : Bool) (c : Comp)
  /-- VFADD (R175) Float vector add. -/
  | vfadd (h : Hdr) (d : Dest) (a b : Sel) (ty : VFTy) (rm : RMode) (c : Comp)
  /-- VFSUB (R175) Float vector subtract. -/
  | vfsub (h : Hdr) (d : Dest) (a b : Sel) (ty : VFTy) (rm : RMode) (c : Comp)
  /-- VFMUL (R175) Float vector multiply. -/
  | vfmul (h : Hdr) (d : Dest) (a b : Sel) (ty : VFTy) (rm : RMode) (c : Comp)
  /-- VFMA (R175) Fused float multiply-add. -/
  | vfma (h : Hdr) (d : Dest) (a b x : Sel) (ty : VFTy) (rm : RMode) (c : Comp)
  /-- VFMS (R175) Fused float multiply-subtract. -/
  | vfms (h : Hdr) (d : Dest) (a b x : Sel) (ty : VFTy) (rm : RMode) (c : Comp)
  /-- VFMIN (R175) Float minimum. -/
  | vfmin (h : Hdr) (d : Dest) (a b : Sel) (ty : VFTy) (rm : RMode) (c : Comp)
  /-- VFMAX (R175) Float maximum. -/
  | vfmax (h : Hdr) (d : Dest) (a b : Sel) (ty : VFTy) (rm : RMode) (c : Comp)
  /-- VFABS (R175) Float absolute value. -/
  | vfabs (h : Hdr) (d : Dest) (a : Sel) (ty : VFTy) (rm : RMode) (c : Comp)
  /-- VFNEG (R175) Float negation. -/
  | vfneg (h : Hdr) (d : Dest) (a : Sel) (ty : VFTy) (rm : RMode) (c : Comp)
  /-- VFRCP (R176) Correctly rounded reciprocal. -/
  | vfrcp (h : Hdr) (d : Dest) (a : Sel) (ty : VFTy) (rm : RMode) (c : Comp)
  /-- VFRSQ (R176) Correctly rounded reciprocal square root. -/
  | vfrsq (h : Hdr) (d : Dest) (a : Sel) (ty : VFTy) (rm : RMode) (c : Comp)
  /-- VCMP (R177) Compares lanes and writes two masks. -/
  | vcmp (h : Hdr) (pt pf : Fin 8) (a b : Sel) (cond : VCond) (ty : VTy) (c : Comp)
  /-- MAND (R178) AND of two optionally negated masks. -/
  | mand (h : Hdr) (xd xa xb : Fin 8) (na nb : Bool)
  /-- MOR (R178) OR of two optionally negated masks. -/
  | mor (h : Hdr) (xd xa xb : Fin 8) (na nb : Bool)
  /-- MXOR (R178) XOR of two optionally negated masks. -/
  | mxor (h : Hdr) (xd xa xb : Fin 8) (na nb : Bool)
  /-- MMOV (R178) Copies an optionally negated mask. -/
  | mmov (h : Hdr) (xd xa : Fin 8) (na : Bool)
  /-- VSEL (R179) Selects A or B per lane under a mask. -/
  | vsel (h : Hdr) (d : Dest) (a b : Sel) (ms : Fin 8) (ns : Bool) (c : Comp)
  /-- VPERM (R180) Permutes lanes by indices taken from B. -/
  | vperm (h : Hdr) (d : Dest) (a b : Sel) (c : Comp)
  /-- VROT (R180) Rotates lanes. -/
  | vrot (h : Hdr) (d : Dest) (a : Sel) (n : Fin 64) (c : Comp)
  /-- VBCAST (R180) Broadcasts one lane. -/
  | vbcast (h : Hdr) (d : Dest) (a : Sel) (n : Fin 64) (c : Comp)
  /-- VSHUP (R180) Shifts lanes up, filling with zero. -/
  | vshup (h : Hdr) (d : Dest) (a : Sel) (n : Fin 64) (c : Comp)
  /-- VSHDN (R180) Shifts lanes down, filling with zero. -/
  | vshdn (h : Hdr) (d : Dest) (a : Sel) (n : Fin 64) (c : Comp)
  /-- VCVT (R181) Converts elements between formats. -/
  | vcvt (h : Hdr) (d : Dest) (a : Sel) (from_ to_ : Fmt) (rm : RMode) (sat : Bool) (c : Comp)
  /-- VRSUM (R182) Tree sum reduction into lane 0. -/
  | vrsum (h : Hdr) (d : Dest) (a : Sel) (ty : VTy) (c : Comp)
  /-- VRMAX (R182) Tree maximum reduction into lane 0. -/
  | vrmax (h : Hdr) (d : Dest) (a : Sel) (ty : VTy) (c : Comp)
  /-- VRMIN (R182) Tree minimum reduction into lane 0. -/
  | vrmin (h : Hdr) (d : Dest) (a : Sel) (ty : VTy) (c : Comp)
  /-- VMOV (R183) Vector move. -/
  | vmov (h : Hdr) (d : Dest) (a : Sel)
  /-- VPUSH (R183) Pushes a vector to q6 or q7. -/
  | vpush (h : Hdr) (q : Fin 8) (a : Sel)
  /-- VBCS (R183) Broadcasts scalar bits [31:0] to every lane. -/
  | vbcs (h : Hdr) (d : Dest) (a : Sel)
  /-- VMVS (R183) Moves lanes 0 and 1 into a scalar register. -/
  | vmvs (h : Hdr) (d : Dest) (a : Sel)
  /-- VLI (R184) Writes a sign-extended immediate to every lane. -/
  | vli (h : Hdr) (d : Dest) (imm : BitVec 12)
  /-- VBANK (R194) Requests a supply state for vector banks. -/
  | vbank (h : Hdr) (st : SupplyReq) (mask : BitVec 4)
  /-- MMA (R217) Checks operands and starts a matrix pass into an accumulator, optionally with a drain. -/
  | mma (h : Hdr) (acc : Fin 4) (z : Bool) (ta tb : Fin 8) (m1 : Fin 64) (f : DrainF) (c : Comp)
  /-- DRAIN (R219) Drains an accumulator through a drain program and a window. -/
  | drain (h : Hdr) (acc : Fin 4) (f : DrainF) (c : Comp)
  /-- DISPATCH (R317) In the rc after a core is free with a staged record, checks the record and dispatches, restores, resumes or migrates the task. -/
  | dispatch (k : Fin 16)
  /-- CONTEXT_LOAD_COMPLETE (R317) Context loading ends and the task's first issue occurs. -/
  | contextLoadComplete (k : Fin 16)
  /-- COMMIT_COMPLETE (R30) The rendezvous completes: the cut is recorded, effects are released, drops applied and the generation advanced. -/
  | commitComplete (k : Fin 16)
  /-- SAVE_COMPLETE (R330) A context save writes its last byte; the task is Saved and the core is free. -/
  | saveComplete (k : Fin 16)
  /-- REGION_WATCHDOG (R38) The region count reaches RGNMAX.LIMIT and cause 0x05 is raised. -/
  | regionWatchdog (k : Fin 16)
  /-- PREEMPTION_OVERDUE (R40) A request pending for RGNMAX.LIMIT rc forces a rollback, cause 0x06 and a full-depth save. -/
  | preemptionOverdue (k : Fin 16)
  /-- COMPLETION_SIGNAL (R101) A second-word completion signal is offered and granted when it has room. -/
  | completionSignal (k : Fin 16) (x : Fin 8)
  /-- RESULT_DUE (R169) A result reaches its due cycle and is written to its register, latch, mask or queue entry. -/
  | resultDue (k : Fin 16) (q : Fin 4) (id : Nat)
  /-- ICACHE_FILL (R115) An I-cache line fill completes. -/
  | icacheFill (k : Fin 16) (q : Fin 4) (line : Nat)
  /-- DEVICE_LOAD_RETURN (R293) Window or device load data returns with its lease and is recorded in the read set. -/
  | deviceLoadReturn (k : Fin 16) (id : Nat)
  /-- WAKE_END (R187) A bank wake ends; the bank is full and queued wakes may start. -/
  | wakeEnd (k : Fin 16) (b : Fin 260)
  /-- BANK_CENSUS (R204) Every 10 µs the counts of full and retention banks are reported. -/
  | bankCensus (d : Fin 2)
  /-- TILE_READY (R214) A tile load completes and the fill count drops. -/
  | tileReady (k : Fin 16) (t : Fin 8)
  /-- MMA_B_LOAD_START (R215) An MMA's B load starts once its slot is free. -/
  | mmaBLoadStart (k : Fin 16) (id : Nat)
  /-- MMA_A_STREAM_START (R215) An MMA's A stream starts after the B load and the previous stream. -/
  | mmaAStreamStart (k : Fin 16) (id : Nat)
  /-- MMA_RESULTS_FINAL (R215) The MMA's elements and checksums become final. -/
  | mmaResultsFinal (k : Fin 16) (id : Nat)
  /-- ABFT_CHECK_FINAL (R221) An accumulator checksum check becomes final. -/
  | abftCheckFinal (k : Fin 16) (a : Fin 4)
  /-- DRAIN_START (R239) A waiting drain starts: decode, RC, HISTP and tables are captured. -/
  | drainStart (k : Fin 16)
  /-- DRAIN_ELEMENT (R238) One element leaves the array, runs the drain program and has its stores performed. -/
  | drainElement (k : Fin 16)
  /-- TLB_WALK_COMPLETE (R255) A page-table walk ends in a translation or a fault. -/
  | tlbWalkComplete (k : Fin 16) (id : Nat)
  /-- SHOOTDOWN_PAGE (R267) SDCMD GO with SCOPE 0 starts a shoot-down of one page. -/
  | shootdownPage (d : Fin 2) (p : Fin 16) (va : BitVec 32)
  /-- SHOOTDOWN_PARTITION (R267) SDCMD GO with SCOPE 1 starts a shoot-down of a whole partition. -/
  | shootdownPartition (d : Fin 2) (p : Fin 16)
  /-- SHOOTDOWN_ALL (R267) SDCMD GO with SCOPE 2 starts a shoot-down of every partition. -/
  | shootdownAll (d : Fin 2)
  /-- SHOOTDOWN_ACK (R268) A core invalidates the matching entries and acknowledges the shoot-down. -/
  | shootdownAck (d : Fin 2) (k : Fin 16)
  /-- MIGRATION_COUNT_HALVE (R270) At each 1 ms boundary every migration count is halved. -/
  | migrationCountHalve (d : Fin 2)
  /-- COPY_START (R281) A channel starts its next command, with the acquire if requested. -/
  | copyStart (k : Fin 16) (x : Fin 4)
  /-- COPY_PIECE (R283) A channel reads and writes one 64-byte piece. -/
  | copyPiece (k : Fin 16) (x : Fin 4)
  /-- ROUTED_PIECE_ARRIVAL (R284) A routed piece reaches the target core and is written there. -/
  | routedPieceArrival (k : Fin 16) (x : Fin 4)
  /-- COPY_FINISH (R285) After the last write and the release, the copy updates its sync word. -/
  | copyFinish (k : Fin 16) (x : Fin 4)
  /-- TIMESTAMP_PROCEDURE (R295) Claims the written granules, validates the read set and fixes the commit timestamp. -/
  | timestampProcedure (k : Fin 16)
  /-- LINE_PERFORMED (R163) A released commit-buffer line is performed at its home and its claim is released. -/
  | linePerformed (k : Fin 16) (id : Nat)
  /-- PIN_TOKEN_GRANT (R298) The partition's pin token is granted to a waiting pinned run. -/
  | pinTokenGrant (p : Fin 16)
  /-- ATOM_VALUE_RETURN (R306) A value-returning atomic's old value reaches the core and is written. -/
  | atomValueReturn (k : Fin 16)
  /-- COMMIT_B_COMPLETE (R340) Commit B of a barrier or value-returning atomic completes 22 rc after the value arrives. -/
  | commitBComplete (k : Fin 16)
  /-- BARRIER_ARRIVAL_SEND (R340) After commit A and the floor wait, the core sends its arrival to the die combiner. -/
  | barrierArrivalSend (k : Fin 16)
  /-- DIE_COMBINER_ARRIVAL (R341) A die combiner receives arrivals and forwards the combined arrival. -/
  | dieCombinerArrival (d : Fin 2)
  /-- PACKAGE_COMBINER_ARRIVAL (R341) The package combiner sets ARR and completes the episode when all members have arrived. -/
  | packageCombinerArrival (d : Fin 2)
  /-- BARRIER_RELEASE_ARRIVAL (R341) A release reaches a die combiner or core, or the barrier record of a saved task. -/
  | barrierReleaseArrival (k : Fin 16)
  /-- MEMBER_TOKEN_ARRIVAL (R337) A return or proxy absence token reaches the package combiner. -/
  | memberTokenArrival (k : Fin 16) (ev : Fin 5)
  /-- EPISODE_TIMEOUT (R342) The episode's timeout expires: arrived members are released with STATUS 1 and the team is broken. -/
  | episodeTimeout (t : Fin 256)
  /-- GRPCTL_ENABLE (R335) A write of EN=1 enables a team or is refused. -/
  | grpctlEnable (t : Fin 256) (v : BitVec 64)
  /-- GRPCTL_DISABLE (R335) A write of EN=0 disables a team and breaks any open episode. -/
  | grpctlDisable (t : Fin 256)
  /-- GRPCTL_REARM (R343) Writing 1 to BROKEN re-arms the team. -/
  | grpctlRearm (t : Fin 256)
  /-- SLOT_STAGE (R316) Marks the staged bind record valid. -/
  | slotStage (k : Fin 16) (rec : BitVec 512)
  /-- SLOT_PREEMPT (R316) Requests pre-emption of the active task. -/
  | slotPreempt (k : Fin 16)
  /-- SLOT_CANCELA (R316) Cancels the active task. -/
  | slotCancela (k : Fin 16)
  /-- SLOT_CANCELS (R316) Cancels the staged record. -/
  | slotCancels (k : Fin 16)
  /-- SLOT_RESUME (R316) Resumes a Held task under the partition's current limits. -/
  | slotResume (k : Fin 16)
  /-- TT_SLOT_START (R324) At a table slot's start the gang is staged and pre-emption requested, or the launch is skipped. -/
  | ttSlotStart (d : Fin 2) (i : Fin 256)
  /-- TT_SLOT_END (R325) Slot end raises an interrupt to the firmware. -/
  | ttSlotEnd (d : Fin 2) (i : Fin 256)
  /-- LAUNCH_RECORD_POST (R328) A released launch record is posted once the launch queue has room. -/
  | launchRecordPost (k : Fin 16)
  /-- QSTEP_FORWARD (R321) A forward step adds OFFSET to Quartz. -/
  | qstepForward (off : BitVec 40)
  /-- QSTEP_BACKWARD (R321) A backward step holds Quartz for OFFSET ns. -/
  | qstepBackward (off : BitVec 40)
  /-- QSTEP_HOLD_END (R321) The hold of a backward step ends and the count resumes. -/
  | qstepHoldEnd
  /-- DETECTOR_REPORT (R349) A detector reports, leading to an error replay, a corrected-error log or retirement. -/
  | detectorReport (k : Fin 16) (r : Report)
  /-- CORERET_RETREQ (R359) A RETREQ write retires a core without an error. -/
  | coreretRetreq (d : Fin 2) (mask : BitVec 8)
  /-- MIGRATION_PATH_COMPLETE (R360) The migration path has written the cut's state to the save area. -/
  | migrationPathComplete (k : Fin 16)
  /-- MIGRATION_STAGE (R360) A spare becomes available and a KIND 4 record is staged on it. -/
  | migrationStage (p : Fin 16) (gang : BitVec 16) (t : Fin 16)
  /-- LANE_RETIRE (R362) A Feldspar lane with persistent errors is retired and retraining starts. -/
  | laneRetire (d : Fin 2) (lane : Fin 4)
  /-- LANE_RETRAIN_COMPLETE (R362) The link finishes retraining on the remaining lanes. -/
  | laneRetrainComplete (d : Fin 2)
  /-- SPLIT_CLAIM (R367) At its claim time a die claims if the partner's pin is high. -/
  | splitClaim (d : Fin 2)
  /-- SPLIT_CLAIM_CHECK (R367) 4 µs after claiming, die 1 withdraws if both pins are low. -/
  | splitClaimCheck (d : Fin 2)
  /-- SPLIT_WON (R367) 8 µs after claiming the holder wins and treats the partner as lost. -/
  | splitWon (d : Fin 2)
  /-- HEARTBEAT (R363) The management cores exchange a heartbeat every 10 µs. -/
  | heartbeat (d : Fin 2)
  /-- HEARTBEAT_TIMEOUT (R363) 100 µs without a heartbeat counts as loss of the partner. -/
  | heartbeatTimeout (d : Fin 2)
  /-- DIE_LOST (R363) The survivor takes command authority and aborts, releases and adopts work of the lost die. -/
  | dieLost (d : Fin 2)
  /-- DIE_RESET_GO (R366) RSTCTL GO starts a die reset with a drain phase. -/
  | dieResetGo (d : Fin 2)
  /-- DIE_RESET_FORCE (R365) GO with FORCE starts a die reset that fences at once. -/
  | dieResetForce (d : Fin 2)
  /-- DIE_RESET_QUIET (R366) No transaction crosses Feldspar any more, so the die fences and enters reset. -/
  | dieResetQuiet (d : Fin 2)
  /-- QDEADLINE (R366) The quiesce deadline expires and the die fences, dropping in-flight work. -/
  | qdeadline (d : Fin 2)
  /-- POWER_GRANT (R370) Every 10 µs the power controller computes the die's granted level. -/
  | powerGrant (d : Fin 2)
  /-- QUIESCE_POINT (R372) A pending level or divisor change is applied at the quiesce point. -/
  | quiescePoint (k : Fin 16)
  /-- SHCTL_GO (R386) Arms both dies for a shadow trigger. -/
  | shctlGo
  /-- SHADOW_LATCH (R386) QTIME reaches SHTIME and a die latches every counter. -/
  | shadowLatch (d : Fin 2)
  /-- TANSY_CLASS_SUMMARY (R388) At the end of each class window a class summary record is written. -/
  | tansyClassSummary (k : Fin 16)
  /-- TANSY_LOST_RECORD (R387) When room returns a lost record is written. -/
  | tansyLostRecord (d : Fin 2) (p : Fin 16)
  /-- INCIDENT_TRIGGER (R389) A trigger record is written and the POST period starts. -/
  | incidentTrigger (d : Fin 2) (p : Fin 16)
  /-- TANSY_POST_EXPIRY (R389) After POST µs recording freezes. -/
  | tansyPostExpiry (d : Fin 2) (p : Fin 16)
  /-- TANSY_RESUME (R389) Writing 1 to FROZEN resumes recording and clears TRIGD and LOST. -/
  | tansyResume (d : Fin 2) (p : Fin 16)
  /-- STOPREQ (R391) Debug-port request for a stop triggered by K. -/
  | stopreq (k : Fin 16)
  /-- DEBUG_STOP (R391) The triggering sequencer reaches its kernel-iteration boundary and the core stops. -/
  | debugStop (k : Fin 16)
  /-- RUN (R391) Ends a debug stop; issue resumes in the next rc. -/
  | run (k : Fin 16)
  /-- STEP (R393) Performs one step of the stepped sequencer, ending in a step commit. -/
  | step (k : Fin 16)
  /-- DUMP (R394) Takes a dump of a stopped, Held or Saved task. -/
  | dump (k : Fin 16)
  /-- MAILBOX_DOORBELL (R398) An ITAIL write announces inbound messages. -/
  | mailboxDoorbell (d : Fin 2) (p : Fin 16) (itail : BitVec 16)
  /-- MAILBOX_OHEAD_WRITE (R398) An OHEAD write frees outbound slots, letting waiting messages be posted. -/
  | mailboxOheadWrite (d : Fin 2) (p : Fin 16) (ohead : BitVec 16)
  /-- HELLO (R402) Negotiates the mailbox version and sends the answer. -/
  | hello (d : Fin 2) (p : Fin 16)
  /-- MAILBOX_LAUNCH (R400) A launch message is mirrored and placed in the launch queue. -/
  | mailboxLaunch (d : Fin 2) (p : Fin 16)
  /-- FAULT_REPLY (R265) A fault reply is delivered to the context, or dropped. -/
  | faultReply (d : Fin 2) (p : Fin 16)
  /-- CANCEL (R329) Cancels every task of a gang. -/
  | cancel (d : Fin 2) (p : Fin 16)
  /-- COUNTER_ACCESS (R381) Reads or writes a live or shadow counter, answering zero for another owner. -/
  | counterAccess (d : Fin 2) (p : Fin 16)
  /-- TRIGGER (R389) Mailbox message that causes an incident trigger of the partition. -/
  | trigger (d : Fin 2) (p : Fin 16)
  /-- POWER_ON_RESET (R406) Power-on reset: registers take their reset values and the boot ROM waits for an image. -/
  | powerOnReset
  /-- BOOT_GO (R406) BOOTSTAT.GO starts verification of the boot image. -/
  | bootGo
  /-- BOOT_VERIFY_COMPLETE (R406) Verification ends; the firmware starts or the die fails. -/
  | bootVerifyComplete (d : Fin 2)
  /-- BOOT_TIMEOUT (R406) No image arrives within 10 s of reset: ERR 6. -/
  | bootTimeout (d : Fin 2)
  /-- DIE_RESET_RELEASE (R409) A die released from reset boots again and joins in standby. -/
  | dieResetRelease (d : Fin 2)
  /-- PTP_EVENT_MESSAGE (R405) An IEEE 1588 event message is time-stamped in Quartz time. -/
  | ptpEventMessage (d : Fin 2) (m : PtpMsg)
  /-- HOST_BAR2_ACCESS (R404) A host access through VF BAR2 to the partition's allotment, performed untimed. -/
  | hostBar2Access (d : Fin 2) (p : Fin 16) (off : BitVec 36) (wr : Bool) (n : Fin 65) (data : BitVec 512)
  /-- REGISTER_WRITE (R11) A write to a management or debug register that has no row of its own. -/
  | registerWrite (d : Fin 2) (r : MReg) (v : BitVec 64)
  /-- MMA_B_LOAD_END (R215) An MMA's 24-cycle B load ends, lowering the read count of t[TB] and letting its A stream start. -/
  | mmaBLoadEnd (k : Fin 16) (id : Nat)
  /-- MMA_A_STREAM_END (R215) An MMA's A stream ends, lowering the A tiles' read counts, freeing an acceptance place and freeing its B slot. -/
  | mmaAStreamEnd (k : Fin 16) (id : Nat)
  /-- APPLICATION_CORE_ACCESS (R299) An application core loads or stores HBM untimed, a store setting the line's WTS and RTS to max(WTS, RTS) + 1 when performed. -/
  | applicationCoreAccess (pa : BitVec 40) (wr : Bool) (n : Fin 65) (data : BitVec 512)
  deriving DecidableEq, Repr

end Sys2Proof
end

