-- ==== Sys2Proof/WellFormed.lean ====
section
/-! DEFINITION. Which instructions a sequencer may hold: the operand conditions of R44, R45 and of the second-word
layouts of R59 to R69. A step of an engine has no encoding and is not well-formed in any stream. -/

namespace Sys2Proof

/-- A selector that names a queue (R158: the only ones SCATTER accepts for B). -/
def Sel.isQueue : Sel → Bool
  | .pop _ => true
  | .peek _ => true
  | .reg _ => false
  | .latch _ => false

/-- The count operand of LOOP as an operand of the sequencer (R60). -/
def LoopCount.ok (q : Seq) : LoopCount → Bool
  | .imm _ => true
  | .sel a => a.ok q

/-- The registers that a COPY may name: s1 to s28 (R275, R279). -/
def copyRegOk (a : Sel) : Bool :=
  match a with
  | .reg r => decide (1 ≤ r.val ∧ r.val ≤ 28)
  | .latch _ => false
  | .pop _ => false
  | .peek _ => false

/-- The scopes of the DEV word: device and system (R65). -/
def Scope.far : Scope → Bool
  | .dev => true
  | .sys => true
  | .core => false
  | .quad => false

/-- Whether a VC type is a float type (R68). -/
def VTy.isFloat : VTy → Bool
  | .f _ => true
  | .i _ => false

/-- Whether a format is an integer format as a conversion destination (R52, R88). -/
def Fmt.isInt : Fmt → Bool
  | .int4 => true | .int8 => true | .int16 => true | .int32 => true
  | .t2 => false | .e4m3 => false | .e5m2 => false | .fp16 => false | .bf16 => false | .fp32 => false
  | .e8m2 => false

/-- The FROM/TO pairs that VCVT and DCVT accept (R88). -/
def convertible (src dst : Fmt) : Bool :=
  match src with
  | .t2 | .int4 => [Fmt.int8, .int16, .int32, .fp16, .bf16, .fp32].contains dst && src != dst
  | .int8 => [Fmt.int4, .int16, .int32, .e4m3, .e5m2, .fp16, .bf16, .fp32].contains dst
  | .int16 => [Fmt.int4, .int8, .int32, .fp16, .bf16, .fp32].contains dst
  | .int32 => [Fmt.int4, .int8, .int16, .e4m3, .e5m2, .fp16, .bf16, .fp32].contains dst
  | .e4m3 | .e5m2 => [Fmt.fp16, .bf16, .fp32].contains dst
  | .fp16 => [Fmt.int4, .int8, .int16, .int32, .e4m3, .e5m2, .bf16, .fp32].contains dst
  | .bf16 => [Fmt.int4, .int8, .int16, .int32, .e4m3, .e5m2, .fp16, .fp32].contains dst
  | .fp32 => [Fmt.int4, .int8, .int16, .int32, .e4m3, .e5m2, .fp16, .bf16, .e8m2].contains dst
  | .e8m2 => [Fmt.bf16, .fp32].contains dst

/-- The operand conditions of the MD word (R69, R173): with DR = 0 the drain fields are zero, and a loop-indexed
entry names one of h0 to h3. -/
def DrainF.ok (f : DrainF) : Bool :=
  (f.dr || (f.dprog == 0 && !f.acq && !f.rel && f.scope == .core && f.win == 0)) &&
    (!f.fl || decide (f.fsel.val < 4))

/-- The operand conditions (condition 5 of R44) and the sequencer of a major (condition 1), row by row. -/
def Instr.wf (q : Seq) : Instr → Bool
  | .nop _ => true
  | .brk _ => true
  | .xfenceCore _ => true
  | .xfenceQuad _ => true
  | .xfenceDev _ => true
  | .xfenceSys _ => true
  | .commit _ _ drop _ => drop == 0 || q == .c
  | .halt _ _ drop _ => drop == 0 || q == .c
  | .add _ _ a b => a.ok q && b.ok q
  | .sub _ _ a b => a.ok q && b.ok q
  | .and _ _ a b => a.ok q && b.ok q
  | .or _ _ a b => a.ok q && b.ok q
  | .xor _ _ a b => a.ok q && b.ok q
  | .shl _ _ a b => a.ok q && b.ok q
  | .shr _ _ a b => a.ok q && b.ok q
  | .sra _ _ a b => a.ok q && b.ok q
  | .mul _ _ a b => a.ok q && b.ok q
  | .addi _ _ a _ => a.ok q
  | .li _ _ _ => true
  | .addiLong _ _ a _ _ => a.ok q
  | .andi _ _ a _ _ => a.ok q
  | .ori _ _ a _ _ => a.ok q
  | .xori _ _ a _ _ => a.ok q
  | .shli _ _ a _ _ => a.ok q
  | .shri _ _ a _ _ => a.ok q
  | .srai _ _ a _ _ => a.ok q
  | .mulh _ _ a b _ => a.ok q && b.ok q
  | .mulhu _ _ a b _ => a.ok q && b.ok q
  | .min _ _ a b _ => a.ok q && b.ok q
  | .max _ _ a b _ => a.ok q && b.ok q
  | .minu _ _ a b _ => a.ok q && b.ok q
  | .maxu _ _ a b _ => a.ok q && b.ok q
  | .ext _ _ a pos width1 _ => a.ok q && decide (pos.val + width1.val + 1 ≤ 64)
  | .exts _ _ a pos width1 _ => a.ok q && decide (pos.val + width1.val + 1 ≤ 64)
  | .ins _ _ a b pos width1 _ => a.ok q && b.ok q && decide (pos.val + width1.val + 1 ≤ 64)
  | .clz _ _ a _ => a.ok q
  | .ctz _ _ a _ => a.ok q
  | .popc _ _ a _ => a.ok q
  | .lih _ _ a _ _ => a.ok q
  | .cmpeq _ _ _ a b => a.ok q && b.ok q
  | .cmplt _ _ _ a b => a.ok q && b.ok q
  | .cmpltu _ _ _ a b => a.ok q && b.ok q
  | .cmpeqi _ _ _ a _ _ => a.ok q
  | .cmplti _ _ _ a _ _ => a.ok q
  | .cmpltui _ _ _ a _ _ => a.ok q
  | .pand _ _ _ _ _ _ => true
  | .por _ _ _ _ _ _ => true
  | .pxor _ _ _ _ _ _ => true
  | .pmov _ _ _ _ => true
  | .br _ _ => true
  | .brl _ _ => true
  | .jr _ _ a => a.ok q
  | .loop _ _ _ n _ len _ => n.ok q && len != 0
  | .mfsr _ _ _ => true
  | .mtsr _ _ _ => true
  | .ld _ _ a _ => q == .l && a.ok q
  | .ldx _ _ a _ _ _ _ => q == .l && a.ok q
  | .ldd _ _ a _ scope _ _ _ => q == .l && a.ok q && scope.far
  | .st _ v a sz => q == .s && v.ok q && a.ok q && sz.storeOk
  | .stx _ v a sz _ _ _ => q == .s && v.ok q && a.ok q && sz.storeOk
  | .std _ v a sz scope _ _ _ => (q == .k || q == .s) && v.ok q && a.ok q && sz.storeOk && scope.far
  | .ldq _ q_ a _ _ _ => q == .l && decide (q_.val < 6) && a.ok q
  | .lddq _ q_ a scope _ _ _ => q == .l && decide (q_.val < 6) && a.ok q && scope.far
  | .stq _ q_ a _ _ _ => q == .s && decide (6 ≤ q_.val) && a.ok q
  | .gather _ q_ a b _ _ _ _ => q == .l && decide (q_.val < 6) && a.ok q && b.ok q
  | .scatter _ q_ a b _ _ _ _ => q == .s && decide (6 ≤ q_.val) && a.ok q && b.ok q && b.isQueue
  | .atomAdd _ _ a b f _ => (q == .k || q == .s) && a.ok q && b.ok q && f.scope != .core
  | .atomAnd _ _ a b f _ => (q == .k || q == .s) && a.ok q && b.ok q && f.scope != .core
  | .atomOr _ _ a b f _ => (q == .k || q == .s) && a.ok q && b.ok q && f.scope != .core
  | .atomXor _ _ a b f _ => (q == .k || q == .s) && a.ok q && b.ok q && f.scope != .core
  | .atomMin _ _ a b f _ => (q == .k || q == .s) && a.ok q && b.ok q && f.scope != .core
  | .atomMax _ _ a b f _ => (q == .k || q == .s) && a.ok q && b.ok q && f.scope != .core
  | .atomMinu _ _ a b f _ => (q == .k || q == .s) && a.ok q && b.ok q && f.scope != .core
  | .atomMaxu _ _ a b f _ => (q == .k || q == .s) && a.ok q && b.ok q && f.scope != .core
  | .atomSwap _ _ a b f _ => (q == .k || q == .s) && a.ok q && b.ok q && f.scope != .core
  | .atomCas _ _ a b cmp f _ => (q == .k || q == .s) && a.ok q && b.ok q && cmp.ok q && f.scope != .core
  | .pref _ a scope _ _ => q == .l && a.ok q && scope.far
  | .prefi _ _ a _ _ _ => q != .c && a.ok q
  | .tld _ _ a _ _ _ => q == .l && a.ok q
  | .tldw _ _ a b _ _ _ _ => q == .l && a.ok q && b.ok q
  | .bank _ a _ _ => q != .c && a.ok q
  | .syncwait _ _ a b _ _ => q == .l && a.ok q && b.ok q
  | .copy _ _ a _ _ => (q == .k || q == .s) && copyRegOk a
  | .copyR _ _ a _ _ => (q == .k || q == .s) && copyRegOk a
  | .dwin _ _ a b len _ => q == .s && a.ok q && b.ok q && len != 0
  | .launch _ a _ => q == .k && a.ok q
  | .yieldN _ => q == .k
  | .swpt _ a => q == .k && a.ok q
  | .groupRank _ _ a => q == .k && a.ok q
  | .groupSize _ _ a => q == .k && a.ok q
  | .bar _ a => q == .k && a.ok q
  | .barw _ _ a => q == .k && a.ok q
  | .vadd _ _ a b _ _ _ => q == .c && a.ok q && b.ok q
  | .vsub _ _ a b _ _ _ => q == .c && a.ok q && b.ok q
  | .vmul _ _ a b _ _ _ => q == .c && a.ok q && b.ok q
  | .vmulh _ _ a b _ _ => q == .c && a.ok q && b.ok q
  | .vmin _ _ a b _ _ => q == .c && a.ok q && b.ok q
  | .vmax _ _ a b _ _ => q == .c && a.ok q && b.ok q
  | .vand _ _ a b _ _ => q == .c && a.ok q && b.ok q
  | .vor _ _ a b _ _ => q == .c && a.ok q && b.ok q
  | .vxor _ _ a b _ _ => q == .c && a.ok q && b.ok q
  | .vshl _ _ a b _ _ => q == .c && a.ok q && b.ok q
  | .vshr _ _ a b _ _ => q == .c && a.ok q && b.ok q
  | .vsra _ _ a b _ _ => q == .c && a.ok q && b.ok q
  | .vabs _ _ a ty _ _ => q == .c && a.ok q && ty.signed
  | .vneg _ _ a ty _ _ => q == .c && a.ok q && ty.signed
  | .vmad _ _ a b x _ _ _ => q == .c && a.ok q && b.ok q && x.ok q
  | .vfadd _ _ a b _ rm _ => q == .c && a.ok q && b.ok q && rm != .rna
  | .vfsub _ _ a b _ rm _ => q == .c && a.ok q && b.ok q && rm != .rna
  | .vfmul _ _ a b _ rm _ => q == .c && a.ok q && b.ok q && rm != .rna
  | .vfma _ _ a b x _ rm _ => q == .c && a.ok q && b.ok q && x.ok q && rm != .rna
  | .vfms _ _ a b x _ rm _ => q == .c && a.ok q && b.ok q && x.ok q && rm != .rna
  | .vfmin _ _ a b _ rm _ => q == .c && a.ok q && b.ok q && rm != .rna
  | .vfmax _ _ a b _ rm _ => q == .c && a.ok q && b.ok q && rm != .rna
  | .vfabs _ _ a _ rm _ => q == .c && a.ok q && rm != .rna
  | .vfneg _ _ a _ rm _ => q == .c && a.ok q && rm != .rna
  | .vfrcp _ _ a _ rm _ => q == .c && a.ok q && rm != .rna
  | .vfrsq _ _ a _ rm _ => q == .c && a.ok q && rm != .rna
  | .vcmp _ _ _ a b cond ty _ => q == .c && a.ok q && b.ok q && (cond != .un || ty.isFloat)
  | .mand _ _ _ _ _ _ => q == .c
  | .mor _ _ _ _ _ _ => q == .c
  | .mxor _ _ _ _ _ _ => q == .c
  | .mmov _ _ _ _ => q == .c
  | .vsel _ _ a b _ _ _ => q == .c && a.ok q && b.ok q
  | .vperm _ _ a b _ => q == .c && a.ok q && b.ok q
  | .vrot _ _ a _ _ => q == .c && a.ok q
  | .vbcast _ _ a _ _ => q == .c && a.ok q
  | .vshup _ _ a _ _ => q == .c && a.ok q
  | .vshdn _ _ a _ _ => q == .c && a.ok q
  | .vcvt _ _ a from_ to_ rm _ _ => q == .c && a.ok q && convertible from_ to_ && (rm != .rna || to_.isInt)
  | .vrsum _ _ a _ _ => q == .c && a.ok q
  | .vrmax _ _ a _ _ => q == .c && a.ok q
  | .vrmin _ _ a _ _ => q == .c && a.ok q
  | .vmov _ _ a => q == .c && a.ok q
  | .vpush _ q_ a => q == .c && a.ok q && decide (6 ≤ q_.val)
  | .vbcs _ _ a => q == .c && a.ok q
  | .vmvs _ _ a => q == .c && a.ok q
  | .vli _ _ _ => q == .c
  | .vbank _ _ mask => q == .c && mask != 0
  | .mma _ _ _ _ _ _ f _ => q == .c && f.ok
  | .drain _ _ f _ => q == .c && f.dr && f.ok
  | .dispatch _ => false
  | .contextLoadComplete _ => false
  | .commitComplete _ => false
  | .saveComplete _ => false
  | .regionWatchdog _ => false
  | .preemptionOverdue _ => false
  | .completionSignal _ _ => false
  | .resultDue _ _ _ => false
  | .icacheFill _ _ _ => false
  | .deviceLoadReturn _ _ => false
  | .wakeEnd _ _ => false
  | .bankCensus _ => false
  | .tileReady _ _ => false
  | .mmaBLoadStart _ _ => false
  | .mmaAStreamStart _ _ => false
  | .mmaResultsFinal _ _ => false
  | .abftCheckFinal _ _ => false
  | .drainStart _ => false
  | .drainElement _ => false
  | .tlbWalkComplete _ _ => false
  | .shootdownPage _ _ _ => false
  | .shootdownPartition _ _ => false
  | .shootdownAll _ => false
  | .shootdownAck _ _ => false
  | .migrationCountHalve _ => false
  | .copyStart _ _ => false
  | .copyPiece _ _ => false
  | .routedPieceArrival _ _ => false
  | .copyFinish _ _ => false
  | .timestampProcedure _ => false
  | .linePerformed _ _ => false
  | .pinTokenGrant _ => false
  | .atomValueReturn _ => false
  | .commitBComplete _ => false
  | .barrierArrivalSend _ => false
  | .dieCombinerArrival _ => false
  | .packageCombinerArrival _ => false
  | .barrierReleaseArrival _ => false
  | .memberTokenArrival _ _ => false
  | .episodeTimeout _ => false
  | .grpctlEnable _ _ => false
  | .grpctlDisable _ => false
  | .grpctlRearm _ => false
  | .slotStage _ _ => false
  | .slotPreempt _ => false
  | .slotCancela _ => false
  | .slotCancels _ => false
  | .slotResume _ => false
  | .ttSlotStart _ _ => false
  | .ttSlotEnd _ _ => false
  | .launchRecordPost _ => false
  | .qstepForward _ => false
  | .qstepBackward _ => false
  | .qstepHoldEnd => false
  | .detectorReport _ _ => false
  | .coreretRetreq _ _ => false
  | .migrationPathComplete _ => false
  | .migrationStage _ _ _ => false
  | .laneRetire _ _ => false
  | .laneRetrainComplete _ => false
  | .splitClaim _ => false
  | .splitClaimCheck _ => false
  | .splitWon _ => false
  | .heartbeat _ => false
  | .heartbeatTimeout _ => false
  | .dieLost _ => false
  | .dieResetGo _ => false
  | .dieResetForce _ => false
  | .dieResetQuiet _ => false
  | .qdeadline _ => false
  | .powerGrant _ => false
  | .quiescePoint _ => false
  | .shctlGo => false
  | .shadowLatch _ => false
  | .tansyClassSummary _ => false
  | .tansyLostRecord _ _ => false
  | .incidentTrigger _ _ => false
  | .tansyPostExpiry _ _ => false
  | .tansyResume _ _ => false
  | .stopreq _ => false
  | .debugStop _ => false
  | .run _ => false
  | .step _ => false
  | .dump _ => false
  | .mailboxDoorbell _ _ _ => false
  | .mailboxOheadWrite _ _ _ => false
  | .hello _ _ => false
  | .mailboxLaunch _ _ => false
  | .faultReply _ _ => false
  | .cancel _ _ => false
  | .counterAccess _ _ => false
  | .trigger _ _ => false
  | .powerOnReset => false
  | .bootGo => false
  | .bootVerifyComplete _ => false
  | .bootTimeout _ => false
  | .dieResetRelease _ => false
  | .ptpEventMessage _ _ => false
  | .hostBar2Access _ _ _ _ _ _ => false
  | .registerWrite _ _ _ => false
  | .mmaBLoadEnd _ _ => false
  | .mmaAStreamEnd _ _ => false
  | .applicationCoreAccess _ _ _ _ => false

end Sys2Proof
end

