-- ==== Sys2Proof/Decode.lean ====
section
/-! DEFINITION. The decoder of the instruction words (spec/02), total on every pair of words and rejecting by name in
the order of R44, and the encoder written from the same layouts. -/

namespace Sys2Proof

/-- Why a word is no instruction, in the order of the conditions of R44. The first four raise cause 0x10, the last
cause 0x11. -/
inductive DecodeErr where
  | major
  | minor
  | reserved
  | secondWait
  | operand
  deriving DecidableEq, Repr

/-- The trap cause of a decode failure (R44, R50). -/
def DecodeErr.cause : DecodeErr → BitVec 8
  | .major => 0x10 | .minor => 0x10 | .reserved => 0x10 | .secondWait => 0x10 | .operand => 0x11

/-- The result of decoding. -/
abbrev DecRes := Except DecodeErr Instr

/-- A condition of R44: go on when it holds, else fail with the error. -/
def chk (b : Bool) (e : DecodeErr) (k : DecRes) : DecRes := if b then k else .error e

/-- The selector of a code in a sequencer (R45), by the same table as `Sel.code`. -/
def Sel.ofCode (q : Seq) (n : Nat) : Option Sel :=
  let x : Option Sel :=
    if n < 32 then some (.reg (Fin.ofNat 32 n))
    else if n < 36 then some (.latch (Fin.ofNat 4 (n - 32)))
    else if n < 40 then none
    else if n < 48 then some (.pop (Fin.ofNat 8 (n - 40)))
    else if n < 56 then some (.peek (Fin.ofNat 8 (n - 48)))
    else none
  match x with
  | some y => if y.ok q then some y else none
  | none => none

/-- A field that must hold a value some table assigns; otherwise illegal operand (condition 5 of R44). -/
def withVal {α : Type} (x : Option α) (k : α → DecRes) : DecRes :=
  match x with
  | some y => k y
  | none => .error .operand

/-- A source selector of the sequencer (R45). -/
def withSel (q : Seq) (n : Nat) (k : Sel → DecRes) : DecRes := withVal (Sel.ofCode q n) k

/-- The ring bits of a word (R41). -/
def ringOf (w : Word32) : Ring := ⟨bitAt w 31, bitAt w 30, bitAt w 29, bitAt w 28⟩
/-- A three-bit field as a register number. -/
def f8 (w : Word32) (lo : Nat) : Fin 8 := Fin.ofNat 8 (fld w lo 3)
/-- A two-bit field as a number. -/
def f4 (w : Word32) (lo : Nat) : Fin 4 := Fin.ofNat 4 (fld w lo 2)
/-- A four-bit field as a number. -/
def f16 (w : Word32) (lo : Nat) : Fin 16 := Fin.ofNat 16 (fld w lo 4)
/-- A five-bit field as a register number. -/
def f32 (w : Word32) (lo : Nat) : Fin 32 := Fin.ofNat 32 (fld w lo 5)
/-- A six-bit field as a number. -/
def f64 (w : Word32) (lo : Nat) : Fin 64 := Fin.ofNat 64 (fld w lo 6)
/-- The ring bits and guard of a word (R41). -/
def hdrOf (w : Word32) : Hdr := ⟨ringOf w, bitAt w 27, f8 w 24⟩
/-- The completion signals of a second word (R42). -/
def compOf (w : Word32) : Comp := ⟨bitAt w 29, bitAt w 28⟩
/-- The destination of bits [17:12], where condition 3 has passed (R47). -/
def destOf (w : Word32) : Dest := if bitAt w 17 then .latch else .reg (f32 w 12)
/-- The reserved-bit rule of a destination: with N = 1 the index is zero (R47, R128). -/
def destOk (w : Word32) : Bool := !bitAt w 17 || fld w 12 5 == 0
/-- The major opcode (R41). -/
def majOf (w : Word32) : Nat := fld w 18 6
/-- Field D (R48). -/
def fD (w : Word32) : Nat := fld w 12 6
/-- Field A (R48). -/
def fA (w : Word32) : Nat := fld w 6 6
/-- Field B (R48). -/
def fB (w : Word32) : Nat := fld w 0 6
/-- Bits [31:30] of a second word must be zero (R49). -/
def second (w2 : Word32) (k : DecRes) : DecRes := chk (fld w2 30 2 == 0) .secondWait k

/-- Whether a major is assigned in a sequencer's map (R54, R63, R66). -/
def majorOk (q : Seq) (maj : Nat) : Bool :=
  decide (maj < 24) ||
    (match q with
     | .k => [33, 35, 37, 40, 42, 44, 45, 46, 47].contains maj
     | .l => [24, 25, 26, 27, 32, 34, 36, 37, 38, 39, 40, 41].contains maj
     | .c => [24, 25, 26, 27, 28, 29, 30, 31, 32, 33, 34, 36, 37].contains maj
     | .s => [28, 29, 30, 31, 33, 35, 37, 40, 42, 43].contains maj)

/-- The majors that carry two words in a sequencer's map (R49, R54, R63, R66). DESIGN CHOICE (log 41): a word of a major that the
sequencer's map does not assign, of whose length the maps say nothing, is taken as one word. -/
def twoWord (q : Seq) (maj : Nat) : Bool :=
  majorOk q maj && ([13, 17, 22].contains maj ||
    (match q with
     | .c => [24, 25, 26, 28, 29, 30, 31, 36, 37].contains maj
     | _ => [25, 26, 27, 29, 30, 31, 32, 33, 34, 35, 36, 37, 38, 39, 41, 42, 43, 44].contains maj))

/-- Major 0 (R55). -/
def decMisc (w : Word32) : DecRes :=
  let h := hdrOf w
  let z (i : Instr) : DecRes := chk (fld w 6 12 == 0) .reserved (.ok i)
  match fB w with
  | 0 => z (.nop h)
  | 1 => z (.brk h)
  | 4 => z (.xfenceCore h)
  | 5 => z (.xfenceQuad h)
  | 6 => z (.xfenceDev h)
  | 7 => z (.xfenceSys h)
  | _ => .error .minor

/-- Major 1 (R56, R110). -/
def decCommit (q : Seq) (w : Word32) : DecRes :=
  let drop := BitVec.ofNat 4 (fld w 8 4)
  let tag := BitVec.ofNat 8 (fld w 0 8)
  chk (fld w 24 4 == 0 && fld w 14 4 == 0) .reserved <|
  chk (drop == 0 || q == .c) .operand <|
  .ok (if bitAt w 13 then .halt (ringOf w) (bitAt w 12) drop tag
    else .commit (ringOf w) (bitAt w 12) drop tag)

/-- The RRR format with two sources (R48). -/
def decRRR (q : Seq) (w : Word32) (f : Hdr → Dest → Sel → Sel → Instr) : DecRes :=
  chk (destOk w) .reserved <|
  withSel q (fA w) fun a => withSel q (fB w) fun b => .ok (f (hdrOf w) (destOf w) a b)

/-- Major 13, the ALUX group (R59, R135). -/
def decAlux (q : Seq) (w w2 : Word32) : DecRes :=
  let h := hdrOf w
  let c := compOf w2
  let d := destOf w
  let imm := BitVec.ofNat 22 (fld w2 0 22)
  let one (ok : Bool) (k : Sel → DecRes) : DecRes :=
    chk (destOk w && fB w == 0 && ok) .reserved <| second w2 <| withSel q (fA w) k
  let two (ok : Bool) (k : Sel → Sel → DecRes) : DecRes :=
    chk (destOk w && ok) .reserved <| second w2 <|
      withSel q (fA w) fun a => withSel q (fB w) fun b => k a b
  let sh := fld w2 6 16 == 0
  let bf := fld w2 12 10 == 0
  let z := fld w2 0 22 == 0
  let fits (i : Instr) : DecRes := chk (decide (fld w2 0 6 + fld w2 6 6 + 1 ≤ 64)) .operand (.ok i)
  match fld w2 22 6 with
  | 0 => one true fun a => .ok (.addiLong h d a imm c)
  | 1 => one true fun a => .ok (.andi h d a imm c)
  | 2 => one true fun a => .ok (.ori h d a imm c)
  | 3 => one true fun a => .ok (.xori h d a imm c)
  | 4 => one sh fun a => .ok (.shli h d a (f64 w2 0) c)
  | 5 => one sh fun a => .ok (.shri h d a (f64 w2 0) c)
  | 6 => one sh fun a => .ok (.srai h d a (f64 w2 0) c)
  | 7 => two z fun a b => .ok (.mulh h d a b c)
  | 8 => two z fun a b => .ok (.mulhu h d a b c)
  | 9 => two z fun a b => .ok (.min h d a b c)
  | 10 => two z fun a b => .ok (.max h d a b c)
  | 11 => two z fun a b => .ok (.minu h d a b c)
  | 12 => two z fun a b => .ok (.maxu h d a b c)
  | 13 => one bf fun a => fits (.ext h d a (f64 w2 0) (f64 w2 6) c)
  | 14 => one bf fun a => fits (.exts h d a (f64 w2 0) (f64 w2 6) c)
  | 15 => two bf fun a b => fits (.ins h d a b (f64 w2 0) (f64 w2 6) c)
  | 16 => one z fun a => .ok (.clz h d a c)
  | 17 => one z fun a => .ok (.ctz h d a c)
  | 18 => one z fun a => .ok (.popc h d a c)
  | 19 => one true fun a => .ok (.lih h d a imm c)
  | _ => .error .minor

/-- The RRP format with two sources, majors 14 to 16 (R57). -/
def decCmp (q : Seq) (w : Word32) (f : Hdr → Fin 8 → Fin 8 → Sel → Sel → Instr) : DecRes :=
  withSel q (fA w) fun a => withSel q (fB w) fun b => .ok (f (hdrOf w) (f8 w 15) (f8 w 12) a b)

/-- Major 17 (R57, R137). -/
def decCmpi (q : Seq) (w w2 : Word32) : DecRes :=
  let k (f : Hdr → Fin 8 → Fin 8 → Sel → BitVec 22 → Comp → Instr) : DecRes :=
    chk (fB w == 0) .reserved <| second w2 <| withSel q (fA w) fun a =>
      .ok (f (hdrOf w) (f8 w 15) (f8 w 12) a (BitVec.ofNat 22 (fld w2 0 22)) (compOf w2))
  match fld w2 22 6 with
  | 0 => k .cmpeqi
  | 1 => k .cmplti
  | 2 => k .cmpltui
  | _ => .error .minor

/-- The PL format, majors 18 and, in C, 27 (R57, R138, R178). -/
def decPl (w : Word32) (mask : Bool) : DecRes :=
  let h := hdrOf w
  let d := f8 w 12
  let a := f8 w 6
  let b := f8 w 3
  let na := bitAt w 2
  let nb := bitAt w 1
  let z (k : DecRes) : DecRes := chk (fld w 9 3 == 0 && fld w 0 1 == 0) .reserved k
  match fld w 15 3 with
  | 0 => z (.ok (if mask then .mand h d a b na nb else .pand h d a b na nb))
  | 1 => z (.ok (if mask then .mor h d a b na nb else .por h d a b na nb))
  | 2 => z (.ok (if mask then .mxor h d a b na nb else .pxor h d a b na nb))
  | 3 => z (chk (b == 0 && !nb) .operand (.ok (if mask then .mmov h d a na else .pmov h d a na)))
  | _ => .error .minor

/-- Major 22 (R60). -/
def decLoop (q : Seq) (w w2 : Word32) : DecRes :=
  let fin (n : LoopCount) : DecRes :=
    chk (fld w2 0 18 != 0) .operand <|
    .ok (.loop (hdrOf w) (f4 w 16) (bitAt w 15) n (BitVec.ofNat 8 (fld w2 20 8))
      (BitVec.ofNat 18 (fld w2 0 18)) (compOf w2))
  chk (fld w 12 2 == 0 && fld w2 18 2 == 0 && (bitAt w 14 || fB w == 0)) .reserved <|
  second w2 <|
  if bitAt w 14 then fin (.imm (BitVec.ofNat 12 (fld w 0 12)))
  else withSel q (fA w) fun a => fin (.sel a)

/-- The MEM word with ESZ zero, after the first word's reserved bits (R65). -/
def withMem (ok : Bool) (w2 : Word32) (k : Fate → BitVec 24 → DecRes) : DecRes :=
  chk (ok && fld w2 24 2 == 0) .reserved <| second w2 <|
    withVal (Fate.ofCode (fld w2 26 2)) fun f => k f (BitVec.ofNat 24 (fld w2 0 24))

/-- The DEV word, after the first word's reserved bits (R65). -/
def withDev (ok : Bool) (w2 : Word32) (k : Scope → Bool → BitVec 24 → DecRes) : DecRes :=
  chk (ok && fld w2 24 1 == 0) .reserved <| second w2 <|
    chk (decide (2 ≤ fld w2 26 2)) .operand <|
    k (Scope.ofCode (fld w2 26 2)) (bitAt w2 25) (BitVec.ofNat 24 (fld w2 0 24))

/-- The GATHER and SCATTER form of the MEM word (R65, R158). -/
def decGs (q : Seq) (w w2 : Word32) (qOk : Bool) (bOk : Sel → Bool)
    (f : Hdr → Fin 8 → Sel → Sel → Fate → Esz → BitVec 24 → Comp → Instr) : DecRes :=
  chk (fld w 15 3 == 0) .reserved <| second w2 <|
  chk qOk .operand <|
  withSel q (fA w) fun a => withSel q (fB w) fun b =>
  chk (bOk b) .operand <|
  withVal (Fate.ofCode (fld w2 26 2)) fun ft => withVal (Esz.ofCode (fld w2 24 2)) fun ez =>
  .ok (f (hdrOf w) (f8 w 12) a b ft ez (BitVec.ofNat 24 (fld w2 0 24)) (compOf w2))

/-- The operation of an ATOM word that carries no compare value (R65). -/
def atomOp (op : Nat) : Option (Hdr → Dest → Sel → Sel → AtomF → Comp → Instr) :=
  match op with
  | 0 => some .atomAdd | 1 => some .atomAnd | 2 => some .atomOr | 3 => some .atomXor
  | 4 => some .atomMin | 5 => some .atomMax | 6 => some .atomMinu | 7 => some .atomMaxu
  | 8 => some .atomSwap
  | _ => none

/-- Major 35 (R65). -/
def decAtom (q : Seq) (w w2 : Word32) : DecRes :=
  let f : AtomF := ⟨Scope.ofCode (fld w2 16 2), bitAt w2 15, bitAt w2 14, bitAt w2 13⟩
  let op := fld w2 24 4
  if op = 9 then
    chk (destOk w && fld w2 0 13 == 0) .reserved <| second w2 <|
    withSel q (fA w) fun a => withSel q (fB w) fun b => withSel q (fld w2 18 6) fun c =>
    chk (f.scope != .core) .operand <|
    .ok (.atomCas (hdrOf w) (destOf w) a b c f (compOf w2))
  else
    match atomOp op with
    | none => .error .minor
    | some g =>
      chk (destOk w && fld w2 0 13 == 0 && fld w2 18 6 == 0) .reserved <| second w2 <|
      withSel q (fA w) fun a => withSel q (fB w) fun b =>
      chk (f.scope != .core) .operand <|
      .ok (g (hdrOf w) (destOf w) a b f (compOf w2))

/-- Majors 24 to 39 of K, L and S: local and device accesses (R63 to R65). -/
def decAccess (q : Seq) (maj : Nat) (w w2 : Word32) : DecRes :=
  let h := hdrOf w
  let d := destOf w
  let c := compOf w2
  let qx := fld w 15 3 == 0
  let qx0 := qx && fB w == 0
  let ls := destOk w && fld w 0 3 == 0
  let ss := fld w 0 3 == 0
  match maj with
  | 24 => chk ls .reserved <| withSel q (fA w) fun a => withVal (Sz.ofCode (fld w 3 3)) fun z =>
      .ok (.ld h d a z)
  | 25 => withMem ls w2 fun ft off => withSel q (fA w) fun a =>
      withVal (Sz.ofCode (fld w 3 3)) fun z => .ok (.ldx h d a z ft off c)
  | 26 => withMem qx0 w2 fun ft off => chk (decide (fld w 12 3 < 6)) .operand <|
      withSel q (fA w) fun a => .ok (.ldq h (f8 w 12) a ft off c)
  | 27 => decGs q w w2 (decide (fld w 12 3 < 6)) (fun _ => true) .gather
  | 28 => chk ss .reserved <| withSel q (fD w) fun v => withSel q (fA w) fun a =>
      withVal (Sz.ofCode (fld w 3 3)) fun z => chk z.storeOk .operand (.ok (.st h v a z))
  | 29 => withMem ss w2 fun ft off => withSel q (fD w) fun v => withSel q (fA w) fun a =>
      withVal (Sz.ofCode (fld w 3 3)) fun z => chk z.storeOk .operand (.ok (.stx h v a z ft off c))
  | 30 => withMem qx0 w2 fun ft off => chk (decide (6 ≤ fld w 12 3)) .operand <|
      withSel q (fA w) fun a => .ok (.stq h (f8 w 12) a ft off c)
  | 31 => decGs q w w2 (decide (6 ≤ fld w 12 3)) Sel.isQueue .scatter
  | 32 => withDev ls w2 fun sc acq off => withSel q (fA w) fun a =>
      withVal (Sz.ofCode (fld w 3 3)) fun z => .ok (.ldd h d a z sc acq off c)
  | 33 => withDev ss w2 fun sc rel off => withSel q (fD w) fun v => withSel q (fA w) fun a =>
      withVal (Sz.ofCode (fld w 3 3)) fun z => chk z.storeOk .operand (.ok (.std h v a z sc rel off c))
  | 34 => withDev qx0 w2 fun sc acq off => chk (decide (fld w 12 3 < 6)) .operand <|
      withSel q (fA w) fun a => .ok (.lddq h (f8 w 12) a sc acq off c)
  | 35 => decAtom q w w2
  | 36 => withDev (qx0 && fld w 12 3 == 0 && fld w2 25 1 == 0) w2 fun sc _ off =>
      withSel q (fA w) fun a => .ok (.pref h a sc off c)
  | 37 => chk (fld w 12 4 == 0 && fB w == 0) .reserved <| second w2 <| withSel q (fA w) fun a =>
      .ok (.prefi h (f4 w 16) a (f16 w2 24) (BitVec.ofNat 24 (fld w2 0 24)) c)
  | 38 => withMem qx0 w2 fun ft off => withSel q (fA w) fun a => .ok (.tld h (f8 w 12) a ft off c)
  | 39 => chk (qx && fld w2 24 2 == 0) .reserved <| second w2 <|
      withSel q (fA w) fun a => withSel q (fB w) fun b => withVal (Fate.ofCode (fld w2 26 2)) fun ft =>
      .ok (.tldw h (f8 w 12) a b ft (BitVec.ofNat 12 (fld w2 12 12)) (BitVec.ofNat 12 (fld w2 0 12)) c)
  | _ => .error .major

/-- Majors 40 to 47 of K, L and S (R63 to R65). -/
def decControl (q : Seq) (maj : Nat) (w w2 : Word32) : DecRes :=
  let h := hdrOf w
  let d := destOf w
  let c := compOf w2
  match maj with
  | 40 => chk (fD w == 0) .reserved <| withSel q (fA w) fun a =>
      withVal (SupplyReq.ofCode (fld w 4 2)) fun st => .ok (.bank h a st (f16 w 0))
  | 41 => chk (destOk w && fld w2 24 4 == 0) .reserved <| second w2 <|
      withSel q (fA w) fun a => withSel q (fB w) fun b =>
      .ok (.syncwait h d a b (BitVec.ofNat 24 (fld w2 0 24)) c)
  | 42 => chk (fld w 12 4 == 0 && fB w == 0 && fld w2 0 23 == 0) .reserved <| second w2 <|
      chk (decide (1 ≤ fA w ∧ fA w ≤ 28)) .operand <| withSel q (fA w) fun a =>
      let f : CopyF := ⟨Scope.ofCode (fld w2 26 2), bitAt w2 25, bitAt w2 24⟩
      .ok (if bitAt w2 23 then .copyR h (f4 w 16) a f c else .copy h (f4 w 16) a f c)
  | 43 => chk (fld w 12 4 == 0 && fld w2 24 4 == 0) .reserved <| second w2 <|
      withSel q (fA w) fun a => withSel q (fB w) fun b =>
      chk (fld w2 0 24 != 0) .operand <|
      .ok (.dwin h (f4 w 16) a b (BitVec.ofNat 24 (fld w2 0 24)) c)
  | 44 => chk (fD w == 0 && fB w == 0 && fld w2 0 28 == 0) .reserved <| second w2 <|
      withSel q (fA w) fun a => .ok (.launch h a c)
  | 45 =>
    match fB w with
    | 0 => chk (fD w == 0 && fA w == 0) .reserved (.ok (.yieldN h))
    | 1 => chk (fD w == 0) .reserved <| withSel q (fA w) fun a => .ok (.swpt h a)
    | _ => .error .minor
  | 46 =>
    match fB w with
    | 0 => chk (destOk w) .reserved <| withSel q (fA w) fun a => .ok (.groupRank h d a)
    | 1 => chk (destOk w) .reserved <| withSel q (fA w) fun a => .ok (.groupSize h d a)
    | _ => .error .minor
  | 47 =>
    match fB w with
    | 0 => chk (fD w == 0) .reserved <| withSel q (fA w) fun a => .ok (.bar h a)
    | 1 => chk (destOk w) .reserved <| withSel q (fA w) fun a => .ok (.barw h d a)
    | _ => .error .minor
  | _ => .error .major

/-- Major 24 of C (R67). -/
def decVi (q : Seq) (w w2 : Word32) : DecRes :=
  let h := hdrOf w
  let d := destOf w
  let c := compOf w2
  let sat := bitAt w2 18
  let base (k : VITy → DecRes) : DecRes :=
    chk (destOk w && fld w2 16 2 == 0 && fld w2 0 10 == 0) .reserved <| second w2 <|
      withVal (VITy.ofCode (fld w2 19 3)) k
  let noC (k : DecRes) : DecRes := chk (fld w2 10 6 == 0) .operand k
  let two (k : VITy → Sel → Sel → DecRes) : DecRes :=
    base fun t => noC <| withSel q (fA w) fun a => withSel q (fB w) fun b => k t a b
  let plain (f : Hdr → Dest → Sel → Sel → VITy → Comp → Instr) : DecRes :=
    two fun t a b => chk (!sat) .operand (.ok (f h d a b t c))
  let one (f : Hdr → Dest → Sel → VITy → Bool → Comp → Instr) : DecRes :=
    base fun t => noC <| chk (fB w == 0) .operand <| withSel q (fA w) fun a =>
      chk t.signed .operand (.ok (f h d a t sat c))
  match fld w2 22 6 with
  | 0 => two fun t a b => .ok (.vadd h d a b t sat c)
  | 1 => two fun t a b => .ok (.vsub h d a b t sat c)
  | 2 => two fun t a b => .ok (.vmul h d a b t sat c)
  | 3 => plain .vmulh
  | 4 => plain .vmin
  | 5 => plain .vmax
  | 6 => plain .vand
  | 7 => plain .vor
  | 8 => plain .vxor
  | 9 => plain .vshl
  | 10 => plain .vshr
  | 11 => plain .vsra
  | 12 => one .vabs
  | 13 => one .vneg
  | 14 => base fun t => withSel q (fA w) fun a => withSel q (fB w) fun b =>
      withSel q (fld w2 10 6) fun x => .ok (.vmad h d a b x t sat c)
  | _ => .error .minor

/-- Major 25 of C (R67). -/
def decVf (q : Seq) (w w2 : Word32) : DecRes :=
  let h := hdrOf w
  let d := destOf w
  let c := compOf w2
  let base (k : VFTy → RMode → DecRes) : DecRes :=
    chk (destOk w && fld w2 0 10 == 0) .reserved <| second w2 <|
      withVal (VFTy.ofCode (fld w2 19 3)) fun t => withVal (RMode.ofCode (fld w2 16 3)) fun rm =>
      chk (rm != .rna) .operand (k t rm)
  let noC (k : DecRes) : DecRes := chk (fld w2 10 6 == 0) .operand k
  let two (f : Hdr → Dest → Sel → Sel → VFTy → RMode → Comp → Instr) : DecRes :=
    base fun t rm => noC <| withSel q (fA w) fun a => withSel q (fB w) fun b => .ok (f h d a b t rm c)
  let three (f : Hdr → Dest → Sel → Sel → Sel → VFTy → RMode → Comp → Instr) : DecRes :=
    base fun t rm => withSel q (fA w) fun a => withSel q (fB w) fun b =>
      withSel q (fld w2 10 6) fun x => .ok (f h d a b x t rm c)
  let one (f : Hdr → Dest → Sel → VFTy → RMode → Comp → Instr) : DecRes :=
    base fun t rm => noC <| chk (fB w == 0) .operand <| withSel q (fA w) fun a => .ok (f h d a t rm c)
  match fld w2 22 6 with
  | 0 => two .vfadd
  | 1 => two .vfsub
  | 2 => two .vfmul
  | 3 => three .vfma
  | 4 => three .vfms
  | 5 => two .vfmin
  | 6 => two .vfmax
  | 7 => one .vfabs
  | 8 => one .vfneg
  | 9 => one .vfrcp
  | 10 => one .vfrsq
  | _ => .error .minor

/-- Major 26 of C (R68). -/
def decVcmp (q : Seq) (w w2 : Word32) : DecRes :=
  match VCond.ofCode (fld w2 24 4) with
  | none => .error .minor
  | some cd =>
    chk (fld w2 0 20 == 0) .reserved <| second w2 <|
    withVal (VTy.ofCode (fld w2 20 4)) fun t =>
    withSel q (fA w) fun a => withSel q (fB w) fun b =>
    chk (cd != .un || t.isFloat) .operand <|
    .ok (.vcmp (hdrOf w) (f8 w 15) (f8 w 12) a b cd t (compOf w2))

/-- Major 29 of C (R68, R180). -/
def decVp (q : Seq) (w w2 : Word32) : DecRes :=
  let h := hdrOf w
  let d := destOf w
  let c := compOf w2
  let base (k : Sel → DecRes) : DecRes :=
    chk (destOk w && fld w2 0 16 == 0) .reserved <| second w2 <| withSel q (fA w) k
  let shift (f : Hdr → Dest → Sel → Fin 64 → Comp → Instr) : DecRes :=
    base fun a => chk (fB w == 0) .operand (.ok (f h d a (f64 w2 16) c))
  match fld w2 22 6 with
  | 0 => base fun a => withSel q (fB w) fun b => chk (fld w2 16 6 == 0) .operand (.ok (.vperm h d a b c))
  | 1 => shift .vrot
  | 2 => shift .vbcast
  | 3 => shift .vshup
  | 4 => shift .vshdn
  | _ => .error .minor

/-- Major 31 of C (R68). -/
def decVred (q : Seq) (w w2 : Word32) : DecRes :=
  let k (f : Hdr → Dest → Sel → VTy → Comp → Instr) : DecRes :=
    chk (destOk w && fB w == 0 && fld w2 0 18 == 0) .reserved <| second w2 <|
    withVal (VTy.ofCode (fld w2 18 4)) fun t => withSel q (fA w) fun a =>
    .ok (f (hdrOf w) (destOf w) a t (compOf w2))
  match fld w2 22 6 with
  | 0 => k .vrsum
  | 1 => k .vrmax
  | 2 => k .vrmin
  | _ => .error .minor

/-- Major 32 of C (R68, R183). -/
def decVmove (q : Seq) (w : Word32) : DecRes :=
  let h := hdrOf w
  let d := destOf w
  let k (f : Hdr → Dest → Sel → Instr) : DecRes :=
    chk (destOk w) .reserved <| withSel q (fA w) fun a => .ok (f h d a)
  match fB w with
  | 0 => k .vmov
  | 1 => chk (fld w 15 3 == 0) .reserved <| chk (decide (6 ≤ fld w 12 3)) .operand <|
      withSel q (fA w) fun a => .ok (.vpush h (f8 w 12) a)
  | 2 => k .vbcs
  | 3 => k .vmvs
  | _ => .error .minor

/-- The MD word (R69). -/
def mdOf (w2 : Word32) : DrainF :=
  ⟨f64 w2 22, bitAt w2 21, bitAt w2 20, f16 w2 16, bitAt w2 15, bitAt w2 14, Scope.ofCode (fld w2 12 2),
    f4 w2 10⟩

/-- Majors 24 to 37 of C (R66 to R69). DESIGN CHOICE (log 41): a B that is not 0 in VCVT or VRED, of which the spec says only that
it is 0, is an illegal instruction as a reserved field is. -/
def decCompute (q : Seq) (maj : Nat) (w w2 : Word32) : DecRes :=
  let h := hdrOf w
  let d := destOf w
  let c := compOf w2
  match maj with
  | 24 => decVi q w w2
  | 25 => decVf q w w2
  | 26 => decVcmp q w w2
  | 27 => decPl w true
  | 28 => chk (destOk w && fld w2 0 24 == 0) .reserved <| second w2 <|
      withSel q (fA w) fun a => withSel q (fB w) fun b => .ok (.vsel h d a b (f8 w2 25) (bitAt w2 24) c)
  | 29 => decVp q w w2
  | 30 => chk (destOk w && fB w == 0 && fld w2 0 16 == 0) .reserved <| second w2 <|
      withVal (Fmt.ofCode (fld w2 24 4)) fun x => withVal (Fmt.ofCode (fld w2 20 4)) fun y =>
      withVal (RMode.ofCode (fld w2 17 3)) fun rm => withSel q (fA w) fun a =>
      chk (convertible x y && (rm != .rna || y.isInt)) .operand <|
      .ok (.vcvt h d a x y rm (bitAt w2 16) c)
  | 31 => decVred q w w2
  | 32 => decVmove q w
  | 33 => chk (destOk w) .reserved (.ok (.vli h d (BitVec.ofNat 12 (fld w 0 12))))
  | 34 => chk (fld w 6 12 == 0) .reserved <| withVal (SupplyReq.ofCode (fld w 4 2)) fun st =>
      chk (fld w 0 4 != 0) .operand (.ok (.vbank h st (BitVec.ofNat 4 (fld w 0 4))))
  | 36 => chk (fld w 6 3 == 0 && fld w2 0 10 == 0) .reserved <| second w2 <|
      chk (mdOf w2).ok .operand <|
      .ok (.mma h (f4 w 16) (bitAt w 15) (f8 w 12) (f8 w 9) (f64 w 0) (mdOf w2) c)
  | 37 => chk (fld w 0 16 == 0 && fld w2 0 10 == 0) .reserved <| second w2 <|
      chk ((mdOf w2).dr && (mdOf w2).ok) .operand (.ok (.drain h (f4 w 16) (mdOf w2) c))
  | _ => .error .major

/-- Majors 0 to 23, the common map (R54 to R61). -/
def decCommon (q : Seq) (maj : Nat) (w w2 : Word32) : DecRes :=
  let h := hdrOf w
  match maj with
  | 0 => decMisc w
  | 1 => decCommit q w
  | 2 => decRRR q w .add
  | 3 => decRRR q w .sub
  | 4 => decRRR q w .and
  | 5 => decRRR q w .or
  | 6 => decRRR q w .xor
  | 7 => decRRR q w .shl
  | 8 => decRRR q w .shr
  | 9 => decRRR q w .sra
  | 10 => decRRR q w .mul
  | 11 => chk (destOk w) .reserved <| withSel q (fA w) fun a =>
      .ok (.addi h (destOf w) a (BitVec.ofNat 6 (fB w)))
  | 12 => chk (destOk w) .reserved (.ok (.li h (destOf w) (BitVec.ofNat 12 (fld w 0 12))))
  | 13 => decAlux q w w2
  | 14 => decCmp q w .cmpeq
  | 15 => decCmp q w .cmplt
  | 16 => decCmp q w .cmpltu
  | 17 => decCmpi q w w2
  | 18 => decPl w false
  | 19 => .ok (.br h (BitVec.ofNat 18 (fld w 0 18)))
  | 20 => .ok (.brl h (BitVec.ofNat 18 (fld w 0 18)))
  | 21 => chk (destOk w && fB w == 0) .reserved <| withSel q (fA w) fun a => .ok (.jr h (destOf w) a)
  | 22 => decLoop q w w2
  | 23 => .ok (if bitAt w 17 then .mtsr h (f32 w 12) (BitVec.ofNat 12 (fld w 0 12))
      else .mfsr h (f32 w 12) (BitVec.ofNat 12 (fld w 0 12)))
  | _ => .error .major

/-- The decoder of a sequencer (R44): total on every pair of words; the second word is read only by the majors that
have one. -/
def decode (q : Seq) (w w2 : Word32) : DecRes :=
  let maj := majOf w
  if majorOk q maj then
    if maj < 24 then decCommon q maj w w2
    else match q with
      | .c => decCompute q maj w w2
      | _ => if maj < 40 then decAccess q maj w w2 else decControl q maj w w2
  else .error .major

/-! ### The encoder, from the layouts of R41 and R48 to R69. -/

/-- A Boolean as a bit. -/
def bit (b : Bool) : Nat := if b then 1 else 0
/-- The ring bits in bits 31 to 28 (R41). -/
def Ring.bits (r : Ring) : Nat := bit r.wp * 2 ^ 31 + bit r.wn * 2 ^ 30 + bit r.sp * 2 ^ 29 + bit r.sn * 2 ^ 28
/-- A first word with ring bits only (R56). -/
def encR (r : Ring) (maj ops : Nat) : Word32 := BitVec.ofNat 32 (r.bits + maj * 2 ^ 18 + ops)
/-- A first word (R41). -/
def enc1 (h : Hdr) (maj ops : Nat) : Word32 :=
  BitVec.ofNat 32 (h.ring.bits + bit h.gn * 2 ^ 27 + h.gp.val * 2 ^ 24 + maj * 2 ^ 18 + ops)
/-- A second word (R42, R49). -/
def enc2 (c : Comp) (x : Nat) : Word32 := BitVec.ofNat 32 (bit c.sp * 2 ^ 29 + bit c.sn * 2 ^ 28 + x)
/-- The RRR layout (R48). -/
def rrr (d a b : Nat) : Nat := d * 2 ^ 12 + a * 2 ^ 6 + b
/-- The ALUX and CMPI words (R59, R57). -/
def opImm (op imm : Nat) : Nat := op * 2 ^ 22 + imm
/-- The MEM word (R65). -/
def memW (f : Fate) (esz : Nat) (off : BitVec 24) : Nat := f.code * 2 ^ 26 + esz * 2 ^ 24 + off.toNat
/-- The DEV word (R65). -/
def devW (s : Scope) (flag : Bool) (off : BitVec 24) : Nat := s.code * 2 ^ 26 + bit flag * 2 ^ 25 + off.toNat
/-- The ATOM word (R65). -/
def atomW (op c : Nat) (f : AtomF) : Nat :=
  op * 2 ^ 24 + c * 2 ^ 18 + f.scope.code * 2 ^ 16 + bit f.acq * 2 ^ 15 + bit f.rel * 2 ^ 14 + bit f.dbl * 2 ^ 13
/-- The CPY word (R65). -/
def cpyW (f : CopyF) (rt : Bool) : Nat :=
  f.scope.code * 2 ^ 26 + bit f.acq * 2 ^ 25 + bit f.rel * 2 ^ 24 + bit rt * 2 ^ 23
/-- The VI word (R67). -/
def viW (op : Nat) (t : VITy) (sat : Bool) (c : Nat) : Nat :=
  op * 2 ^ 22 + t.code * 2 ^ 19 + bit sat * 2 ^ 18 + c * 2 ^ 10
/-- The VF word (R67). -/
def vfW (op : Nat) (t : VFTy) (rm : RMode) (c : Nat) : Nat :=
  op * 2 ^ 22 + t.code * 2 ^ 19 + rm.code * 2 ^ 16 + c * 2 ^ 10
/-- The PL layout (R48). -/
def plW (op xd xa xb : Nat) (na nb : Bool) : Nat :=
  op * 2 ^ 15 + xd * 2 ^ 12 + xa * 2 ^ 6 + xb * 2 ^ 3 + bit na * 2 ^ 2 + bit nb * 2
/-- The CM layout (R48). -/
def cmW (halt p : Bool) (drop : BitVec 4) (tag : BitVec 8) : Nat :=
  bit halt * 2 ^ 13 + bit p * 2 ^ 12 + drop.toNat * 2 ^ 8 + tag.toNat
/-- The MD word (R69). -/
def mdW (f : DrainF) : Nat :=
  f.dprog.val * 2 ^ 22 + bit f.dr * 2 ^ 21 + bit f.fl * 2 ^ 20 + f.fsel.val * 2 ^ 16 + bit f.acq * 2 ^ 15 +
    bit f.rel * 2 ^ 14 + f.scope.code * 2 ^ 12 + f.win.val * 2 ^ 10
/-- The LOOP operand fields (R48). -/
def lpW (x : Fin 4) (swp : Bool) : LoopCount → Nat
  | .imm n => x.val * 2 ^ 16 + bit swp * 2 ^ 15 + 2 ^ 14 + n.toNat
  | .sel a => x.val * 2 ^ 16 + bit swp * 2 ^ 15 + a.code * 2 ^ 6

/-- The words of an instruction; a step of an engine has none. -/
def encode : Instr → List Word32
  | .nop h => [enc1 h 0 0]
  | .brk h => [enc1 h 0 1]
  | .xfenceCore h => [enc1 h 0 4]
  | .xfenceQuad h => [enc1 h 0 5]
  | .xfenceDev h => [enc1 h 0 6]
  | .xfenceSys h => [enc1 h 0 7]
  | .commit r p drop tag => [encR r 1 (cmW false p drop tag)]
  | .halt r p drop tag => [encR r 1 (cmW true p drop tag)]
  | .add h d a b => [enc1 h 2 (rrr d.code a.code b.code)]
  | .sub h d a b => [enc1 h 3 (rrr d.code a.code b.code)]
  | .and h d a b => [enc1 h 4 (rrr d.code a.code b.code)]
  | .or h d a b => [enc1 h 5 (rrr d.code a.code b.code)]
  | .xor h d a b => [enc1 h 6 (rrr d.code a.code b.code)]
  | .shl h d a b => [enc1 h 7 (rrr d.code a.code b.code)]
  | .shr h d a b => [enc1 h 8 (rrr d.code a.code b.code)]
  | .sra h d a b => [enc1 h 9 (rrr d.code a.code b.code)]
  | .mul h d a b => [enc1 h 10 (rrr d.code a.code b.code)]
  | .addi h d a imm => [enc1 h 11 (rrr d.code a.code imm.toNat)]
  | .li h d imm => [enc1 h 12 (d.code * 2 ^ 12 + imm.toNat)]
  | .addiLong h d a imm c => [enc1 h 13 (rrr d.code a.code 0), enc2 c (opImm 0 imm.toNat)]
  | .andi h d a imm c => [enc1 h 13 (rrr d.code a.code 0), enc2 c (opImm 1 imm.toNat)]
  | .ori h d a imm c => [enc1 h 13 (rrr d.code a.code 0), enc2 c (opImm 2 imm.toNat)]
  | .xori h d a imm c => [enc1 h 13 (rrr d.code a.code 0), enc2 c (opImm 3 imm.toNat)]
  | .shli h d a n c => [enc1 h 13 (rrr d.code a.code 0), enc2 c (opImm 4 n.val)]
  | .shri h d a n c => [enc1 h 13 (rrr d.code a.code 0), enc2 c (opImm 5 n.val)]
  | .srai h d a n c => [enc1 h 13 (rrr d.code a.code 0), enc2 c (opImm 6 n.val)]
  | .mulh h d a b c => [enc1 h 13 (rrr d.code a.code b.code), enc2 c (opImm 7 0)]
  | .mulhu h d a b c => [enc1 h 13 (rrr d.code a.code b.code), enc2 c (opImm 8 0)]
  | .min h d a b c => [enc1 h 13 (rrr d.code a.code b.code), enc2 c (opImm 9 0)]
  | .max h d a b c => [enc1 h 13 (rrr d.code a.code b.code), enc2 c (opImm 10 0)]
  | .minu h d a b c => [enc1 h 13 (rrr d.code a.code b.code), enc2 c (opImm 11 0)]
  | .maxu h d a b c => [enc1 h 13 (rrr d.code a.code b.code), enc2 c (opImm 12 0)]
  | .ext h d a pos width1 c => [enc1 h 13 (rrr d.code a.code 0), enc2 c (opImm 13 (width1.val * 2 ^ 6 + pos.val))]
  | .exts h d a pos width1 c => [enc1 h 13 (rrr d.code a.code 0), enc2 c (opImm 14 (width1.val * 2 ^ 6 + pos.val))]
  | .ins h d a b pos width1 c => [enc1 h 13 (rrr d.code a.code b.code), enc2 c (opImm 15 (width1.val * 2 ^ 6 + pos.val))]
  | .clz h d a c => [enc1 h 13 (rrr d.code a.code 0), enc2 c (opImm 16 0)]
  | .ctz h d a c => [enc1 h 13 (rrr d.code a.code 0), enc2 c (opImm 17 0)]
  | .popc h d a c => [enc1 h 13 (rrr d.code a.code 0), enc2 c (opImm 18 0)]
  | .lih h d a imm c => [enc1 h 13 (rrr d.code a.code 0), enc2 c (opImm 19 imm.toNat)]
  | .cmpeq h pt pf a b => [enc1 h 14 (pt.val * 2 ^ 15 + pf.val * 2 ^ 12 + a.code * 2 ^ 6 + b.code)]
  | .cmplt h pt pf a b => [enc1 h 15 (pt.val * 2 ^ 15 + pf.val * 2 ^ 12 + a.code * 2 ^ 6 + b.code)]
  | .cmpltu h pt pf a b => [enc1 h 16 (pt.val * 2 ^ 15 + pf.val * 2 ^ 12 + a.code * 2 ^ 6 + b.code)]
  | .cmpeqi h pt pf a imm c => [enc1 h 17 (pt.val * 2 ^ 15 + pf.val * 2 ^ 12 + a.code * 2 ^ 6), enc2 c (opImm 0 imm.toNat)]
  | .cmplti h pt pf a imm c => [enc1 h 17 (pt.val * 2 ^ 15 + pf.val * 2 ^ 12 + a.code * 2 ^ 6), enc2 c (opImm 1 imm.toNat)]
  | .cmpltui h pt pf a imm c => [enc1 h 17 (pt.val * 2 ^ 15 + pf.val * 2 ^ 12 + a.code * 2 ^ 6), enc2 c (opImm 2 imm.toNat)]
  | .pand h xd xa xb na nb => [enc1 h 18 (plW 0 xd.val xa.val xb.val na nb)]
  | .por h xd xa xb na nb => [enc1 h 18 (plW 1 xd.val xa.val xb.val na nb)]
  | .pxor h xd xa xb na nb => [enc1 h 18 (plW 2 xd.val xa.val xb.val na nb)]
  | .pmov h xd xa na => [enc1 h 18 (plW 3 xd.val xa.val 0 na false)]
  | .br h off => [enc1 h 19 off.toNat]
  | .brl h off => [enc1 h 20 off.toNat]
  | .jr h d a => [enc1 h 21 (rrr d.code a.code 0)]
  | .loop h x swp n lid len c => [enc1 h 22 (lpW x swp n), enc2 c (lid.toNat * 2 ^ 20 + len.toNat)]
  | .mfsr h r srn => [enc1 h 23 (r.val * 2 ^ 12 + srn.toNat)]
  | .mtsr h r srn => [enc1 h 23 (2 ^ 17 + r.val * 2 ^ 12 + srn.toNat)]
  | .ld h d a sz => [enc1 h 24 (rrr d.code a.code (sz.code * 2 ^ 3))]
  | .ldx h d a sz fate off c => [enc1 h 25 (rrr d.code a.code (sz.code * 2 ^ 3)), enc2 c (memW fate 0 off)]
  | .ldd h d a sz scope acq off c => [enc1 h 32 (rrr d.code a.code (sz.code * 2 ^ 3)), enc2 c (devW scope acq off)]
  | .st h v a sz => [enc1 h 28 (rrr v.code a.code (sz.code * 2 ^ 3))]
  | .stx h v a sz fate off c => [enc1 h 29 (rrr v.code a.code (sz.code * 2 ^ 3)), enc2 c (memW fate 0 off)]
  | .std h v a sz scope rel off c => [enc1 h 33 (rrr v.code a.code (sz.code * 2 ^ 3)), enc2 c (devW scope rel off)]
  | .ldq h q a fate off c => [enc1 h 26 (rrr q.val a.code 0), enc2 c (memW fate 0 off)]
  | .lddq h q a scope acq off c => [enc1 h 34 (rrr q.val a.code 0), enc2 c (devW scope acq off)]
  | .stq h q a fate off c => [enc1 h 30 (rrr q.val a.code 0), enc2 c (memW fate 0 off)]
  | .gather h q a b fate esz off c => [enc1 h 27 (rrr q.val a.code b.code), enc2 c (memW fate esz.code off)]
  | .scatter h q a b fate esz off c => [enc1 h 31 (rrr q.val a.code b.code), enc2 c (memW fate esz.code off)]
  | .atomAdd h d a b f c => [enc1 h 35 (rrr d.code a.code b.code), enc2 c (atomW 0 0 f)]
  | .atomAnd h d a b f c => [enc1 h 35 (rrr d.code a.code b.code), enc2 c (atomW 1 0 f)]
  | .atomOr h d a b f c => [enc1 h 35 (rrr d.code a.code b.code), enc2 c (atomW 2 0 f)]
  | .atomXor h d a b f c => [enc1 h 35 (rrr d.code a.code b.code), enc2 c (atomW 3 0 f)]
  | .atomMin h d a b f c => [enc1 h 35 (rrr d.code a.code b.code), enc2 c (atomW 4 0 f)]
  | .atomMax h d a b f c => [enc1 h 35 (rrr d.code a.code b.code), enc2 c (atomW 5 0 f)]
  | .atomMinu h d a b f c => [enc1 h 35 (rrr d.code a.code b.code), enc2 c (atomW 6 0 f)]
  | .atomMaxu h d a b f c => [enc1 h 35 (rrr d.code a.code b.code), enc2 c (atomW 7 0 f)]
  | .atomSwap h d a b f c => [enc1 h 35 (rrr d.code a.code b.code), enc2 c (atomW 8 0 f)]
  | .atomCas h d a b cmp f c => [enc1 h 35 (rrr d.code a.code b.code), enc2 c (atomW 9 cmp.code f)]
  | .pref h a scope off c => [enc1 h 36 (rrr 0 a.code 0), enc2 c (devW scope false off)]
  | .prefi h x a nl off c => [enc1 h 37 (x.val * 2 ^ 16 + a.code * 2 ^ 6), enc2 c (nl.val * 2 ^ 24 + off.toNat)]
  | .tld h t a fate off c => [enc1 h 38 (rrr t.val a.code 0), enc2 c (memW fate 0 off)]
  | .tldw h t a b fate row0 col0 c => [enc1 h 39 (rrr t.val a.code b.code), enc2 c (fate.code * 2 ^ 26 + row0.toNat * 2 ^ 12 + col0.toNat)]
  | .bank h a st cnt => [enc1 h 40 (a.code * 2 ^ 6 + st.code * 2 ^ 4 + cnt.val)]
  | .syncwait h d a b off c => [enc1 h 41 (rrr d.code a.code b.code), enc2 c off.toNat]
  | .copy h x a f c => [enc1 h 42 (x.val * 2 ^ 16 + a.code * 2 ^ 6), enc2 c (cpyW f false)]
  | .copyR h x a f c => [enc1 h 42 (x.val * 2 ^ 16 + a.code * 2 ^ 6), enc2 c (cpyW f true)]
  | .dwin h x a b len c => [enc1 h 43 (x.val * 2 ^ 16 + a.code * 2 ^ 6 + b.code), enc2 c len.toNat]
  | .launch h a c => [enc1 h 44 (rrr 0 a.code 0), enc2 c 0]
  | .yieldN h => [enc1 h 45 0]
  | .swpt h a => [enc1 h 45 (rrr 0 a.code 1)]
  | .groupRank h d a => [enc1 h 46 (rrr d.code a.code 0)]
  | .groupSize h d a => [enc1 h 46 (rrr d.code a.code 1)]
  | .bar h a => [enc1 h 47 (rrr 0 a.code 0)]
  | .barw h d a => [enc1 h 47 (rrr d.code a.code 1)]
  | .vadd h d a b ty sat c => [enc1 h 24 (rrr d.code a.code b.code), enc2 c (viW 0 ty sat 0)]
  | .vsub h d a b ty sat c => [enc1 h 24 (rrr d.code a.code b.code), enc2 c (viW 1 ty sat 0)]
  | .vmul h d a b ty sat c => [enc1 h 24 (rrr d.code a.code b.code), enc2 c (viW 2 ty sat 0)]
  | .vmulh h d a b ty c => [enc1 h 24 (rrr d.code a.code b.code), enc2 c (viW 3 ty false 0)]
  | .vmin h d a b ty c => [enc1 h 24 (rrr d.code a.code b.code), enc2 c (viW 4 ty false 0)]
  | .vmax h d a b ty c => [enc1 h 24 (rrr d.code a.code b.code), enc2 c (viW 5 ty false 0)]
  | .vand h d a b ty c => [enc1 h 24 (rrr d.code a.code b.code), enc2 c (viW 6 ty false 0)]
  | .vor h d a b ty c => [enc1 h 24 (rrr d.code a.code b.code), enc2 c (viW 7 ty false 0)]
  | .vxor h d a b ty c => [enc1 h 24 (rrr d.code a.code b.code), enc2 c (viW 8 ty false 0)]
  | .vshl h d a b ty c => [enc1 h 24 (rrr d.code a.code b.code), enc2 c (viW 9 ty false 0)]
  | .vshr h d a b ty c => [enc1 h 24 (rrr d.code a.code b.code), enc2 c (viW 10 ty false 0)]
  | .vsra h d a b ty c => [enc1 h 24 (rrr d.code a.code b.code), enc2 c (viW 11 ty false 0)]
  | .vabs h d a ty sat c => [enc1 h 24 (rrr d.code a.code 0), enc2 c (viW 12 ty sat 0)]
  | .vneg h d a ty sat c => [enc1 h 24 (rrr d.code a.code 0), enc2 c (viW 13 ty sat 0)]
  | .vmad h d a b x ty sat c => [enc1 h 24 (rrr d.code a.code b.code), enc2 c (viW 14 ty sat x.code)]
  | .vfadd h d a b ty rm c => [enc1 h 25 (rrr d.code a.code b.code), enc2 c (vfW 0 ty rm 0)]
  | .vfsub h d a b ty rm c => [enc1 h 25 (rrr d.code a.code b.code), enc2 c (vfW 1 ty rm 0)]
  | .vfmul h d a b ty rm c => [enc1 h 25 (rrr d.code a.code b.code), enc2 c (vfW 2 ty rm 0)]
  | .vfma h d a b x ty rm c => [enc1 h 25 (rrr d.code a.code b.code), enc2 c (vfW 3 ty rm x.code)]
  | .vfms h d a b x ty rm c => [enc1 h 25 (rrr d.code a.code b.code), enc2 c (vfW 4 ty rm x.code)]
  | .vfmin h d a b ty rm c => [enc1 h 25 (rrr d.code a.code b.code), enc2 c (vfW 5 ty rm 0)]
  | .vfmax h d a b ty rm c => [enc1 h 25 (rrr d.code a.code b.code), enc2 c (vfW 6 ty rm 0)]
  | .vfabs h d a ty rm c => [enc1 h 25 (rrr d.code a.code 0), enc2 c (vfW 7 ty rm 0)]
  | .vfneg h d a ty rm c => [enc1 h 25 (rrr d.code a.code 0), enc2 c (vfW 8 ty rm 0)]
  | .vfrcp h d a ty rm c => [enc1 h 25 (rrr d.code a.code 0), enc2 c (vfW 9 ty rm 0)]
  | .vfrsq h d a ty rm c => [enc1 h 25 (rrr d.code a.code 0), enc2 c (vfW 10 ty rm 0)]
  | .vcmp h pt pf a b cond ty c => [enc1 h 26 (pt.val * 2 ^ 15 + pf.val * 2 ^ 12 + a.code * 2 ^ 6 + b.code), enc2 c (cond.code * 2 ^ 24 + ty.code * 2 ^ 20)]
  | .mand h xd xa xb na nb => [enc1 h 27 (plW 0 xd.val xa.val xb.val na nb)]
  | .mor h xd xa xb na nb => [enc1 h 27 (plW 1 xd.val xa.val xb.val na nb)]
  | .mxor h xd xa xb na nb => [enc1 h 27 (plW 2 xd.val xa.val xb.val na nb)]
  | .mmov h xd xa na => [enc1 h 27 (plW 3 xd.val xa.val 0 na false)]
  | .vsel h d a b ms ns c => [enc1 h 28 (rrr d.code a.code b.code), enc2 c (ms.val * 2 ^ 25 + bit ns * 2 ^ 24)]
  | .vperm h d a b c => [enc1 h 29 (rrr d.code a.code b.code), enc2 c 0]
  | .vrot h d a n c => [enc1 h 29 (rrr d.code a.code 0), enc2 c (1 * 2 ^ 22 + n.val * 2 ^ 16)]
  | .vbcast h d a n c => [enc1 h 29 (rrr d.code a.code 0), enc2 c (2 * 2 ^ 22 + n.val * 2 ^ 16)]
  | .vshup h d a n c => [enc1 h 29 (rrr d.code a.code 0), enc2 c (3 * 2 ^ 22 + n.val * 2 ^ 16)]
  | .vshdn h d a n c => [enc1 h 29 (rrr d.code a.code 0), enc2 c (4 * 2 ^ 22 + n.val * 2 ^ 16)]
  | .vcvt h d a from_ to_ rm sat c => [enc1 h 30 (rrr d.code a.code 0), enc2 c (from_.code * 2 ^ 24 + to_.code * 2 ^ 20 + rm.code * 2 ^ 17 + bit sat * 2 ^ 16)]
  | .vrsum h d a ty c => [enc1 h 31 (rrr d.code a.code 0), enc2 c (0 * 2 ^ 22 + ty.code * 2 ^ 18)]
  | .vrmax h d a ty c => [enc1 h 31 (rrr d.code a.code 0), enc2 c (1 * 2 ^ 22 + ty.code * 2 ^ 18)]
  | .vrmin h d a ty c => [enc1 h 31 (rrr d.code a.code 0), enc2 c (2 * 2 ^ 22 + ty.code * 2 ^ 18)]
  | .vmov h d a => [enc1 h 32 (rrr d.code a.code 0)]
  | .vpush h q a => [enc1 h 32 (rrr q.val a.code 1)]
  | .vbcs h d a => [enc1 h 32 (rrr d.code a.code 2)]
  | .vmvs h d a => [enc1 h 32 (rrr d.code a.code 3)]
  | .vli h d imm => [enc1 h 33 (d.code * 2 ^ 12 + imm.toNat)]
  | .vbank h st mask => [enc1 h 34 (st.code * 2 ^ 4 + mask.toNat)]
  | .mma h acc z ta tb m1 f c => [enc1 h 36 (acc.val * 2 ^ 16 + bit z * 2 ^ 15 + ta.val * 2 ^ 12 + tb.val * 2 ^ 9 + m1.val), enc2 c (mdW f)]
  | .drain h acc f c => [enc1 h 37 (acc.val * 2 ^ 16), enc2 c (mdW f)]
  | .dispatch _ => []
  | .contextLoadComplete _ => []
  | .commitComplete _ => []
  | .saveComplete _ => []
  | .regionWatchdog _ => []
  | .preemptionOverdue _ => []
  | .completionSignal _ _ => []
  | .resultDue _ _ _ => []
  | .icacheFill _ _ _ => []
  | .deviceLoadReturn _ _ => []
  | .wakeEnd _ _ => []
  | .bankCensus _ => []
  | .tileReady _ _ => []
  | .mmaBLoadStart _ _ => []
  | .mmaAStreamStart _ _ => []
  | .mmaResultsFinal _ _ => []
  | .abftCheckFinal _ _ => []
  | .drainStart _ => []
  | .drainElement _ => []
  | .tlbWalkComplete _ _ => []
  | .shootdownPage _ _ _ => []
  | .shootdownPartition _ _ => []
  | .shootdownAll _ => []
  | .shootdownAck _ _ => []
  | .migrationCountHalve _ => []
  | .copyStart _ _ => []
  | .copyPiece _ _ => []
  | .routedPieceArrival _ _ => []
  | .copyFinish _ _ => []
  | .timestampProcedure _ => []
  | .linePerformed _ _ => []
  | .pinTokenGrant _ => []
  | .atomValueReturn _ => []
  | .commitBComplete _ => []
  | .barrierArrivalSend _ => []
  | .dieCombinerArrival _ => []
  | .packageCombinerArrival _ => []
  | .barrierReleaseArrival _ => []
  | .memberTokenArrival _ _ => []
  | .episodeTimeout _ => []
  | .grpctlEnable _ _ => []
  | .grpctlDisable _ => []
  | .grpctlRearm _ => []
  | .slotStage _ _ => []
  | .slotPreempt _ => []
  | .slotCancela _ => []
  | .slotCancels _ => []
  | .slotResume _ => []
  | .ttSlotStart _ _ => []
  | .ttSlotEnd _ _ => []
  | .launchRecordPost _ => []
  | .qstepForward _ => []
  | .qstepBackward _ => []
  | .qstepHoldEnd => []
  | .detectorReport _ _ => []
  | .coreretRetreq _ _ => []
  | .migrationPathComplete _ => []
  | .migrationStage _ _ _ => []
  | .laneRetire _ _ => []
  | .laneRetrainComplete _ => []
  | .splitClaim _ => []
  | .splitClaimCheck _ => []
  | .splitWon _ => []
  | .heartbeat _ => []
  | .heartbeatTimeout _ => []
  | .dieLost _ => []
  | .dieResetGo _ => []
  | .dieResetForce _ => []
  | .dieResetQuiet _ => []
  | .qdeadline _ => []
  | .powerGrant _ => []
  | .quiescePoint _ => []
  | .shctlGo => []
  | .shadowLatch _ => []
  | .tansyClassSummary _ => []
  | .tansyLostRecord _ _ => []
  | .incidentTrigger _ _ => []
  | .tansyPostExpiry _ _ => []
  | .tansyResume _ _ => []
  | .stopreq _ => []
  | .debugStop _ => []
  | .run _ => []
  | .step _ => []
  | .dump _ => []
  | .mailboxDoorbell _ _ _ => []
  | .mailboxOheadWrite _ _ _ => []
  | .hello _ _ => []
  | .mailboxLaunch _ _ => []
  | .faultReply _ _ => []
  | .cancel _ _ => []
  | .counterAccess _ _ => []
  | .trigger _ _ => []
  | .powerOnReset => []
  | .bootGo => []
  | .bootVerifyComplete _ => []
  | .bootTimeout _ => []
  | .dieResetRelease _ => []
  | .ptpEventMessage _ _ => []
  | .hostBar2Access _ _ _ _ _ _ => []
  | .registerWrite _ _ _ => []
  | .mmaBLoadEnd _ _ => []
  | .mmaAStreamEnd _ _ => []
  | .applicationCoreAccess _ _ _ _ => []

/-! ### The two tables of words the host's question is asked with. -/

/-- The sequencers in the order of R113. -/
def Seq.all : List Seq := [.k, .l, .c, .s]

/-- The first instruction some sequencer reads from the words, sequencers in the order K, L, C, S, among those in
whose map the major has the asked number of words. -/
def decodeFirst (two : Bool) (w w2 : Word32) : List Seq → Option (Seq × Instr)
  | [] => none
  | q :: qs =>
    if twoWord q (majOf w) == two then
      match decode q w w2 with
      | .ok i => some (q, i)
      | .error _ => decodeFirst two w w2 qs
    else decodeFirst two w w2 qs

/-- The sequencer and instruction of a table word: with 32 bits the maps in which the major is one word come first,
with 64 bits those in which it is two. -/
def decodeAny (nbits w : Nat) : Option (Seq × Instr) :=
  let w1 : Word32 := BitVec.ofNat 32 (w % 2 ^ 32)
  let w2 : Word32 := BitVec.ofNat 32 (w / 2 ^ 32)
  let long := decide (32 < nbits)
  match decodeFirst long w1 w2 Seq.all with
  | some r => some r
  | none => decodeFirst (!long) w1 w2 Seq.all

/-- The instruction the decoder reads from a row's word: bit 0 is the least significant bit of the first word, and
the second word's bits count on from bit 32. A word means different things to different sequencers (R54, R63, R66);
the answer is that of the first sequencer of K, L, C, S that reads it. -/
def decodeTableWord (nbits w : Nat) : Option Instr := (decodeAny nbits w).map Prod.snd

end Sys2Proof
end

