-- ==== Sys2Proof/Machine/Formats.lean ====
section
/-! DEFINITION. Number formats, rounding and conversions: spec/03 R76 to R97. Values are exact: a finite value is a
sign, a natural mantissa and a power of two, and every rounding is one call of `roundF` or `roundInt`. -/

namespace Sys2Proof.Machine

/-- The format flags of FMTERR (R83), as raised by one operation. -/
structure FFlags where
  t2bad : Bool
  satd : Bool
  ovf : Bool
  dz : Bool
  inv : Bool
  sclbad : Bool
  deriving DecidableEq, Repr

/-- No flag. -/
def FFlags.none : FFlags := ⟨false, false, false, false, false, false⟩
/-- Flags of two operations together. -/
def FFlags.or (a b : FFlags) : FFlags :=
  ⟨a.t2bad || b.t2bad, a.satd || b.satd, a.ovf || b.ovf, a.dz || b.dz, a.inv || b.inv, a.sclbad || b.sclbad⟩
/-- INV alone. -/
def FFlags.ofInv (b : Bool) : FFlags := { FFlags.none with inv := b }
/-- SATD alone. -/
def FFlags.ofSatd (b : Bool) : FFlags := { FFlags.none with satd := b }
/-- SCLBAD alone. -/
def FFlags.ofSclbad (b : Bool) : FFlags := { FFlags.none with sclbad := b }

/-- The six bits of FMTERR (R83). -/
def FFlags.bits (f : FFlags) : BitVec 6 :=
  BitVec.ofBool f.sclbad ++ BitVec.ofBool f.inv ++ BitVec.ofBool f.dz ++ BitVec.ofBool f.ovf ++
    BitVec.ofBool f.satd ++ BitVec.ofBool f.t2bad

/-- A value that flags come with. -/
abbrev Flagged (α : Type) := α × FFlags

/-- The value of a format's pattern: NaN, an infinity, or (−1)^neg × m × 2^e; m = 0 is a signed zero. -/
inductive FVal where
  | nan
  | inf (neg : Bool)
  | fin (neg : Bool) (m : Nat) (e : Int)
  deriving DecidableEq, Repr

/-- The width in bits of a format (R164). -/
def fmtWidth : Fmt → Nat
  | .t2 => 2 | .int4 => 4 | .int8 => 8 | .e4m3 => 8 | .e5m2 => 8 | .int16 => 16 | .fp16 => 16 | .bf16 => 16
  | .e8m2 => 16 | .int32 => 32 | .fp32 => 32

/-- Exponent and mantissa widths of a floating-point format (R80). -/
def fmtEM : Fmt → Nat × Nat
  | .e4m3 => (4, 3) | .e5m2 => (5, 2) | .fp16 => (5, 10) | .bf16 => (8, 7)
  | .fp32 | .t2 | .int4 | .int8 | .int16 | .int32 | .e8m2 => (8, 23)

/-- The bias: 2^(exponent width − 1) − 1 (R80). -/
def fmtBias (f : Fmt) : Nat := 2 ^ ((fmtEM f).1 - 1) - 1
/-- The canonical NaN of a format (R81). -/
def canonNaN : Fmt → Nat
  | .e4m3 => 0x7F | .e5m2 => 0x7E | .fp16 => 0x7E00 | .bf16 => 0x7FC0 | .e8m2 => 0x03FC
  | .fp32 | .t2 | .int4 | .int8 | .int16 | .int32 => 0x7FC00000
/-- The exponent of the largest finite value (R80). -/
def emaxOf : Fmt → Nat
  | .e4m3 => 8
  | f => fmtBias f
/-- The mantissa of the largest finite value, with its leading one (R80). -/
def maxMant (f : Fmt) : Nat :=
  match f with
  | .e4m3 => 14
  | _ => 2 ^ ((fmtEM f).2 + 1) - 1
/-- The pattern of the largest finite magnitude (R80). -/
def maxFinPat (f : Fmt) : Nat :=
  match f with
  | .e4m3 => 0x7E
  | _ => (2 ^ (fmtEM f).1 - 1) * 2 ^ (fmtEM f).2 - 1
/-- The pattern of an infinity; E4M3 has none (R80). -/
def infPat (f : Fmt) : Nat := (2 ^ (fmtEM f).1 - 1) * 2 ^ (fmtEM f).2
/-- The sign bit of a format's pattern. -/
def signPat (f : Fmt) (neg : Bool) : Nat := if neg then 2 ^ ((fmtEM f).1 + (fmtEM f).2) else 0

/-- The value of a floating-point pattern (R80). -/
def decodeF (f : Fmt) (x : Nat) : FVal :=
  let (eb, mb) := fmtEM f
  let e := x / 2 ^ mb % 2 ^ eb
  let m := x % 2 ^ mb
  let neg := x / 2 ^ (eb + mb) % 2 == 1
  let bias : Int := fmtBias f
  if f = .e4m3 ∧ e = 15 ∧ m = 7 then .nan
  else if f ≠ .e4m3 ∧ e = 2 ^ eb - 1 then (if m = 0 then .inf neg else .nan)
  else if e = 0 then .fin neg m (1 - bias - mb)
  else .fin neg (2 ^ mb + m) (e - bias - mb)

/-- The integer nearest to ±m / 2^k under a mode, as a magnitude (R85 rint). -/
def rshRound (mode : RMode) (neg : Bool) (m k : Nat) : Nat :=
  let q := m / 2 ^ k
  let r := m % 2 ^ k
  match mode with
  | .rne => if 2 * r > 2 ^ k ∨ (2 * r = 2 ^ k ∧ q % 2 = 1) then q + 1 else q
  | .rtz => q
  | .rdn => if neg ∧ r ≠ 0 then q + 1 else q
  | .rup => if !neg ∧ r ≠ 0 then q + 1 else q
  | .rna => if k ≠ 0 ∧ 2 * r ≥ 2 ^ k then q + 1 else q

/-- m × 2^d rounded to an integer magnitude. -/
def scaleRound (mode : RMode) (neg : Bool) (m : Nat) (d : Int) : Nat :=
  if 0 ≤ d then m * 2 ^ d.toNat else rshRound mode neg m (-d).toNat

/-- An infinite result of a rounding: saturation, then E4M3's lack of an infinity (R86, the two last steps).
`byMode` is the inexact case of the table. -/
def infResult (f : Fmt) (neg sat raised : Bool) : Flagged Nat :=
  if sat then (signPat f neg + maxFinPat f, { FFlags.none with ovf := true })
  else if f = .e4m3 then (canonNaN f, { FFlags.none with ovf := true })
  else (signPat f neg + infPat f, { FFlags.none with ovf := raised })

/-- A finite value beyond the largest finite one (R86, exact false). -/
def overflowF (f : Fmt) (mode : RMode) (sat neg : Bool) : Flagged Nat :=
  let toInf := match mode with
    | .rne => true
    | .rna => true
    | .rtz => false
    | .rdn => neg
    | .rup => !neg
  if toInf then infResult f neg sat true
  else (signPat f neg + maxFinPat f, { FFlags.none with ovf := true })

/-- round(x, fmt, mode) with SAT (R85, R86): the pattern and its flags. -/
def roundF (f : Fmt) (mode : RMode) (sat : Bool) (v : FVal) : Flagged Nat :=
  match v with
  | .nan => (canonNaN f, FFlags.none)
  | .inf neg => infResult f neg sat false
  | .fin neg m e =>
    if m = 0 then (signPat f neg, FFlags.none)
    else
      let mb := (fmtEM f).2
      let emin : Int := 1 - (fmtBias f : Int)
      let ex := max (e + (Nat.log2 m : Int)) emin
      let r := scaleRound mode neg m (e - (ex - mb))
      if ex > emaxOf f ∨ (ex = emaxOf f ∧ r > maxMant f) then overflowF f mode sat neg
      else
        let (r, ex) := if r ≥ 2 ^ (mb + 1) then (r / 2, ex + 1) else (r, ex)
        let p := if r < 2 ^ mb then r else (ex + (fmtBias f : Int)).toNat * 2 ^ mb + (r - 2 ^ mb)
        (signPat f neg + p, FFlags.none)

/-- The signed mantissa of a finite value over a common exponent. -/
def alignInt (neg : Bool) (m : Nat) (e base : Int) : Int :=
  let x : Int := m * 2 ^ (e - base).toNat
  if neg then -x else x

/-- The exact sum of two values, with INV (R81): an exact zero sum of opposite signs is +0, or −0 in RDN. -/
def addF (mode : RMode) (a b : FVal) : FVal × Bool :=
  match a, b with
  | .nan, _ => (.nan, true)
  | _, .nan => (.nan, true)
  | .inf x, .inf y => if x = y then (.inf x, false) else (.nan, true)
  | .inf x, .fin _ _ _ => (.inf x, false)
  | .fin _ _ _, .inf y => (.inf y, false)
  | .fin x m e, .fin y n d =>
    let base := min e d
    let z := alignInt x m e base + alignInt y n d base
    if z = 0 then (.fin (if x = y then x else mode == .rdn) 0 0, false)
    else (.fin (decide (z < 0)) z.natAbs base, false)

/-- The sign of a value changed. -/
def negF : FVal → FVal
  | .nan => .nan
  | .inf n => .inf !n
  | .fin n m e => .fin (!n) m e

/-- The exact product of two values, with INV (R81). -/
def mulF (a b : FVal) : FVal × Bool :=
  match a, b with
  | .nan, _ => (.nan, true)
  | _, .nan => (.nan, true)
  | .inf x, .inf y => (.inf (x != y), false)
  | .inf x, .fin y m _ => if m = 0 then (.nan, true) else (.inf (x != y), false)
  | .fin x m _, .inf y => if m = 0 then (.nan, true) else (.inf (x != y), false)
  | .fin x m e, .fin y n d => (.fin (x != y) (m * n) (e + d), false)

/-- The exact a × b + c, with INV (R81). -/
def fmaF (mode : RMode) (a b c : FVal) : FVal × Bool :=
  let (p, i) := mulF a b
  let (r, j) := addF mode p c
  (r, i || j)

/-- 1 / a to 64 bits and a sticky bit, with the flags of R176. -/
def rcpF (a : FVal) : FVal × FFlags :=
  match a with
  | .nan => (.nan, FFlags.ofInv true)
  | .inf n => (.fin n 0 0, FFlags.none)
  | .fin n m e =>
    if m = 0 then (.inf n, { FFlags.none with dz := true })
    else
      let k := Nat.log2 m + 64
      let q := 2 ^ k / m
      (.fin n (2 * q + if 2 ^ k % m = 0 then 0 else 1) (-(k : Int) - e - 1), FFlags.none)

/-- The integer square root by bits, from bit n − 1 down. -/
def isqrtBits (x : Nat) : Nat → Nat → Nat
  | 0, r => r
  | n + 1, r => isqrtBits x n (if (r + 2 ^ n) * (r + 2 ^ n) ≤ x then r + 2 ^ n else r)

/-- 1 / sqrt(a) to 64 bits and a sticky bit, with the flags of R176. -/
def rsqF (a : FVal) : FVal × FFlags :=
  match a with
  | .nan => (.nan, FFlags.ofInv true)
  | .inf n => if n then (.nan, FFlags.ofInv true) else (.fin false 0 0, FFlags.none)
  | .fin n m e =>
    if m = 0 then (.inf n, { FFlags.none with dz := true })
    else if n then (.nan, FFlags.ofInv true)
    else
      let (m, e) := if e % 2 = 0 then (m, e) else (2 * m, e - 1)
      let k := Nat.log2 m / 2 + 66
      let y := 2 ^ (2 * k) / m
      let q := isqrtBits y 70 0
      (.fin false (2 * q + if q * q * m = 2 ^ (2 * k) then 0 else 1) (-(k : Int) - e / 2 - 1), FFlags.none)

/-- A value as an integer over 2^base, for ordering finite values. -/
def ltFin (x : Bool) (m : Nat) (e : Int) (y : Bool) (n : Nat) (d : Int) : Bool :=
  let base := min e d
  decide (alignInt x m e base < alignInt y n d base)

/-- a < b as values; false with a NaN (R177). -/
def ltF (a b : FVal) : Bool :=
  match a, b with
  | .nan, _ => false
  | _, .nan => false
  | .inf x, .inf y => x && !y
  | .inf x, .fin _ _ _ => x
  | .fin _ _ _, .inf y => !y
  | .fin x m e, .fin y n d => ltFin x m e y n d

/-- Whether a value is a NaN. -/
def FVal.isNaN : FVal → Bool
  | .nan => true
  | .inf _ => false
  | .fin _ _ _ => false

/-- The sign of a value. -/
def FVal.neg : FVal → Bool
  | .nan => false
  | .inf n => n
  | .fin n _ _ => n

/-- a = b as values; false with a NaN, and −0 = +0 (R177). -/
def eqF (a b : FVal) : Bool := !a.isNaN && !b.isNaN && !ltF a b && !ltF b a

/-- Minimum (`mx` false) or maximum of two patterns of a format (R81): the chosen operand unchanged, −0 below +0,
the canonical NaN when both are NaN. -/
def minmaxF (f : Fmt) (mx : Bool) (x y : Nat) : Nat :=
  let a := decodeF f x
  let b := decodeF f y
  if a.isNaN then (if b.isNaN then canonNaN f else y)
  else if b.isNaN then x
  else
    let less := ltF a b || (!ltF b a && a.neg && !b.neg)
    if less == mx then y else x

/-- The two's-complement value of the low n bits (R78). -/
def sextN (n x : Nat) : Int :=
  let y := x % 2 ^ n
  if 2 * y < 2 ^ n then (y : Int) else (y : Int) - 2 ^ n
/-- The low n bits of an integer. -/
def wrapN (n : Nat) (x : Int) : Nat := (x % (2 ^ n : Int)).toNat
/-- The smallest value of a width and signedness. -/
def loOf (signed : Bool) (n : Nat) : Int := if signed then -(2 ^ (n - 1) : Int) else 0
/-- The largest value of a width and signedness. -/
def hiOf (signed : Bool) (n : Nat) : Int := if signed then 2 ^ (n - 1) - 1 else 2 ^ n - 1
/-- sats and satu: clamp to a width and signedness. -/
def clampN (signed : Bool) (n : Nat) (x : Int) : Int := max (loOf signed n) (min (hiOf signed n) x)

/-- round_int (R87) for a signed destination of width n: the low n bits and the flags. -/
def roundInt (n : Nat) (mode : RMode) (sat fromFloat : Bool) (v : FVal) : Flagged Nat :=
  match v with
  | .nan => (0, FFlags.ofInv true)
  | .inf neg => (wrapN n (if neg then loOf true n else hiOf true n), FFlags.ofSatd true)
  | .fin neg m e =>
    let mag : Int := scaleRound mode neg m e
    let y := if neg then -mag else mag
    if loOf true n ≤ y ∧ y ≤ hiOf true n then (wrapN n y, FFlags.none)
    else if sat || fromFloat then (wrapN n (clampN true n y), FFlags.ofSatd true)
    else (wrapN n y, FFlags.none)

/-- Whether a format is a floating-point source for R87. -/
def isFloatFmt : Fmt → Bool
  | .e4m3 => true | .e5m2 => true | .fp16 => true | .bf16 => true | .fp32 => true | .e8m2 => true
  | .t2 => false | .int4 => false | .int8 => false | .int16 => false | .int32 => false

/-- The value of an integer as an exact finite value. -/
def intVal (x : Int) : FVal := .fin (decide (x < 0)) x.natAbs 0

/-- An E8M2 container (R82): NaN when EXP is 0xFF or [15:10] is non-zero. -/
def decodeScale (x : Nat) : FVal :=
  if x / 1024 % 64 ≠ 0 ∨ x / 4 % 256 = 255 then .nan
  else .fin false (4 + x % 4) ((x / 4 % 256 : Nat) - 127 - 2)

/-- The value of an element of any format, with T2BAD or SCLBAD (R79, R82). -/
def readFmt (f : Fmt) (x : Nat) : FVal × FFlags :=
  match f with
  | .t2 =>
    match x % 4 with
    | 0 => (intVal 0, FFlags.none)
    | 1 => (intVal 1, FFlags.none)
    | 3 => (intVal (-1), FFlags.none)
    | _ => (intVal 0, { FFlags.none with t2bad := true })
  | .int4 | .int8 | .int16 | .int32 => (intVal (sextN (fmtWidth f) x), FFlags.none)
  | .e8m2 => let v := decodeScale x; (v, FFlags.ofSclbad v.isNaN)
  | .e4m3 | .e5m2 | .fp16 | .bf16 | .fp32 => (decodeF f x, FFlags.none)

/-- FP32 to E8M2 (R89): the container and its flags. -/
def toScale (mode : RMode) (v : FVal) : Flagged Nat :=
  match v with
  | .nan => (0x03FC, FFlags.ofSclbad true)
  | .inf _ => (0x03FC, FFlags.ofSclbad true)
  | .fin _ m e =>
    let ex := e + (Nat.log2 m : Int)
    if m = 0 ∨ ex < -127 then (0, FFlags.none)
    else
      let r := scaleRound mode false m (e - (ex - 2))
      let (r, ex) := if r ≥ 8 then (r / 2, ex + 1) else (r, ex)
      if ex > 127 then (0x03FB, { FFlags.none with ovf := true })
      else ((ex + 127).toNat * 4 + (r - 4), FFlags.none)

/-- A conversion of R88: the low bits of the destination format and the flags. -/
def convertFmt (src dst : Fmt) (mode : RMode) (sat : Bool) (x : Nat) : Flagged Nat :=
  let (v, fl) := readFmt src x
  let (r, fl2) :=
    if dst.isInt then roundInt (fmtWidth dst) mode sat (isFloatFmt src) v
    else if dst = .e8m2 then toScale mode v
    else roundF dst mode sat v
  (r, fl.or fl2)

/-- One FP operation with one rounding: the pattern and INV or OVF. -/
def finishF (f : Fmt) (mode : RMode) (r : FVal × Bool) : Flagged Nat :=
  let (p, fl) := roundF f mode false r.1
  (p, fl.or (FFlags.ofInv r.2))

/-- Rounded addition of two patterns. -/
def faddP (f : Fmt) (mode : RMode) (x y : Nat) : Flagged Nat :=
  finishF f mode (addF mode (decodeF f x) (decodeF f y))
/-- Rounded subtraction of two patterns. -/
def fsubP (f : Fmt) (mode : RMode) (x y : Nat) : Flagged Nat :=
  finishF f mode (addF mode (decodeF f x) (negF (decodeF f y)))
/-- Rounded multiplication of two patterns. -/
def fmulP (f : Fmt) (mode : RMode) (x y : Nat) : Flagged Nat :=
  finishF f mode (mulF (decodeF f x) (decodeF f y))
/-- Fused multiply-add of three patterns, one rounding. -/
def fmaP (f : Fmt) (mode : RMode) (x y z : Nat) : Flagged Nat :=
  finishF f mode (fmaF mode (decodeF f x) (decodeF f y) (decodeF f z))
/-- Fused multiply-subtract of three patterns, one rounding. -/
def fmsP (f : Fmt) (mode : RMode) (x y z : Nat) : Flagged Nat :=
  finishF f mode (fmaF mode (decodeF f x) (decodeF f y) (negF (decodeF f z)))
/-- Rounded reciprocal (R176). -/
def frcpP (f : Fmt) (mode : RMode) (x : Nat) : Flagged Nat :=
  let (v, fl) := rcpF (decodeF f x)
  let (p, fl2) := roundF f mode false v
  (p, fl.or fl2)
/-- Rounded reciprocal square root (R176). -/
def frsqP (f : Fmt) (mode : RMode) (x : Nat) : Flagged Nat :=
  let (v, fl) := rsqF (decodeF f x)
  let (p, fl2) := roundF f mode false v
  (p, fl.or fl2)
/-- Absolute value or negation: the sign bit alone, except that a NaN gives the canonical NaN and INV (R175). -/
def fsignP (f : Fmt) (flip : Bool) (x : Nat) : Flagged Nat :=
  match decodeF f x with
  | .nan => (canonNaN f, FFlags.ofInv true)
  | v =>
    let mag := x % 2 ^ ((fmtEM f).1 + (fmtEM f).2)
    (mag + signPat f (flip && !v.neg), FFlags.none)

end Sys2Proof.Machine
end

