-- ==== Sys2Proof/Config.lean ====
section
/-! DEFINITION. What the implementation fixes and the spec leaves open: fuses, and the free values, which are opaque
constants: nothing can be proved of what they are (logs 3, 8, 9 and 12). -/

namespace Sys2Proof.Config

/-- The durations the spec leaves open, in rc beyond the shortest the spec allows: the n-th one drawn (log 3). -/
opaque freeDelay : Nat → Nat
/-- The 32-bit values the spec leaves open: the n-th one drawn (log 9). -/
opaque freeWord : Nat → BitVec 32
/-- Which of n equal choices is taken, the k-th drawn (log 3). -/
opaque freePick : Nat → Nat
/-- The choices that recording and counting meet: the n-th one drawn (log 3). -/
opaque freeWatch : Nat → Nat
/-- Whether a die's memory-side cache gives up a line in an rc (R293): of the die, the rc and the line. -/
opaque freeEvict : Nat → Nat → Nat → Bool
/-- The bytes of a save area's section whose layout the spec leaves open: its offset, the items it holds, and the place of
the byte (R331, log 22). -/
opaque saveByte : Nat → List Nat → Nat → BitVec 8
/-- The hash of the ECDSA key of a slot in a die's fuses (R407, log 12). -/
opaque fuseEpub : Fin 2 → Nat → List (BitVec 8)
/-- The hash of the LMS key of a slot in a die's fuses (R407, log 12). -/
opaque fuseLpub : Fin 2 → Nat → List (BitVec 8)
/-- Whether a key slot is revoked in a die's fuses (R406, log 12). -/
opaque fuseRevoked : Fin 2 → Nat → Bool
/-- The minimum of the security version in a die's fuses (R406, log 12). -/
opaque fuseSvn : Fin 2 → Nat

/-- CAPID.CORES: every core present (log 8). -/
def fuseCores : BitVec 16 := 0xFFFF
/-- CAPID.HBM: every stack present (log 8). -/
def fuseHbm : BitVec 4 := 0xF
/-- CAPID.BASALT: the Basalt die in use (log 8). -/
def fuseBasalt : Bool := true

end Sys2Proof.Config
end

