-- ==== Sys2Proof/Machine/State.lean ====
section
/-! DEFINITION. The state of one HX2: two dies of eight cores, their management machinery, the package's shared
machinery and device memory, as plain data; and the state after power-on reset. INVENTORY.md lists every field with its
rule and its reset value. -/

namespace Sys2Proof.Machine

/-- Bytes at addresses, in one canonical form: addresses strictly rising, no entry equal to the byte an unlisted
address reads as, which is 0 (R189 for local store; log 5). -/
abbrev Mem := List Host.Cell

/-- A core of the package, by its global number 0 to 15 (R2). -/
abbrev CoreId := Fin 16
/-- A partition. -/
abbrev PartId := Fin 16

/-! ### One sequencer -/

/-- A hardware loop h0 to h3 (R105). Whether it is active stands in the list `SeqSt.live`. -/
structure LoopSt where
  count : BitVec 32
  lid : BitVec 8
  iter : BitVec 32
  start : BitVec 48
  stop : BitVec 48
  swp : Bool
  deriving DecidableEq, Repr

/-- What arrived at a rendezvous (R29, R113). `atom` names its commit-buffer line, `swpt` the sixteen counters of the
switch table, level by level. -/
inductive ArrKind where
  | commit
  | halt
  | atom (line : Nat) (d : Dest)
  | bar (team : Nat) (status : Bool) (d : Dest)
  | swpt (table : List (BitVec 48))
  deriving DecidableEq, Repr

/-- An arrival at the rendezvous: its tag, P bit, drop mask, the counter after its end test, and the signals it raises
after completion (R29, R56, R111). -/
structure Arrival where
  kind : ArrKind
  tag : BitVec 8
  p : Bool
  drop : BitVec 4
  ring : Ring
  comp : Comp
  deriving DecidableEq, Repr

/-- The clock domains of a core (R98, R371). -/
inductive Dom where
  | control | vector | matrix | copy
  deriving DecidableEq, Repr

/-- When a result in flight is due: at a cycle of a domain, in the rc after a cycle of the control domain (R158), in an rc, or
when the data returns (R130, R155, R169). -/
inductive Due where
  | cycle (d : Dom) (n : Nat)
  | after (n : Nat)
  | rc (n : Nat)
  | onReturn
  deriving DecidableEq, Repr

/-- A result's write to one destination. A vector or mask write holds the bits that take effect; a queue entry is named
by its place in the order of reservations. -/
inductive Wr where
  | sreg (r : Fin 32) (v : Word64)
  | latch (b : Fin 4) (v : VWord)
  | pred (p : Fin 8) (v : Bool)
  | vreg (r : Fin 32) (bits v : VWord)
  | mask (m : Fin 8) (lanes v : BitVec 64)
  | entry (q : Fin 8) (place : Nat) (v : VWord)
  | flags (f : BitVec 6)
  deriving DecidableEq, Repr

/-- A result in flight: its number, when it is due, what it writes, and the second-word signals it completes
(R42, R130, R169). -/
structure Pend where
  id : Nat
  due : Due
  writes : List Wr
  comp : Comp
  deriving DecidableEq, Repr

/-- A line of an I-cache (R115): partition, line address, its 64 bytes, and the size of the page it was translated by, for a
shoot-down (R268). Within a set the lines stand in order of use, the most recent first. -/
structure ICLine where
  part : PartId
  addr : Nat
  data : BitVec 512
  size : Nat
  deriving DecidableEq, Repr

/-- The state of one sequencer. `apc` is the address of its last instruction that arrived at a rendezvous. -/
structure SeqSt where
  pc : BitVec 48
  apc : BitVec 48
  s : Vector Word64 32
  p : Vector Bool 8
  b : Vector VWord 4
  h : Vector LoopSt 4
  live : List (Fin 4)
  arrival : Option Arrival
  pend : List Pend
  stall : Option (Nat × Nat)
  pay : Nat
  fresh : Bool
  deriving DecidableEq, Repr

/-- L's speculation (R119 to R122): its buffered state, the address of the branch, the predicates that the compare before it
still has to write, the instructions issued in it, the deciding predicate and the sense that takes the branch, the prediction,
the two continuations, the branch's ring signals, and the fates to apply at confirmation. -/
structure Spec where
  buf : SeqSt
  br : BitVec 48
  late : List (Fin 8)
  issued : Nat
  guard : Fin 8
  sense : Bool
  predicted : Bool
  target : BitVec 48
  next : BitVec 48
  ring : Ring
  fates : List (Nat × SupplyReq)
  ended : Bool
  deriving DecidableEq, Repr

/-- What a core keeps for its detectors: the places in which bad bits have been found and that nothing has written since (R126,
R351); those of them that instructions have read, with the sequencer and its program counter; the mask-guarded instructions
issued of late, with program counter, rc and the lanes that take effect (R185); and the rc in which a debug stop held the vector,
matrix and drain work, as runs of a first rc and a length (R391). -/
structure Notes where
  bad : List Place
  hit : List (Place × Fin 4 × BitVec 48)
  ops : List (BitVec 48 × Nat × BitVec 64)
  froze : List (Nat × Nat)
  deriving DecidableEq, Repr

/-! ### Queues, banks, tiles, accumulators -/

/-- An entry of a queue register: reserved, or filled with its data (R144). -/
inductive QEnt where
  | reserved
  | filled (v : VWord)
  deriving DecidableEq, Repr

/-- A queue register (R143, R144): the entries popped since dispatch, the entries in order of reservation, and the
entries freed in this rc, which still count as occupied. -/
structure QueueSt where
  popped : Nat
  ents : List QEnt
  freed : Nat
  deriving DecidableEq, Repr

/-- The state of a supply bank (R187). -/
inductive Supply where
  | full | retention | waking | off
  deriving DecidableEq, Repr

/-- An agent whose access is stalled on a wake (R190): a sequencer's head, a tile load that has issued, the drain path, a
command of a copy channel, a released line on its way to a window, a load whose data is to return. -/
inductive Waiter where
  | seqr (k : CoreId) (q : Fin 4)
  | tile (k : CoreId) (t : Fin 8)
  | drain (k : CoreId)
  | channel (k : CoreId) (x : Fin 4) (id : Nat)
  | line (k : CoreId) (id : Nat)
  | load (k : CoreId) (id : Nat)
  deriving DecidableEq, Repr

/-- A supply bank (R186 to R190): state, the two flags, the rc in which its wake ends, whether its wake still waits
for a place (R197), the accesses stalled on it, and whether a move to retention waits for the results numbered below a
bound and for a running drain (R192). -/
structure BankSt where
  state : Supply
  pendOff : Bool
  pendRet : Bool
  wakeEnd : Option Nat
  queued : Bool
  waiters : List Waiter
  moveAfter : Option (Nat × Option Nat)
  deriving DecidableEq, Repr

/-- A private store of S on its way (R156 to R159): when it is performed, its bytes in the order they are written, and the
request of its fate. -/
structure PStore where
  due : Due
  bytes : List (Nat × BitVec 8)
  fate : Option (Nat × SupplyReq)
  deriving DecidableEq, Repr

/-- An accumulator's tag (R208). -/
inductive AccTag where
  | empty | int32 | fp32
  deriving DecidableEq, Repr

/-- An accumulator (R208): elements in row-major order of 32 bits, the checksum row, column and corner, tag, row
count, and the written-since-drain flag. -/
structure AccSt where
  elem : BitVec 196608
  cr : BitVec 3072
  cc : BitVec 2048
  corner : BitVec 32
  tag : AccTag
  rc : Nat
  dirty : Bool
  deriving DecidableEq, Repr

/-- A tile register with its fill and read counts (R205, R210). -/
structure TileSt where
  data : BitVec 131072
  fills : Nat
  reads : Nat
  deriving DecidableEq, Repr

/-- The shape record of a TLDW, with the operands that place its windows (R212, R213). -/
structure ShapeRec where
  base : Nat
  pitch : Nat
  hgt : Nat
  wid : Nat
  oh : Nat
  ow : Nat
  cb : Nat
  kh : Nat
  kw : Nat
  sy : Nat
  sx : Nat
  dy : Nat
  dx : Nat
  pt : Nat
  pl : Nat
  padv : Nat
  pbase : Nat
  row0 : Nat
  col0 : Nat
  deriving DecidableEq, Repr

/-- A tile load that has issued and not finished (R211 to R214): its tile and bytes, its source (the base of a TLD,
or the shape record and row length of a TLDW), the bytes placed so far, the control cycle of its next port cycle, the
last byte read, its fate, the cycle in which the tile is ready, and the second-word signals. -/
structure TileLoad where
  tile : Fin 8
  n : Nat
  base : Nat
  shape : Option (ShapeRec × Nat)
  pos : Nat
  nextCyc : Nat
  lastRead : Option Nat
  fate : Fate
  ready : Nat
  far : Bool
  pc : BitVec 48
  comp : Comp
  deriving DecidableEq, Repr

/-- The stage of an accepted MMA (R215). -/
inductive MmaStage where
  | waitB | loadB | waitA | streamA | streamed | final
  deriving DecidableEq, Repr

/-- An accepted MMA (R215 to R217): its number, operands, entry, the B slot and whether it reuses the B operand, the
stage and the matrix cycle at which the stage ends, its signals, the A and B bytes it has streamed, and its address. -/
structure MmaSt where
  id : Nat
  acc : Fin 4
  z : Bool
  ta : Fin 8
  tb : Fin 8
  m : Nat
  entry : BitVec 32
  slot : Bool
  reuse : Bool
  stage : MmaStage
  at_ : Nat
  comp : Comp
  adata : BitVec 262144
  bdata : BitVec 131072
  pc : BitVec 48
  deriving DecidableEq, Repr

/-- A drain window (R237): base, row stride and length in bytes. -/
structure WinSt where
  base : Nat
  stride : Nat
  len : Nat
  deriving DecidableEq, Repr

/-- A drain that has been started by an MMA or a DRAIN (R219, R227, R239): what was fixed at issue and at start, and
the cursor. -/
structure DrainSt where
  id : Nat
  acc : Fin 4
  prog : Fin 64
  win : Option WinSt
  winNo : Fin 4
  entry : BitVec 32
  scope : Scope
  acq : Bool
  rel : Bool
  comp : Comp
  params : List (Nat × VWord)
  running : Bool
  waiting : Bool
  first : Nat
  rows : Nat
  words : List Word32
  vset : List (Fin 32)
  histH : Nat
  tables : List (Nat × BitVec 2048)
  restart : Bool
  done : Nat
  skip : Nat
  slip : Nat
  qfill : VWord
  qplace : Option Nat
  left : Bool
  held : Option (BitVec 196608)
  finished : Bool
  dirtySince : Bool
  pc : BitVec 48
  deriving DecidableEq, Repr

/-- A run of the drain path in the region in progress: the MMA or DRAIN that started it, what DRAINPOS would name, the rc of its
start and, when it has ended, that of its end (R224, R241, R348). -/
structure DrainRec where
  pc : BitVec 48
  acc : Fin 4
  prog : Fin 64
  winNo : Fin 4
  from_ : Nat
  till : Option Nat
  deriving DecidableEq, Repr

/-- A checksum check under way (R221): the accumulator and what it held when its last element had left the array, the
matrix cycle at which it is final, whether a drain made it, and whether the flag stays set. -/
structure CheckSt where
  acc : Fin 4
  of_ : AccSt
  final : Nat
  byDrain : Bool
  keep : Bool
  prog : Fin 64
  win : Fin 4
  pc : BitVec 48
  deriving DecidableEq, Repr

/-! ### Accesses that leave the core -/

/-- A granule of coherence state (R293): a device line by its number, or a 1 KiB block of a core's window share. -/
inductive Gran where
  | line (n : Nat)
  | win (k : CoreId) (n : Nat)
  deriving DecidableEq, Repr

/-- The coherence state of a granule (R293, R295): WTS, RTS, the core that claims it and whether its run is pinned,
the core that wrote it last, and whether only the management core's rings have touched it. -/
structure GranSt where
  wts : Nat
  rts : Nat
  claim : Option (CoreId × Bool)
  writer : Option CoreId
  ring : Bool
  deriving DecidableEq, Repr

/-- Where an access that leaves the core is performed (R151, R254): bytes of a core's local store reached through the
window, a physical address of HBM, or of the system range. -/
inductive Home where
  | win (k : CoreId)
  | hbm
  | sysr
  deriving DecidableEq, Repr

/-- A pending atomic operation (R304, R305): the operation's code, the byte address, 64-bit or not, its operands,
and whether it returns its old value. -/
structure AtomReq where
  op : Fin 10
  addr : Nat
  dbl : Bool
  b : Word64
  c : Word64
  ret : Bool
  deriving DecidableEq, Repr

/-- A line of the commit buffer (R160). `cur` is true while it belongs to the current region; a released line has its
timestamp, its region's last-written mark for REL, and the earliest rc in which it may be performed. -/
structure CBLine where
  id : Nat
  home : Home
  addr : Nat
  scope : Scope
  mask : BitVec 64
  data : BitVec 512
  rel : Bool
  gen : BitVec 32
  part : PartId
  gang : BitVec 16
  task : BitVec 4
  cur : Bool
  ts : Nat
  atom : Option AtomReq
  vpage : Nat
  nomig : Bool
  pinned : Bool
  at_ : Nat
  tag : BitVec 8
  deriving DecidableEq, Repr

/-- A pair of the read set (R293), with the core whose region set its WTS (R388). -/
structure ReadPair where
  gran : Gran
  wts : Nat
  lease : Nat
  writer : Option CoreId
  deriving DecidableEq, Repr

/-- A piece of a load that leaves the core: its home, address, place in the value and length; the bytes of a piece in
the system range are read at issue (R299). -/
structure Piece where
  home : Home
  addr : Nat
  off : Nat
  len : Nat
  early : Option (List (BitVec 8))
  deriving DecidableEq, Repr

/-- What a device or window load in flight delivers (R154, R157, R293): its result's number, how the bytes become a
value, the pieces it reads, the device lines still to translate (R264), whether it is an acquire, the instruction's address,
the earliest rc of its return, and the address it reads. -/
structure DLoad where
  id : Nat
  seqr : Fin 4
  scope : Scope
  sz : Option Sz
  q : Option (Fin 8 × Nat)
  dest : Option Dest
  pieces : List Piece
  todo : List (Nat × Nat)
  acq : Bool
  pc : BitVec 48
  at_ : Nat
  va : Nat
  deriving DecidableEq, Repr

/-- L halted on a translation fault (R264): the faulting address, the instruction's address, and the load whose line it
is when the instruction has issued. -/
structure HaltSt where
  va : Nat
  pc : BitVec 48
  load : Option Nat
  deriving DecidableEq, Repr

/-- A TLB entry (R259). -/
structure TlbEnt where
  part : PartId
  vbase : Nat
  size : Nat
  pbase : Nat
  r : Bool
  w : Bool
  x : Bool
  nomig : Bool
  deriving DecidableEq, Repr

/-- The kinds of translated access (R257). -/
inductive AccKind where
  | fetch | load | store | atomic
  deriving DecidableEq, Repr

/-- A failed translation (R262, R263): 0 not valid, 1 permission, 2 table invalid; and the level. -/
structure XFault where
  kind : Nat
  level : Nat
  deriving DecidableEq, Repr

/-- A task's identity (R21): partition, gang number, task index. -/
structure TaskKey where
  part : PartId
  gang : BitVec 16
  idx : BitVec 4
  deriving DecidableEq, Repr

/-- A page walk (R259, R260): its number, the access it is for, for the control TLB or for a channel's stream TLB; whether it is a
prefetch, whether a fault is to be remembered for the access that waits; whether L's speculation asked for it (R121); the rc in
which it ends once started; and the lines that PREFs will ask for then, with the tasks that issued them (R261, R271). -/
structure Walk where
  id : Nat
  vpage : Nat
  part : PartId
  kind : AccKind
  scope : Scope
  stream : Option (Fin 4)
  prefetch : Bool
  want : Bool
  spec : Bool
  started : Bool
  at_ : Nat
  lines : List (Nat × TaskKey)
  deriving DecidableEq, Repr

/-- A PREF's request for a line at its home on the other die, which Feldspar holds (R271, R362, R372): the partition, the
physical address of the line, and NOMIG. -/
structure PrefReq where
  part : PartId
  pa : Nat
  nomig : Bool
  deriving DecidableEq, Repr

/-- The fault of a walk that an access waits for. -/
structure XRes where
  vpage : Nat
  part : PartId
  kind : AccKind
  scope : Scope
  stream : Option (Fin 4)
  prefetch : Bool
  spec : Bool
  fault : XFault
  deriving DecidableEq, Repr

/-- An I-cache fill (R115, R118): the target stream, partition and line, its physical address once translated, the rc in
which it ends, the PREFI that named it, and the size of its page. -/
structure Fill where
  tgt : Fin 4
  part : PartId
  line : Nat
  pa : Option Nat
  at_ : Nat
  prefi : Option Nat
  size : Nat
  deriving DecidableEq, Repr

/-- The context's fault record (R266). -/
structure FaultRec where
  va : BitVec 64
  detail : BitVec 32
  gen : BitVec 32
  outst : Bool
  replied : Bool
  verdict : Bool
  deriving DecidableEq, Repr

/-! ### Copies and launches -/

/-- Where a copy command stands (R283). -/
inductive CopyPhase where
  | queued | acquire | moving | flying | releasing | reporting
  deriving DecidableEq, Repr

/-- A copy command (R274, R275, R280 to R285). `route` is where its route ejects, with the crossings of Feldspar, as read at
issue (R278); `keep` holds the translations that a shoot-down took while it ran (R269); `pts` is its issuer's time once the
task has left the core (R302); `stopAt` is the cause, detail and address of a failure that waits for pieces under way; `old`
marks one that had started when a die reset began, and runs on (R366). -/
structure CopyCmd where
  id : Nat
  regs : Vector Word64 4
  routed : Bool
  scope : Scope
  acq : Bool
  rel : Bool
  gen : BitVec 32
  part : PartId
  gang : BitVec 16
  task : BitVec 4
  cur : Bool
  deferred : Bool
  phase : CopyPhase
  cursor : Nat
  rte : BitVec 32
  floor : Nat
  at_ : Nat
  retries : Nat
  failed : Bool
  route : Option (CoreId × Nat)
  keep : List TlbEnt
  pts : Option Nat
  stopAt : Option (Nat × Nat × Nat)
  old : Bool
  deriving DecidableEq, Repr

/-- A routed piece on its way (R283): issuing core, channel and command, target core, local address, bytes, and arrival
rc. -/
structure Routed where
  src : CoreId
  chan : Fin 4
  cmd : Nat
  dst : CoreId
  addr : Nat
  bytes : List (BitVec 8)
  last : Bool
  at_ : Nat
  deriving DecidableEq, Repr

/-- A launch record (R327) with its partition. -/
structure LaunchRec where
  part : PartId
  gsize : Nat
  tag : BitVec 16
  image : BitVec 64
  save : BitVec 64
  regs : BitVec 64
  deriving DecidableEq, Repr

/-- An entry of the launch buffer (R328); `home` is the die whose HBM holds the record it was read from. -/
structure LaunchEnt where
  id : Nat
  rec_ : LaunchRec
  home : Fin 2
  gang : BitVec 16
  task : BitVec 4
  gen : BitVec 32
  cur : Bool
  deriving DecidableEq, Repr

/-! ### Tasks -/

/-- A bind record (R313). `bad` is set when a reserved byte was non-zero; `table` when a table launch wrote it. -/
structure Bind where
  kind : Nat
  part : Nat
  gang : BitVec 16
  task : Nat
  gsize : Nat
  share : Nat
  qwpart : Nat
  rgnlimit : Nat
  retry : Nat
  tag : BitVec 16
  image : BitVec 64
  save : BitVec 64
  regs : BitVec 64
  bad : Bool
  table : Bool
  deriving DecidableEq, Repr

/-- What is done when a save has written its last byte (R22, R317). -/
inductive TaskPhase where
  | loading (at_ : Nat)
  | running
  | held
  | saving (at_ depth : Nat)
  | migrating (at_ : Nat)
  deriving DecidableEq, Repr

/-- The active context's identity and phase (R22, R313, R320). `cancelled` is a CANCELA or a cancel after dispatch
awaiting its rendezvous (R329), with its status code. -/
structure TaskSt where
  part : PartId
  gang : BitVec 16
  idx : BitVec 4
  gsize : Nat
  tag : BitVec 16
  image : BitVec 64
  save : BitVec 64
  regs : BitVec 64
  table : Bool
  phase : TaskPhase
  cancelled : Option (BitVec 8)
  cause : BitVec 8
  stamp : Nat
  deriving DecidableEq, Repr

/-- The cut (R31). `zero` marks cut 0, whose tag a report marks as unknown (R34). -/
structure Cut where
  pcs : Vector (BitVec 48) 4
  loops : Vector (Vector LoopSt 4) 4
  lives : Vector (List (Fin 4)) 4
  tag : BitVec 8
  gen : BitVec 32
  eng : Vector (BitVec 32) 8
  p : Bool
  deriving DecidableEq, Repr

/-- The barrier wait between commit A and commit B (R340, R344). -/
structure BarWait where
  team : Nat
  epoch : BitVec 16
  status : Bool
  d : Dest
  sent : Bool
  released : Option (Nat × Nat)
  relEpoch : BitVec 16
  deriving DecidableEq, Repr

/-- The atomic's wait between commit A and commit B (R306): its destination, the core and generation that buffered it,
the value with the rc in which it reaches the core, the line, and whether its home is over Feldspar. -/
structure AtomWait where
  d : Dest
  core : CoreId
  gen : BitVec 32
  returned : Option (Word64 × Nat)
  line : Nat
  far : Bool
  deriving DecidableEq, Repr

/-- What K or S waits for between commit A and commit B, the rc in which commit B completes once the value or release
is in, whether that is at once (R344), the adopted P, the instruction's address, and the signals to raise (R306, R340). -/
structure Mid where
  seqr : Fin 4
  pc : BitVec 48
  wait : Sum AtomWait BarWait
  doneAt : Option Nat
  atOnce : Bool
  p : Bool
  ring : Ring
  comp : Comp
  deriving DecidableEq, Repr

/-- A finished task whose released work still runs (R112), with what re-issues it should its die be lost (R364). -/
structure Finishing where
  part : PartId
  gang : BitVec 16
  idx : BitVec 4
  tag : BitVec 16
  gen : BitVec 32
  table : Bool
  gsize : Nat
  image : BitVec 64
  save : BitVec 64
  regs : BitVec 64
  deriving DecidableEq, Repr

/-- The timestamp procedure of a region (R295): not started, claiming the granules still to claim, waiting to
validate, or done with its timestamp. -/
inductive TsProc where
  | idle
  | claiming (rest : List Gran)
  | done (ts : Nat)
  deriving DecidableEq, Repr

/-- A lost-time class of a unit (R379) and how many rc of the class window it held. -/
structure UnitCls where
  cls : Nat
  counts : List (Nat × Nat)
  deriving DecidableEq, Repr

/-- A debug stop (R390, R391, R393): running; asked for by a sequencer; due in the next rc, its boundary reached;
stopped; stepping, its instruction still to issue or issued; or with a step that cannot issue. -/
inductive DbgSt where
  | running
  | pending (q : Fin 4)
  | due (q : Fin 4)
  | stopped (q : Fin 4)
  | stepping (issued : Bool)
  | blocked
  deriving DecidableEq, Repr

/-- What stood in a core's current region when a step began, which the step's commit does not touch (R393): the first number of the
step's own lines, copies and launch records, and the read set. -/
structure StepBase where
  from_ : Nat
  reads : List ReadPair
  deriving DecidableEq, Repr

/-- A clock domain (R371, R372): the divisor in force, the rc of its next edge, and its cycle count. -/
structure ClkSt where
  div : Nat
  next : Nat
  cyc : Nat
  edge : Bool
  deriving DecidableEq, Repr

/-- The state of one core. -/
structure Core where
  seqs : Vector SeqSt 4
  spec : Option Spec
  ic : Vector (Vector (List ICLine) 64) 4
  fills : List Fill
  tok : Vector Nat 8
  tok0 : Vector Nat 8
  waited : Vector Bool 8
  signalled : Vector Bool 8
  assume : Vector Bool 8
  offered : List (Fin 8)
  raise : List (Fin 8)
  detected : List (Nat × Fin 4)
  q : Vector QueueSt 8
  v : Vector VWord 32
  m : Vector (BitVec 64) 8
  nextId : Nat
  seqid : BitVec 32
  gen : BitVec 32
  rgnmax : BitVec 24
  rgncnt : BitVec 24
  retrylim : BitVec 4
  retrycnt : BitVec 4
  cohcnt : Nat
  pinned : Bool
  share : BitVec 5
  qwpart : BitVec 4
  clkdiv : BitVec 32
  clkpend : Bool
  level : BitVec 2
  src : BitVec 2
  grant : Option (BitVec 2 × BitVec 2)
  clocks : Vector ClkSt 4
  vl : BitVec 7
  abfttol : BitVec 16
  histp : BitVec 9
  fmterr : BitVec 6
  fmtpend : BitVec 6
  tshape : Vector (BitVec 32) 8
  fmt : Vector (BitVec 32) 16
  drainpos : BitVec 64
  mem : Mem
  /-- The bytes of local store written since the rc began, newest first, as they stood before (R286). -/
  oldBytes : List (Nat × BitVec 8)
  stores : List PStore
  banks : List (Nat × BankSt)
  breqs : List (Nat × SupplyReq)
  wakeq : List Nat
  /-- Banks that a commit of this rc sends off at its end (R195). -/
  goOff : List Nat
  tiles : Vector TileSt 8
  tloads : List TileLoad
  portFree : Nat
  acc : Vector AccSt 4
  mmas : List MmaSt
  slots : Vector (BitVec 131072) 2
  lastB : Option (Fin 8 × BitVec 4 × BitVec 2 × Bool)
  checks : List CheckSt
  drains : List DrainSt
  wins : Vector (Option WinSt) 4
  dmem : Vector Word32 1024
  chans : Vector (List CopyCmd) 4
  rte : Vector (BitVec 32) 32
  /-- Route entries in use (R315). -/
  nrte : Nat
  cb : List CBLine
  loads : List DLoad
  lbuf : List LaunchEnt
  tlb : List TlbEnt
  stlb : Vector (List TlbEnt) 4
  walks : List Walk
  prefs : List PrefReq
  xres : List XRes
  faultno : BitVec 16
  halted : Option HaltSt
  frec : FaultRec
  touched : BitVec 2
  /-- The pages, by base and size, whose translations the region in progress has used (R269). -/
  used : List (Nat × Nat)
  pts : Nat
  reads : List ReadPair
  ts : TsProc
  cut : Cut
  eng : Vector (BitVec 32) 8
  /-- The rc of the region's last result: of the sequencers K, L and S and their loads, and of the vector and matrix engines and the
  drain path, whose error windows a debug stop suspends (R29, R391). -/
  lastResult : Nat
  lastVec : Nat
  ready : Bool
  mid : Option Mid
  members : List (Nat × Fin 16)
  task : Option TaskSt
  staged : Option Bind
  preempt : Option Nat
  preAt : Nat
  cancelAt : Nat
  retired : Bool
  failed : Bool
  finishing : List Finishing
  cntcfg : Vector (BitVec 32) 8
  cntval : Vector (BitVec 64) 8
  cntshd : Vector (BitVec 64) 8
  cntalloc : BitVec 32
  cntpart : Option PartId
  ovfs : List (Fin 8)
  /-- The counters whose value has been written in this rc, in place of the rc's count (R384). -/
  cntset : List (Fin 8)
  dbgctl : BitVec 32
  dbgbp : Vector (BitVec 64) 4
  stepOff : Bool
  dbg : DbgSt
  stopped : Bool
  stepBase : Option StepBase
  /-- The units that have performed work in this rc (R379). -/
  worked : List (Fin 12)
  /-- The sequencer that a step has tried in this rc (R379, R393). -/
  tried : Option (Fin 4)
  /-- Whether L's speculation was confirmed in this rc (R122, R379). -/
  confirmed : Bool
  rolled : Bool
  /-- Whether the task has issued its first instruction since its context was set up (R317). -/
  begun : Bool
  units : Vector UnitCls 12
  /-- Places of the region's storage parity reports, each with the run it was reported in and the rc of the report (R351). -/
  parity : List (Place × Nat × Nat)
  notes : Notes
  report : Option (List (BitVec 8))
  /-- The reports of the traps of this rc, posted at its end unless a detected error of the rc takes their place (R35). -/
  trapped : List (List (BitVec 8))
  /-- The tag, with TAGCUT, that the reports of the region rolled back last carried (R34). -/
  lastTag : Nat × Bool
  /-- The runs of the drain path in the region in progress, and those of the region that a rollback of this rc has ended (R354). -/
  ran : List DrainRec
  lastRan : List DrainRec
  /-- The address of the last MMA accepted into each accumulator (R348). -/
  accPc : Vector (BitVec 48) 4
  deriving DecidableEq, Repr

/-! ### Dies and the package -/

/-- A migration counter of a memory-side cache (R270). -/
structure MigCnt where
  part : PartId
  page : Nat
  core : CoreId
  count : Nat
  deriving DecidableEq, Repr

/-- A stamp of an event message (R405): the message, where the stamp goes, and the Quartz time. -/
structure PtpStamp where
  msg : Nat
  place : PtpPlace
  at_ : Nat
  deriving DecidableEq, Repr

/-- The state of a die's management machinery. Registers are held whole, with the layout of their maps; `linkuse` is LINKRET as
the route checks of the rc see it (R410). -/
structure Die where
  ptroot : Vector (BitVec 64) 16
  sdcmd : BitVec 64
  sdstat : BitVec 32
  migthresh : BitVec 32
  migcnt : List MigCnt
  migcand : List MigCnt
  linkret : BitVec 32
  linkuse : BitVec 32
  cohctl : BitVec 32
  evict : Nat
  partcfg : Vector (BitVec 64) 16
  partlim : Vector (BitVec 64) 16
  allot : Vector (BitVec 64) 128
  partstat : Vector (BitVec 64) 16
  ttctl : BitVec 64
  ttstat : BitVec 32
  ttrun : Bool
  tteA : Vector (BitVec 64) 256
  tteB : Vector (BitVec 64) 256
  ttgangs : List (PartId × BitVec 16 × BitVec 16 × Nat)
  slotEnds : List (Nat × Nat)
  launchq : Vector (List (Sum LaunchRec Bind)) 16
  mirrors : List (Nat × LaunchRec)
  elogcfg : Vector (BitVec 64) 16
  elogseq : Vector (BitVec 32) 16
  flstat : BitVec 32
  retrain : Option Nat
  rstctl : BitVec 64
  rstphase : Nat
  rstQdl : Nat
  hbSent : Nat
  hbSeen : Nat
  claimAt : Option Nat
  pinLow : Bool
  claimedAt : Option Nat
  pwrcap : BitVec 32
  tahold : Nat
  census : List (CoreId × Nat × Nat)
  cntbase : Vector (BitVec 64) 16
  shlat : BitVec 64
  sharmed : Bool
  tncfg : Vector (BitVec 64) 16
  tntrig : Vector (BitVec 32) 16
  tnstat : Vector (BitVec 64) 16
  tnpos : Vector (BitVec 64) 16
  tnfreeze : Vector (Option Nat) 16
  tnroom : Vector Nat 16
  dbgperm : BitVec 32
  mbcfg : Vector (BitVec 64) 16
  mbptr : Vector (BitVec 64) 16
  mbver : Vector (BitVec 8) 16
  mbout : Vector (List (List (BitVec 8))) 16
  msix : Vector Nat 16
  /-- The interrupts that the firmware has not taken: kind, number, and Quartz time. -/
  irqs : List (Nat × Nat × Nat)
  bootstat : BitVec 32
  bootwin : Mem
  bootDue : Option Nat
  ptp : List PtpStamp
  permits : List MReg
  lost : Bool
  deriving DecidableEq, Repr

/-- A member register of the group table (R334). -/
structure Member where
  v : Bool
  state : Nat
  arr : Bool
  core : CoreId
  task : BitVec 4
  gang : BitVec 16
  deriving DecidableEq, Repr

/-- An entry of the group table (R334): GRPCTL, the member registers, and the open episode's largest PTS, and its
timeout count in ns and when it was last advanced. -/
structure Team where
  en : Bool
  broken : Bool
  part : BitVec 4
  epoch : BitVec 16
  timeout : BitVec 20
  count : BitVec 5
  mem : Vector Member 16
  maxPts : Nat
  tcount : Nat
  tlast : Option Nat
  deriving DecidableEq, Repr

/-- A member's arrival: its rank, core and identity. -/
structure Arriver where
  rank : Nat
  core : CoreId
  key : TaskKey
  deriving DecidableEq, Repr

/-- A message between cores, die combiners and the package combiner (R337, R341): an arrival on its way to its die
combiner, the arrivals a die combiner sends up, a release on its way to a core, and a member's token. -/
inductive Msg where
  | arrival (who : Arriver) (team : Nat) (epoch : BitVec 16) (pts : Nat)
  | combined (die : Fin 2) (team : Nat) (epoch : BitVec 16) (pts : Nat) (mem : List Arriver)
  | release (core : CoreId) (key : TaskKey) (team : Nat) (epoch : BitVec 16) (status t : Nat)
  | token (core : CoreId) (key : TaskKey) (ev : Nat)
  deriving DecidableEq, Repr

/-- The arrivals a die combiner has gathered for a team's episode (R341). -/
structure DieComb where
  die : Fin 2
  team : Nat
  epoch : BitVec 16
  mem : List Arriver
  pts : Nat
  sent : Bool
  deriving DecidableEq, Repr

/-- A saved or migrating context (R330, R331), kept whole beside the bytes its save area holds (log 22): its depth, 1 or
2, or 0 for a last node record whose task runs on or is final (R364), and the core it left. -/
structure Saved where
  part : PartId
  gang : BitVec 16
  idx : BitVec 4
  gsize : Nat
  tag : BitVec 16
  save : BitVec 64
  image : BitVec 64
  regs : BitVec 64
  depth : Nat
  table : Bool
  migrating : Bool
  core : CoreId
  ctx : Core
  deriving DecidableEq, Repr

/-- The pin token of a partition (R298): its holder and the cores that wait for it, each with the rc of its request, in order
of arrival and, within an rc, of core. -/
structure Pin where
  part : PartId
  holder : Option CoreId
  queue : List (Nat × CoreId)
  deriving DecidableEq, Repr

/-- A shoot-down on its way to a core (R267, R268): the commanding die, the command, and the rc of its
acknowledgement. -/
structure Shoot where
  die : Fin 2
  core : CoreId
  cmd : BitVec 64
  at_ : Nat
  deriving DecidableEq, Repr

/-- The work of a core issued before its acknowledgement, which DRAINED of a die waits for (R269): released lines,
started copies and loads numbered below a bound. -/
structure SdWait where
  die : Fin 2
  core : CoreId
  bound : Nat
  deriving DecidableEq, Repr

/-- A dump (R394): the core and its context, with its header, cut, registers, banks and records; what the current region had
pending, listed as not visible; the loaded counters of the task's partition; the partition's device memory as of its last
completed commit; and whether the debug port may take it beside the firmware (R390). -/
structure Dump where
  core : CoreId
  ctx : Core
  lines : List CBLine
  copies : List CopyCmd
  launches : List LaunchEnt
  counters : List (Fin 8 × BitVec 32 × BitVec 64)
  view : Mem
  port : Bool
  deriving DecidableEq, Repr

/-- What the model does next within an rc: one issue attempt of a sequencer, the taking of the execution-model causes
a core detected in the rc (R35), or one step of an engine (log 1). -/
inductive Action where
  | issue (k : CoreId) (q : Seq)
  | settle (k : CoreId)
  | ev (i : Instr)
  deriving DecidableEq, Repr

/-- The state of the package. -/
structure State where
  rc : Nat
  phase : Nat
  agenda : List Action
  inputs : List (Nat × Instr)
  curCore : CoreId
  curSeq : Seq
  free : Nat
  /-- The free choices that recording and counting have drawn: kept apart, so that they change no value (R20). -/
  watch : Nat
  cores : Vector Core 16
  dies : Vector Die 2
  mem : Mem
  poison : List Nat
  grans : List (Gran × GranSt)
  pins : List Pin
  shoots : List Shoot
  sdwait : List SdWait
  routed : List Routed
  teams : List (Nat × Team)
  combs : List DieComb
  msgs : List (Nat × Msg)
  atomrecs : List (CoreId × PartId × BitVec 32 × Word64)
  /-- Untimed writes within one HBM line each that wait at their home for a claim to be released (R295, R299): the address, the
  bytes, and whether a ring of the management core is written. -/
  heldw : List (Nat × List (BitVec 8) × Bool)
  saved : List Saved
  /-- The launch records of the gangs launched, each with the dies whose HBM holds it: both for one that the mailboxes have
  mirrored (R364, R400). -/
  launchMem : List (LaunchRec × List (Fin 2))
  qns : Nat
  qhold : Nat
  qlast : Nat
  slew : Int
  qfrac : Nat
  qstep : BitVec 64
  ptpPort : Option (Fin 2)
  shtime : BitVec 64
  shctl : BitVec 32
  dump : List Dump
  bar2 : List (BitVec 8)
  deriving DecidableEq, Repr

/-- Why the machine would stop with no next state. The spec gives every trap, error and access to an absent address
an effect (R13: none is left without a stated effect), so no meaning raises one: the type has no constructor. -/
inductive Fault where
  deriving DecidableEq, Repr

/-- Why a meaning would be refused. -/
inductive Refusal where
  /-- An arm of the dispatch that has no meaning yet: raised by `exec` alone; safe, since the machine stops. -/
  | notModelled (mnemonic : String)
  deriving DecidableEq, Repr

/-! ### The state after power-on reset -/

/-- A hardware loop at reset (R108). -/
def LoopSt.reset : LoopSt := ⟨0, 0, 0, 0, 0, false⟩
/-- A sequencer at cut 0, but for its program counter and bind-record registers (R23, R125). -/
def SeqSt.reset : SeqSt :=
  ⟨0, 0, Vector.replicate 32 0, Vector.replicate 8 false, Vector.replicate 4 0, Vector.replicate 4 LoopSt.reset, [],
    none, [], none, 0, false⟩
/-- An empty queue (R148). -/
def QueueSt.reset : QueueSt := ⟨0, [], 0⟩
/-- A full bank with clear flags (R188, R189). -/
def BankSt.reset : BankSt := ⟨.full, false, false, none, false, [], none⟩
/-- A zero, empty accumulator (R209). -/
def AccSt.reset : AccSt := ⟨0, 0, 0, 0, .empty, 0, false⟩
/-- A zero tile (R207). -/
def TileSt.reset : TileSt := ⟨0, 0, 0⟩
/-- A fault record of zeros (R266). -/
def FaultRec.reset : FaultRec := ⟨0, 0, 0, false, false, false⟩
/-- The cut of an empty core (R23). -/
def Cut.reset : Cut :=
  ⟨Vector.replicate 4 0, Vector.replicate 4 (Vector.replicate 4 LoopSt.reset), Vector.replicate 4 [], 0, 0,
    Vector.replicate 8 0, false⟩
/-- A clock domain with a divisor (R371). -/
def ClkSt.reset (d : Nat) : ClkSt := ⟨d, 0, 0, false⟩

/-- A core after power-on reset: free, every register at its map's reset value (log 7 where a map gives none). The
matrix domain runs at divisor 2, the floor of level 2 (R371, R374). -/
def Core.reset : Core where
  seqs := Vector.replicate 4 SeqSt.reset
  spec := none
  ic := Vector.replicate 4 (Vector.replicate 64 [])
  fills := []
  tok := Vector.replicate 8 0
  tok0 := Vector.replicate 8 0
  waited := Vector.replicate 8 false
  signalled := Vector.replicate 8 false
  assume := Vector.replicate 8 false
  offered := []
  raise := []
  detected := []
  q := Vector.replicate 8 QueueSt.reset
  v := Vector.replicate 32 0
  m := Vector.replicate 8 0
  nextId := 0
  seqid := 0
  gen := 0
  rgnmax := 0x010000
  rgncnt := 0
  retrylim := 3
  retrycnt := 0
  cohcnt := 0
  pinned := false
  share := 0
  qwpart := 0
  clkdiv := 0
  clkpend := false
  level := 2
  src := 0
  grant := none
  clocks := #v[ClkSt.reset 1, ClkSt.reset 1, ClkSt.reset 2, ClkSt.reset 1]
  vl := 0x40
  abfttol := 0x0100
  histp := 0x100
  fmterr := 0
  fmtpend := 0
  tshape := Vector.replicate 8 0x002401C0
  fmt := Vector.replicate 16 0x00002402
  drainpos := 0
  mem := []
  oldBytes := []
  stores := []
  banks := []
  breqs := []
  wakeq := []
  goOff := []
  tiles := Vector.replicate 8 TileSt.reset
  tloads := []
  portFree := 0
  acc := Vector.replicate 4 AccSt.reset
  mmas := []
  slots := Vector.replicate 2 0
  lastB := none
  checks := []
  drains := []
  wins := Vector.replicate 4 none
  dmem := Vector.replicate 1024 0x88000000
  chans := Vector.replicate 4 []
  rte := Vector.replicate 32 0
  nrte := 0
  cb := []
  loads := []
  lbuf := []
  tlb := []
  stlb := Vector.replicate 4 []
  walks := []
  prefs := []
  xres := []
  faultno := 0
  halted := none
  frec := FaultRec.reset
  touched := 0
  used := []
  pts := 0
  reads := []
  ts := .idle
  cut := Cut.reset
  eng := Vector.replicate 8 0
  lastResult := 0
  lastVec := 0
  ready := false
  mid := none
  members := []
  task := none
  staged := none
  preempt := none
  preAt := 0
  cancelAt := 0
  retired := false
  failed := false
  finishing := []
  cntcfg := Vector.replicate 8 0x1F000000
  cntval := Vector.replicate 8 0
  cntshd := Vector.replicate 8 0xF800000000000000
  cntalloc := 0
  cntpart := none
  ovfs := []
  cntset := []
  dbgctl := 0
  dbgbp := Vector.replicate 4 0
  stepOff := false
  dbg := .running
  stopped := false
  stepBase := none
  worked := []
  tried := none
  confirmed := false
  rolled := false
  begun := false
  units := Vector.replicate 12 ⟨1, []⟩
  parity := []
  notes := ⟨[], [], [], []⟩
  report := none
  trapped := []
  lastTag := (0, false)
  ran := []
  lastRan := []
  accPc := Vector.replicate 4 0

/-- CAPID (R401), a read-only register made of the fuses and the versions. -/
def capid : BitVec 64 :=
  0x01010101#32 ++ 0x11#8 ++ Config.fuseHbm ++ BitVec.ofBool Config.fuseBasalt ++ 0#3 ++ Config.fuseCores

/-- A die after power-on reset: every register at its map's reset value. -/
def Die.reset : Die where
  ptroot := Vector.replicate 16 0
  sdcmd := 0
  sdstat := 0
  migthresh := 0x00010400
  migcnt := []
  migcand := []
  linkret := 0
  linkuse := 0
  cohctl := 0x40
  evict := 0
  partcfg := Vector.replicate 16 0x0000000000104104
  partlim := Vector.replicate 16 0x0000000003010000
  allot := Vector.replicate 128 0
  partstat := Vector.replicate 16 0
  ttctl := 0x000F424000000000
  ttstat := 0
  ttrun := false
  tteA := Vector.replicate 256 0
  tteB := Vector.replicate 256 0
  ttgangs := []
  slotEnds := []
  launchq := Vector.replicate 16 []
  mirrors := []
  elogcfg := Vector.replicate 16 0
  elogseq := Vector.replicate 16 0
  flstat := 0x000000FF
  retrain := none
  rstctl := 0x3E8
  rstphase := 0
  rstQdl := 0
  hbSent := 0
  hbSeen := 0
  claimAt := none
  pinLow := false
  claimedAt := none
  pwrcap := 0x00003302
  tahold := 0
  census := []
  cntbase := Vector.replicate 16 0
  shlat := 0
  sharmed := false
  tncfg := Vector.replicate 16 0x0020000000000000
  tntrig := Vector.replicate 16 0x00000006
  tnstat := Vector.replicate 16 0
  tnpos := Vector.replicate 16 0
  tnfreeze := Vector.replicate 16 none
  tnroom := Vector.replicate 16 0
  dbgperm := 0
  mbcfg := Vector.replicate 16 0
  mbptr := Vector.replicate 16 0
  mbver := Vector.replicate 16 1
  mbout := Vector.replicate 16 []
  msix := Vector.replicate 16 0
  irqs := []
  bootstat := 0x10000000
  bootwin := []
  bootDue := none
  ptp := []
  permits := []
  lost := false

/-- A team entry at reset (R334). -/
def Team.reset : Team :=
  ⟨false, false, 0, 0, 0, 0, Vector.replicate 16 ⟨false, 0, false, 0, 0, 0⟩, 0, 0, none⟩

/-- The package right after power-on reset: no core runs a task, no rc has passed, nothing has arrived from
outside. -/
def State.reset : State where
  rc := 0
  phase := 0
  agenda := []
  inputs := []
  curCore := 0
  curSeq := .k
  free := 0
  watch := 0
  cores := Vector.replicate 16 Core.reset
  dies := Vector.replicate 2 Die.reset
  mem := []
  poison := []
  grans := []
  pins := []
  shoots := []
  sdwait := []
  routed := []
  teams := []
  combs := []
  msgs := []
  atomrecs := []
  heldw := []
  saved := []
  launchMem := []
  qns := 0
  qhold := 0
  qlast := 0
  slew := 0
  qfrac := 0
  qstep := 0
  ptpPort := none
  shtime := 0
  shctl := 0
  dump := []
  bar2 := []

end Sys2Proof.Machine
end

