-- ==== Sys2Proof/Machine/Ops.lean ====
section
/-! DEFINITION. The named operations over memory and registers, the reports of errors and traps, the rollback, and
taking a trap (R32 to R36, R355 to R357) with the resume beside it (R22, R316). -/

namespace Sys2Proof.Machine

/-! ### Bytes in canonical form -/

/-- Whether every address from `lo` on rises strictly and no byte is the unlisted 0. -/
def Mem.wfFrom : Nat → Mem → Bool
  | _, [] => true
  | lo, (a, b) :: m => decide (lo ≤ a) && b != 0 && Mem.wfFrom (a + 1) m

/-- The canonical form of a memory. -/
def Mem.wf (m : Mem) : Bool := Mem.wfFrom 0 m

/-- The byte at an address; an unlisted address reads as 0 (log 5). -/
def Mem.read : Mem → Nat → BitVec 8
  | [], _ => 0
  | (a, b) :: m, x => if a = x then b else if x < a then 0 else Mem.read m x

/-- A byte written; writing 0 removes the entry. -/
def Mem.write : Mem → Nat → BitVec 8 → Mem
  | [], x, v => if v = 0 then [] else [(x, v)]
  | (a, b) :: m, x, v =>
    if x < a then (if v = 0 then (a, b) :: m else (x, v) :: (a, b) :: m)
    else if x = a then (if v = 0 then m else (a, v) :: m)
    else (a, b) :: Mem.write m x v

/-- The bytes from an address, lowest first. -/
def Mem.readN (m : Mem) (a : Nat) : Nat → List (BitVec 8)
  | 0 => []
  | n + 1 => m.read a :: Mem.readN m (a + 1) n

/-- Bytes written from an address, lowest first. -/
def Mem.writeN (m : Mem) (a : Nat) : List (BitVec 8) → Mem
  | [] => m
  | b :: bs => Mem.writeN (m.write a b) (a + 1) bs

/-- The addresses of a range set to zero. -/
def Mem.clear (m : Mem) (lo n : Nat) : Mem := m.filter fun c => decide (c.1 < lo ∨ lo + n ≤ c.1)

/-- A little-endian number of bytes (R8). -/
def leNat : List (BitVec 8) → Nat
  | [] => 0
  | b :: bs => b.toNat + 256 * leNat bs

/-- The bytes of a number, little-endian (R8). -/
def leBytes : Nat → Nat → List (BitVec 8)
  | 0, _ => []
  | n + 1, x => BitVec.ofNat 8 (x % 256) :: leBytes n (x / 256)

/-- A little-endian number read from memory. -/
def Mem.readLE (m : Mem) (a n : Nat) : Nat := leNat (m.readN a n)
/-- A number written to memory, little-endian. -/
def Mem.writeLE (m : Mem) (a n x : Nat) : Mem := m.writeN a (leBytes n x)

/-- The bytes that a write in this rc is about to change, kept for what looks at the rc's start (R286). -/
def Core.keepOld (c : Core) (a n : Nat) : Core :=
  { c with oldBytes := ((List.range n).map fun i => (a + i, c.mem.read (a + i))) ++ c.oldBytes }

/-- A core's local store as it stood at the start of the rc (R286). -/
def Core.memThen (c : Core) : Mem := c.oldBytes.foldl (fun m e => m.write e.1 e.2) c.mem

/-! ### Fields of registers and lanes -/

/-- Bits of a register as a number. -/
def bvf {w : Nat} (x : BitVec w) (lo len : Nat) : Nat := x.toNat / 2 ^ lo % 2 ^ len

/-- Bits of a register replaced. -/
def bvSet {w : Nat} (x : BitVec w) (lo len v : Nat) : BitVec w :=
  BitVec.ofNat w (x.toNat - bvf x lo len * 2 ^ lo + v % 2 ^ len * 2 ^ lo)

/-- Element j of width w of a wide value (R164). -/
def elemOf {n : Nat} (v : BitVec n) (w j : Nat) : Nat := v.toNat / 2 ^ (w * j) % 2 ^ w

/-- The number whose elements of width w are f 0, f 1, …, up to n of them. -/
def packElems (w : Nat) (f : Nat → Nat) : Nat → Nat
  | 0 => 0
  | n + 1 => packElems w f n + f n % 2 ^ w * 2 ^ (w * n)

/-- A wide value from its elements. -/
def buildV (bits w : Nat) (f : Nat → Nat) (n : Nat) : BitVec bits := BitVec.ofNat bits (packElems w f n)

/-- The wide value of bytes, lowest first. -/
def bytesV (bits : Nat) (bs : List (BitVec 8)) : BitVec bits := BitVec.ofNat bits (leNat bs)
/-- The bytes of a wide value, lowest first. -/
def vBytes {bits : Nat} (v : BitVec bits) : List (BitVec 8) := leBytes (bits / 8) v.toNat

/-- sext(OFF24, 24) added to an address modulo 2^64 (R154). -/
def addOff (a : Word64) (off : BitVec 24) : Word64 := a + off.signExtend 64

/-! ### Access to the parts of the state -/

/-- A core. -/
def State.core (s : State) (k : CoreId) : Core := s.cores[k]
/-- A core replaced. -/
def State.setCore (s : State) (k : CoreId) (c : Core) : State := { s with cores := s.cores.set k c }
/-- A core changed. -/
def State.modCore (s : State) (k : CoreId) (f : Core → Core) : State := s.setCore k (f (s.core k))
/-- A die. -/
def State.die (s : State) (d : Fin 2) : Die := s.dies[d]
/-- A die changed. -/
def State.modDie (s : State) (d : Fin 2) (f : Die → Die) : State := { s with dies := s.dies.set d (f (s.die d)) }
/-- The die of a core (R2). -/
def dieOf (k : CoreId) : Fin 2 := if k.val < 8 then 0 else 1
/-- The core the current action acts on. -/
def State.me (s : State) : Core := s.core s.curCore
/-- The core the current action acts on, changed. -/
def State.modMe (s : State) (f : Core → Core) : State := s.modCore s.curCore f
/-- A sequencer of a core. -/
def Core.sq (c : Core) (q : Fin 4) : SeqSt := c.seqs[q]
/-- A sequencer changed. -/
def Core.modSeq (c : Core) (q : Fin 4) (f : SeqSt → SeqSt) : Core := { c with seqs := c.seqs.set q (f (c.sq q)) }
/-- The sequencer of the current action. -/
def State.mySeq (s : State) : SeqSt := s.me.sq s.curSeq.idx
/-- The sequencer of the current action, changed. -/
def State.modMySeq (s : State) (f : SeqSt → SeqSt) : State := s.modMe fun c => c.modSeq s.curSeq.idx f

/-- A free duration drawn (log 3). -/
def State.drawDelay (s : State) : Nat × State := (Config.freeDelay s.free, { s with free := s.free + 1 })
/-- A free choice drawn (log 3). -/
def State.drawPick (s : State) : Nat × State := (Config.freePick s.free, { s with free := s.free + 1 })

/-- A free choice of recording or counting drawn: it leaves the other choices alone (R20, log 3). -/
def State.drawWatch (s : State) : Nat × State := (Config.freeWatch s.watch, { s with watch := s.watch + 1 })

/-- The clock of a domain of a core. -/
def Dom.idx : Dom → Fin 4
  | .control => 0 | .vector => 1 | .matrix => 2 | .copy => 3
/-- The clock of a domain. -/
def Core.clk (c : Core) (d : Dom) : ClkSt := c.clocks[d.idx]
/-- The domain of a sequencer's issue clock (R98). -/
def seqDom : Seq → Dom
  | .c => .vector
  | .k => .control | .l => .control | .s => .control

/-- Quartz time in ns (R321); the model counts it in sixteenths, 5 to an rc (log 13). -/
def State.qtime (s : State) : Nat := s.qns / 16

/-- Local-store capacity in bytes (R201, log 8). -/
def lscap : Nat := if Config.fuseBasalt then 0x2000000 else 0x1000000

/-- The private top of a core (R149). -/
def Core.privTop (c : Core) : Nat := lscap - 0x200000 * c.share.toNat

/-- The partition of the active task, 0 when there is none. -/
def Core.part (c : Core) : PartId := match c.task with | some t => t.part | none => 0

/-- Whether the active context is Running and issuing (R22, R317). -/
def Core.isRunning (c : Core) : Bool :=
  match c.task with
  | some t => t.phase == .running
  | none => false

/-! ### Supply banks (R186 to R197): banks 0 to 255 of the local store, 256 to 259 the vector banks -/

/-- A lookup by number in a list of pairs. -/
def alGet {α : Type} (l : List (Nat × α)) (k : Nat) (d : α) : α :=
  match l with
  | [] => d
  | (x, v) :: t => if x = k then v else alGet t k d

/-- An entry set in a list of pairs kept in order. -/
def alSet {α : Type} (l : List (Nat × α)) (k : Nat) (v : α) : List (Nat × α) :=
  match l with
  | [] => [(k, v)]
  | (x, w) :: t => if k < x then (k, v) :: (x, w) :: t else if x = k then (k, v) :: t else (x, w) :: alSet t k v

/-- A bank's state; an unlisted bank is full. -/
def Core.bank (c : Core) (k : Nat) : BankSt := alGet c.banks k BankSt.reset
/-- A bank changed. -/
def Core.modBank (c : Core) (k : Nat) (f : BankSt → BankSt) : Core :=
  { c with banks := alSet c.banks k (f (c.bank k)) }
/-- The wakes running at once (R197). -/
def Core.wakesRunning (c : Core) : Nat := (c.banks.filter fun b => b.2.wakeEnd.isSome).length

/-- The bad places that are not written now (R126). -/
def Notes.kept (n : Notes) (p : Place → Bool) : Notes := { n with bad := n.bad.filter p }

/-- The bytes of a bank lost: the local bytes, or the eight v registers (R187). -/
def Core.loseBank (c : Core) (k : Nat) : Core :=
  if k < 256 then { c with mem := c.mem.clear (k * 131072) 131072 }
  else { c with
    v := Vector.ofFn fun r : Fin 32 => if r.val / 8 = k - 256 then 0 else c.v[r]
    notes := c.notes.kept fun p => match p with
      | .lane r _ => r.val / 8 != k - 256
      | _ => true }

/-- A counter event of R382 on a core, of a partition's work or of none: every enabled counter whose configuration names
it counts one, unless its value was written in this rc (R384). A partition counter counts only its own partition's events, and
stands while the core is free (R383); a
count that wraps sets OVF, and the wrap is noted (R385). -/
def Core.countFor (c : Core) (own : Option PartId) (event unit arg : Nat) (exact : Bool) : Core :=
  let hit (i : Fin 8) : Bool :=
    let g := c.cntcfg[i]
    let tag := bvf g 24 5
    let owned := if tag < 16 then own.map Fin.val == some tag && c.task.isSome else decide (tag = 16)
    owned && !c.cntset.contains i && bvf g 31 1 == 1 && bvf g 8 8 == event && bvf g 16 4 == unit &&
      (if exact then bvf g 0 8 == arg else (bvf g 0 8 / arg % 2 == 1))
  if !([0, 1, 2, 3, 4, 5, 6, 7] : List (Fin 8)).any hit then c
  else
    { c with
      cntval := Vector.ofFn fun i : Fin 8 =>
        if hit i then
          let n := bvf c.cntval[i] 0 48 + 1
          if n = 2 ^ 48 then bvSet (bvSet c.cntval[i] 0 48 0) 48 1 1 else bvSet c.cntval[i] 0 48 n
        else c.cntval[i]
      ovfs := c.ovfs ++ ([0, 1, 2, 3, 4, 5, 6, 7] : List (Fin 8)).filter fun i =>
        hit i && bvf c.cntval[i] 0 48 == 2 ^ 48 - 1 }

/-- A unit that performs work in this rc (R379). -/
def Core.works (c : Core) (u : Fin 12) : Core := { c with worked := u :: c.worked }

/-- Whether a number given in the current region is that of the step under way, when one is (R393). -/
def Core.ownId (c : Core) (id : Nat) : Bool := (c.stepBase.map fun b => decide (b.from_ ≤ id)).getD true

/-- The lines that the current region, or the step under way, will release (R160, R393). -/
def Core.ownLine (c : Core) (l : CBLine) : Bool := l.cur && c.ownId l.id

/-- A step over (R393): the read set is the region's again, with what the step added to it and has not committed. -/
def Core.stepOver (c : Core) : Core :=
  match c.stepBase with
  | some b => { c with stepBase := none, reads := b.reads ++ c.reads }
  | none => c

/-- The partition of the active task, when there is one. -/
def Core.owner (c : Core) : Option PartId := c.task.map TaskSt.part

/-- A counter event of the active task (R382). -/
def Core.count (c : Core) (event unit arg : Nat) (exact : Bool) : Core := c.countFor c.owner event unit arg exact

/-- A wake begins in an rc (R187), counted then (R382), and ends at the end of its last rc. -/
def Core.beginWake (c : Core) (rc k dur : Nat) : Core :=
  (c.count 0x07 0 (if k < 256 then 1 else 2) false).modBank k fun b =>
    { b with state := .waking, wakeEnd := some (rc + dur - 1), queued := false }

/-- A wake started or queued (R187, R197): from retention 48 rc, from off 200 rc. -/
def Core.startWake (c : Core) (rc k dur : Nat) : Core :=
  if c.wakesRunning < 16 then c.beginWake rc k dur
  else
    { c.modBank k fun b => { b with state := .waking, queued := true, wakeEnd := none } with
      wakeq := c.wakeq ++ [k * 256 + dur] }

/-- The procedure of R190: a request for a state of a bank. A move of a vector bank to retention waits for the
results in flight and the running drain (R192): `hold` names the first later result and that drain. DESIGN CHOICE (log 43):
a request for full that finds such a move waiting cancels it, and the bank stays full. -/
def Core.request (c : Core) (rc k : Nat) (s : SupplyReq) (hold : Option (Nat × Option Nat)) : Core :=
  let b := c.bank k
  match s with
  | .full =>
    let c := c.modBank k fun b => { b with pendOff := false, pendRet := false, moveAfter := none }
    match b.state with
    | .retention => c.startWake rc k 48
    | .off => (c.loseBank k).startWake rc k 200
    | .full => c
    | .waking => c
  | .retention =>
    c.modBank k fun b =>
      let b := { b with pendOff := false }
      match b.state with
      | .full => if hold.isSome then { b with moveAfter := hold } else { b with state := .retention }
      | .waking => { b with pendRet := true }
      | .retention => b
      | .off => b
  | .off => if b.state = .off then c else c.modBank k fun b => { b with pendOff := true }

/-- Whether a write of a result in flight goes to a vector bank. -/
def Wr.inBank (w : Wr) (k : Nat) : Bool :=
  match w with
  | .vreg r _ _ => 256 + r.val / 8 == k
  | _ => false

/-- What a move of a bank issued now must wait for (R192): results in flight to a vector bank's registers, numbered
below the bound, and the running drain whose DSTV words write registers of the bank. -/
def Core.moveHold (c : Core) (k : Nat) : Option (Nat × Option Nat) :=
  if k < 256 then none
  else
    let run := (c.drains.find? fun d => d.running && !d.finished && d.vset.any fun r => 256 + r.val / 8 == k).map DrainSt.id
    if ((c.sq 2).pend.any fun p => p.writes.any fun w => w.inBank k) || run.isSome then some (c.nextId, run) else none

/-- Whether a waiting move may be made: every result and the drain it waited for have ended (R192). -/
def Core.moveReady (c : Core) (k : Nat) (h : Nat × Option Nat) : Bool :=
  !((c.sq 2).pend.any fun p => decide (p.id < h.1) && p.writes.any fun w => w.inBank k) &&
    !(c.drains.any fun d => some d.id == h.2 && !d.finished)

/-- The requests of one rc combined (R191): with a request for full those for retention are ignored, and those for off
come last. -/
def combine (l : List (Nat × SupplyReq)) : List (Nat × SupplyReq) :=
  (l.filter fun r => r.2 == .full || (r.2 == .retention && !l.any fun x => x.1 == r.1 && x.2 == .full)) ++
    l.filter fun r => r.2 == .off

/-- A bank that goes off at a commit (R195): its contents are lost, its flags cleared, its wake ended. -/
def Core.bankOff (c : Core) (k : Nat) : Core :=
  let c := c.loseBank k
  { c.modBank k fun b => { b with state := .off, pendOff := false, pendRet := false, moveAfter := none, queued := false,
                                  wakeEnd := none }
    with wakeq := c.wakeq.filter fun w => w / 256 != k }

/-- Queued wakes started while a place is free (R197). -/
def Core.pumpWakes (c : Core) (rc : Nat) : Nat → Core
  | 0 => c
  | n + 1 =>
    match c.wakeq with
    | [] => c
    | w :: ws => if c.wakesRunning < 16 then ({ c with wakeq := ws }.beginWake rc (w / 256) (w % 256)).pumpWakes rc n else c

/-- A bank's pending retention applied at a save or a migration (R203): its wake ends, or leaves the queue. -/
def Core.retainPending (c : Core) : Core :=
  { c with
    banks := c.banks.map fun e => if e.2.pendRet then
        (e.1, { e.2 with state := .retention, pendRet := false, wakeEnd := none, queued := false, waiters := [] }) else e
    wakeq := c.wakeq.filter fun w => !(c.bank (w / 256)).pendRet }

/-- The bank work at the end of an rc: the requests made in it (R190, R191), moves whose waits have ended (R192), pending
retentions of full banks on whose wake nothing stalls any more (R190), and the moves to off of a commit, which free their
wakes' places for the next rc (R195). -/
def Core.settleBanks (c : Core) (rc : Nat) : Core :=
  let c1 := (combine c.breqs).foldl (fun c r => c.request rc r.1 r.2 (c.moveHold r.1)) { c with breqs := [] }
  let c2 := { c1 with banks := c1.banks.map fun e =>
      let b := e.2
      let b := match b.moveAfter with
        | some h => if c1.moveReady e.1 h then { b with state := .retention, moveAfter := none } else b
        | none => b
      let b := if b.pendRet && b.state == .full && b.waiters.isEmpty then { b with state := .retention, pendRet := false }
        else b
      (e.1, b) }
  if c2.goOff.isEmpty then c2 else ({ c2.goOff.foldl Core.bankOff c2 with goOff := [] }).pumpWakes (rc + 1) 16

/-! ### Allotments, device memory and the rings -/

/-- The allotment ranges of a partition as byte ranges (R311). -/
def State.allotRanges (s : State) (d : Fin 2) (p : PartId) : List (Nat × Nat) :=
  (List.range 8).filterMap fun i =>
    let r := (s.die d).allot[(Fin.ofNat 128 (p.val * 8 + i) : Fin 128)]
    if bvf r 63 1 = 1 then some (bvf r 0 24 * 65536, bvf r 24 24 * 65536 + 65535) else none

/-- The first address from `a` on that no range covers, after n ranges have been followed. -/
def coverFrom (rs : List (Nat × Nat)) : Nat → Nat → Nat
  | 0, a => a
  | n + 1, a =>
    match rs.find? fun r => decide (r.1 ≤ a ∧ a ≤ r.2) with
    | some r => coverFrom rs n (r.2 + 1)
    | none => a

/-- Whether every byte of [lo, hi] lies in a valid range of the partition (R311). -/
def State.inAllot (s : State) (d : Fin 2) (p : PartId) (lo hi : Nat) : Bool :=
  decide (hi < coverFrom (s.allotRanges d p) 9 lo)

/-- The coherence state of a granule; an unlisted device line takes its home die's eviction floor, an unlisted window
granule 0 (R293). -/
def State.gran (s : State) (g : Gran) : GranSt :=
  match s.grans.find? fun e => e.1 == g with
  | some e => e.2
  | none =>
    match g with
    | .line n => let f := (s.die (if n / 2 ^ 31 % 2 = 1 then 1 else 0)).evict; ⟨f, f, none, none, false⟩
    | .win _ _ => ⟨0, 0, none, none, false⟩
/-- A granule's coherence state set. -/
def State.setGran (s : State) (g : Gran) (x : GranSt) : State :=
  if (s.grans.find? fun e => e.1 == g).isSome then
    { s with grans := s.grans.map fun e => if e.1 == g then (g, x) else e }
  else { s with grans := s.grans ++ [(g, x)] }

/-- The granule of a byte at a home (R293); the system range has none. -/
def granOf (h : Home) (a : Nat) : Option Gran :=
  match h with
  | .hbm => some (.line (a / 64))
  | .win k => some (.win k (a / 1024))
  | .sysr => none

/-- An untimed write accepted at its home (R292, R299): the bytes, and for each HBM line its new time; a line written whole is
no longer poisoned (R350). `ring` marks a write of the management core's rings, whose lines no cache gives up until something
else touches them, so that recording moves no eviction floor (R20). -/
def State.acceptWrite (s : State) (ring : Bool) (pa : Nat) (bs : List (BitVec 8)) : State :=
  let s1 := { s with mem := s.mem.writeN pa bs }
  if pa < 0x4000000000 then
    let first := pa / 64
    let last := (pa + bs.length - 1) / 64
    let s2 := (List.range (last - first + 1)).foldl (fun s i =>
      let g := Gran.line (first + i)
      let x := s.gran g
      let t := max x.wts x.rts + 1
      let mine := ring && (x.ring || (s.grans.find? fun e => e.1 == g).isNone)
      s.setGran g { x with wts := t, rts := t, writer := none, ring := mine }) s1
    { s2 with poison := s2.poison.filter fun l => !decide (pa ≤ l * 64 ∧ l * 64 + 64 ≤ pa + bs.length) }
  else s1

/-- Whether an untimed write has to wait at its home: a region's claim holds one of its lines (R295, R298), so that no write
comes between the region's time and its line's, nor under a pinned run's read; or an earlier write of the line waits. -/
def State.writeHeld (s : State) (pa n : Nat) : Bool :=
  pa < 0x4000000000 &&
    ((s.grans.any fun e => e.2.claim.isSome && (match e.1 with
      | .line l => decide (pa / 64 ≤ l ∧ l ≤ (pa + n - 1) / 64)
      | .win _ _ => false)) ||
    s.heldw.any fun w => decide (pa / 64 ≤ w.1 / 64 ∧ w.1 / 64 ≤ (pa + n - 1) / 64))

/-- Bytes cut at the boundaries of lines, each with its address. -/
def lineParts (pa : Nat) (bs : List (BitVec 8)) : List (Nat × List (BitVec 8)) :=
  (List.range ((pa + bs.length - 1) / 64 + 1 - pa / 64)).map fun i =>
    let lo := max pa ((pa / 64 + i) * 64)
    (lo, (bs.drop (lo - pa)).take ((pa / 64 + i + 1) * 64 - lo))

/-- An untimed write to HBM or the system range, by a ring or not: accepted, or, for each of its lines that a claim holds, left
to wait there (log 44). -/
def State.writeAs (s : State) (ring : Bool) (pa : Nat) (bs : List (BitVec 8)) : State :=
  if bs.isEmpty then s
  else if s.writeHeld pa bs.length then
    (lineParts pa bs).foldl (fun s x =>
      if s.writeHeld x.1 x.2.length then { s with heldw := s.heldw ++ [(x.1, x.2, ring)] } else s.acceptWrite ring x.1 x.2) s
  else s.acceptWrite ring pa bs

/-- An untimed write to HBM or the system range (R292, R299). -/
def State.untimedWrite (s : State) (pa : Nat) (bs : List (BitVec 8)) : State := s.writeAs false pa bs

/-- A write of a ring of the management core: a mailbox's, an error log's, a trace's. -/
def State.ringWrite (s : State) (pa : Nat) (bs : List (BitVec 8)) : State := s.writeAs true pa bs

/-- The untimed writes that wait, tried in order (R299): those whose claims are gone are accepted. -/
def State.pumpWrites (s : State) : State :=
  if s.heldw.isEmpty then s
  else s.heldw.foldl (fun s w => s.writeAs w.2.2 w.1 w.2.1) { s with heldw := [] }

/-- The bytes of a message or record, padded to a length. -/
def padTo (n : Nat) (bs : List (BitVec 8)) : List (BitVec 8) := (bs ++ List.replicate n 0).take n

/-- A message put into a partition's outbound ring (R398): its slot, OTAIL, and the interrupt. -/
def State.ringOut (s : State) (d : Fin 2) (p : PartId) (msg : List (BitVec 8)) : State :=
  let cfg := (s.die d).mbcfg[p]
  let ptr := (s.die d).mbptr[p]
  let ot := bvf ptr 16 16
  let base := bvf cfg 12 28 * 4096 + 64 * 2 ^ (bvf cfg 56 4 + 4)
  let slot := ot % 2 ^ (bvf cfg 52 4 + 4)
  let s := s.ringWrite (base + 64 * slot)
    (padTo 64 (msg.take 1 ++ leBytes 1 ((s.die d).mbver[p]).toNat ++ leBytes 2 p.val ++ leBytes 4 ot ++ msg.drop 1))
  s.modDie d fun x => { x with
    mbptr := x.mbptr.set p (bvSet x.mbptr[p] 16 16 (ot + 1))
    msix := x.msix.set p (x.msix[p] + 1) }

/-- Whether a mailbox is enabled: EN reads 0 when a ring lies outside the allotment (R398). -/
def State.mbOn (s : State) (d : Fin 2) (p : PartId) : Bool :=
  let cfg := (s.die d).mbcfg[p]
  let base := bvf cfg 12 28 * 4096
  bvf cfg 63 1 == 1 && s.inAllot d p base (base + 64 * (2 ^ (bvf cfg 56 4 + 4) + 2 ^ (bvf cfg 52 4 + 4)) - 1)

/-- Whether the outbound ring has room (R398). -/
def State.ringRoom (s : State) (d : Fin 2) (p : PartId) : Bool :=
  let cfg := (s.die d).mbcfg[p]
  let ptr := (s.die d).mbptr[p]
  s.mbOn d p && decide ((bvf ptr 16 16 + 65536 - bvf ptr 0 16) % 65536 < 2 ^ (bvf cfg 52 4 + 4))

/-- A Tansy record (R387, R388): counted as lost when the writes cannot keep pace, which the spec leaves open (log 3), and from
then on until room returns, when the lost record comes first; discarded while frozen. The header is type, core, unit, gang,
task, generation; the body starts at byte 20. -/
def State.tansy (s : State) (d : Fin 2) (p : PartId) (type core unit : Nat) (gang : BitVec 16) (task gen : Nat)
    (body : List (BitVec 8)) : State :=
  let x := s.die d
  let cfg := x.tncfg[p]
  let base := bvf cfg 12 28 * 4096
  let size := 2 ^ (bvf cfg 56 4 + 16)
  if bvf cfg 63 1 = 0 ∨ bvf x.tnstat[p] 63 1 = 1 ∨ !s.inAllot d p base (base + 64 * size - 1) then s
  else
    let (room, s) := s.drawWatch
    if type ≠ 7 ∧ (x.tnroom[p] ≠ 0 ∨ room % 2 = 1) then
      s.modDie d fun x => { x with
        tnroom := x.tnroom.set p (x.tnroom[p] + 1)
        tnstat := x.tnstat.set p (bvSet x.tnstat[p] 0 32 (min (bvf x.tnstat[p] 0 32 + 1) 0xFFFFFFFF)) }
    else
      let idx := bvf x.tnpos[p] 0 32
      let rec_ := leBytes 1 type ++ leBytes 1 1 ++ leBytes 1 core ++ leBytes 1 unit ++ leBytes 2 gang.toNat ++
        leBytes 1 task ++ leBytes 1 d.val ++ leBytes 8 s.qtime ++ leBytes 4 gen ++ body
      let s := s.ringWrite (base + 64 * (idx % size)) (padTo 64 rec_)
      s.modDie d fun x => { x with tnpos := x.tnpos.set p (bvSet x.tnpos[p] 0 32 (idx + 1)) }

/-- A command record of the trace (R388 type 0x04): its kind, the channel or accumulator, the registers and the cursor. -/
def State.cmdRecord (s : State) (k : CoreId) (p : PartId) (unit : Nat) (gang : BitVec 16) (task gen kind sub : Nat)
    (regs : List (BitVec 8)) (cursor : Nat) : State :=
  s.tansy (dieOf k) p 4 k.val unit gang task gen (leBytes 1 kind ++ leBytes 1 sub ++ leBytes 2 0 ++ padTo 32 regs ++ leBytes 4 cursor)

/-- A command record of the active task's own work. -/
def State.cmdHere (s : State) (k : CoreId) (unit kind sub : Nat) : State :=
  match (s.core k).task with
  | some t => s.cmdRecord k t.part unit t.gang t.idx.toNat (s.core k).gen.toNat kind sub [] 0
  | none => s

/-- Where an incident trigger comes from, as its record's header names it (R388): the core, the task and its generation. -/
structure TrigAt where
  core : Nat
  gang : BitVec 16
  task : Nat
  gen : Nat
  deriving DecidableEq, Repr

/-- An incident trigger of no core's. -/
def TrigAt.none : TrigAt := ⟨0xFF, 0, 0, 0⟩

/-- An incident trigger of a partition on a die (R389): the trigger record, TRIGD, TRIGIDX and the end of POST. -/
def State.trigger (s : State) (d : Fin 2) (p : PartId) (source cause : Nat) (w : TrigAt) : State :=
  let x := s.die d
  let was := bvf x.tnstat[p] 62 1 = 1
  let idx := bvf x.tnpos[p] 0 32
  let s := s.tansy d p 8 w.core 0 w.gang w.task w.gen (leBytes 1 source ++ leBytes 1 cause)
  if was ∨ bvf x.tnstat[p] 63 1 = 1 then s
  else
    s.modDie d fun x => { x with
      tnstat := x.tnstat.set p (bvSet x.tnstat[p] 62 1 1)
      tnpos := x.tnpos.set p (bvSet x.tnpos[p] 32 32 idx)
      tnfreeze := x.tnfreeze.set p (some (s.qtime + 1000 * bvf x.tntrig[p] 16 16)) }

/-- The faulting address of an error-log record: none in KIND 0x06, whose bytes there are a command register's (R290, R357). -/
def recAddr (rec_ : List (BitVec 8)) : List (BitVec 8) := if leNat (rec_.take 1) = 6 then [] else (rec_.drop 40).take 8

/-- An error-log record (R356, R357): 56 bytes and the Quartz time, counted in ELOGSEQ and written when the ring is
enabled and lies in the allotment; with it a Tansy record of type 0x05. -/
def State.elog (s : State) (d : Fin 2) (p : PartId) (rec_ : List (BitVec 8)) : State :=
  let x := s.die d
  let cfg := x.elogcfg[p]
  let n := (x.elogseq[p]).toNat
  let base := bvf cfg 12 28 * 4096
  let size := 2 ^ (bvf cfg 56 4 + 6)
  let s :=
    if bvf cfg 63 1 = 1 ∧ s.inAllot d p base (base + 64 * size - 1) then
      s.ringWrite (base + 64 * (n % size)) (padTo 56 rec_ ++ leBytes 8 s.qtime)
    else s
  let s := s.modDie d fun x => { x with elogseq := x.elogseq.set p (x.elogseq[p] + 1) }
  s.tansy d p 5 ((rec_.drop 3).head?.getD 0).toNat 0 (BitVec.ofNat 16 (leNat ((rec_.drop 4).take 2)))
    (leNat ((rec_.drop 6).take 1)) (leNat ((rec_.drop 8).take 4)) (padTo 24 rec_ ++ recAddr rec_)

/-- An outbound message (R399, R400): type and body from byte 8 on. A full ring holds it in the management core, up
to 256; beyond that types 0x83 and 0x84 are dropped and counted in the error log. -/
def State.postOut (s : State) (d : Fin 2) (p : PartId) (type : Nat) (body : List (BitVec 8)) : State :=
  let msg := leBytes 1 type ++ body
  if (s.die d).mbout[p].isEmpty && s.ringRoom d p then s.ringOut d p msg
  else if (s.die d).mbout[p].length < 256 ∨ (type ≠ 0x83 ∧ type ≠ 0x84) then
    s.modDie d fun x => { x with mbout := x.mbout.set p (x.mbout[p] ++ [msg]) }
  else
    s.elog d p (leBytes 1 1 ++ leBytes 1 0 ++ leBytes 1 p.val ++ leBytes 1 0xFF ++ leBytes 3 0 ++ leBytes 1 (8 * d.val))

/-- Whether a partition's launch queue has no entry free (R327); a record on its way into the queue has taken its own (R400). -/
def Die.queueFull (x : Die) (p : PartId) : Bool :=
  decide (64 ≤ x.launchq[p].length + (x.mirrors.filter fun m => m.2.part == p).length)

/-- A status record (R319) posted to the partition's mailbox of a die, or of the survivor when that die is lost. -/
def State.status (s : State) (d : Fin 2) (code part : Nat) (gang : BitVec 16) (task cause : Nat) (tag : BitVec 16)
    (gen : Nat) : State :=
  let d := if (s.die d).lost then d + 1 else d
  let r := leBytes 1 code ++ leBytes 1 part ++ leBytes 2 gang.toNat ++ leBytes 1 task ++ leBytes 1 cause ++
    leBytes 2 tag.toNat ++ leBytes 4 gen ++ leBytes 4 0 ++ leBytes 8 s.qtime ++ leBytes 8 0
  s.postOut d (Fin.ofNat 16 part) 0x81 r

/-! ### Loops and the rollback -/

/-- The total of an active loop (R106). -/
def LoopSt.total (h : LoopSt) : Nat := if h.swp then h.count.toNat + 3 else h.count.toNat

/-- The active SWP loop of a sequencer (R107). -/
def SeqSt.swpLoop (q : SeqSt) : Option (Fin 4) := q.live.find? fun i => (q.h[i]).swp

/-- p4 to p7 from the state of the active SWP loop: p(4+s) is true when s ≤ j < n + s (R107). -/
def SeqSt.stage (q : SeqSt) : SeqSt :=
  match q.swpLoop with
  | none => q
  | some i =>
    let h := q.h[i]
    let j := h.iter.toNat
    { q with p := Vector.ofFn fun x : Fin 8 =>
        if 4 ≤ x.val then decide (x.val - 4 ≤ j ∧ j < h.count.toNat + (x.val - 4)) else q.p[x] }

/-- A sequencer returned to its cut (R32 items 1, 2 and 4). -/
def SeqSt.rollback (q : SeqSt) (pc : BitVec 48) (h : Vector LoopSt 4) (live : List (Fin 4)) : SeqSt :=
  { q with pc := pc, h := h, live := live, b := Vector.replicate 4 0, arrival := none, pend := [], stall := none,
           pay := 0, fresh := false }.stage

/-- Whether an arrival is one of R113's implicit ones. -/
def Arrival.implicit (a : Arrival) : Bool :=
  match a.kind with
  | .commit => false
  | .halt => false
  | .atom _ _ => true
  | .bar _ _ _ => true
  | .swpt _ => true

/-- The tag of the region in progress: K's arrival, else the lowest-numbered arrived sequencer's, else the last cut's,
with TAGCUT (R34). An implicit arrival carries the tag of the explicit ones (R113), and none while it stands alone. -/
def Core.regionTag (c : Core) : Nat × Bool :=
  match [(0 : Fin 4), 1, 2, 3].findSome? fun i => (c.sq i).arrival.filter fun a => !a.implicit with
  | some a => (a.tag.toNat, false)
  | none => (c.cut.tag.toNat, true)

/-- The core whose access waits. -/
def Waiter.core : Waiter → CoreId
  | .seqr k _ => k
  | .tile k _ => k
  | .drain k => k
  | .channel k _ _ => k
  | .line k _ => k
  | .load k _ => k

/-- Whether a rollback of a core ends an access that waits on a wake (R32): those of its sequencers, loads, tile loads and
drain path, and of the commands it cancels; released lines and committed copies go on (R163, R282). -/
def Core.ends (c : Core) (k : CoreId) (w : Waiter) : Bool :=
  w.core == k && (match w with
    | .seqr _ _ => true
    | .tile _ _ => true
    | .drain _ => true
    | .load _ _ => true
    | .channel _ x id => (c.chans[x]).any fun m => m.id == id && m.cur
    | .line _ _ => false)

/-- A wait after a rollback to cut A: the value of an atomic is to be fetched again (R306 step 5). -/
def refetched (w : Sum AtomWait BarWait) : Sum AtomWait BarWait :=
  match w with
  | .inl w => .inl { w with returned := none, far := false }
  | .inr w => .inr w

/-- What a rollback writes holds no bad bits any more (R126): the latches, and the stage predicates of an active SWP loop. -/
def Notes.rolledBack (n : Notes) (seqs : Vector SeqSt 4) : Notes :=
  n.kept fun p => match p with
    | .latch _ _ => false
    | .pred x b => (seqs[x]).swpLoop.isNone || decide (b.val < 4)
    | _ => true

/-- A core returned to its cut (R32), but for the unspecified accumulators of R223 and the claims of R295. A check that is
final in this rc is still to be looked at, since its error would take the place of a trap (R35). DESIGN CHOICE (log 46): the numbers
of the matrix, vector and drain engines go back to the cut's; those of the channels and the commit buffer, which the rollback
leaves at work, stay (R31). -/
def Core.rollback (c : Core) (k : CoreId) : Core :=
  let seqs := Vector.ofFn fun i : Fin 4 =>
      { (c.sq i).rollback c.cut.pcs[i] c.cut.loops[i] c.cut.lives[i] with fresh := i == 0 && c.cut.gen != 0 }
  { c with
    seqs := seqs
    notes := c.notes.rolledBack seqs
    spec := none
    tok := Vector.replicate 8 0
    tok0 := Vector.replicate 8 0
    waited := Vector.replicate 8 false
    signalled := Vector.replicate 8 false
    offered := []
    raise := []
    detected := []
    q := Vector.replicate 8 QueueSt.reset
    fmtpend := 0
    banks := c.banks.map fun b => (b.1, { b.2 with
      pendOff := false
      waiters := b.2.waiters.filter fun w => !c.ends k w })
    breqs := c.breqs.filter fun r => r.2 != .off
    stores := []
    tiles := Vector.ofFn fun i : Fin 8 => { c.tiles[i] with fills := 0, reads := 0 }
    tloads := []
    portFree := 0
    acc := Vector.ofFn fun i : Fin 4 => { c.acc[i] with dirty := false }
    mmas := []
    lastB := none
    checks := c.checks.filter fun x => decide (x.final ≤ (c.clk .matrix).cyc)
    drains := []
    chans := Vector.ofFn fun x : Fin 4 => (c.chans[x]).filter fun m => !m.cur
    cb := c.cb.filter fun l => !l.cur
    loads := []
    lbuf := c.lbuf.filter fun l => !l.cur
    halted := none
    used := []
    reads := []
    ts := .idle
    lastResult := 0
    lastVec := 0
    stepBase := none
    ready := false
    xres := []
    eng := Vector.ofFn fun i : Fin 8 => if i.val < 3 then c.cut.eng[i] else c.eng[i]
    mid := c.mid.map fun m => { m with doneAt := none, atOnce := false, wait := refetched m.wait }
    dbg := .running
    stopped := false
    rolled := true
    walks := c.walks.map fun w => if w.prefetch then w else { w with want := false }
    ran := []
    lastRan := if c.rolled then c.lastRan else c.ran
    lastTag := if c.rolled then c.lastTag else c.regionTag }

/-- The number of 32-bit words of an accumulator's state that R223 leaves unspecified. -/
def accWords : Nat := 6305

/-- Unspecified elements and checksums for the accumulators that accepted MMAs were writing (R223, log 9). -/
def AccSt.unspecified (a : AccSt) (n : Nat) : AccSt :=
  { a with
    elem := buildV 196608 32 (fun i => (Config.freeWord (n + i)).toNat) 6144
    cr := buildV 3072 32 (fun i => (Config.freeWord (n + 6144 + i)).toNat) 96
    cc := buildV 2048 32 (fun i => (Config.freeWord (n + 6240 + i)).toNat) 64
    corner := Config.freeWord (n + 6304) }

/-- The claims of a core on granules released, but for granules whose released lines are still to be performed
(R295, R298). -/
def State.dropClaims (s : State) (k : CoreId) : State :=
  { s with grans := s.grans.map fun e =>
      match e.2.claim with
      | some (c, p) =>
        if c = k && !((s.core k).cb.any fun l => !l.cur && granOf l.home l.addr == some e.1)
        then (e.1, { e.2 with claim := none }) else (e.1, { e.2 with claim := some (c, p) })
      | none => e }

/-- Whether released lines of a partition's pinned run are still to be performed, for which the run keeps its token (R298). -/
def Core.pinnedLines (c : Core) (p : PartId) : Bool := c.cb.any fun l => l.pinned && !l.cur && l.part == p

/-- The pin token given back by a core whose pinned run has no line left to be performed (R298). -/
def State.freePin (s : State) (k : CoreId) : State :=
  { s with pins := s.pins.map fun e =>
      { e with holder := if e.holder = some k ∧ !(s.core k).pinnedLines e.part then none else e.holder } }

/-- The request of a core's run for the pin token withdrawn, and the token given back, but while lines of an earlier pinned run
are still to be performed (R298). -/
def State.dropPin (s : State) (k : CoreId) : State :=
  ({ s with pins := s.pins.map fun e => { e with queue := e.queue.filter fun c => c.2 != k } } : State).freePin k

/-- The value of an atomic fetched again from the home's record after a rollback between commit A and commit B, or by a spare
whose record does not hold it (R306 steps 5 and 6); an atomic whose line is not yet performed is still to come, whatever
earlier atomic the home's record is of. -/
def State.refetch (s : State) (k : CoreId) : State :=
  match (s.core k).mid with
  | some m =>
    match m.wait with
    | .inl w =>
      match s.atomrecs.find? fun r => r.1 = w.core ∧ r.2.1 = (s.core k).part ∧ r.2.2.1 = w.gen ∧ w.returned.isNone ∧
          !((s.core w.core).cb.any fun l => l.id == w.line) with
      | some r =>
        let (d, s) := s.drawDelay
        s.modCore k fun c => { c with mid := some { m with wait := .inl { w with returned := some (r.2.2.2, s.rc + 1 + d) } } }
      | none => s
    | .inr _ => s
  | none => s

/-- Accesses withdrawn from the wakes of every core's banks. -/
def State.dropWaits (s : State) (hit : Waiter → Bool) : State :=
  if s.cores.toList.any fun c => c.banks.any fun b => b.2.waiters.any hit then
    { s with cores := s.cores.map fun c => { c with
        banks := c.banks.map fun b => (b.1, { b.2 with waiters := b.2.waiters.filter fun w => !hit w }) } }
  else s

/-- A rollback of a core (R32). `keepPin` holds for an error replay, which keeps the pin token (R298). -/
def State.rollback (s : State) (k : CoreId) (keepPin : Bool) : State :=
  let c := s.core k
  let busy (i : Fin 4) : Bool := c.mmas.any fun m => m.acc = i
  let c1 := c.rollback k
  let c2 := { c1 with
    acc := Vector.ofFn fun i : Fin 4 =>
      if busy i then (c1.acc[i]).unspecified (s.free + accWords * i.val) else c1.acc[i]
    pinned := c1.pinned && keepPin }
  let s := if c.mmas.isEmpty then s else { s with free := s.free + 4 * accWords }
  let s := (((s.setCore k c2).dropClaims k).dropWaits (c.ends k)).refetch k
  if keepPin then s else s.dropPin k

/-! ### Reports and traps -/

/-- The innermost active loop's identity, iteration and stage, as reports name an iteration (R34, R391). -/
def SeqSt.iteration (q : SeqSt) : Nat × Nat × Nat :=
  match q.live with
  | [] => (0, 0, 0)
  | i :: _ =>
    let h := q.h[i]
    let bitP (x : Fin 8) : Nat := if q.p[x] then 2 ^ (x.val - 4) else 0
    (h.lid.toNat, h.iter.toNat, if h.swp then bitP 4 + bitP 5 + bitP 6 + bitP 7 else 0)

/-- What a report adds to the common fields (R357). -/
structure Rep where
  kind : Nat
  cause : Nat
  seqr : Option (Fin 4)
  sec : Nat
  detail : Nat
  pc : Nat
  w1 : Nat
  w2 : Nat
  addr : Nat
  cursor : Nat

/-- The 56 bytes of a record about a core's task (R357). -/
def Core.record (c : Core) (k : CoreId) (r : Rep) : List (BitVec 8) :=
  let (gang, idx) := match c.task with
    | some t => (t.gang.toNat, t.idx.toNat)
    | none => (0, 0)
  let (lid, iter, stage) := match r.seqr with
    | some q => (c.sq q).iteration
    | none => (0, 0, 0)
  let (tag, tagcut) := if c.rolled then c.lastTag else c.regionTag
  let sq := match r.seqr with
    | some q => q.val + 4
    | none => 0
  leBytes 1 r.kind ++ leBytes 1 r.cause ++ leBytes 1 c.part.val ++ leBytes 1 k.val ++ leBytes 2 gang ++
    leBytes 1 idx ++ leBytes 1 (sq + 8 * (dieOf k).val + 16 * c.retrycnt.toNat) ++ leBytes 4 c.gen.toNat ++
    leBytes 1 tag ++ leBytes 1 lid ++ leBytes 1 stage ++ leBytes 1 (r.sec + if tagcut then 64 else 0) ++
    leBytes 4 iter ++ leBytes 4 r.detail ++ leBytes 8 r.pc ++ leBytes 4 r.w1 ++ leBytes 4 r.w2 ++
    leBytes 8 r.addr ++ leBytes 4 r.cursor ++ leBytes 4 0

/-- A record of a core's task posted to its partition's log on the core's die. -/
def State.logCore (s : State) (k : CoreId) (r : Rep) : State :=
  s.elog (dieOf k) (s.core k).part ((s.core k).record k r)

/-- TAKING A TRAP (R34, R36): the core rolls back to its cut (R32) and the task is Held with the cause; the report, with the
state of the trapping instruction, is kept, and posted at the end of the rc (R35). A core without an issuing task, or one that
has already rolled back in this rc, takes none (R32, R35). -/
def State.takeTrap (s : State) (k : CoreId) (r : Rep) : State :=
  let c := s.core k
  match c.task with
  | none => s
  | some t =>
    if c.rolled then s
    else
      (s.rollback k true).modCore k fun d => { d with
        task := some { t with phase := .held, cause := BitVec.ofNat 8 r.cause }
        report := some (c.record k r)
        trapped := [c.record k r] }

/-- A trap charged to several sequencers (R34, cause 0x04): one report each. -/
def State.takeTraps (s : State) (k : CoreId) (r : Rep) (also : List Rep) : State :=
  let c := s.core k
  if c.rolled then s
  else (s.takeTrap k r).modCore k fun d => { d with trapped := d.trapped ++ also.map fun x => c.record k x }

/-- A field of a record or message, little-endian. -/
def field (m : List (BitVec 8)) (at_ n : Nat) : Nat := leNat ((m.drop at_).take n)

/-- The traps of an rc at its end, when no detected error took their place (R34, R35): each report is posted, the partition's
trigger fires when it is enabled (R389), and a pinned run gives back its token (R298). -/
def State.postTraps (s : State) (k : CoreId) : State :=
  let l := (s.core k).trapped
  if l.isEmpty then s
  else
    let s := l.foldl (fun (s : State) r =>
      let p : PartId := Fin.ofNat 16 (field r 2 1)
      let s := s.elog (dieOf k) p r
      if bvf (s.die (dieOf k)).tntrig[p] 1 1 = 1 then
        s.trigger (dieOf k) p 2 (field r 1 1) ⟨field r 3 1, BitVec.ofNat 16 (field r 4 2), field r 6 1, field r 8 4⟩ else s) s
    (s.modCore k fun c => { c with trapped := [], pinned := false }).dropPin k

/-- Whether a report is that of a drain's stop of kind 1 to 3 (R199, R241). -/
def stopReport (r : List (BitVec 8)) : Bool :=
  [0x13, 0x32].contains (field r 1 1) || (field r 1 1 == 0x24 && field r 20 4 / 2 ^ 28 == 4)

/-- The traps of an rc put aside by a detected error (R35): the task runs on, no report is posted, and a drain's stop of kind
1 to 3 becomes STOP 4 at element 0 (R241). -/
def Core.untrap (c : Core) : Core :=
  if c.trapped.isEmpty then c
  else
    { c with
      task := c.task.map fun t => { t with phase := .running, cause := 0 }
      report := none
      trapped := []
      drainpos := if c.trapped.any stopReport then bvSet (bvSet c.drainpos 50 3 4) 0 45 0 else c.drainpos }

/-- A plain report of a sequencer's trap at an address. -/
def Rep.trap (cause : Nat) (q : Fin 4) (detail pc w1 w2 addr : Nat) : Rep :=
  ⟨0x0D, cause, some q, 0, detail, pc, w1, w2, addr, 0⟩

/-- THE RETURN FROM A TRAP: a resume of a Held task by SLOT.RESUME (R22, R316): Running at the held cut, the region
count zero (R38), the limits from PARTLIM under the floor of R39 (R353). DESIGN CHOICE (log 43): a request of L that was
outstanding stays so. -/
def State.resume (s : State) (k : CoreId) : State :=
  match (s.core k).task with
  | none => s
  | some t =>
    if t.phase = .held then
      let lim := (s.die (dieOf k)).partlim[t.part]
      s.modCore k fun c => { c with
        task := some { t with phase := .running, cause := 0 }
        rgncnt := 0
        rgnmax := BitVec.ofNat 24 (max 0x400 (bvf lim 0 24))
        retrylim := BitVec.ofNat 4 (max 1 (bvf lim 24 4))
        report := none }
    else s

end Sys2Proof.Machine
end

