-- ==== Sys2Proof/Machine/Operands.lean ====
section
/-! DEFINITION. Operands and issue: the operand forms of R45 to R47, queues (R143 to R148), token counters (R25, R26,
R100), interlocks (R131, R132), hardware loops (R105 to R108), and `issue`, the one operation that carries an
instruction through the checks of R99. -/

namespace Sys2Proof.Machine

/-! ### Instruction words in the I-cache (R115) -/

/-- The set of an address (R115: bits [11:6]). -/
def icSet (a : Nat) : Fin 64 := Fin.ofNat 64 (a / 64)

/-- The I-cache line of a sequencer that holds an address. -/
def Core.icLine (c : Core) (q : Fin 4) (part : PartId) (a : Nat) : Option ICLine :=
  (c.ic[q])[icSet a].find? fun l => l.part = part && l.addr = a / 64 * 64

/-- The word at an address in a sequencer's I-cache, when its line is there. -/
def Core.icWord (c : Core) (q : Fin 4) (a : Nat) : Option Word32 :=
  match c.icLine q c.part a with
  | some l => some (BitVec.ofNat 32 (l.data.toNat / 2 ^ (8 * (a % 64))))
  | none => none

/-- The words of an instruction at an address, zero where the cache lacks them, as a report carries them (R50). -/
def Core.wordsAt (c : Core) (q : Fin 4) (pc : BitVec 48) : Nat × Nat :=
  let w := (c.icWord q pc.toNat).getD 0
  (w.toNat, if twoWord (Seq.ofIdx q) (majOf w) then ((c.icWord q (pc + 4).toNat).getD 0).toNat else 0)

/-- The words at a sequencer's program counter. -/
def Core.headWords (c : Core) (q : Fin 4) : Nat × Nat := c.wordsAt q (c.sq q).pc

/-! ### Registers of a sequencer -/

/-- A scalar register: s0 reads as zero (R123). -/
def SeqSt.sreg (q : SeqSt) (r : Fin 32) : Word64 := if r = 0 then 0 else q.s[r]
/-- A scalar register written: a write to s0 is discarded (R47). -/
def SeqSt.setSreg (q : SeqSt) (r : Fin 32) (v : Word64) : SeqSt := if r = 0 then q else { q with s := q.s.set r v }
/-- A predicate: p0 reads as true (R124). -/
def SeqSt.pred (q : SeqSt) (p : Fin 8) : Bool := if p = 0 then true else q.p[p]
/-- A predicate written: a write to p0 is discarded (R124). -/
def SeqSt.setPred (q : SeqSt) (p : Fin 8) (v : Bool) : SeqSt := if p = 0 then q else { q with p := q.p.set p v }
/-- A mask: m0 reads as all ones (R165). -/
def Core.mask (c : Core) (m : Fin 8) : BitVec 64 := if m = 0 then BitVec.allOnes 64 else c.m[m]
/-- The lanes that take effect: below VL, with the guard mask's bit XOR GN (R168). -/
def Core.lanes (c : Core) (h : Hdr) : BitVec 64 :=
  (if h.gn then ~~~(c.mask h.gp) else c.mask h.gp) &&& BitVec.ofNat 64 (2 ^ c.vl.toNat - 1)
/-- A mask written: a write to m0 is discarded (R47, R165). -/
def Core.setMask (c : Core) (m : Fin 8) (v : BitVec 64) : Core := if m = 0 then c else { c with m := c.m.set m v }

/-- A register, latch or predicate that a result can be destined for (R131). -/
inductive Res where
  | sreg (r : Fin 32)
  | latch (b : Fin 4)
  | pred (p : Fin 8)
  deriving DecidableEq, Repr

/-- Whether a write of a result in flight is destined for the resource. -/
def Wr.hits (w : Wr) (r : Res) : Bool :=
  match w, r with
  | .sreg a _, .sreg b => a == b
  | .latch a _, .latch b => a == b
  | .pred a _, .pred b => a == b
  | _, _ => false

/-- Whether a resource has a result in flight (R131). -/
def SeqSt.busy (q : SeqSt) (r : Res) : Bool := q.pend.any fun p => p.writes.any fun w => w.hits r

/-! ### Queues -/

/-- The entry of a queue at a place from the head, when it is filled (R144). -/
def QueueSt.entry (q : QueueSt) (i : Nat) : Option VWord :=
  match q.ents[i]? with
  | some (.filled v) => some v
  | some .reserved => none
  | none => none
/-- Whether a queue has room for a reservation: entries and those freed in this rc count as occupied (R144). -/
def QueueSt.room (q : QueueSt) : Bool := decide (q.ents.length + q.freed < 4)
/-- A reservation at the tail (R144); the answer is its place in the order of reservations. -/
def QueueSt.reserve (q : QueueSt) : QueueSt × Nat :=
  ({ q with ents := q.ents ++ [.reserved] }, q.popped + q.ents.length)
/-- A reserved entry filled (R144); data for an entry that is gone is dropped (R148). -/
def QueueSt.fill (q : QueueSt) (place : Nat) (v : VWord) : QueueSt :=
  if q.popped ≤ place then
    { q with ents := q.ents.mapIdx fun i e => if i = place - q.popped then .filled v else e }
  else q
/-- Entries popped from the head. -/
def QueueSt.pop (q : QueueSt) (n : Nat) : QueueSt :=
  { q with popped := q.popped + min n q.ents.length, ents := q.ents.drop n, freed := q.freed + min n q.ents.length }

/-- A queue changed. -/
def Core.modQ (c : Core) (q : Fin 8) (f : QueueSt → QueueSt) : Core := { c with q := c.q.set q (f c.q[q]) }

/-- How many of the selectors pop a queue. -/
def popsOf (q : Fin 8) (l : List Sel) : Nat := (l.filter fun x => x == .pop q).length

/-- The selectors before position i. -/
def before (l : List Sel) (i : Nat) : List Sel := l.take i

/-- The queue entry an operand reads, after the pops of the operands before it (R46). -/
def Core.queueVal (c : Core) (names : List Sel) (i : Nat) (q : Fin 8) : Option VWord :=
  (c.q[q]).entry (popsOf q (before names i))

/-- Whether the queue of operand i has the entry it would take (R46, R144). -/
def Core.operandReady (c : Core) (names : List Sel) (i : Nat) : Bool :=
  match names[i]? with
  | some (.pop q) => (c.queueVal names i q).isSome
  | some (.peek q) => (c.queueVal names i q).isSome
  | _ => true

/-- The queues the operands name. -/
def queuesOf (names : List Sel) : List (Fin 8) :=
  names.filterMap fun x => match x with
    | .pop q => some q
    | .peek q => some q
    | _ => none

/-- The lowest-numbered queue that lacks entries for its pops and peeks, or room for a push (check 3 of R99). -/
def Core.queueFail (c : Core) (names : List Sel) (push : Option (Fin 8)) : Option (Fin 8) :=
  ([0, 1, 2, 3, 4, 5, 6, 7] : List (Fin 8)).find? fun q =>
    ((List.range names.length).any fun i =>
      (match names[i]? with
       | some (.pop x) => x == q
       | some (.peek x) => x == q
       | _ => false) && !c.operandReady names i) ||
    (push == some q && !(c.q[q]).room)

/-- Whether a queue's producer has arrived (R147): L for q0 to q5; for q6 and q7 C, with no drain of the region left
to run. -/
def Core.producerDone (c : Core) (q : Fin 8) : Bool :=
  if q.val < 6 then (c.sq 1).arrival.isSome
  else (c.sq 2).arrival.isSome && !(c.drains.any fun d => !d.finished)

/-- Whether a pop of the operands finds a queue with no entry at all, reserved ones counting, after its producer has
arrived (R34, R147). DESIGN CHOICE (log 45): the second of two pops of one queue that holds a single entry finds it empty. -/
def Core.underflow (c : Core) (names : List Sel) : Bool :=
  (queuesOf names).any fun q =>
    decide ((c.q[q]).ents.length < max 1 (popsOf q names)) && c.producerDone q && decide (0 < popsOf q names)

/-- The value of operand i as a scalar: a register, the low bits of a latch, or of a queue entry (R46, R47). -/
def Core.scalar (c : Core) (sq : Fin 4) (names : List Sel) (i : Nat) : Word64 :=
  match names[i]? with
  | some (.reg r) => (c.sq sq).sreg r
  | some (.latch b) => ((c.sq sq).b[b]).setWidth 64
  | some (.pop q) => ((c.queueVal names i q).getD 0).setWidth 64
  | some (.peek q) => ((c.queueVal names i q).getD 0).setWidth 64
  | none => 0

/-- The value of operand i as 2,048 bits (R45, R146): a v register, a latch of C, or a whole queue entry. -/
def Core.vector (c : Core) (names : List Sel) (i : Nat) : VWord :=
  match names[i]? with
  | some (.reg r) => c.v[r]
  | some (.latch b) => (c.sq 2).b[b]
  | some (.pop q) => (c.queueVal names i q).getD 0
  | some (.peek q) => (c.queueVal names i q).getD 0
  | none => 0

/-- The pops of an instruction performed, once per instruction (R46). -/
def Core.doPops (c : Core) (names : List Sel) : Core :=
  { c with q := Vector.ofFn fun q : Fin 8 => if popsOf q names = 0 then c.q[q] else (c.q[q]).pop (popsOf q names) }

/-! ### Token counters -/

/-- The counters a sequencer's ring bits name (R25): waits P and N, signals P and N. -/
def waitP : Fin 4 → Fin 8
  | 0 => 3 | 1 => 0 | 2 => 1 | 3 => 2
/-- The counter WN waits on (R25). -/
def waitN : Fin 4 → Fin 8
  | 0 => 4 | 1 => 5 | 2 => 6 | 3 => 7
/-- The counter SP raises (R25). -/
def sigP : Fin 4 → Fin 8
  | 0 => 7 | 1 => 4 | 2 => 5 | 3 => 6
/-- The counter SN raises (R25). -/
def sigN : Fin 4 → Fin 8
  | 0 => 0 | 1 => 1 | 2 => 2 | 3 => 3
/-- The signaller of a counter (R25). -/
def signaller : Fin 8 → Fin 4
  | 0 => 0 | 1 => 1 | 2 => 2 | 3 => 3 | 4 => 1 | 5 => 2 | 6 => 3 | 7 => 0

/-- The counters a ring field waits on. -/
def ringWaits (q : Fin 4) (r : Ring) : List (Fin 8) :=
  (if r.wp then [waitP q] else []) ++ (if r.wn then [waitN q] else [])
/-- The counters a ring field signals. -/
def ringSigs (q : Fin 4) (r : Ring) : List (Fin 8) :=
  (if r.sp then [sigP q] else []) ++ (if r.sn then [sigN q] else [])
/-- The counters a second word's signals name (R42). -/
def compSigs (q : Fin 4) (c : Comp) : List (Fin 8) :=
  (if c.sp then [sigP q] else []) ++ (if c.sn then [sigN q] else [])

/-- Whether a signal has room on a counter: no signal has raised it in this rc, since a counter changes at most once in an
rc, and v − w + 1 ≤ 15 with v the value at the start of the rc, and w 1 when a wait on it is granted in this rc, by this
instruction or, in the largest issuing set of R100, by another. -/
def Core.sigRoom (c : Core) (waits : List (Fin 8)) (x : Fin 8) : Bool :=
  !c.signalled[x] && (decide (c.tok0[x] < 15) || c.waited[x] || c.assume[x] || waits.contains x)

/-- The lowest counter whose wait or signal fails (check 2 of R99). -/
def Core.tokenFail (c : Core) (q : Fin 4) (r : Ring) (signals : Bool) : Option (Fin 8) :=
  let ws := ringWaits q r
  let ss := if signals then ringSigs q r else []
  ([0, 1, 2, 3, 4, 5, 6, 7] : List (Fin 8)).find? fun x =>
    (ws.contains x && decide (c.tok0[x] = 0)) || (ss.contains x && !c.sigRoom ws x)

/-- Whether some completion signal on a counter is still to come from its signaller (R34, cause 0x03): one offered, or that of a
result in flight, of an atomic that waits for its rendezvous, or of an engine's work. -/
def Core.signalPending (c : Core) (x : Fin 8) : Bool :=
  let q := signaller x
  c.offered.contains x ||
  (((c.sq q).arrival.map fun a => (compSigs q a.comp).contains x).getD false) ||
  ((c.sq q).pend.any fun p => (compSigs q p.comp).contains x) ||
  (q == 1 && c.tloads.any fun t => (compSigs 1 t.comp).contains x) ||
  (q == 2 && (c.mmas.any (fun m => (compSigs 2 m.comp).contains x) ||
    c.drains.any (fun d => (compSigs 2 d.comp).contains x)))

/-- Tokens taken and raised at issue (R26, R100). -/
def Core.doTokens (c : Core) (q : Fin 4) (r : Ring) (signals : Bool) : Core :=
  let ws := ringWaits q r
  let ss := if signals then ringSigs q r else []
  { c with
    tok := Vector.ofFn fun x : Fin 8 =>
      c.tok[x] + (if ss.contains x then 1 else 0) - (if ws.contains x then 1 else 0)
    waited := Vector.ofFn fun x : Fin 8 => c.waited[x] || ws.contains x
    signalled := Vector.ofFn fun x : Fin 8 => c.signalled[x] || ss.contains x }

/-- A second word's signals offered (R101). -/
def Core.offer (c : Core) (q : Fin 4) (x : Comp) : Core := { c with offered := c.offered ++ compSigs q x }

/-! ### Program counter and hardware loops -/

/-- Whether a loop's body holds an address (R108). -/
def LoopSt.holds (h : LoopSt) (a : BitVec 48) : Bool := decide (h.start ≤ a ∧ a < h.stop)

/-- The end tests at a word (R106): the most recently started loop first, the next only when it exits. The answer is
the loops, the active list and the next address; `hit` reports the loops that were tested and left or kept. -/
def endTests (lw : BitVec 48) (h : Vector LoopSt 4) : List (Fin 4) → Vector LoopSt 4 × List (Fin 4) × BitVec 48 × Bool
  | [] => (h, [], lw + 4, false)
  | i :: rest =>
    let l := h[i]
    if l.stop = lw + 4 then
      let l' := { l with iter := l.iter + 1 }
      let h' := h.set i l'
      if l.iter.toNat + 1 < l.total then (h', i :: rest, l.start, true)
      else
        let (h'', live, n, _) := endTests lw h' rest
        (h'', live, n, true)
    else
      let (h'', live, n, b) := endTests lw h rest
      (h'', i :: live, n, b)

/-- The program counter past an instruction of `len` words, with its end test (R106, R107). -/
def SeqSt.advance (q : SeqSt) (len : Nat) : SeqSt :=
  let lw := q.pc + BitVec.ofNat 48 (4 * (len - 1))
  let (h, live, n, _) := endTests lw q.h q.live
  { q with h := h, live := live, pc := n }.stage

/-- A taken branch (R108): a loop whose body does not hold the target ends, with every loop started after it. -/
def SeqSt.jump (q : SeqSt) (t : BitVec 48) : SeqSt :=
  { q with pc := t, live := (q.live.reverse.takeWhile fun i => (q.h[i]).holds t).reverse }

/-- Whether a two-word instruction's first word lies at the last word of an active loop's body (R106). -/
def SeqSt.splitsLoop (q : SeqSt) : Option (Fin 4) := q.live.find? fun i => (q.h[i]).stop = q.pc + 4

/-! ### The issue of an instruction -/

/-- The guard of an instruction (R43): a predicate, a lane mask, or none. -/
inductive Guard where
  | pred (h : Hdr)
  | mask (h : Hdr)
  | none
  deriving DecidableEq, Repr

/-- What `issue` must know of an instruction: words, ring field, second-word signals, guard, the operands in the order A, B, C
(R46), the queue it pushes, whether its selectors name scalar registers, and the further registers it reads and those it writes,
the v registers it touches, the masks it reads as sources, whether C interlocks on its guard and selectors (R132), and whether
it arrives at a rendezvous when its guard holds, so that its signals come after completion (R111, R113). -/
structure Op where
  len : Nat
  ring : Ring
  comp : Comp
  guard : Guard
  names : List Sel
  push : Option (Fin 8)
  scalars : List Sel
  reads : List Res
  writes : List Res
  vregs : List (Fin 32)
  masks : List (Fin 8)
  lock : Bool
  arr : Bool
  deriving DecidableEq, Repr

/-- Where an issued instruction leaves its sequencer: past itself, at a branch target with the branch's cost (R104), at
the address LOOP gives, or arrived at a rendezvous. -/
inductive Next where
  | seq
  | jump (t : BitVec 48) (pay : Nat)
  | loop (t : BitVec 48)
  | arrive (a : Arrival)

/-- The end of an instruction's body: done, with whether its completion comes later; a stall with its class; or a
trap with its cause, detail word and address. -/
inductive Out where
  | done (s : State) (n : Next) (late : Bool)
  | stall (cls : Nat) (s : State)
  | trap (cause detail addr : Nat) (s : State)
  | yield (s : State)

/-- An instruction's head stalled with a class (R99, R379); an uninterrupted stall keeps its start (R34). -/
def State.stallWith (s : State) (cls : Nat) : State :=
  s.modMySeq fun q => { q with stall := some (cls, match q.stall with
    | some (_, t) => t
    | none => s.rc) }

/-- A trap of the current sequencer's head instruction (R34, R36). -/
def State.trapHere (s : State) (cause detail addr : Nat) : State :=
  let c := s.me
  let (w1, w2) := c.headWords s.curSeq.idx
  s.takeTrap s.curCore (Rep.trap cause s.curSeq.idx detail (c.sq s.curSeq.idx).pc.toNat w1 w2 addr)

/-- Whether a guard is the never guard (R43). -/
def Guard.never : Guard → Bool
  | .pred h => h.gn && h.gp == 0
  | .mask h => h.gn && h.gp == 0
  | .none => false

/-- The predicate a guard reads (R99: an interlocked source in K, L and S). -/
def Guard.res : Guard → List Res
  | .pred h => if h.gp = 0 then [] else [.pred h.gp]
  | .mask _ => []
  | .none => []

/-- The value of a predicate guard; a mask guard acts lane by lane (R43). -/
def Guard.holds (g : Guard) (q : SeqSt) : Bool :=
  match g with
  | .pred h => q.pred h.gp != h.gn
  | .mask _ => true
  | .none => true

/-- The class of a stall on a bank's wake (R198, R379). -/
def wakeClass (q : Fin 4) : Nat := 0x10 + (if q = 3 then 21 else if q = 2 then 22 else 20)

/-- The banks of the named v registers met at issue (R171 rule 1, R196), the lowest-numbered first (R199): off faults,
retention wakes. -/
def Core.vbankState (c : Core) (vs : List (Fin 32)) : Option Nat × Option Nat :=
  let ks := ([256, 257, 258, 259] : List Nat).filter fun k => vs.any fun r => 256 + r.val / 8 == k
  (ks.find? fun k => (c.bank k).state == .off, ks.find? fun k => (c.bank k).state != .full)

/-- The detail word of the bank-off fault (R199). -/
def bankDetail (agent : Nat) (k : CoreId) (kind reason bank : Nat) : Nat :=
  agent * 2 ^ 28 + k.val * 2 ^ 24 + kind * 2 ^ 22 + reason * 2 ^ 20 + bank % 256

/-- An access stalled on banks: each in retention starts a wake, and the access waits on each (R190, R196, R197). -/
def Core.wakeAll (c : Core) (rc : Nat) (w : Waiter) (ks : List Nat) : Core :=
  ks.foldl (fun c k =>
    let b := c.bank k
    let c := if b.state = .retention then c.startWake rc k 48 else c
    if (c.bank k).state = .waking then
      c.modBank k fun b => { b with waiters := if b.waiters.contains w then b.waiters else b.waiters ++ [w] }
    else c) c

/-- An accepted access leaves the lists of the wakes it waited on (R190). -/
def Core.unwait (c : Core) (w : Waiter) : Core :=
  if c.banks.any fun b => b.2.waiters.contains w then
    { c with banks := c.banks.map fun b => (b.1, { b.2 with waiters := b.2.waiters.filter fun x => x != w }) }
  else c

/-- Whether the debug port asks for a stop at the issue of an address by a sequencer (R391). -/
def Core.breakAt (c : Core) (q : Fin 4) (pc : BitVec 48) : Bool :=
  (List.range 4).any fun i =>
    let b := c.dbgbp[(Fin.ofNat 4 i : Fin 4)]
    bvf b 63 1 == 1 && bvf b 62 1 == 0 && bvf b 60 2 == q.val && bvf b 0 48 == pc.toNat

/-- Whether the end test at this issue leaves a loop at a breakpoint's iteration (R391, MODE 1). -/
def Core.breakLoop (c : Core) (q : Fin 4) (old new : SeqSt) : Bool :=
  (List.range 4).any fun i =>
    let b := c.dbgbp[(Fin.ofNat 4 i : Fin 4)]
    bvf b 63 1 == 1 && bvf b 62 1 == 1 && bvf b 60 2 == q.val &&
      ([0, 1, 2, 3] : List (Fin 4)).any fun j =>
        (old.h[j]).iter != (new.h[j]).iter && (new.h[j]).lid.toNat == bvf b 48 8 &&
          (new.h[j]).iter.toNat == bvf b 0 32

/-- Whether a step of K, L or S is under way (R393). -/
def Core.stepping (c : Core) : Bool := c.dbg == .stepping false || c.dbg == .stepping true

/-- Whether a stop in step mode lets the windows of the vector and matrix work run on (R393): the four sequencers have been stepped
to a rendezvous that completes. DESIGN CHOICE (log 46): the cycle of a step of C takes its work on and leaves its windows where they
are. -/
def Core.stepRuns (c : Core) : Bool :=
  bvf c.dbgctl 27 1 == 1 && (c.mid.isSome || ([0, 1, 2, 3] : List (Fin 4)).all fun q => (c.sq q).arrival.isSome)

/-- Whether a debug stop suspends what counts in rc (R391). -/
def Core.suspended (c : Core) : Bool := c.stopped && !c.stepRuns

/-- A debug stop triggered by a sequencer, when none is pending or under way (R391). -/
def Core.askStop (c : Core) (q : Fin 4) : Core := if c.dbg = .running then { c with dbg := .pending q } else c

/-- Whether the instruction arrives at a rendezvous. -/
def Next.arrives : Next → Bool
  | .arrive _ => true
  | .seq => false
  | .jump _ _ => false
  | .loop _ => false

/-- Where the end of an issue leaves a sequencer: its program counter and loops, the cost of a branch, an arrival. -/
def Next.apply (n : Next) (len : Nat) (x : SeqSt) : SeqSt :=
  let x := { x with stall := none, fresh := false }
  match n with
  | .seq => x.advance len
  | .jump t n => { (x.jump t) with pay := n }
  | .loop t => { x with pc := t }
  | .arrive a => { (x.advance len) with arrival := some a, apc := x.pc }

/-- Whether an instruction that issues reads a place (R126, R185, R348): its guard always, and when the guard holds its selectors
and the further registers it names; MMA and DRAIN read at their issue the v registers that their program's DLDP names (R227). -/
def Op.readsPlace (op : Op) (q : Fin 4) (goes : Bool) (p : Place) : Bool :=
  match p with
  | .sreg x r => x == q && goes && (op.scalars.contains (.reg r) || op.reads.contains (.sreg r))
  | .latch x b => x == q && goes && (op.names.contains (.latch b) || op.reads.contains (.latch b))
  | .pred x y => x == q && (op.guard.res.contains (.pred y) || (goes && op.reads.contains (.pred y)))
  | .lane r _ => q == 2 && goes && ((op.names.contains (.reg r) && !op.scalars.contains (.reg r)) || (match op.guard with
    | .pred _ => op.vregs.contains r
    | .mask _ => false
    | .none => false))
  | .mask m => q == 2 && ((goes && op.masks.contains m) || (match op.guard with
    | .mask h => h.gp == m
    | .pred _ => false
    | .none => false))
  | .queue _ _ => false
  | .tile _ _ => false
  | .acc _ _ => false
  | .byte _ => false
  | .special _ => false

/-- Whether an end test was made between two states of a sequencer (R106). -/
def SeqSt.tested (a b : SeqSt) : Bool := ([0, 1, 2, 3] : List (Fin 4)).any fun j => (a.h[j]).iter != (b.h[j]).iter

/-- Whether the end of an issue writes p4 to p7 anew: at LOOP.SWP, and at an end test of the SWP loop that keeps it active
(R107). -/
def Next.stages (n : Next) (len : Nat) (x : SeqSt) : Bool :=
  let y := x.advance len
  let kept : Bool := match y.swpLoop with
    | some i => (y.h[i]).iter != (x.h[i]).iter
    | none => false
  match n with
  | .seq => kept
  | .arrive _ => kept
  | .jump _ _ => false
  | .loop _ => x.swpLoop.isSome && x.swpLoop == x.live.head?

/-- The stage predicates of a sequencer that an SWP loop writes hold no bad bits any more (R107, R126). -/
def Notes.staged (n : Notes) (q : Fin 4) : Notes :=
  n.kept fun p => match p with
    | .pred x b => x != q || decide (b.val < 4)
    | _ => true

/-- The bad places that an instruction reads (R126). -/
def Core.noteReads (c : Core) (q : Fin 4) (op : Op) (goes : Bool) : Core :=
  { c with notes := { c.notes with
      hit := c.notes.hit ++ (c.notes.bad.filter fun p => op.readsPlace q goes p).map fun p => (p, q, (c.sq q).pc) } }

/-- How many rc after an rc a debug stop has held the work of the vector and matrix domains (R391). -/
def Notes.frozenSince (n : Notes) (rc : Nat) : Nat := ((n.froze.filter fun e => decide (rc < e.1)).map Prod.snd).sum

/-- What an issue leaves for the detectors: the bad places that it reads (R126), those that its end writes, and of a mask-guarded
instruction the lanes that take effect (R185), kept for the 12 cycles that it takes at most (R169) and the 20 rc of a report. -/
def Core.noteIssue (c : Core) (rc : Nat) (q : Fin 4) (op : Op) (goes staged : Bool) : Core :=
  let n := (c.noteReads q op goes).notes
  let pc := (c.sq q).pc
  { c with notes :=
    { (if staged then n.staged q else n) with
      ops := match op.guard with
        | .mask h => (pc, rc, c.lanes h) :: n.ops.filter fun e => decide (rc ≤ e.2.1 + 20 + 12 * (c.clk .vector).div + n.frozenSince e.2.1)
        | .pred _ => n.ops
        | .none => n.ops } }

/-- What an issue does to a core before its sequencer moves: tokens, pops, completion, wake lists, counters, notes for the
detectors (R26, R46, R99, R126, R185, R190, R382). -/
def Core.leave (c : Core) (k : CoreId) (rc : Nat) (q : Fin 4) (op : Op) (pops arrives late staged : Bool) : Core :=
  let c := c.doTokens q op.ring (!arrives)
  let c := if pops then c.doPops op.names else c
  let c := if late || arrives then c else c.offer q op.comp
  ((c.unwait (.seqr k q)).count 0x02 q.val 0 true).noteIssue rc q op pops staged

/-- A breakpoint's request, and a pending debug stop that is due at a loop's end or with no loop active (R391). -/
def Core.watch (c : Core) (q : Fin 4) (on : Bool) (old : SeqSt) : Core :=
  let tested := old.tested (c.sq q)
  let c := if on ∧ (c.breakAt q old.pc ∨ c.breakLoop q old (c.sq q)) then c.askStop q else c
  if c.dbg = .pending q ∧ (tested ∨ (c.sq q).live.isEmpty) then { c with dbg := .due q } else c

/-- The last part of an issue: tokens, pops, the program counter with its end test, completion, counters and
breakpoints (R26, R46, R99, R106, R382, R391). -/
def State.retire (s : State) (op : Op) (pops : Bool) (n : Next) (late : Bool) : State :=
  let q := s.curSeq.idx
  let perm := (s.die (dieOf s.curCore)).dbgperm
  s.modMe fun c =>
    ((c.leave s.curCore s.rc q op pops n.arrives late (n.stages op.len (c.sq q))).modSeq q (n.apply op.len)).watch q (bvf perm c.part.val 1 == 1) (c.sq q)

/-- The registers and latches that an instruction's scalar selectors read (R131). -/
def selRes (l : List Sel) : List Res :=
  l.filterMap fun y => match y with
    | .reg r => if r = 0 then none else some (Res.sreg r)
    | .latch b => some (Res.latch b)
    | .pop _ => none
    | .peek _ => none

/-- Whether an interlock of check 4 holds the instruction (R99, R131, R132): K, L and S wait for every register,
predicate and latch it reads, and for earlier results destined for a register it writes; C only for the guard of a
branch, the target of JR and the count of LOOP. -/
def SeqSt.interlocked (x : SeqSt) (q : Fin 4) (op : Op) : Bool :=
  ((q != 2 || op.lock) && (selRes op.scalars ++ op.reads).any x.busy) || (q != 2 && op.writes.any x.busy)

/-- The end of an issue: a two-word instruction whose first word lies at the end of a loop's body raises the loop
fault instead (R106, R109); the detail is the loop's number and identity. -/
def State.finish (s0 s : State) (op : Op) (pops : Bool) (n : Next) (late : Bool) : State :=
  let x := s0.mySeq
  match (if op.len = 2 then x.splitsLoop else none) with
  | some i => s0.trapHere 0x14 (i.val * 256 + (x.h[i]).lid.toNat) 0
  | none => s.retire op pops n late

/-- The bad bits that an instruction which traps on its operands has read, noted (R126): their report takes the trap's place
(R35). -/
def State.noted (s : State) (op : Op) : State := s.modMe fun c => c.noteReads s.curSeq.idx op true

/-- THE ISSUE of an instruction by the current sequencer, through the checks of R99 after decoding: token waits and
room, queues, the guard, interlocks, then the instruction's own checks and effect in `body`; L issues nothing while the
data of an acquire load is outstanding (R302). A trap of the body has read its operands, so that bad bits in one are reported in
its place (R35, R126). A stall, a trap taken and an issue are all next states. -/
def issue (op : Op) (body : State → Out) (s : State) : Host.Outcome State Fault Refusal :=
  let q := s.curSeq.idx
  let c := s.me
  let x := c.sq q
  let arriving := op.arr && !op.guard.never && (op.guard.res.any x.busy || op.guard.holds x)
  match c.tokenFail q op.ring (!arriving) with
  | some t =>
    let lost := (ringWaits q op.ring).any fun w =>
      decide (c.tok0[w] = 0) && !c.signalled[w] && (c.sq (signaller w)).arrival.isSome && !c.signalPending w
    let s := s.stallWith (0x10 + t.val)
    .next (if lost then s.modMe fun c => { c with detected := c.detected ++ [(3, q)] } else s)
  | none =>
    match c.queueFail op.names op.push with
    | some t =>
      let s := s.stallWith (0x18 + t.val)
      .next (if c.underflow op.names then s.modMe fun c => { c with detected := c.detected ++ [(2, q)] } else s)
    | none =>
      if q = 1 ∧ c.loads.any (fun l => l.acq) then .next (s.stallWith 2)
      else if op.guard.never then .next (s.finish s op false .seq false)
      else if (q != 2 || op.lock) && op.guard.res.any x.busy then .next (s.stallWith 2)
      else if !op.guard.holds x then .next (s.finish s op false .seq false)
      else if x.interlocked q op then .next (s.stallWith 2)
      else
        match c.vbankState op.vregs with
        | (some k, _) => .next (s.trapHere 0x24 (bankDetail 2 s.curCore 1 0 (k - 256)) 0)
        | (none, some _) =>
          .next ((s.modMe fun c => c.wakeAll s.rc (.seqr s.curCore 2)
            (op.vregs.map fun r => 256 + r.val / 8)).stallWith (wakeClass 2))
        | (none, none) =>
          match body s with
          | .done s' n late => .next (s.finish s' op true n late)
          | .stall cls s' => .next (s'.stallWith cls)
          | .trap cause detail addr s' => .next ((s'.noted op).trapHere cause detail addr)
          | .yield s' => .next s'

/-- The registers a destination field writes, as interlock resources (R131: registers, not latches; log 14). -/
def destRes (d : Dest) : List Res :=
  match d with
  | .reg r => if r = 0 then [] else [.sreg r]
  | .latch => []

/-- The writes of a scalar result: the latch of its class always, the register unless N = 1 (R47). -/
def destWr (d : Dest) (latch : Fin 4) (v : Word64) : List Wr :=
  match d with
  | .reg r => [.latch latch (v.setWidth 2048), .sreg r v]
  | .latch => [.latch latch (v.setWidth 2048)]

/-- A result put in flight (R130, R169): due `lat` cycles of the sequencer's domain after this one. -/
def State.produce (s : State) (lat : Nat) (ws : List Wr) (comp : Comp) : State :=
  s.modMe fun c =>
    let d := seqDom s.curSeq
    { c.modSeq s.curSeq.idx fun q => { q with pend := q.pend ++ [⟨c.nextId, .cycle d ((c.clk d).cyc + lat), ws, comp⟩] }
      with nextId := c.nextId + 1 }

/-- The scalar operand i of the current sequencer. -/
def State.val (s : State) (names : List Sel) (i : Nat) : Word64 := s.me.scalar s.curSeq.idx names i

/-- No second word's signals. -/
def compNone : Comp := ⟨false, false⟩

/-- A one-word predicate-guarded instruction with scalar operands. -/
def op1 (h : Hdr) (names : List Sel) (reads writes : List Res) : Op :=
  ⟨1, h.ring, compNone, .pred h, names, none, names, reads, writes, [], [], false, false⟩
/-- A two-word predicate-guarded instruction with scalar operands. -/
def op2 (h : Hdr) (c : Comp) (names : List Sel) (reads writes : List Res) : Op :=
  ⟨2, h.ring, c, .pred h, names, none, names, reads, writes, [], [], false, false⟩

end Sys2Proof.Machine
end

