-- ==== Sys2Proof/Machine/Bank.lean ====
section
/-! DEFINITION. Bank supply (spec/08): BANK and VBANK, the end of a wake, and the census. -/

namespace Sys2Proof.Machine

/-- A supply request of the current rc (R190, R191), decided at its end. -/
def Core.ask (c : Core) (k : Nat) (s : SupplyReq) : Core := { c with breqs := c.breqs ++ [(k, s)] }

/-- R193: requests a state for 1 to 16 consecutive local banks, without waiting. -/
def execBank (h : Hdr) (a : Sel) (st : SupplyReq) (cnt : Fin 16) (s : State) : Host.Outcome State Fault Refusal :=
  issue (op1 h [a] [] []) (fun s =>
    let f := (s.val [a] 0).toNat
    let agent := s.curSeq.idx.val
    if 255 < f + cnt.val then .trap 0x24 (bankDetail agent s.curCore 0 2 (f % 256)) 0 s
    else if lscap = 0x1000000 ∧ 128 ≤ f + cnt.val then .trap 0x24 (bankDetail agent s.curCore 0 1 (max f 128)) 0 s
    else
      .done (s.modMe fun c => (List.range (cnt.val + 1)).foldl (fun c i => c.ask (f + i) st) c) .seq false) s

/-- R194: requests a state for vector banks, without waiting. -/
def execVbank (h : Hdr) (st : SupplyReq) (mask : BitVec 4) (s : State) : Host.Outcome State Fault Refusal :=
  issue (op1 h [] [] []) (fun s =>
    .done (s.modMe fun c => (List.range 4).foldl (fun c i => if bvf mask i 1 = 1 then c.ask (256 + i) st else c) c)
      .seq false) s

/-- R187, R197: a wake has ended; the bank is full, and a queued wake takes its place. A bank that no access waits for
moves to a pending retention at the end of this rc (R190). -/
def execWakeEnd (k : CoreId) (b : Fin 260) (s : State) : Host.Outcome State Fault Refusal :=
  .next (s.modCore k fun c =>
    match (c.bank b.val).wakeEnd with
    | some t =>
      if t < s.rc then
        (c.modBank b.val fun x => { x with state := .full, wakeEnd := none }).pumpWakes s.rc 16
      else c
    | none => c)

/-- The existing supply banks of a core (R186, R202). -/
def bankNumbers : List Nat := (List.range 260).filter fun b => decide (256 ≤ b ∨ b * 131072 < lscap)

/-- The banks of a core in full or waking, and in retention (R204). -/
def Core.bankCounts (c : Core) : Nat × Nat :=
  ((bankNumbers.filter fun b => (c.bank b).state == .full || (c.bank b).state == .waking).length,
   (bankNumbers.filter fun b => (c.bank b).state == .retention).length)

/-- The cores of a die (R2). -/
def coresOf (d : Fin 2) : List CoreId := (List.range 8).map fun i => Fin.ofNat 16 (8 * d.val + i)

/-- R204: the counts of every core of a die are reported; retired cores are left out (R358). -/
def execBankCensus (d : Fin 2) (s : State) : Host.Outcome State Fault Refusal :=
  .next (s.modDie d fun x => { x with
    census := ((coresOf d).filter fun k => !(s.core k).retired).map fun k => (k, (s.core k).bankCounts) })

end Sys2Proof.Machine
end

