-- ==== Sys2Proof/Machine/Flags.lean ====
section
/-! DEFINITION. Flag computations: the predicates of compares and of predicate logic (R137, R138, R57), and the format
exceptions of FMTERR (R83, R84). -/

namespace Sys2Proof.Machine

/-- The conditions of the scalar compares (R137). -/
def cmpEqC (a b : Word64) : Bool := a == b
/-- Signed less than (R137). -/
def cmpLtC (a b : Word64) : Bool := a.slt b
/-- Unsigned less than (R137). -/
def cmpLtuC (a b : Word64) : Bool := a.ult b

/-- The predicate writes of a compare (R137): p[PT] takes the condition and p[PF], when it is another, its negation;
writes to p0 are discarded. -/
def cmpWrites (pt pf : Fin 8) (c : Bool) : List Wr :=
  (if pt = 0 then [] else [.pred pt c]) ++ (if pf = pt ∨ pf = 0 then [] else [.pred pf (!c)])

/-- The predicate write of predicate logic (R138): a write to p0 is discarded. -/
def plWrites (xd : Fin 8) (v : Bool) : List Wr := if xd = 0 then [] else [.pred xd v]

/-- A predicate as an interlock resource: p0 is none. -/
def predRes (p : Fin 8) : List Res := if p = 0 then [] else [.pred p]

/-- The active SWP loop, when a destination is one of p4 to p7 (R107). -/
def SeqSt.stageDest (q : SeqSt) (ps : List (Fin 8)) : Option (Fin 4) :=
  if ps.any fun p => decide (4 ≤ p.val) then q.swpLoop else none

/-- The detail word of a loop fault (R109): the loop's number and identity. DESIGN CHOICE (log 42): their places in the word, and
that a LOOP that faults names its own identity. -/
def loopDetail (q : SeqSt) (i : Fin 4) : Nat := i.val * 256 + (q.h[i]).lid.toNat

/-- FMTERR as MFSR reads it (R84): the committed bits and the pending bits of results already produced. -/
def Core.fmterrRead (c : Core) : BitVec 6 := c.fmterr ||| c.fmtpend
/-- An MTSR to FMTERR clears the bits it names in both copies (R84). -/
def Core.fmterrClear (c : Core) (m : BitVec 6) : Core :=
  { c with fmterr := c.fmterr &&& ~~~m, fmtpend := c.fmtpend &&& ~~~m }
/-- Flags of a produced result, held pending (R84). -/
def Core.fmterrRaise (c : Core) (f : BitVec 6) : Core := { c with fmtpend := c.fmtpend ||| f }
/-- The pending flags merged at the commit (R84). -/
def Core.fmterrCommit (c : Core) : Core := { c with fmterr := c.fmterr ||| c.fmtpend, fmtpend := 0 }

end Sys2Proof.Machine
end

