-- ==== Sys2Proof/Machine/Xlate.lean ====
section
/-! DEFINITION. Translation (spec/13): the page-table walk, the TLBs, faults and fault requests, shoot-downs and
migration counters; instruction fetch through the I-caches (R115) with PREFI; PREF. -/

namespace Sys2Proof.Machine

/-! ### The walk -/

/-- The first address of the system range (R254). -/
def sysBase : Nat := 0x4000000000

/-- Whether every byte of [lo, hi] is populated (R254): a stack's first 48 × 10⁹ bytes; the system range is. -/
def populated (lo hi : Nat) : Bool :=
  if lo < sysBase then
    decide (lo / 2 ^ 36 = hi / 2 ^ 36 ∧ hi % 2 ^ 36 < 48000000000)
  else decide (hi < 2 ^ 40)

/-- The index of an address at a level of the tables, levels A to D as 0 to 3 (R255). -/
def ptIndex (lvl va : Nat) : Nat :=
  match lvl with
  | 0 => va / 2 ^ 39 % 512
  | 1 => va / 2 ^ 30 % 512
  | 2 => va / 2 ^ 21 % 512
  | _ => va / 2 ^ 16 % 32

/-- The size of a leaf's page at a level (R255). -/
def leafSize (lvl : Nat) : Nat :=
  match lvl with
  | 0 => 2 ^ 39
  | 1 => 2 ^ 30
  | 2 => 2 ^ 21
  | _ => 2 ^ 16

/-- Whether a leaf's permissions allow a kind of access (R257). -/
def permits (kind : AccKind) (r w x : Bool) : Bool :=
  match kind with
  | .fetch => x
  | .load => r
  | .store => w
  | .atomic => r && w

/-- Whether an access of a kind and scope may reach a physical address (R254): the system range only at scope system,
and never by fetch. -/
def scopeOk (kind : AccKind) (scope : Scope) (pa : Nat) : Bool :=
  decide (pa < sysBase) || (scope == .sys && kind != .fetch)

/-- Whether an access may not reach the HBM of a die: it is lost (R363), and not merely in the drain of a reset that lets the
access run on (R366). -/
def Die.gone (x : Die) (runs : Bool) : Bool := x.lost && !(runs && x.rstphase == 2)

/-- The die whose HBM holds a physical address below the system range (R254). -/
def hbmDie (pa : Nat) : Fin 2 := if pa / 2 ^ 37 % 2 = 1 then 1 else 0

/-- The walk of R255 from level `lvl` with table `t`, `n` levels to go. DESIGN CHOICE (log 46): an entry on a poisoned line is
read as it stands, since R262 knows no such fault, and a table in the system range is read as memory (R254). -/
def State.walkFrom (s : State) (d : Fin 2) (p : PartId) (va : Nat) (kind : AccKind) (runs : Bool) (t : Nat) :
    Nat → Nat → Except XFault TlbEnt
  | 0, lvl => .error ⟨2, lvl⟩
  | n + 1, lvl =>
    let e := BitVec.ofNat 64 (s.mem.readLE (t + 8 * ptIndex lvl va) 8)
    let leaf := bvf e 1 1 == 1
    if bvf e 0 1 = 0 then .error ⟨0, lvl⟩
    else if bvf e 40 24 ≠ 0 ∨ bvf e 6 2 ≠ 0 ∨ (!leaf ∧ bvf e 2 4 ≠ 0) ∨ (leaf ∧ lvl = 0) ∨ (!leaf ∧ lvl = 3) then
      .error ⟨2, lvl⟩
    else
      let pa := bvf e 8 32 * 256
      let size := leafSize lvl
      if leaf then
        if pa % size ≠ 0 ∨ !populated pa (pa + size - 1) ∨ !s.inAllot d p pa (pa + size - 1) then .error ⟨2, lvl⟩
        else
          let r := bvf e 2 1 == 1
          let w := bvf e 3 1 == 1
          let x := bvf e 4 1 == 1
          if decide (pa < sysBase) && (s.die (hbmDie pa)).gone runs then .error ⟨2, lvl⟩
          else if permits kind r w x then .ok ⟨p, va / size * size, size, pa, r, w, x, bvf e 5 1 == 1⟩
          else .error ⟨1, lvl⟩
      else if (lvl < 2 ∧ pa % 4096 ≠ 0) ∨ pa % 256 ≠ 0 then .error ⟨2, lvl⟩
      else s.walkFrom d p va kind runs pa n (lvl + 1)

/-- The walk of a partition's tables from its root (R255, R258), by a core of a die. -/
def State.walkPT (s : State) (d : Fin 2) (p : PartId) (va : Nat) (kind : AccKind) (runs : Bool) : Except XFault TlbEnt :=
  let root := (s.die d).ptroot[p]
  if bvf root 0 1 = 0 then .error ⟨0, 0⟩ else s.walkFrom d p va kind runs (bvf root 12 28 * 4096) 4 0

/-- The addresses of the entries that a walk reads from a table on (R255). -/
def State.walkPath (s : State) (va t : Nat) : Nat → Nat → List Nat
  | 0, _ => []
  | n + 1, lvl =>
    let a := t + 8 * ptIndex lvl va
    let e := BitVec.ofNat 64 (s.mem.readLE a 8)
    a :: if bvf e 0 2 = 1 then s.walkPath va (bvf e 8 32 * 256) n (lvl + 1) else []

/-- The addresses of the entries that a walk of a partition's tables reads, by a core of a die (R255). -/
def State.walkReads (s : State) (d : Fin 2) (p : PartId) (va : Nat) : List Nat :=
  let root := (s.die d).ptroot[p]
  if bvf root 0 1 = 0 then [] else s.walkPath va (bvf root 12 28 * 4096) 4 0

/-- Whether a walk by a core reads a table on the other die, which is a Feldspar request (R372). -/
def State.walkFar (s : State) (d : Fin 2) (p : PartId) (va : Nat) : Bool :=
  (s.walkReads d p va).any fun t => decide (t < sysBase ∧ t / 2 ^ 37 % 2 ≠ d.val)

/-- Whether Feldspar carries no traffic: it retrains, or a direction has no live lane (R362, R367). -/
def State.linkDown (s : State) : Bool :=
  s.dies.toList.any fun d => d.retrain.isSome || bvf d.flstat 31 1 == 1 || bvf d.flstat 0 4 == 0 || bvf d.flstat 4 4 == 0

/-- Whether a level or divisor change of a core is pending (R372), which holds back new Feldspar requests. -/
def Core.changing (c : Core) : Bool := c.clkpend || c.grant.isSome

/-- Whether a home lies on the other die, so that a request there crosses Feldspar. -/
def farHome (k : CoreId) (h : Home) (pa : Nat) : Bool :=
  match h with
  | .hbm => pa / 2 ^ 37 % 2 != (dieOf k).val
  | .win _ => false
  | .sysr => false

/-- Whether a physical address is HBM of the other die. -/
def farAddr (k : CoreId) (pa : Nat) : Bool := decide (pa < sysBase) && farHome k .hbm pa

/-- Whether a request of a core to a physical address may not start now: it crosses Feldspar, and a change is pending (R372)
or the link is down (R362). -/
def State.farHeld (s : State) (k : CoreId) (pa : Nat) : Bool := farAddr k pa && ((s.core k).changing || s.linkDown)

/-! ### The TLBs -/

/-- Whether an entry translates an address of a partition. -/
def TlbEnt.covers (e : TlbEnt) (p : PartId) (va : Nat) : Bool := e.part == p && e.vbase == va / e.size * e.size

/-- A TLB with an entry used or entered: most recently used first, at most n entries (R259, R260). -/
def tlbTouch (l : List TlbEnt) (e : TlbEnt) (n : Nat) : List TlbEnt := (e :: l.filter fun x => x != e).take n

/-- The level whose leaf has a size, as a fault reports it (R263). -/
def levelOf (size : Nat) : Nat := if size = 2 ^ 30 then 1 else if size = 2 ^ 21 then 2 else 3

/-- The TLB an access uses. -/
def Core.tlbOf (c : Core) : Option (Fin 4) → List TlbEnt
  | none => c.tlb
  | some x => c.stlb[x]
/-- The TLB an access uses, replaced. -/
def Core.setTlb (c : Core) (x : Option (Fin 4)) (l : List TlbEnt) : Core :=
  match x with
  | none => { c with tlb := l }
  | some x => { c with stlb := c.stlb.set x l }
/-- The capacity of a TLB (R259, R260). -/
def tlbCap : Option (Fin 4) → Nat
  | none => 64
  | some _ => 4

/-- What a translation answers: an address with its entry, a walk to wait for, or a fault. -/
inductive Xl where
  | hit (pa : Nat) (e : TlbEnt) (s : State)
  | wait (s : State)
  | fault (f : XFault) (s : State)

/-- Walks started while fewer than two of a TLB run (R259), but for those that Feldspar holds (R362, R372). -/
def State.pumpWalks (s : State) (k : CoreId) (x : Option (Fin 4)) : State :=
  let c := s.core k
  let running := (c.walks.filter fun w => w.started && w.stream == x).length
  let held (w : Walk) : Bool := (c.changing || s.linkDown) && s.walkFar (dieOf k) w.part (w.vpage * 65536)
  match c.walks.find? fun w => !w.started && w.stream == x && !held w with
  | some w =>
    if running < 2 then
      let (d, s) := s.drawDelay
      s.modCore k fun c => { c with
        walks := c.walks.map fun v => if v.id = w.id then { v with started := true, at_ := s.rc + 1 + d } else v }
    else s
  | none => s

/-- A translation by a core's control TLB or a channel's stream TLB (R259, R260). A prefetch waits for nothing; `want`
remembers its fault for the line that waits on it, and a fetch without it is L's in speculative mode, which counts nothing
(R121) and whose fault ends the speculation (R262). A translation in use by the active task marks the die it reaches (R261)
and the region that used the page (R269); a copy's is marked by its own task. -/
def State.translate (s : State) (k : CoreId) (p : PartId) (x : Option (Fin 4)) (va : Nat) (kind : AccKind)
    (scope : Scope) (prefetch want : Bool) : Xl :=
  let c := s.core k
  let page := va / 65536
  let spec := !prefetch && !want
  match (c.tlbOf x).find? fun e => e.covers p va with
  | some e =>
    let pa := e.pbase + va % e.size
    let s := s.modCore k fun c => c.setTlb x (tlbTouch (c.tlbOf x) e (tlbCap x))
    if !permits kind e.r e.w e.x ∨ !scopeOk kind scope pa then .fault ⟨1, levelOf e.size⟩ s
    else
      .hit pa e (s.modCore k fun c => { c with
        touched := if pa < sysBase ∧ x = none ∧ c.owner = some p then c.touched ||| BitVec.ofNat 2 (2 ^ (pa / 2 ^ 37 % 2))
          else c.touched
        used := if x.isNone && kind != .fetch && !prefetch && !c.used.contains (e.vbase, e.size)
          then c.used ++ [(e.vbase, e.size)] else c.used })
  | none =>
    match c.xres.find? fun r => r.vpage == page && r.part == p && r.kind == kind && r.scope == scope &&
        r.stream == x && r.prefetch == prefetch && r.spec == spec with
    | some r => .fault r.fault (s.modCore k fun c => { c with xres := c.xres.filter fun y => y != r })
    | none =>
      if c.walks.any fun w => w.vpage == page && w.part == p && w.kind == kind && w.scope == scope && w.stream == x &&
          w.prefetch == prefetch then .wait s
      else
        .wait ((s.modCore k fun c => { (if x.isNone && !spec then c.countFor (some p) 0x0B 0 0 true else c) with
          walks := c.walks ++ [(⟨c.nextId, page, p, kind, scope, x, prefetch, want || spec, spec, false, 0, []⟩ : Walk)]
          nextId := c.nextId + 1 }).pumpWalks k x)

/-! ### Faults and fault requests -/

/-- The number of an access kind in a detail word (R263). -/
def AccKind.code : AccKind → Nat
  | .fetch => 0 | .load => 1 | .store => 2 | .atomic => 3

/-- The detail word of R263. -/
def xDetail (q : Fin 4) (kind : AccKind) (f : XFault) (no : Nat) : Nat :=
  q.val * 2 ^ 28 + kind.code * 2 ^ 26 + f.kind * 2 ^ 24 + f.level * 2 ^ 22 + no

/-- A fault request posted to the partition's fault queue (R263, R399): the number advances and goes into the detail
word, the advanced number by DESIGN CHOICE (log 43). -/
def State.faultRequest (s : State) (k : CoreId) (q : Fin 4) (va : Nat) (kind : AccKind) (f : XFault) : State × Nat :=
  let c := s.core k
  let no := c.faultno + 1
  let detail := xDetail q kind f no.toNat
  match c.task with
  | none => (s, detail)
  | some t =>
    ((s.modCore k fun c => { c with faultno := no }).postOut (dieOf k) t.part 0x82
      (leBytes 8 va ++ leBytes 4 detail ++ leBytes 2 t.gang.toNat ++ leBytes 1 t.idx.toNat ++ leBytes 1 0 ++
        leBytes 4 c.gen.toNat), detail)

/-- The trap of a failed translation of K, S, or a fetch (R262): 0x40 with a fault request, or 0x41. -/
def State.xlateTrap (s : State) (k : CoreId) (q : Fin 4) (va : Nat) (kind : AccKind) (f : XFault) : State × Nat × Nat :=
  if f.kind = 2 then (s, 0x41, xDetail q kind f 0)
  else
    let (s, d) := s.faultRequest k q va kind f
    (s, 0x40, d)

/-- What an outstanding request of L on the page of an address means for an access (R264, R265): an unanswered one
halts L again; RETRY is used up and the access goes on; ABORT raises cause 0x40. -/
inductive Gate where
  | go (s : State)
  | halt (s : State)
  | abort (detail : Nat) (s : State)

/-- The gate of R264 and R265 before a device load's translation. -/
def State.requestGate (s : State) (k : CoreId) (h : HaltSt) : Gate :=
  let r := (s.core k).frec
  if r.outst && r.va.toNat / 65536 == h.va / 65536 then
    if !r.replied then .halt (s.modCore k fun c => { c with halted := some h })
    else
      let s := s.modCore k fun c => { c with frec := { c.frec with outst := false } }
      if r.verdict then .abort r.detail.toNat s else .go s
  else .go s

/-- L's failed translation (R262, R264): table invalid traps; otherwise L halts, with a request posted unless one of
another page is still unanswered. DESIGN CHOICE (log 45): a request that has been answered for another page, and whose answer L has
not yet used, gives way to the new one. The answer is the state with, for a trap, its cause and detail. -/
def State.loadFault (s : State) (k : CoreId) (f : XFault) (h : HaltSt) : State × Option (Nat × Nat) :=
  let r := (s.core k).frec
  if f.kind = 2 then (s, some (0x41, xDetail 1 .load f 0))
  else if r.outst && !r.replied then (s.modCore k fun c => { c with halted := some h }, none)
  else
    let (s, d) := s.faultRequest k 1 h.va .load f
    (s.modCore k fun c => { c with
      halted := some h
      frec := ⟨BitVec.ofNat 64 h.va, BitVec.ofNat 32 d, c.gen, true, false, false⟩ }, none)

/-! ### Migration counters (R270) -/

/-- A 64-byte request of a core that reaches a memory-side cache: a hit or a miss, which the spec leaves open (log 3),
counted (R382); and, when it arrives at a line's home die over Feldspar, counted for migration. -/
def State.migCount (s : State) (k : CoreId) (p : PartId) (pa : Nat) (nomig : Bool) : State :=
  let s :=
    if sysBase ≤ pa then s
    else
      let (n, s) := s.drawPick
      s.modCore k fun c => c.countFor (some p) (if n % 2 = 1 then 0x0C else 0x0D) 0 0 true
  let d : Fin 2 := if pa / 2 ^ 37 % 2 = 1 then 1 else 0
  let x := s.die d
  if sysBase ≤ pa ∨ nomig ∨ d = dieOf k ∨ bvf x.migthresh 16 1 = 0 then s
  else
    let page := pa / 65536
    let hit (m : MigCnt) : Bool := m.part == p && m.page == page && m.core == k
    let l : List MigCnt := match x.migcnt.find? hit with
      | some m => x.migcnt.map fun y => if hit y then { m with count := m.count + 1 } else y
      | none =>
        if x.migcnt.length < 256 then x.migcnt ++ [(⟨p, page, k, 1⟩ : MigCnt)]
        else
          let low := x.migcnt.foldl (fun a (m : MigCnt) => min a m.count) (x.migcnt.headD (⟨p, page, k, 1⟩ : MigCnt)).count
          (x.migcnt.eraseP fun (m : MigCnt) => m.count == low) ++ [(⟨p, page, k, 1⟩ : MigCnt)]
    let full (m : MigCnt) : Bool := decide (bvf x.migthresh 0 16 ≤ m.count)
    s.modDie d fun x => { x with
      migcnt := l.filter fun m => !full m
      migcand := x.migcand ++ l.filter full }

/-- R270: at each 1 ms boundary every count of a die is halved. -/
def execMigrationCountHalve (d : Fin 2) (s : State) : Host.Outcome State Fault Refusal :=
  .next (s.modDie d fun x => { x with migcnt := x.migcnt.map fun m => { m with count := m.count / 2 } })

/-- The entries that a core's walk reads, counted as device-scope loads of the partition (R255, R270, R382). -/
def State.walkCount (s : State) (k : CoreId) (p : PartId) (va : Nat) : State :=
  (s.walkReads (dieOf k) p va).foldl (fun s a => s.migCount k p (a / 64 * 64) false) s

/-- A translation that work of a task uses marks the task's touched-dies mask, wherever that context is (R261). -/
def State.touchTask (s : State) (key : TaskKey) (pa : Nat) : State :=
  if sysBase ≤ pa then s
  else
    let bit := BitVec.ofNat 2 (2 ^ (pa / 2 ^ 37 % 2))
    { s with
      cores := s.cores.map fun c => match c.task with
        | some t => if t.part = key.part ∧ t.gang = key.gang ∧ t.idx = key.idx then { c with touched := c.touched ||| bit } else c
        | none => c
      saved := s.saved.map fun x =>
        if x.part = key.part ∧ x.gang = key.gang ∧ x.idx = key.idx then { x with ctx := { x.ctx with touched := x.ctx.touched ||| bit } }
        else x }

/-- A PREF's request for a line at its home (R271): asked for now, or, over a Feldspar that holds it, as soon as it may. L waits
for neither. -/
def State.prefLine (s : State) (k : CoreId) (p : PartId) (pa : Nat) (nomig : Bool) : State :=
  if s.farHeld k pa then s.modCore k fun c => { c with prefs := c.prefs ++ [(⟨p, pa, nomig⟩ : PrefReq)] }
  else s.migCount k p (pa / 64 * 64) nomig

/-- The requests of PREFs that Feldspar held, tried again (R362, R372). -/
def State.pumpPrefs (s : State) (k : CoreId) : State :=
  (s.core k).prefs.foldl (fun s r => s.prefLine k r.part r.pa r.nomig) (s.modCore k fun c => { c with prefs := [] })

/-- The requests of the PREFs that waited for a walk (R271): each uses the translation for the task that issued it (R261). -/
def State.prefLines (s : State) (k : CoreId) (w : Walk) (e : TlbEnt) : State :=
  w.lines.foldl (fun s l =>
    let pa := e.pbase + l.1 % e.size
    (s.touchTask l.2 pa).prefLine k w.part pa e.nomig) s

/-- Whether a walk is for a command that had started when a die reset began (R366). -/
def Core.walkOld (c : Core) (w : Walk) : Bool :=
  match w.stream with
  | none => false
  | some x => (((c.chans[x]).find? fun m => m.part == w.part).map CopyCmd.old).getD false

/-- What a walk of a core comes to (R255, R257): an entry, or a fault, also where the access may not reach the system range
(R254). -/
def State.walkResult (s : State) (k : CoreId) (w : Walk) : Except XFault TlbEnt :=
  match s.walkPT (dieOf k) w.part (w.vpage * 65536) w.kind ((s.core k).walkOld w) with
  | .ok e => if scopeOk w.kind w.scope e.pbase then .ok e else .error ⟨1, levelOf e.size⟩
  | .error f => .error f

/-- R255, R259: a walk ends in a translation or a fault, which leaves no entry; its reads are counted, but for a speculative
fetch's (R121); a waiting walk of the TLB starts in its place, and the lines of PREFs that waited for it are asked for. -/
def execTlbWalkComplete (k : CoreId) (id : Nat) (s : State) : Host.Outcome State Fault Refusal :=
  match (s.core k).walks.find? fun w => w.id == id && w.started && decide (w.at_ ≤ s.rc) &&
      !(s.linkDown && s.walkFar (dieOf k) w.part (w.vpage * 65536)) with
  | none => .next s
  | some w =>
    let s0 := s.modCore k fun c => { c with walks := c.walks.filter fun v => v.id != id }
    let s1 := if w.spec then s0 else s0.walkCount k w.part (w.vpage * 65536)
    match s.walkResult k w with
    | .ok e =>
      .next (((s1.modCore k fun c => c.setTlb w.stream (tlbTouch (c.tlbOf w.stream) e (tlbCap w.stream))).pumpWalks k
        w.stream).prefLines k w e)
    | .error f =>
      .next ((if w.want && (!w.spec || (s.core k).spec.isSome) then s1.modCore k fun c =>
          { c with xres := c.xres ++ [(⟨w.vpage, w.part, w.kind, w.scope, w.stream, w.prefetch, w.spec, f⟩ : XRes)] }
        else s1).pumpWalks k w.stream)

/-! ### Instruction supply -/

/-- A line put into an I-cache as the most recently used of its set (R115). -/
def Core.icPut (c : Core) (q : Fin 4) (l : ICLine) : Core :=
  let sets := c.ic[q]
  let i := icSet l.addr
  { c with ic := c.ic.set q (sets.set i ((l :: (sets[i]).filter fun x => !(x.part == l.part && x.addr == l.addr)).take 4)) }

/-- A fill asked for, of a line for a stream, by a PREFI (R118). -/
def Core.addFill (c : Core) (q : Fin 4) (line : Nat) (prefi : Option Nat) : Core :=
  { c with fills := c.fills ++ [⟨q, c.part, line, none, 0, prefi, 65536⟩] }

/-- R115: a line fill completes; the line enters the target's I-cache. -/
def execIcacheFill (k : CoreId) (q : Fin 4) (line : Nat) (s : State) : Host.Outcome State Fault Refusal :=
  let hit (f : Fill) : Bool := f.tgt == q && f.line == line && decide (f.at_ ≤ s.rc) &&
    (f.pa.map fun a => !(s.linkDown && farAddr k a)).getD false
  match (s.core k).fills.find? hit with
  | none => .next s
  | some f =>
    .next (s.modCore k fun c =>
      { (c.icPut q ⟨f.part, line, bytesV 512 (s.mem.readN (f.pa.getD 0) 64), f.size⟩) with
        fills := c.fills.filter fun g => !hit g })

/-- The translation of the lines that PREFI named and that wait for it (R118): a fault drops the line; a line already
in the cache becomes the most recently used. -/
def State.pumpFills (s : State) (k : CoreId) : State :=
  ((s.core k).fills.filter fun f => f.pa.isNone).foldl (fun s f =>
    let rest (s : State) : State := s.modCore k fun c => { c with fills := c.fills.filter fun g => g != f }
    match s.translate k f.part none f.line .fetch .dev true true with
    | .wait s => s
    | .fault _ s => rest s
    | .hit pa e s =>
      match (s.core k).icLine f.tgt f.part f.line with
      | some l => (rest s).modCore k fun c => c.icPut f.tgt l
      | none =>
        if s.farHeld k pa then s
        else
          let (d, s) := (s.migCount k f.part pa e.nomig).drawDelay
          s.modCore k fun c => { c with
            fills := c.fills.map fun g => if g = f then { f with pa := some pa, at_ := s.rc + 1 + d, size := e.size } else g }) s

/-- What a fetch answers: the two words at the program counter (the second zero for a one-word instruction), a miss, or
a fault at an address. -/
inductive Fetched where
  | words (w w2 : Word32) (s : State)
  | miss (s : State)
  | fault (va : Nat) (f : XFault) (s : State)

/-- The line of an address in a sequencer's I-cache, fetched on a miss (R115). -/
def State.fetchWord (s : State) (k : CoreId) (q : Fin 4) (va : Nat) (spec : Bool) : Fetched :=
  let c := s.core k
  let line := va / 64 * 64
  match c.icLine q c.part va with
  | some l =>
    .words (BitVec.ofNat 32 (l.data.toNat / 2 ^ (8 * (va % 64)))) 0 (s.modCore k fun c => c.icPut q l)
  | none =>
    if c.fills.any fun f => f.tgt == q && f.line == line && f.pa.isSome then .miss s
    else
      match s.translate k c.part none line .fetch .dev false (!spec) with
      | .wait s => .miss s
      | .fault f s => .fault va f s
      | .hit pa e s =>
        if s.farHeld k pa then .miss s
        else
          let (d, s) := (if spec then s else s.migCount k c.part pa e.nomig).drawDelay
          .miss (s.modCore k fun c => { c with fills := c.fills ++ [⟨q, c.part, line, some pa, s.rc + 1 + d, none, e.size⟩] })

/-- The fetch at a sequencer's program counter; a two-word instruction that straddles a line needs both (R115). -/
def State.fetch (s : State) (k : CoreId) (q : Seq) (pc : BitVec 48) (spec : Bool) : Fetched :=
  match s.fetchWord k q.idx pc.toNat spec with
  | .words w _ s =>
    if twoWord q (majOf w) then
      match s.fetchWord k q.idx (pc + 4).toNat spec with
      | .words w2 _ s => .words w w2 s
      | .miss s => .miss s
      | .fault va f s => .fault va f s
    else .words w 0 s
  | .miss s => .miss s
  | .fault va f s => .fault va f s

/-- R118: prefetches up to 16 lines into a stream's I-cache; completion comes when every line is filled or dropped. -/
def execPrefi (h : Hdr) (x : Fin 4) (a : Sel) (nl : Fin 16) (off : BitVec 24) (c : Comp) (s : State) :
    Host.Outcome State Fault Refusal :=
  let op := op2 h c [a] [] []
  issue op (fun s =>
    let va := (addOff (s.val [a] 0) off).toNat % 2 ^ 48
    if va % 4 ≠ 0 then .trap 0x12 0 va s
    else
      let id := s.me.nextId
      .done ((s.modMe fun k =>
        let k := (List.range (nl.val + 1)).foldl (fun k i => k.addFill x ((va / 64 * 64 + 64 * i) % 2 ^ 48) (some id)) k
        { k.modSeq s.curSeq.idx fun q => { q with pend := q.pend ++ [⟨id, .onReturn, [], c⟩] } with
          nextId := id + 1 }).pumpFills s.curCore) .seq true) s

/-- The identity of the active task. -/
def Core.taskKey (c : Core) : TaskKey :=
  match c.task with
  | some t => ⟨t.part, t.gang, t.idx⟩
  | none => ⟨0, 0, 0⟩

/-- R271: translates an address, filling the control TLB, and asks for its line at the home; a fault is dropped. -/
def execPref (h : Hdr) (a : Sel) (scope : Scope) (off : BitVec 24) (c : Comp) (s : State) :
    Host.Outcome State Fault Refusal :=
  issue (op2 h c [a] [] []) (fun s =>
    let va := (addOff (s.val [a] 0) off).toNat % 2 ^ 48
    match s.translate s.curCore s.me.part none va .load scope true false with
    | .hit pa e s => .done (s.prefLine s.curCore s.me.part pa e.nomig) .seq false
    | .wait s => .done (s.modMe fun c => { c with
        walks := c.walks.map fun w =>
          if w.vpage == va / 65536 && w.part == c.part && w.kind == .load && w.scope == scope && w.stream == none && w.prefetch then
            { w with lines := w.lines ++ [(va, c.taskKey)] } else w }) .seq false
    | .fault _ s => .done s .seq false) s

/-! ### Shoot-down (R267 to R269) -/

/-- Whether a shoot-down's register names a TLB entry (R267): the page of any size that holds VA, a partition, or
every partition. -/
def TlbEnt.shot (e : TlbEnt) (cmd : BitVec 64) : Bool :=
  match bvf cmd 61 2 with
  | 0 => e.covers (Fin.ofNat 16 (bvf cmd 48 4)) (bvf cmd 16 32 * 65536)
  | 1 => e.part.val == bvf cmd 48 4
  | _ => true

/-- Whether a shoot-down names a page of a partition, by an address in it and its size: the page of any size that holds VA, a
partition, or every partition (R267). -/
def shotPage (cmd : BitVec 64) (p : PartId) (va size : Nat) : Bool :=
  match bvf cmd 61 2 with
  | 0 => p.val == bvf cmd 48 4 && va / size == bvf cmd 16 32 * 65536 / size
  | 1 => p.val == bvf cmd 48 4
  | _ => true

/-- The cores told of a shoot-down, each with its own time to acknowledge, up to 64 rc (R267, R268). -/
def State.tellShoot (s : State) (d : Fin 2) (cmd : BitVec 64) : List CoreId → State
  | [] => s
  | k :: l =>
    let (t, s) := s.drawDelay
    { s with shoots := s.shoots ++ [(⟨d, k, cmd, s.rc + 1 + t % 64⟩ : Shoot)] }.tellShoot d cmd l

/-- A shoot-down starts. -/
def State.startShoot (s : State) (d : Fin 2) (cmd : BitVec 64) : State :=
  (s.modDie d fun x => { x with sdcmd := cmd, sdstat := 0x80000000 ||| (x.sdstat &&& 0x20000000) }).tellShoot d cmd
    ((List.range 16).map (Fin.ofNat 16))

/-- A GO of SDCMD with a scope (R267): refused with ERR while a command is in progress. -/
def shootGo (d : Fin 2) (scope : Nat) (p : PartId) (va : BitVec 32) (s : State) : Host.Outcome State Fault Refusal :=
  let cmd := BitVec.ofNat 64 (scope * 2 ^ 61 + p.val * 2 ^ 48 + va.toNat * 2 ^ 16)
  if bvf (s.die d).sdstat 31 1 = 1 then
    .next (s.modDie d fun x => { x with sdstat := bvSet x.sdstat 29 1 1, sdcmd := cmd })
  else .next (s.startShoot d cmd)

/-- R267: SDCMD GO with SCOPE 0, one page. -/
def execShootdownPage (d : Fin 2) (p : PartId) (va : BitVec 32) (s : State) : Host.Outcome State Fault Refusal :=
  shootGo d 0 p va s
/-- R267: SDCMD GO with SCOPE 1, a partition. -/
def execShootdownPartition (d : Fin 2) (p : PartId) (s : State) : Host.Outcome State Fault Refusal :=
  shootGo d 1 p 0 s
/-- R267: SDCMD GO with SCOPE 2, every partition. -/
def execShootdownAll (d : Fin 2) (s : State) : Host.Outcome State Fault Refusal := shootGo d 2 0 0 s

/-- The commands of a channel that have started, with the translations that a shoot-down takes from the channel: they run on to
their old addresses (R269). -/
def CopyCmd.kept (m : CopyCmd) (tlb : List TlbEnt) (cmd : BitVec 64) : CopyCmd :=
  if m.phase = .queued then m else { m with keep := m.keep ++ tlb.filter fun e => e.part == m.part && e.shot cmd }

/-- R268, R269: a core has invalidated the matching entries and I-cache lines, and asks again for lines of the named pages that
are on their way; a region that used one is rolled back,
without a count; the acknowledgement is recorded, and BUSY clears with the last. -/
def execShootdownAck (d : Fin 2) (k : CoreId) (s : State) : Host.Outcome State Fault Refusal :=
  match s.shoots.find? fun x => x.die == d && x.core == k && decide (x.at_ ≤ s.rc) with
  | none => .next s
  | some x =>
    let c := s.core k
    let used := c.isRunning && c.used.any fun g => shotPage x.cmd c.part g.1 g.2
    let s := { s with shoots := s.shoots.filter fun y => y != x }
    let s := s.modCore k fun c => { c with
      tlb := c.tlb.filter fun e => !e.shot x.cmd
      stlb := c.stlb.map fun l => l.filter fun e => !e.shot x.cmd
      chans := Vector.ofFn fun i : Fin 4 => (c.chans[i]).map fun m => m.kept c.stlb[i] x.cmd
      ic := c.ic.map fun sets => sets.map fun l => l.filter fun y => !shotPage x.cmd y.part y.addr y.size
      fills := (c.fills.filter fun f => f.pa.isNone || f.prefi.isSome || !shotPage x.cmd f.part f.line f.size).map fun f =>
        if f.pa.isSome && shotPage x.cmd f.part f.line f.size then { f with pa := none } else f }
    let s := { s with sdwait := s.sdwait ++ [(⟨d, k, c.nextId⟩ : SdWait)] }
    let s := if used then s.rollback k false else s
    let s := s.modDie d fun y => { y with sdstat := y.sdstat ||| BitVec.ofNat 32 (2 ^ k.val) }
    .next (s.modDie d fun y => if bvf y.sdstat 0 16 = 0xFFFF then { y with sdstat := bvSet y.sdstat 31 1 0 } else y)

end Sys2Proof.Machine
end

