-- ==== Sys2Proof/Machine/Local.lean ====
section
/-! DEFINITION. Local-store accesses (spec/06): resolution (R149 to R153), loads, stores, whole-entry moves, gather and
scatter; the commit buffer (R160 to R162); device loads and stores at issue (R154, R156, R157). -/

namespace Sys2Proof.Machine

/-! ### Resolution -/

/-- Where a local address leads (R149): private bytes, pieces of the quad window, or a fault with its detail. -/
inductive Loc where
  | priv (a : Nat)
  | win (l : List Piece)
  | bad (cause detail : Nat)

/-- The core and byte of a window offset (R151), for a core of quad `quad`. -/
def winTarget (quad privTop w : Nat) : CoreId × Nat :=
  (Fin.ofNat 16 (4 * quad + w / 128 % 4), privTop + 128 * (w / 512) + w % 128)

/-- The pieces of n window bytes from offset w, one for each 128-byte stripe (R151). -/
def winPieces (quad privTop : Nat) : Nat → Nat → Nat → Nat → List Piece
  | 0, _, _, _ => []
  | fuel + 1, w, n, off =>
    if n = 0 then []
    else
      let len := min n (128 - w % 128)
      let t := winTarget quad privTop w
      ⟨.win t.1, t.2, off, len, none⟩ :: winPieces quad privTop fuel (w + len) (n - len) (off + len)

/-- Whether a member of the quad is present for a core (R151): its active task is of partition QWSHARE.PART, and its
QWSHARE equals the issuer's. -/
def State.present (s : State) (k t : CoreId) : Bool :=
  let c := s.core k
  let x := s.core t
  match x.task with
  | some y => y.part.val == c.qwpart.toNat && x.share == c.share && x.qwpart == c.qwpart
  | none => false

/-- The resolution of n bytes at a (R149, R151), for the report's agent. -/
def State.resolve (s : State) (k : CoreId) (agent a n : Nat) : Loc :=
  let c := s.core k
  let last := a + n - 1
  if last < c.privTop then .priv a
  else if last < 0x2000000 ∧ ¬(0 < c.share.toNat ∧ a < lscap) then
    .bad 0x24 (bankDetail agent k 0 1 (max a lscap / 131072))
  else if 0x40000000 ≤ a ∧ last < 0x40000000 + 0x800000 * c.share.toNat then
    let l := winPieces (k.val / 4) c.privTop 4 (a - 0x40000000) n 0
    if l.all fun p => match p.home with
        | .win t => s.present k t
        | .hbm => true
        | .sysr => true
    then .win l else .bad 0x22 0
  else .bad 0x21 0

/-- The resolution of n bytes that must be private (R158, R211, R213, R286): every window address, its member absent or not,
is out of range. -/
def State.resolvePriv (s : State) (k : CoreId) (agent a n : Nat) : Loc :=
  match s.resolve k agent a n with
  | .priv a => .priv a
  | .win _ => .bad 0x21 0
  | .bad c d => if c = 0x22 then .bad 0x21 0 else .bad c d

/-- The banks that n bytes at a touch. -/
def banksOf (a n : Nat) : List Nat := (List.range ((a + n - 1) / 131072 + 1 - a / 131072)).map fun i => a / 131072 + i

/-- The banks of a resolved access, each with the core that owns it. -/
def ownedBanks (k : CoreId) (n : Nat) : Loc → List (CoreId × Nat)
  | .priv a => (banksOf a n).map fun b => (k, b)
  | .win l => l.flatMap fun p => match p.home with
    | .win t => (banksOf p.addr p.len).map fun b => (t, b)
    | .hbm => []
    | .sysr => []
  | .bad _ _ => []

/-- The lowest-numbered off bank of a list (R199). -/
def State.offBank (s : State) (l : List (CoreId × Nat)) : Option (CoreId × Nat) :=
  (l.filter fun b => ((s.core b.1).bank b.2).state == .off).foldl (fun r b =>
    match r with
    | some x => if b.2 < x.2 then some b else some x
    | none => some b) none

/-- Whether every bank of a list is full. -/
def State.banksFull (s : State) (l : List (CoreId × Nat)) : Bool :=
  l.all fun b => ((s.core b.1).bank b.2).state == .full

/-- An agent stalled on the banks of a list, whose wakes start (R190, R196). -/
def State.wakeBanks (s : State) (w : Waiter) (l : List (CoreId × Nat)) : State :=
  l.foldl (fun s b => s.modCore b.1 fun c => c.wakeAll s.rc w [b.2]) s

/-- An accepted access leaves the wakes of the banks it waited on (R190). -/
def State.unwaitBanks (s : State) (w : Waiter) (l : List (CoreId × Nat)) : State :=
  l.foldl (fun s b => s.modCore b.1 fun c => c.unwait w) s

/-- An instruction whose body is done leaves the wakes of other cores' banks that it waited on (R190, R196). -/
def Out.unwait (o : Out) (w : Waiter) (bs : List (CoreId × Nat)) : Out :=
  match o with
  | .done s n late => .done (s.unwaitBanks w bs) n late
  | .stall cls s => .stall cls s
  | .trap cause detail addr s => .trap cause detail addr s
  | .yield s => .yield s

/-- Check 4 of R99 and R152 at the banks of an access: an off bank faults, and one that is not full is woken first (R196). -/
def State.bankCheck (s : State) (a : Nat) (bs : List (CoreId × Nat)) (go : State → Out) : Out :=
  let k := s.curCore
  let q := s.curSeq.idx
  match s.offBank bs with
  | some b => .trap 0x24 (bankDetail q.val b.1 0 0 b.2) a s
  | none =>
    if s.banksFull bs then (go s).unwait (.seqr k q) bs
    else .stall (wakeClass q) (s.wakeBanks (.seqr k q) bs)

/-- The checks of R152 up to the banks: go on with the resolved place, or stop with a stall or trap. -/
def State.localCheck (s : State) (a n align : Nat) (fate : Fate) (privOnly : Bool)
    (go : Loc → State → Out) : Out :=
  let k := s.curCore
  let q := s.curSeq.idx
  if a % align ≠ 0 then .trap 0x20 0 a s
  else
    match if privOnly then s.resolvePriv k q.val a n else s.resolve k q.val a n with
    | .bad c d => .trap c d a s
    | loc =>
      let isWin : Bool := match loc with
        | .win _ => true
        | .priv _ => false
        | .bad _ _ => false
      if isWin ∧ fate ≠ .keep then .trap 0x11 0 a s
      else s.bankCheck a (ownedBanks k n loc) (go loc)

/-- The request that a fate makes on a bank (R153). -/
def fateReq (fate : Fate) (last : Nat) : Option (Nat × SupplyReq) :=
  match fate with
  | .keep => none
  | .retain => some (last / 131072, .retention)
  | .drop => some (last / 131072, .off)

/-- A fate's request recorded. -/
def Core.askFate (c : Core) (r : Option (Nat × SupplyReq)) : Core :=
  match r with
  | some x => c.ask x.1 x.2
  | none => c

/-! ### The commit buffer (R160 to R162) -/

/-- The 64-byte lines that bytes at an address touch. -/
def linesOf (a n : Nat) : List Nat := (List.range ((a + n - 1) / 64 + 1 - a / 64)).map fun i => (a / 64 + i) * 64

/-- Whether a store may merge into a line of the buffer (R160). -/
def CBLine.merges (l : CBLine) (h : Home) (addr : Nat) (scope : Scope) (rel : Bool) : Bool :=
  l.cur && l.home == h && l.addr == addr && l.scope == scope && !l.rel && !rel && l.atom.isNone

/-- The lines a store of n bytes needs (R161). -/
def Core.cbNeed (c : Core) (h : Home) (a n : Nat) (scope : Scope) (rel : Bool) : Nat :=
  ((linesOf a n).filter fun x => !c.cb.any fun l => c.ownLine l && l.merges h x scope rel).length

/-- Whether the buffer has room for new lines (R161): none when it has, a stall, or exhausted. Each partition has its own 64
lines (R7, R312). -/
def Core.cbRoom (c : Core) (need : Nat) : Option Bool :=
  let own := c.cb.filter fun l => l.part == c.part
  if own.length + need ≤ 64 then none
  else some (decide (64 < (own.filter fun l => l.cur).length + need))

/-- Bytes put into a line's data under a mask. -/
def putBytes (mask : BitVec 64) (data : BitVec 512) (off : Nat) : List (BitVec 8) → BitVec 64 × BitVec 512
  | [] => (mask, data)
  | b :: bs => putBytes (bvSet mask off 1 1) (bvSet data (8 * off) 8 b.toNat) (off + 1) bs

/-- A new line of the current region. -/
def Core.cbNew (c : Core) (h : Home) (addr : Nat) (scope : Scope) (rel : Bool) (vpage : Nat) (nomig : Bool)
    (m : BitVec 64 × BitVec 512) (atom : Option AtomReq) : Core :=
  let t := match c.task with
    | some t => (t.part, t.gang, t.idx)
    | none => (0, 0, 0)
  { c with
    cb := c.cb ++ [⟨c.nextId, h, addr, scope, m.1, m.2, rel, c.gen, t.1, t.2.1, t.2.2, true, 0, atom, vpage, nomig, c.pinned, 0, 0⟩]
    nextId := c.nextId + 1 }

/-- Bytes within one line stored: merged, or in a line of their own (R160). -/
def Core.cbPut (c : Core) (h : Home) (addr off : Nat) (bs : List (BitVec 8)) (scope : Scope) (rel : Bool) (vpage : Nat)
    (nomig : Bool) : Core :=
  if c.cb.any fun l => c.ownLine l && l.merges h addr scope rel then
    { c with cb := c.cb.map fun l =>
        if c.ownLine l && l.merges h addr scope rel then
          let m := putBytes l.mask l.data off bs
          { l with mask := m.1, data := m.2 }
        else l }
  else c.cbNew h addr scope rel vpage nomig (putBytes 0 0 off bs) none

/-- A store of bytes at a home address, line by line (R160). -/
def Core.cbStore (c : Core) (h : Home) (a : Nat) (bs : List (BitVec 8)) (scope : Scope) (rel : Bool) (vpage : Nat)
    (nomig : Bool) : Core :=
  (linesOf a bs.length).foldl (fun c x =>
    let lo := max a x
    let hi := min (a + bs.length) (x + 64)
    c.cbPut h x (lo - x) ((bs.drop (lo - a)).take (hi - lo)) scope rel vpage nomig) c

/-- The byte of a home address that the buffer of the core's partition holds (R7), the youngest line's (R162), with whether it is
of the current region and its timestamp; pending operations of atomics are not forwarded (R307). -/
def Core.cbByte (c : Core) (h : Home) (a : Nat) : Option (BitVec 8 × Bool × Nat) :=
  match c.cb.reverse.find? fun l => l.part == c.part && l.home == h && l.addr == a / 64 * 64 && l.atom.isNone && bvf l.mask (a % 64) 1 == 1 with
  | some l => some (BitVec.ofNat 8 (bvf l.data (8 * (a % 64)) 8), l.cur, l.ts)
  | none => none

/-- The byte performed at a home. -/
def State.homeByte (s : State) (h : Home) (a : Nat) : BitVec 8 :=
  match h with
  | .win t => (s.core t).mem.read a
  | .hbm => s.mem.read a
  | .sysr => s.mem.read a

/-- n bytes at a home as a core reads them, with its own buffered bytes forwarded (R162). -/
def State.homeBytes (s : State) (k : CoreId) (h : Home) (a n : Nat) : List (BitVec 8) :=
  (List.range n).map fun i =>
    match (s.core k).cbByte h (a + i) with
    | some b => b.1
    | none => s.homeByte h (a + i)

/-! ### Scalar values -/

/-- The register value of a loaded number (R64, R154). -/
def loadVal (sz : Sz) (bs : List (BitVec 8)) : Word64 :=
  if sz.signed then BitVec.ofInt 64 (sextN (8 * sz.bytes) (leNat bs)) else BitVec.ofNat 64 (leNat bs)

/-- The latency of private bytes (R155): the longer when any lies in banks 128 to 255. -/
def privLat (last : Nat) : Nat := if last < 0x1000000 then 4 else 6

/-- Whether L's local-store port is taken in this control cycle (R158, R214). -/
def Core.portBusy (c : Core) : Bool := decide ((c.clk .control).cyc < c.portFree)

/-- A load in flight whose data returns from outside the core, with its result (R155): the destination registers, a
queue entry's place, and the second-word signals. -/
def State.sendLoad (s : State) (scope : Scope) (sz : Option Sz) (q : Option (Fin 8)) (dest : Option Dest)
    (pieces : List Piece) (todo : List (Nat × Nat)) (acq : Bool) (va : Nat) (comp : Comp) : State :=
  let (d, s) := s.drawDelay
  let c := s.me
  let id := c.nextId
  let place := match q with
    | some x => some (x, ((c.q[x]).reserve).2)
    | none => none
  let ws := match dest with
    | some r => destWr r 2 0
    | none => []
  s.modMe fun c =>
    let c := match q with
      | some x => c.modQ x fun y => y.reserve.1
      | none => c
    { c.modSeq s.curSeq.idx fun y => { y with pend := y.pend ++ [⟨id, .onReturn, ws, comp⟩] } with
      nextId := id + 1
      loads := c.loads ++ [⟨id, s.curSeq.idx, scope, sz, place, dest, pieces, todo, acq, (c.sq 1).pc, s.rc + 1 + d, va⟩] }

/-- LD and LDX at an address (R154, R155): private bytes in the issue rc, window bytes when they return. -/
def loadBody (d : Dest) (sz : Sz) (fate : Fate) (comp : Comp) (a : Nat) (s : State) : Out :=
  if s.me.portBusy then .stall 2 s
  else
    s.localCheck a sz.bytes sz.bytes fate false fun loc s =>
      match loc with
      | .priv a =>
        let last := a + sz.bytes - 1
        let s := s.produce (privLat last) (destWr d 2 (loadVal sz (s.me.mem.readN a sz.bytes))) comp
        .done (s.modMe fun c => c.askFate (fateReq fate last)) .seq true
      | .win l => .done (s.sendLoad .quad (some sz) none (some d) l [] false a comp) .seq true
      | .bad c x => .trap c x a s

/-- R154: scalar load, private or window. -/
def execLd (h : Hdr) (d : Dest) (a : Sel) (sz : Sz) (s : State) : Host.Outcome State Fault Refusal :=
  issue (op1 h [a] [] (destRes d)) (fun s => loadBody d sz .keep compNone (s.val [a] 0).toNat s) s

/-- R154: scalar load with an offset and a fate. -/
def execLdx (h : Hdr) (d : Dest) (a : Sel) (sz : Sz) (fate : Fate) (off : BitVec 24) (c : Comp) (s : State) :
    Host.Outcome State Fault Refusal :=
  issue (op2 h c [a] [] (destRes d)) (fun s => loadBody d sz fate c (addOff (s.val [a] 0) off).toNat s) s

/-! ### Device loads -/

/-- Whether observers at a scope can read a home (R291, R300). -/
def scopeSees (scope : Scope) (h : Home) : Bool :=
  match scope, h with
  | .sys, _ => true
  | .dev, .sysr => false
  | .dev, _ => true
  | .quad, .win _ => true
  | .quad, _ => false
  | .core, _ => false

/-- Whether every write of a partition at or before a time that observers at a scope can read is performed: F(scope) ≥
t (R300). DESIGN CHOICE (log 44): the lines of a region whose timestamp is fixed and whose commit has not completed do not
count. -/
def State.floorReached (s : State) (p : PartId) (scope : Scope) (t : Nat) : Bool :=
  s.cores.toList.all fun c => c.cb.all fun l =>
    l.cur || l.part != p || decide (t < l.ts) || !scopeSees scope l.home

/-- Whether a core's floor is reached (R300): F(scope) ≥ its PTS. -/
def State.coreFloor (s : State) (k : CoreId) (scope : Scope) : Bool :=
  s.floorReached (s.core k).part scope (s.core k).pts

/-- The home of a physical address (R254). -/
def homeOf (pa : Nat) : Home := if pa < sysBase then .hbm else .sysr

/-- A translated piece of a device load: a read of the system range takes its bytes at issue (R299). -/
def State.piece (s : State) (k : CoreId) (pa off n : Nat) : Piece :=
  ⟨homeOf pa, pa, off, n, if pa < sysBase then none else some (s.homeBytes k .sysr pa n)⟩

/-- L's head as a halt records it (R264). -/
def State.haltHere (s : State) (va : Nat) : HaltSt :=
  ⟨va, s.mySeq.pc, none⟩

/-- The class of a stall of L on a fault (R264). -/
def haltClass : Nat := 0x10 + 25
/-- The class of a wait for a fence, the timestamp procedure or the pin token (R295, R298, R301, R379). -/
def floorClass : Nat := 0x10 + 26

/-- The translation of a device load's first address at its issue (R262, R264, R302). A fault halts L: before the load issues,
or, with `sent`, when it has issued with nothing translated. -/
def State.loadXlate (s : State) (va align : Nat) (scope : Scope) (acq : Bool) (sent : Option (State → State))
    (go : Nat → TlbEnt → State → Out) : Out :=
  let here (s : State) : HaltSt := { s.haltHere va with load := sent.map fun _ => s.me.nextId }
  let stop (s : State) : Out := match sent with
    | some f => .done (f s) .seq true
    | none => .stall haltClass s
  if va % align ≠ 0 then .trap 0x20 0 va s
  else if acq ∧ !s.coreFloor s.curCore scope then .stall 2 s
  else
    match s.requestGate s.curCore (here s) with
    | .halt s => stop s
    | .abort d s => .trap 0x40 d va s
    | .go s =>
      match s.translate s.curCore s.me.part none va .load scope false true with
      | .hit pa e s => if s.farHeld s.curCore pa then .stall 2 s else go pa e s
      | .wait s => .stall 2 s
      | .fault f s =>
        match s.loadFault s.curCore f (here s) with
        | (s, some (cause, d)) => .trap cause d va s
        | (s, none) => stop s

/-- R154: scalar device load at device or system scope. -/
def execLdd (h : Hdr) (d : Dest) (a : Sel) (sz : Sz) (scope : Scope) (acq : Bool) (off : BitVec 24) (c : Comp)
    (s : State) : Host.Outcome State Fault Refusal :=
  issue (op2 h c [a] [] (destRes d)) (fun s =>
    let va := (addOff (s.val [a] 0) off).toNat % 2 ^ 48
    s.loadXlate va sz.bytes scope acq none fun pa e s =>
      let s := s.migCount s.curCore s.me.part (pa / 64 * 64) e.nomig
      .done (s.sendLoad scope (some sz) none (some d) [s.piece s.curCore pa 0 sz.bytes] [] acq va c) .seq true) s

/-- Whether a request of L is outstanding on the page of an address (R264, R265). -/
def Core.asked (c : Core) (va : Nat) : Bool := c.frec.outst && c.frec.va.toNat / 65536 == va / 65536

/-- The further lines of an LDDQ that are translated at its issue: their pieces, the lines that are left, and the state. A line
that misses or fails, or whose page a request of L is outstanding on, and those after it, wait (R264, R265). -/
def State.linesNow (s : State) (scope : Scope) : List (Nat × Nat) → List Piece × List (Nat × Nat) × State
  | [] => ([], [], s)
  | (va, off) :: rest =>
    if s.me.asked va then ([], (va, off) :: rest, s) else
    match s.translate s.curCore s.me.part none va .load scope false false with
    | .hit pa e t =>
      if s.farHeld s.curCore pa then ([], (va, off) :: rest, s)
      else
        let t := t.migCount s.curCore s.me.part pa e.nomig
        let r := t.linesNow scope rest
        (t.piece s.curCore pa off 64 :: r.1, r.2.1, r.2.2)
    | .wait _ => ([], (va, off) :: rest, s)
    | .fault _ _ => ([], (va, off) :: rest, s)

/-- R157: four device lines into a queue entry; it issues once the first line is translated, or has faulted: then L halts with
the entry reserved (R264). It takes the further lines whose pages the TLB holds at once, so that a load of the system range
reads at its issue (R299). -/
def execLddq (h : Hdr) (q : Fin 8) (a : Sel) (scope : Scope) (acq : Bool) (off : BitVec 24) (c : Comp) (s : State) :
    Host.Outcome State Fault Refusal :=
  let op := { op2 h c [a] [] [] with push := some q }
  issue op (fun s =>
    let va := (addOff (s.val [a] 0) off).toNat % 2 ^ 48
    let line (i : Nat) : Nat × Nat := ((va + 64 * i) % 2 ^ 48, 64 * i)
    let send (ps : List Piece) (todo : List (Nat × Nat)) (s : State) : State := s.sendLoad scope none (some q) none ps todo acq va c
    s.loadXlate va 64 scope acq (some (send [] ([0, 1, 2, 3].map line))) fun pa e s =>
      let s := s.migCount s.curCore s.me.part pa e.nomig
      let r := s.linesNow scope ([1, 2, 3].map line)
      .done (send (s.piece s.curCore pa 0 64 :: r.1) r.2.1 r.2.2) .seq true) s

/-- The further lines of LDDQ loads translated (R157, R264): a miss waits, a fault halts L after issue. -/
def State.pumpLoads (s : State) (k : CoreId) : State :=
  (s.core k).loads.foldl (fun s l =>
    match l.todo with
    | [] => s
    | (va, off) :: rest =>
      let c := s.core k
      if c.halted.isSome then s
      else
        let halt : HaltSt := ⟨va, l.pc, some l.id⟩
        let stop (s : State) (cause d : Nat) : State :=
          let w := c.wordsAt 1 l.pc
          s.takeTrap k (Rep.trap cause 1 d l.pc.toNat w.1 w.2 va)
        match s.requestGate k halt with
        | .halt s => s
        | .abort d s => stop s 0x40 d
        | .go s =>
          match s.translate k c.part none va .load l.scope false true with
          | .wait s => s
          | .hit pa e s =>
            if s.farHeld k pa then s else
            let s := s.migCount k c.part pa e.nomig
            let p := s.piece k pa off 64
            s.modCore k fun c => { c with
              loads := c.loads.map fun m =>
                if m.id = l.id then { m with pieces := m.pieces ++ [p], todo := rest, at_ := max m.at_ (s.rc + 1) } else m }
          | .fault f s =>
            match s.loadFault k f halt with
            | (s, some (cause, d)) => stop s cause d
            | (s, none) => s) s

/-! ### Stores -/

/-- When a private store that holds S's port for some control cycles is performed (R156, R158): in the rc after the last of
them, and not before an earlier store (R159). -/
def Core.storeDue (c : Core) (rc cycles : Nat) : Due :=
  let last := c.stores.foldl (fun (r : Option Nat) x => match x.due with
    | .after n => some (max n (r.getD 0))
    | .cycle _ _ => r
    | .rc _ => r
    | .onReturn => r) none
  if cycles = 1 then
    match last with
    | some n => .after n
    | none => .rc (rc + 1)
  else .after (max (last.getD 0) ((c.clk .control).cyc + cycles - 1))

/-- A private store of S: performed in the rc after its last port cycle, and not before an earlier one (R156, R159);
completion is then. -/
def State.sendStore (s : State) (cycles : Nat) (bytes : List (Nat × BitVec 8)) (fate : Option (Nat × SupplyReq))
    (comp : Comp) : State :=
  s.modMe fun c =>
    let due := c.storeDue s.rc cycles
    { c.modSeq s.curSeq.idx fun y => { y with pend := y.pend ++ [⟨c.nextId, due, [], comp⟩] } with
      nextId := c.nextId + 1
      stores := c.stores ++ [⟨due, bytes, fate⟩] }

/-- Bytes paired with their addresses. -/
def addrBytes (a : Nat) (bs : List (BitVec 8)) : List (Nat × BitVec 8) := bs.mapIdx fun i b => (a + i, b)

/-- A store into the commit buffer, with its room check (R161). -/
def State.buffer (s : State) (a : Nat) (need : Nat) (put : Core → Core) : Out :=
  match s.me.cbRoom need with
  | some true => .trap 0x23 0 a s
  | some false => .stall 2 s
  | none => .done (s.modMe put) .seq false

/-- ST, STX and STQ of bytes at an address (R156, R157). -/
def storeBody (bs : List (BitVec 8)) (align : Nat) (fate : Fate) (comp : Comp) (a : Nat) (s : State) : Out :=
  s.localCheck a bs.length align fate false fun loc s =>
    match loc with
    | .priv a => .done (s.sendStore 1 (addrBytes a bs) (fateReq fate (a + bs.length - 1)) comp) .seq true
    | .win l =>
      s.buffer a ((l.map fun p => s.me.cbNeed p.home p.addr p.len .quad false).sum) fun c =>
        l.foldl (fun c p => c.cbStore p.home p.addr ((bs.drop p.off).take p.len) .quad false 0 true) c
    | .bad c x => .trap c x a s

/-- The bytes of a scalar store (R156). -/
def storeBytes (sz : Sz) (v : Word64) : List (BitVec 8) := leBytes sz.bytes v.toNat

/-- R156: scalar store, private or window; the value is read before the address. -/
def execSt (h : Hdr) (v a : Sel) (sz : Sz) (s : State) : Host.Outcome State Fault Refusal :=
  issue (op1 h [v, a] [] []) (fun s =>
    storeBody (storeBytes sz (s.val [v, a] 0)) sz.bytes .keep compNone (s.val [v, a] 1).toNat s) s

/-- R156: scalar store with an offset and a fate. -/
def execStx (h : Hdr) (v a : Sel) (sz : Sz) (fate : Fate) (off : BitVec 24) (c : Comp) (s : State) :
    Host.Outcome State Fault Refusal :=
  issue (op2 h c [v, a] [] []) (fun s =>
    storeBody (storeBytes sz (s.val [v, a] 0)) sz.bytes fate c (addOff (s.val [v, a] 1) off).toNat s) s

/-- The translation of a device store or atomic of K or S (R262). -/
def State.storeXlate (s : State) (va : Nat) (kind : AccKind) (scope : Scope) (go : Nat → TlbEnt → State → Out) : Out :=
  match s.translate s.curCore s.me.part none va kind scope false true with
  | .hit pa e s => go pa e s
  | .wait s => .stall 2 s
  | .fault f s =>
    let (s, cause, d) := s.xlateTrap s.curCore s.curSeq.idx va kind f
    .trap cause d va s

/-- R156: device store, buffered (R160); completion is the issue rc. -/
def execStd (h : Hdr) (v a : Sel) (sz : Sz) (scope : Scope) (rel : Bool) (off : BitVec 24) (c : Comp) (s : State) :
    Host.Outcome State Fault Refusal :=
  issue (op2 h c [v, a] [] []) (fun s =>
    let va := (addOff (s.val [v, a] 1) off).toNat % 2 ^ 48
    let bs := storeBytes sz (s.val [v, a] 0)
    if va % sz.bytes ≠ 0 then .trap 0x20 0 va s
    else s.storeXlate va .store scope fun pa e s =>
      s.buffer va (s.me.cbNeed (homeOf pa) pa bs.length scope rel) fun c =>
        c.cbStore (homeOf pa) pa bs scope rel (va / 65536) e.nomig) s

/-! ### Whole-entry moves, gather and scatter -/

/-- An entry reserved and filled with bytes after a latency (R144, R157). -/
def State.fillLater (s : State) (q : Fin 8) (lat : Nat) (v : VWord) (comp : Comp) : State :=
  let place := ((s.me.q[q]).reserve).2
  (s.modMe fun c => c.modQ q fun y => y.reserve.1).produce lat [.entry q place v] comp

/-- R157: 256 local bytes into a queue entry. -/
def execLdq (h : Hdr) (q : Fin 8) (a : Sel) (fate : Fate) (off : BitVec 24) (c : Comp) (s : State) :
    Host.Outcome State Fault Refusal :=
  let op := { op2 h c [a] [] [] with push := some q }
  issue op (fun s =>
    if s.me.portBusy then .stall 2 s
    else
      s.localCheck (addOff (s.val [a] 0) off).toNat 256 8 fate false fun loc s =>
        match loc with
        | .priv a =>
          let s := s.fillLater q (privLat (a + 255)) (bytesV 2048 (s.me.mem.readN a 256)) c
          .done (s.modMe fun c => c.askFate (fateReq fate (a + 255))) .seq true
        | .win l => .done (s.sendLoad .quad none (some q) none l [] false (addOff (s.val [a] 0) off).toNat c) .seq true
        | .bad c x => .trap c x 0 s) s

/-- R157: pops an entry and writes its 256 bytes; the queue is read before the address (log 15). -/
def execStq (h : Hdr) (q : Fin 8) (a : Sel) (fate : Fate) (off : BitVec 24) (c : Comp) (s : State) :
    Host.Outcome State Fault Refusal :=
  let names := [.pop q, a]
  issue (op2 h c names [] []) (fun s =>
    storeBody (vBytes (s.me.vector names 0)) 8 fate c (addOff (s.val names 1) off).toNat s) s

/-- The bytes of an element of GATHER and SCATTER (R158). -/
def eszBytes : Esz → Nat
  | .e8 => 1 | .e16 => 2 | .e32 => 4
/-- The elements GATHER and SCATTER move (R158). -/
def eszCount : Esz → Nat
  | .e8 => 128 | .e16 => 128 | .e32 => 64

/-- The element addresses of an index block (R158). -/
def elemAddrs (a : Nat) (esz : Esz) (idx : Nat → Nat) : List Nat :=
  (List.range (eszCount esz)).map fun i => a + eszBytes esz * idx i

/-- The checks of every element's address before any moves (R152, R158): each resolves privately, and its banks are
on. -/
def State.elemCheck (s : State) (addrs : List Nat) (n : Nat) (go : State → Out) : Out :=
  let k := s.curCore
  let q := s.curSeq.idx
  let bad := addrs.findSome? fun a => match s.resolvePriv k q.val a n with
    | .bad c d => some (a, c, d)
    | .priv _ => none
    | .win _ => none
  match bad with
  | some (a, c, d) => .trap c d a s
  | none =>
    let bs := (addrs.flatMap fun a => banksOf a n).dedup.map fun b => (k, b)
    match s.offBank bs with
    | some b =>
      .trap 0x24 (bankDetail q.val b.1 0 0 b.2) ((addrs.find? fun a => (banksOf a n).contains b.2).getD 0) s
    | none => if s.banksFull bs then go s else .stall (wakeClass q) (s.wakeBanks (.seqr k q) bs)

/-- The checks 1 and 2 of R152 on the base of GATHER and SCATTER and, for GATHER, on the index block (R158): alignment first,
then resolution. -/
def State.baseCheck (s : State) (base e : Nat) (blk : Option Nat) (go : Out) : Out :=
  let at_ (a n : Nat) (go : Out) : Out := match s.resolvePriv s.curCore s.curSeq.idx.val a n with
    | .bad c d => .trap c d a s
    | .priv _ => go
    | .win _ => go
  if base % e ≠ 0 then .trap 0x20 0 base s
  else
    match blk with
    | none => at_ base e go
    | some b => if b % 8 ≠ 0 then .trap 0x20 0 b s else at_ base e (at_ b 256 go)

/-- R158: gathers indexed elements of private store into an entry. -/
def execGather (h : Hdr) (q : Fin 8) (a b : Sel) (fate : Fate) (esz : Esz) (off : BitVec 24) (c : Comp) (s : State) :
    Host.Outcome State Fault Refusal :=
  let op := { op2 h c [a, b] [] [] with push := some q }
  issue op (fun s =>
    let base := (addOff (s.val [a, b] 0) off).toNat
    let blk := (s.val [a, b] 1).toNat
    let e := eszBytes esz
    let n := eszCount esz
    if s.me.portBusy then .stall 2 s
    else
      s.baseCheck base e (some blk) <| s.localCheck blk 256 8 .keep true fun _ s =>
        let addrs := elemAddrs base esz fun i => s.me.mem.readLE (blk + 2 * i) 2
        s.elemCheck addrs e fun s =>
          let v := bytesV 2048 (addrs.flatMap fun x => s.me.mem.readN x e)
          let last := addrs.getLastD 0 + e - 1
          let far := addrs.any fun x => decide (0x1000000 ≤ x + e - 1)
          let s := s.fillLater q ((if far then 6 else 4) + n / 16) v c
          .done (s.modMe fun c =>
            { c with portFree := (c.clk .control).cyc + n / 16 }.askFate (fateReq fate last)) .seq true) s

/-- R158: scatters the elements of a popped entry; the highest element wins where indices repeat. -/
def execScatter (h : Hdr) (q : Fin 8) (a b : Sel) (fate : Fate) (esz : Esz) (off : BitVec 24) (c : Comp) (s : State) :
    Host.Outcome State Fault Refusal :=
  let names := [.pop q, a, b]
  issue (op2 h c names [] []) (fun s =>
    let base := (addOff (s.val names 1) off).toNat
    let data := s.me.vector names 0
    let idx := s.me.vector names 2
    let e := eszBytes esz
    let addrs := elemAddrs base esz fun i => elemOf idx 16 i
    s.baseCheck base e none <| s.elemCheck addrs e fun s =>
      let bytes := (addrs.mapIdx fun i x => addrBytes x (leBytes e (elemOf data (8 * e) i))).flatten
      .done (s.sendStore (eszCount esz / 16) bytes (fateReq fate (addrs.getLastD 0 + e - 1)) c) .seq true) s

end Sys2Proof.Machine
end

