-- ==== Sys2Proof/Machine/Order.lean ====
section
/-! DEFINITION. Ordering and visibility (spec/15): fences, atomics, the return of device loads with their leases, the
timestamp procedure, the performing of released lines, and pin tokens. -/

namespace Sys2Proof.Machine

/-! ### Fences (R301) -/

/-- XFENCE at a scope: check 4 waits until the sequencer's private stores are performed and, beyond core scope, until
F(scope) reaches PTS. -/
def fence (h : Hdr) (scope : Option Scope) (s : State) : Host.Outcome State Fault Refusal :=
  issue (op1 h [] [] []) (fun s =>
    if s.curSeq = .s ∧ !s.me.stores.isEmpty then .stall floorClass s
    else
      match scope with
      | none => .done s .seq false
      | some x => if s.coreFloor s.curCore x then .done s .seq false else .stall floorClass s) s

/-- R301: XFENCE.CORE. -/
def execXfenceCore (h : Hdr) (s : State) : Host.Outcome State Fault Refusal := fence h none s
/-- R301: XFENCE.QUAD. -/
def execXfenceQuad (h : Hdr) (s : State) : Host.Outcome State Fault Refusal := fence h (some .quad) s
/-- R301: XFENCE.DEV. -/
def execXfenceDev (h : Hdr) (s : State) : Host.Outcome State Fault Refusal := fence h (some .dev) s
/-- R301: XFENCE.SYS. -/
def execXfenceSys (h : Hdr) (s : State) : Host.Outcome State Fault Refusal := fence h (some .sys) s

/-! ### Atomics (R304 to R307) -/

/-- The new value of an atomic operation, by the operation's code, on w-bit numbers (R305). -/
def atomNew (op : Fin 10) (w old b c : Nat) : Nat :=
  match op with
  | 0 => (old + b) % 2 ^ w
  | 1 => old &&& b
  | 2 => old ||| b
  | 3 => old ^^^ b
  | 4 => if sextN w old ≤ sextN w b then old else b
  | 5 => if sextN w old ≥ sextN w b then old else b
  | 6 => if old ≤ b then old else b
  | 7 => if old ≥ b then old else b
  | 8 => b
  | 9 => if old = c then b else old

/-- Whether an ATOM returns its value (R304): any destination but s0 with N = 0. -/
def atomReturns : Dest → Bool
  | .reg r => r != 0
  | .latch => true

/-- The bytes of an atomic's word. -/
def AtomReq.width (r : AtomReq) : Nat := if r.dbl then 8 else 4

/-- ATOM with its operands (R304, R306, R307): the line taken, then completion, or the arrival of a value-returning
form. -/
def atom (op : Fin 10) (h : Hdr) (d : Dest) (names : List Sel) (f : AtomF) (c : Comp) (s : State) :
    Host.Outcome State Fault Refusal :=
  let ret := atomReturns d
  let o := { op2 h c names [] (destRes d) with arr := ret }
  issue o (fun s =>
    let k := s.curCore
    let n := if f.dbl then 8 else 4
    let addr := (s.val names 0).toNat
    let b := s.val names 1
    let x := s.val names 2
    let put (home : Home) (a vpage : Nat) (nomig : Bool) (s : State) : Out :=
      if ret ∧ f.acq ∧ !s.coreFloor k f.scope then .stall 2 s
      else
        match s.me.cbRoom 1 with
        | some true => .trap 0x23 0 addr s
        | some false => .stall 2 s
        | none =>
          let id := s.me.nextId
          let s := s.modMe fun c => c.cbNew home (a / 64 * 64) f.scope f.rel vpage nomig
            (putBytes 0 0 (a % 64) (List.replicate n 0)) (some ⟨op, a, f.dbl, b, x, ret⟩)
          if ret then .done s (.arrive ⟨.atom id d, 0, false, 0, h.ring, c⟩) true else .done s .seq false
    match f.scope with
    | .quad =>
      if addr % n ≠ 0 then .trap 0x20 0 addr s
      else
        match s.resolve k s.curSeq.idx.val addr n with
        | .win l =>
          match l with
          | [p] => s.bankCheck addr (ownedBanks k n (.win l)) (put p.home p.addr 0 true)
          | _ => .trap 0x21 0 addr s
        | .priv _ => .trap 0x21 0 addr s
        | .bad c d => if c = 0x22 then .trap 0x22 d addr s else .trap 0x21 0 addr s
    | _ =>
      let va := addr % 2 ^ 48
      if va % n ≠ 0 then .trap 0x20 0 va s
      else s.storeXlate va .atomic f.scope fun pa e s => put (homeOf pa) pa (va / 65536) e.nomig s) s

/-- R305: ADD. -/
def execAtomAdd (h : Hdr) (d : Dest) (a b : Sel) (f : AtomF) (c : Comp) (s : State) :
    Host.Outcome State Fault Refusal := atom 0 h d [a, b] f c s
/-- R305: AND. -/
def execAtomAnd (h : Hdr) (d : Dest) (a b : Sel) (f : AtomF) (c : Comp) (s : State) :
    Host.Outcome State Fault Refusal := atom 1 h d [a, b] f c s
/-- R305: OR. -/
def execAtomOr (h : Hdr) (d : Dest) (a b : Sel) (f : AtomF) (c : Comp) (s : State) :
    Host.Outcome State Fault Refusal := atom 2 h d [a, b] f c s
/-- R305: XOR. -/
def execAtomXor (h : Hdr) (d : Dest) (a b : Sel) (f : AtomF) (c : Comp) (s : State) :
    Host.Outcome State Fault Refusal := atom 3 h d [a, b] f c s
/-- R305: MIN. -/
def execAtomMin (h : Hdr) (d : Dest) (a b : Sel) (f : AtomF) (c : Comp) (s : State) :
    Host.Outcome State Fault Refusal := atom 4 h d [a, b] f c s
/-- R305: MAX. -/
def execAtomMax (h : Hdr) (d : Dest) (a b : Sel) (f : AtomF) (c : Comp) (s : State) :
    Host.Outcome State Fault Refusal := atom 5 h d [a, b] f c s
/-- R305: MINU. -/
def execAtomMinu (h : Hdr) (d : Dest) (a b : Sel) (f : AtomF) (c : Comp) (s : State) :
    Host.Outcome State Fault Refusal := atom 6 h d [a, b] f c s
/-- R305: MAXU. -/
def execAtomMaxu (h : Hdr) (d : Dest) (a b : Sel) (f : AtomF) (c : Comp) (s : State) :
    Host.Outcome State Fault Refusal := atom 7 h d [a, b] f c s
/-- R305: SWAP. -/
def execAtomSwap (h : Hdr) (d : Dest) (a b : Sel) (f : AtomF) (c : Comp) (s : State) :
    Host.Outcome State Fault Refusal := atom 8 h d [a, b] f c s
/-- R305: compare and swap. -/
def execAtomCas (h : Hdr) (d : Dest) (a b cmp : Sel) (f : AtomF) (c : Comp) (s : State) :
    Host.Outcome State Fault Refusal := atom 9 h d [a, b, cmp] f c s

/-! ### Results -/

/-- One write of a result (R47, R84, R130, R143, R168). -/
def Core.applyWr (c : Core) (q : Fin 4) (w : Wr) : Core :=
  match w with
  | .sreg r v => c.modSeq q fun x => x.setSreg r v
  | .latch b v => c.modSeq q fun x => { x with b := x.b.set b v }
  | .pred p v => c.modSeq q fun x => x.setPred p v
  | .vreg r bits v => { c with v := c.v.set r ((v &&& bits) ||| (c.v[r] &&& ~~~bits)) }
  | .mask m lanes v => c.setMask m ((v &&& lanes) ||| (c.mask m &&& ~~~lanes))
  | .entry x place v => c.modQ x fun y => y.fill place v
  | .flags f => c.fmterrRaise f

/-- Whether a write covers a place, of a sequencer's registers or of C's. -/
def Wr.covers (w : Wr) (q : Fin 4) (p : Place) : Bool :=
  match w, p with
  | .sreg r _, .sreg x y => x == q && y == r
  | .latch b _, .latch x y => x == q && y == b
  | .pred b _, .pred x y => x == q && y == b
  | .vreg r bits _, .lane x i => x == r && bvf bits (32 * i.val) 32 == 2 ^ 32 - 1
  | .mask m lanes _, .mask x => x == m && lanes == BitVec.allOnes 64
  | _, _ => false

/-- The places that writes cover hold no bad bits any more (R126). -/
def Core.clean (c : Core) (q : Fin 4) (ws : List Wr) : Core :=
  { c with notes := c.notes.kept fun p => !ws.any fun w => w.covers q p }

/-- The latch writes of earlier results of K, L or S that a later result has overtaken are void, so that results appear
in program order (R131; log 14). -/
def dropLatch (p : Pend) (id : Nat) (b : Fin 4) : Pend :=
  if p.id < id then { p with writes := p.writes.filter fun w => match w with
    | .latch x _ => x != b
    | _ => true } else p

/-- Whether a due time has come (R130, R158, R169, R373). -/
def Core.isDue (c : Core) (rc : Nat) (d : Due) : Bool :=
  match d with
  | .cycle d n => decide (n ≤ (c.clk d).cyc)
  | .after n =>
    let x := c.clk .control
    decide (n < x.cyc ∨ (n = x.cyc ∧ x.edge = false))
  | .rc n => decide (n ≤ rc)
  | .onReturn => false

/-- Whether a result in flight is due. -/
def Core.dueNow (c : Core) (rc : Nat) (p : Pend) : Bool := c.isDue rc p.due

/-- Whether a result of C is that of an operation of the vector engine, majors 24 to 33 (R31): every one writes lanes, a mask,
a queue entry, format flags, or a latch that C's scalar operations do not. -/
def Pend.ofVector (p : Pend) : Bool :=
  p.writes.any fun w => match w with
    | .latch b _ => decide (2 ≤ b.val)
    | .vreg _ _ _ => true
    | .mask _ _ _ => true
    | .entry _ _ _ => true
    | .flags _ => true
    | .sreg _ _ => false
    | .pred _ _ => false

/-- A result written (R130, R169): its writes, the end of its flight, its signals offered, and the rc of the region's
last result (R29). -/
def Core.deliver (c : Core) (rc : Nat) (q : Fin 4) (p : Pend) : Core :=
  let c := (p.writes.foldl (fun c w => c.applyWr q w) c).clean q p.writes
  let c := c.modSeq q fun x => { x with
    pend := (x.pend.filter fun y => y.id != p.id).map fun y =>
      if q = 2 then y
      else p.writes.foldl (fun y w => match w with
        | .latch b _ => dropLatch y p.id b
        | _ => y) y }
  { (c.offer q p.comp) with
    lastResult := if q = 2 then c.lastResult else rc
    lastVec := if q = 2 then rc else c.lastVec
    eng := if q = 2 ∧ p.ofVector then c.eng.set 1 (c.eng[(1 : Fin 8)] + 1) else c.eng }

/-- R130, R169: a result reaches its due cycle and is written. -/
def execResultDue (k : CoreId) (q : Fin 4) (id : Nat) (s : State) : Host.Outcome State Fault Refusal :=
  match ((s.core k).sq q).pend.find? fun p => p.id == id && (s.core k).dueNow s.rc p with
  | some p => .next (s.modCore k fun c => c.deliver s.rc q p)
  | none => .next s

/-! ### Coherence replays (R297, R298) -/

/-- A request put into a token's queue: by rc, and within an rc by die and core (R298). -/
def insertReq (r : Nat × CoreId) : List (Nat × CoreId) → List (Nat × CoreId)
  | [] => [r]
  | x :: l => if x.1 < r.1 ∨ (x.1 = r.1 ∧ x.2 < r.2) then x :: insertReq r l else r :: x :: l

/-- The request of a partition's pin token (R298). -/
def State.askPin (s : State) (k : CoreId) : State :=
  let p := (s.core k).part
  if s.pins.any fun e => e.part = p then
    { s with pins := s.pins.map fun e =>
        if e.part = p ∧ !(e.queue.any fun x => x.2 == k) then { e with queue := insertReq (s.rc, k) e.queue } else e }
  else { s with pins := s.pins ++ [⟨p, none, [(s.rc, k)]⟩] }

/-- Whether the run of a core holds its partition's pin token: one that an earlier run keeps for its lines is not its own. -/
def State.holdsPin (s : State) (k : CoreId) : Bool :=
  !(s.core k).pinnedLines (s.core k).part && s.pins.any fun e => e.part = (s.core k).part ∧ e.holder = some k

/-- A coherence replay over an address (R297): a rollback that advances the coherence count; at two the next run is pinned. -/
def State.cohReplay (s : State) (k : CoreId) (addr : Nat) : State :=
  let s := s.logCore k ⟨0x03, 0, none, 0, 0, 0, 0, 0, addr, 0⟩
  let s := (s.rollback k false).modCore k fun c => { c.count 0x06 0 0 true with cohcnt := c.cohcnt + 1 }
  if 2 ≤ (s.core k).cohcnt then (s.modCore k fun c => { c with pinned := true }).askPin k else s

/-- R298: the token is granted to the core that has waited longest, of the requests of earlier rcs. -/
def execPinTokenGrant (p : PartId) (s : State) : Host.Outcome State Fault Refusal :=
  .next { s with pins := s.pins.map fun e =>
    if e.part = p ∧ e.holder.isNone then
      match e.queue with
      | [] => e
      | k :: r => if k.1 < s.rc then { e with holder := some k.2, queue := r } else e
    else e }

/-! ### Device and window loads (R293) -/

/-- A pair put into a read set, with the core that wrote what was read: a later read of a granule raises its lease; one with
another WTS is a conflict. -/
def addPair (l : List ReadPair) (g : Gran) (wts e : Nat) (j : Option CoreId) : Option (List ReadPair) :=
  match l.find? fun r => r.gran == g with
  | none => some (l ++ [⟨g, wts, e, j⟩])
  | some r =>
    if r.wts = wts then some (l.map fun x => if x.gran == g then { x with lease := max x.lease e } else x) else none

/-- The lease length of a die (R294): a stored 0 cannot be. -/
def State.leaseLen (s : State) (d : Fin 2) : Nat := bvf (s.die d).cohctl 0 16

/-- The buffered bytes of a piece: whether some come from memory, and the largest timestamp among released lines. -/
def Core.forwarded (c : Core) (p : Piece) : Bool × Option Nat :=
  (List.range p.len).foldl (fun r i =>
    match c.cbByte p.home (p.addr + i) with
    | none => (true, r.2)
    | some (_, cur, ts) => if cur then r else (r.1, some (max (r.2.getD 0) ts))) (false, none)

/-- Whether a granule has a released line of the core still to be performed. -/
def Core.unperformed (c : Core) (g : Gran) : Bool :=
  c.cb.any fun l => !l.cur && granOf l.home l.addr == some g

/-- The read of one piece (R293): the granule's pair joins the read set; none is a conflict. While the granule is claimed
under R295, also by an earlier region of the core itself, no lease is granted beyond the one it has; DESIGN CHOICE (log 44): nor
while another core's pinned run has claimed it for a load (R298 step 2). -/
def State.readPiece (s : State) (k : CoreId) (p : Piece) : Option State :=
  let c := s.core k
  match granOf p.home p.addr with
  | none => some s
  | some g =>
    let f := c.forwarded p
    if f.1 then
      let x := s.gran g
      let held := match x.claim with
        | some (c', pin) => !(c' == k && pin) || c.unperformed g
        | none => false
      let e := if held then x.rts else max x.rts (c.pts + s.leaseLen (dieOf k))
      match addPair c.reads g x.wts e x.writer with
      | none => none
      | some l => some ((s.setGran g { x with rts := e, ring := false }).modCore k fun c => { c with reads := l })
    else
      match f.2 with
      | none => some s
      | some ts =>
        match addPair c.reads g ts ts none with
        | none => none
        | some l => some (s.modCore k fun c => { c with reads := l })

/-- The reads of a load's pieces: the state, or the address of the piece that meets a conflict. -/
def State.readAll (s : State) (k : CoreId) : List Piece → Except Nat State
  | [] => .ok s
  | p :: l =>
    match s.readPiece k p with
    | none => .error p.addr
    | some s => s.readAll k l

/-- The bytes of a piece: a system-range read's were taken at issue (R299). -/
def State.pieceBytes (s : State) (k : CoreId) (p : Piece) : List (BitVec 8) :=
  match p.early with
  | some b => b
  | none => s.homeBytes k p.home p.addr p.len

/-- The claims of a pinned run's load before it reads (R298 step 2); none while another region's claim holds it. -/
def State.pinClaims (s : State) (k : CoreId) (l : List Piece) : Option State :=
  if !(s.core k).pinned then some s
  else
    l.foldl (fun r p => match r with
      | none => none
      | some s =>
        match granOf p.home p.addr with
        | none => some s
        | some g =>
          let x := s.gran g
          match x.claim with
          | some (c, _) => if c = k ∧ !(s.core k).unperformed g then some s else none
          | none => some (s.setGran g { x with claim := some (k, true), ring := false })) (some s)

/-- Whether a piece reads a granule of which a released region has performed some lines and not all: its effects are seen
together (R296; log 21). -/
def State.halfSeen (s : State) (p : Piece) : Bool :=
  match granOf p.home p.addr with
  | none => false
  | some g =>
    match (s.gran g).claim with
    | none => false
    | some (c, _) => (s.core c).cb.any fun l =>
        !l.cur && l.ts == (s.gran g).wts && granOf l.home l.addr == some g

/-- Whether a piece takes a byte of a poisoned line from memory (R350). -/
def State.poisoned (s : State) (k : CoreId) (p : Piece) : Bool :=
  p.home == .hbm && (List.range p.len).any fun i =>
    s.poison.contains ((p.addr + i) / 64) && ((s.core k).cbByte p.home (p.addr + i)).isNone

/-- The banks of other members' window shares that a load's pieces take their bytes from. -/
def windowBanks (l : List Piece) : List (CoreId × Nat) :=
  (l.filterMap fun p => match p.home with
    | .win t => some (t, p.addr / 131072)
    | .hbm => none
    | .sysr => none).dedup

/-- Whether no earlier load of its sequencer is still to be performed: L's loads are performed in issue order (R154). -/
def Core.firstLoad (c : Core) (l : DLoad) : Bool := (c.loads.takeWhile fun x => x.id != l.id).all fun x => x.seqr != l.seqr

/-- R293: a load's data returns in its turn (R154), not between the lines of one region (R296). A window bank meets its state
when its bytes are taken (R192, R196): one in retention is woken first, and one that has gone off raises the bank-off fault. A
poisoned byte traps (R350). The load joins the read set, or replays the region on a conflict, and its result is written. DESIGN
CHOICE (log 44): the commit buffer forwards what it holds when the data returns, not what it held at the load's issue (R162). -/
def execDeviceLoadReturn (k : CoreId) (id : Nat) (s : State) : Host.Outcome State Fault Refusal :=
  match (s.core k).loads.find? fun l => l.id == id && decide (l.at_ ≤ s.rc) && l.todo.isEmpty && (s.core k).firstLoad l &&
      !(s.linkDown && l.pieces.any fun p => farHome k p.home p.addr) && !l.pieces.any s.halfSeen with
  | none => .next s
  | some l =>
    let bs := windowBanks l.pieces
    match s.offBank bs, s.pinClaims k l.pieces with
    | some b, _ =>
      let w := (s.core k).wordsAt l.seqr l.pc
      .next (s.takeTrap k (Rep.trap 0x24 l.seqr (bankDetail l.seqr.val b.1 0 0 b.2) l.pc.toNat w.1 w.2 l.va))
    | none, none => .next s
    | none, some t =>
      if !s.banksFull bs then .next (s.wakeBanks (.load k id) bs) else
      let s := t.unwaitBanks (.load k id) bs
      if l.pieces.any (s.poisoned k) then
        let w := (s.core k).wordsAt l.seqr l.pc
        .next (s.takeTrap k (Rep.trap 0x80 l.seqr 0 l.pc.toNat w.1 w.2 ((l.pieces.find? (s.poisoned k)).map Piece.addr |>.getD 0)))
      else
      match s.readAll k l.pieces with
      | .error a => .next (s.cohReplay k a)
      | .ok s =>
        let bs := l.pieces.flatMap fun p => s.pieceBytes k p
        let ws := match l.q with
          | some (q, place) => [Wr.entry q place (bytesV 2048 bs)]
          | none =>
            match l.dest, l.sz with
            | some d, some sz => destWr d 2 (loadVal sz bs)
            | _, _ => []
        .next (s.modCore k fun c =>
          let c := { c with loads := c.loads.filter fun x => x.id != id }
          match (c.sq l.seqr).pend.find? fun p => p.id == id with
          | some p =>
            let kept := match l.q with
              | some _ => ws
              | none => ws.filter fun w => match w with
                | .latch b _ => p.writes.any fun y => y.hits (.latch b)
                | _ => true
            c.deliver s.rc l.seqr { p with writes := kept }
          | none => c)

/-! ### The timestamp procedure (R295) -/

/-- Whether a region has made a timed access: something in its read set, or a line at a timed home. -/
def Core.timedRegion (c : Core) : Bool := !c.reads.isEmpty || c.cb.any fun l => c.ownLine l && l.home != .sysr

/-- The order in which granules are claimed (R295): device lines by address, then window granules. -/
def granKey : Gran → Nat
  | .line n => n
  | .win k n => 2 ^ 40 + k.val * 2 ^ 20 + n

/-- A granule put into a list in order, once. -/
def insertGran (g : Gran) : List Gran → List Gran
  | [] => [g]
  | x :: l => if granKey g < granKey x then g :: x :: l else if g = x then x :: l else x :: insertGran g l

/-- The granules of the region's lines, in the order of their claims. -/
def Core.writeSet (c : Core) : List Gran :=
  (c.cb.filter c.ownLine).foldl (fun r l => match granOf l.home l.addr with
    | some g => insertGran g r
    | none => r) []

/-- The answer of a claim: taken, to wait for, or refused by a pinned run. -/
inductive Claim where
  | taken | waits | refused

/-- A region's claim on a granule (R295, R298 step 3): that of an earlier region of the core whose line is still to be performed
is another region's. -/
def State.claim (s : State) (k : CoreId) (g : Gran) : Claim :=
  match (s.gran g).claim with
  | none => .taken
  | some (c, pin) => if c = k ∧ !(s.core k).unperformed g then .taken else if pin then .refused else .waits

/-- Whether a request of a core to a granule's home may not start now (R362, R372). -/
def State.granHeld (s : State) (k : CoreId) : Gran → Bool
  | .line n => s.farHeld k (n * 64)
  | .win _ _ => false

/-- The claims taken one after another (R295), none that Feldspar holds: the state, what is left, and whether one was refused. -/
def State.claimAll (s : State) (k : CoreId) : List Gran → State × List Gran × Bool
  | [] => (s, [], false)
  | g :: l =>
    if s.granHeld k g then (s, g :: l, false) else
    match s.claim k g with
    | .taken => (s.setGran g { s.gran g with claim := some (k, (s.core k).pinned), ring := false }).claimAll k l
    | .waits => (s, g :: l, false)
    | .refused => (s, g :: l, true)

/-- The address of a granule, as a record names it. -/
def Gran.addr : Gran → Nat
  | .line n => n * 64
  | .win _ n => n * 1024

/-- The validation of the read set at a timestamp (R295): a granule that fails it calls for a coherence replay. -/
def State.validate (s : State) (k : CoreId) (ts : Nat) : List ReadPair → Except Gran State
  | [] => .ok s
  | r :: l =>
    if r.lease < ts then
      let x := s.gran r.gran
      let other := match x.claim with
        | some (c, _) => c != k || (s.core k).unperformed r.gran
        | none => false
      if x.wts = r.wts ∧ !other then (s.setGran r.gran { x with rts := max x.rts ts }).validate k ts l else .error r.gran
    else s.validate k ts l

/-- Whether a timed load of the core is still to return, and so to join the read set (R293, R295; log 21). -/
def Core.timedLoads (c : Core) : Bool := c.loads.any fun l => !l.todo.isEmpty || l.pieces.any fun p => p.home != .sysr

/-- R295: one step of the procedure of a core whose region has made a timed access, whose conditions 1 to 4 of R29 hold and whose
timed loads have returned: claims in
ascending order, then, with every line whose bytes were forwarded performed, the timestamp and the validation, whose requests to
the other die wait while Feldspar holds them (R362, R372). -/
def execTimestampProcedure (k : CoreId) (s : State) : Host.Outcome State Fault Refusal :=
  let c := s.core k
  let rest := match c.ts with
    | .idle => if c.timedRegion then some c.writeSet else none
    | .claiming l => some l
    | .done _ => none
  match rest with
  | none => .next s
  | some l =>
    match s.claimAll k l with
    | (s, l, true) => .next (s.cohReplay k ((l.head?.map Gran.addr).getD 0))
    | (s, l, false) =>
      let waits := c.reads.any fun r => c.cb.any fun x =>
        !x.cur && x.ts == r.wts && granOf x.home x.addr == some r.gran
      let ts := c.writeSet.foldl (fun t g => max t ((s.gran g).rts + 1)) (c.reads.foldl (fun t r => max t r.wts) (c.pts + 1))
      let held := c.reads.any fun r => decide (r.lease < ts) && s.granHeld k r.gran
      if !l.isEmpty ∨ waits ∨ c.timedLoads ∨ held then .next (s.modCore k fun c => { c with ts := .claiming l })
      else
        match s.validate k ts c.reads with
        | .error g => .next (s.cohReplay k g.addr)
        | .ok s => .next (s.modCore k fun c => { c with ts := .done ts, pts := ts, lastResult := s.rc })

/-! ### Released lines (R163, R299, R302) -/

/-- Whether two lines are of one region. -/
def CBLine.peer (l x : CBLine) : Bool := x.gen == l.gen && x.part == l.part && x.gang == l.gang && x.task == l.task

/-- Whether a line comes behind an older one of its partition: where they share bytes, and in the system range, where lines are
performed in release order (R299), but for an older REL line of its own region, which R302 puts last (log 46). -/
def CBLine.behind (l x : CBLine) : Bool :=
  l.home == x.home && l.part == x.part &&
    ((l.addr == x.addr && l.mask &&& x.mask != 0) || (l.home == .sysr && !(x.rel && l.peer x)))

/-- The REL lines of a region, and the lines of it that come behind one of them: a region's lines in buffered order. -/
def boundLines (region : List CBLine) : List CBLine :=
  region.foldl (fun (b : List CBLine) x => if x.rel || b.any x.behind then b ++ [x] else b) []

/-- Whether the order lets a released line be performed: the lines it comes behind are gone (R7, R299, R312); a REL line comes
after the other lines of its region, F(scope) ≥ ts − 1 (R302), and the lines its core released before it (R303). DESIGN CHOICE
(log 46): a line that must itself come behind a REL line of its region does not hold one, and REL lines of one region are performed
in buffered order. -/
def State.lineOrdered (s : State) (k : CoreId) (l : CBLine) : Bool :=
  let older := (s.core k).cb.takeWhile fun x => x.id != l.id
  let region := (s.core k).cb.filter fun x => !x.cur && l.peer x
  !(older.any l.behind) &&
    (!l.rel || (!(region.any fun x => !(boundLines region).contains x) && !(older.any fun x => l.peer x && x.rel) &&
      !(older.any fun x => !x.cur && x.part == l.part && x.ts ≤ l.ts && scopeSees l.scope x.home) &&
      (l.ts == 0 || s.floorReached l.part l.scope (l.ts - 1))))

/-- Whether the fabric holds a line: its request is on its way, or would start across Feldspar while a change of divisors is
pending (R372), which one that arrives in this rc did before, or the link is down (R362). -/
def State.lineHeld (s : State) (k : CoreId) (l : CBLine) : Bool :=
  decide (s.rc < l.at_) || (farHome k l.home l.addr && (s.linkDown || ((s.core k).changing && decide (l.at_ < s.rc))))

/-- Whether a released line may be performed now. -/
def State.lineReady (s : State) (k : CoreId) (l : CBLine) : Bool := !l.cur && s.lineOrdered k l && !s.lineHeld k l

/-- The bytes of a line written at its home. -/
def State.putHome (s : State) (h : Home) (addr : Nat) (mask : BitVec 64) (data : BitVec 512) : State :=
  let put (m : Mem) : Mem := (List.range 64).foldl (fun m i =>
    if bvf mask i 1 = 1 then m.write (addr + i) (BitVec.ofNat 8 (bvf data (8 * i) 8)) else m) m
  match h with
  | .win t => s.modCore t fun c => { c.keepOld addr 64 with mem := put c.mem }
  | .hbm => { s with mem := put s.mem }
  | .sysr => { s with mem := put s.mem }

/-- The effect of a line at its home: its bytes, or its atomic operation on the value current there (R305), with the
home's record of a value that is returned. -/
def State.applyLine (s : State) (k : CoreId) (l : CBLine) : State :=
  match l.atom with
  | none => s.putHome l.home l.addr l.mask l.data
  | some r =>
    let n := r.width
    let old := leNat ((List.range n).map fun i => s.homeByte l.home (r.addr + i))
    let new := atomNew r.op (8 * n) old (r.b.toNat % 2 ^ (8 * n)) (r.c.toNat % 2 ^ (8 * n))
    let s := s.putHome l.home l.addr l.mask (BitVec.ofNat 512 (new * 2 ^ (8 * (r.addr % 64))))
    if r.ret then
      let v := BitVec.ofNat 64 old
      let (d, s) := s.drawDelay
      { s with
        atomrecs := (s.atomrecs.filter fun x => x.1 != k) ++ [(k, l.part, l.gen, v)]
        cores := s.cores.map fun c => { c with mid := c.mid.map fun m =>
          match m.wait with
          | .inl w =>
            if w.core = k ∧ w.line = l.id ∧ w.gen = l.gen ∧ c.part = l.part then
              { m with wait := .inl { w with returned := some (v, s.rc + 1 + d), far := farHome k l.home l.addr } }
            else m
          | .inr _ => m } }
    else s

/-- A released line taken off its commit buffer as its home performs it: its effect, unless it falls into an off bank, its
granule's time and claim, the home's counts, and the pin token. -/
def State.putLine (s : State) (k : CoreId) (l : CBLine) (off : Bool) : State :=
  let s := if off then s else s.applyLine k l
  let s := s.modCore k fun c => { c with
    cb := c.cb.filter fun x => x.id != l.id
    eng := c.eng.set 7 (c.eng[(7 : Fin 8)] + 1)
    worked := 10 :: c.worked }
  let s := match granOf l.home l.addr with
    | none => s
    | some g =>
      let x := s.gran g
      s.setGran g ⟨l.ts, l.ts, if (s.core k).unperformed g then x.claim else none, some k, false⟩
  let s := match l.home with
    | .hbm => { (s.migCount k l.part l.addr l.nomig) with
        poison := if l.mask = BitVec.allOnes 64 then s.poison.filter fun p => p != l.addr / 64 else s.poison }
    | .win _ => s
    | .sysr => s
  if l.pinned then s.freePin k else s

/-- R163: a released line is performed at its home at its region's timestamp; its granule's claim goes with the last of
the region's lines there, and the pin token with the last line of a pinned run. A bank of a window share that is not full
is woken first; into an off bank the bytes are lost. DESIGN CHOICE (log 46): an atomic that returns a value then returns none, and
its commit B does not come (R196, R306). -/
def execLinePerformed (k : CoreId) (id : Nat) (s : State) : Host.Outcome State Fault Refusal :=
  match (s.core k).cb.find? fun l => l.id == id with
  | none => .next s
  | some l =>
    if !s.lineReady k l then .next s
    else
      let bank := match l.home with
        | .win t => some (t, l.addr / 131072)
        | .hbm => none
        | .sysr => none
      let st := match bank with
        | some b => ((s.core b.1).bank b.2).state
        | none => .full
      if st = .retention ∨ st = .waking then
        match bank with
        | some b => .next (s.modCore b.1 fun c => c.wakeAll s.rc (.line k l.id) [b.2])
        | none => .next s
      else
        let s := match bank with
          | some b => s.modCore b.1 fun c => c.unwait (.line k l.id)
          | none => s
        .next (s.putLine k l (st == .off))

/-- R306: the value of an atomic reaches the core; it is written in the next rc, and commit B completes 22 rc from
now. -/
def execAtomValueReturn (k : CoreId) (s : State) : Host.Outcome State Fault Refusal :=
  match (s.core k).mid with
  | none => .next s
  | some m =>
    match m.wait, m.doneAt with
    | .inl w, none =>
      match w.returned with
      | some (v, t) =>
        if t ≤ s.rc then
          .next (s.modCore k fun c =>
            { c.modSeq m.seqr fun q => { q with
                pend := q.pend ++ [⟨c.nextId, .rc (s.rc + 1), destWr w.d 2 v, compNone⟩] } with
              nextId := c.nextId + 1
              mid := some { m with doneAt := some (s.rc + 22) } })
        else .next s
      | none => .next s
    | _, _ => .next s

end Sys2Proof.Machine
end

