-- ==== Sys2Proof/Machine/Copy.lean ====
section
/-! DEFINITION. Copy channels and sync words (spec/14): routes and the route table (R276 to R278), COPY and COPY.R
(R280), the run of a command (R281 to R285), SYNCWAIT (R286), and failures (R289, R290). -/

namespace Sys2Proof.Machine

/-! ### Routes (R276 to R278) -/

/-- Directions in anticlockwise order (R276): 0 east, 1 north, 2 west, 3 south. -/
abbrev Dir := Fin 4

/-- The link a move crosses, by its bit in LINKRET (R410): HORZ below, VERT from bit 12; none where it leaves the grid. -/
def linkOf (r c : Nat) (d : Dir) : Option Nat :=
  match d with
  | 0 => if c < 3 then some (3 * r + c) else none
  | 2 => if 0 < c then some (3 * r + c - 1) else none
  | 3 => if r < 3 then some (12 + 4 * r + c) else none
  | 1 => if 0 < r then some (12 + 4 * (r - 1) + c) else none

/-- The router after a move. -/
def moveDir (r c : Nat) (d : Dir) : Nat × Nat :=
  match d with
  | 0 => (r, c + 1)
  | 1 => (r - 1, c)
  | 2 => (r, c - 1)
  | 3 => (r + 1, c)

/-- The heading a packet leaves its source with (R276). -/
def firstHeading (k : CoreId) : Dir := if k.val % 4 < 2 then 0 else 2

/-- The walk of a route (R276, R277): the core where it ejects and the crossings of Feldspar; none where a move leaves
the grid, crosses a retired link, or the turns end without E. -/
def walkRoute (ret : BitVec 32) (r c : Nat) (h : Dir) (cross : Nat) : List Nat → Option (CoreId × Nat)
  | [] => none
  | 3 :: rest => if rest.isEmpty then some (Fin.ofNat 16 (4 * r + c), cross) else none
  | t :: rest =>
    let h : Dir := if t = 1 then h + 1 else if t = 2 then h + 3 else h
    match linkOf r c h with
    | none => none
    | some l =>
      if bvf ret l 1 = 1 then none
      else
        let x := moveDir r c h
        walkRoute ret x.1 x.2 h (if 16 ≤ l ∧ l < 20 then cross + 1 else cross) rest

/-- The turns of a route-table entry (R277). -/
def turnsOf (rte : BitVec 32) : List Nat := (List.range (bvf rte 24 4)).map fun i => bvf rte (2 * i) 2

/-- Where a route from a core ejects (R277): none where the entry is not valid. -/
def routeEject (ret : BitVec 32) (k : CoreId) (rte : BitVec 32) : Option (CoreId × Nat) :=
  if bvf rte 24 4 = 0 ∨ 12 < bvf rte 24 4 then none
  else
    match walkRoute ret (k.val / 4) (k.val % 4) (firstHeading k) 0 (turnsOf rte) with
    | some x => if x.1 = k then none else some x
    | none => none

/-- The turns that follow directions from a heading; none where a step would turn back. -/
def turnsFor (h : Dir) : List Dir → Option (List Nat)
  | [] => some [3]
  | d :: ds =>
    match turnsFor d ds with
    | none => none
    | some ts => if d = h then some (0 :: ts) else if d = h + 1 then some (1 :: ts) else if d = h + 3 then some (2 :: ts) else none

/-- The steps along a row and along a column from one core to another. -/
def rowSteps (k t : CoreId) : List Dir :=
  if k.val % 4 ≤ t.val % 4 then List.replicate (t.val % 4 - k.val % 4) 0 else List.replicate (k.val % 4 - t.val % 4) 2
/-- The steps along a column. -/
def colSteps (k t : CoreId) : List Dir :=
  if k.val / 4 ≤ t.val / 4 then List.replicate (t.val / 4 - k.val / 4) 3 else List.replicate (k.val / 4 - t.val / 4) 1

/-- Every route of at most n turns from a router to a core over links in use. -/
def allRoutes (ret : BitVec 32) (t : CoreId) : Nat → Nat → Nat → Dir → List (List Nat)
  | 0, _, _, _ => []
  | n + 1, r, c, h =>
    (if 4 * r + c = t.val then [[3]] else []) ++
    ([0, 1, 2] : List Nat).flatMap fun x =>
      let h : Dir := if x = 1 then h + 1 else if x = 2 then h + 3 else h
      match linkOf r c h with
      | none => []
      | some l => if bvf ret l 1 = 1 then [] else
        let y := moveDir r c h
        (allRoutes ret t n y.1 y.2 h).map fun w => x :: w

/-- An entry with turns. -/
def rteWith (rte : BitVec 32) (ts : List Nat) : BitVec 32 :=
  BitVec.ofNat 32 (bvf rte 28 4 * 2 ^ 28 + ts.length * 2 ^ 24 + (ts.mapIdx fun i t => t * 4 ^ i).sum)

/-- An entry regenerated towards a core (R278): along the row first, else along the column first, else any valid route,
whose choice is free (log 3); none where there is no route. -/
def State.regenRoute (s : State) (ret : BitVec 32) (k t : CoreId) (rte : BitVec 32) : Option (BitVec 32) × State :=
  let try_ (ds : List Dir) : Option (BitVec 32) :=
    match turnsFor (firstHeading k) ds with
    | none => none
    | some ts =>
      if ts.length ≤ 12 ∧ (routeEject ret k (rteWith rte ts)).map Prod.fst = some t then some (rteWith rte ts) else none
  match try_ (rowSteps k t ++ colSteps k t) with
  | some x => (some x, s)
  | none =>
    match try_ (colSteps k t ++ rowSteps k t) with
    | some x => (some x, s)
    | none =>
      let l := (allRoutes ret t 12 (k.val / 4) (k.val % 4) (firstHeading k)).filter fun ts =>
        (routeEject ret k (rteWith rte ts)).isSome
      let (n, s) := s.drawPick
      ((l[n % l.length]?).map (rteWith rte), s)

/-! ### COPY and COPY.R -/

/-- The register a COPY names (R279). -/
def copyReg (a : Sel) : Nat :=
  match a with
  | .reg r => r.val
  | .latch _ => 0
  | .pop _ => 0
  | .peek _ => 0

/-- The length of a command (R275). -/
def CopyCmd.len (m : CopyCmd) : Nat := bvf m.regs[(2 : Fin 4)] 0 32
/-- Whether the source is device memory. -/
def CopyCmd.sd (m : CopyCmd) : Bool := bvf m.regs[(2 : Fin 4)] 63 1 == 1
/-- Whether the destination is device memory. -/
def CopyCmd.dd (m : CopyCmd) : Bool := bvf m.regs[(2 : Fin 4)] 62 1 == 1
/-- The source address: 48 bits in device memory. -/
def CopyCmd.src (m : CopyCmd) : Nat := if m.sd then m.regs[(0 : Fin 4)].toNat % 2 ^ 48 else m.regs[(0 : Fin 4)].toNat
/-- The destination address. -/
def CopyCmd.dst (m : CopyCmd) : Nat := if m.dd then m.regs[(1 : Fin 4)].toNat % 2 ^ 48 else m.regs[(1 : Fin 4)].toNat
/-- Whether the copy reports, and where. -/
def CopyCmd.sync (m : CopyCmd) : Option Nat :=
  if bvf m.regs[(3 : Fin 4)] 63 1 = 1 then some (bvf m.regs[(3 : Fin 4)] 0 32) else none

/-- Whether two ranges of n bytes overlap: in a local store, or, with `dev`, as device virtual addresses, which wrap at 2^48
(R253). -/
def overlaps (dev : Bool) (a b n : Nat) : Bool :=
  if dev then decide ((b + 2 ^ 48 - a) % 2 ^ 48 < n ∨ (a + 2 ^ 48 - b) % 2 ^ 48 < n) else decide (a < b + n ∧ b < a + n)

/-- Whether a range of a core's addresses resolves to private store (R149, R280). -/
def State.isPrivate (s : State) (k : CoreId) (a n : Nat) : Bool :=
  match s.resolve k 0 a n with
  | .priv _ => true
  | .win _ => false
  | .bad _ _ => false

/-- The checks of R280 at issue: the first cause that fails. -/
def State.copyCheck (s : State) (k : CoreId) (m : CopyCmd) : Option (Nat × Nat) :=
  let c := (m.regs[(2 : Fin 4)]).toNat
  let y := (m.regs[(3 : Fin 4)]).toNat
  let ri := y / 2 ^ 32 % 32
  if c / 2 ^ 32 % 2 ^ 30 ≠ 0 ∨ m.len = 0 ∨ y / 2 ^ 37 % 2 ^ 26 ≠ 0 then some (0x11, 0)
  else if (!m.routed ∧ ri ≠ 0) ∨ (m.routed ∧ m.dd) then some (0x11, 0)
  else if (m.sd ∨ m.dd) ∧ m.scope.code < 2 then some (0x11, 0)
  else if m.routed ∧ m.route.isNone then some (0x51, 0)
  else if !m.sd ∧ !s.isPrivate k m.src m.len then some (0x21, m.src)
  else if !m.dd ∧ !m.routed ∧ !s.isPrivate k m.dst m.len then some (0x21, m.dst)
  else
    match m.sync with
    | some a =>
      if a % 32 ≠ 0 then some (0x20, a)
      else if !m.routed ∧ !s.isPrivate k a 32 then some (0x21, a)
      else if !m.routed ∧ m.sd = m.dd ∧ overlaps m.sd m.src m.dst m.len then some (0x11, 0) else none
    | none => if !m.routed ∧ m.sd = m.dd ∧ overlaps m.sd m.src m.dst m.len then some (0x11, 0) else none

/-- A command as its registers, the core's task and, for a route, the links in use make it. -/
def Core.copyCmd (c : Core) (ret : BitVec 32) (k : CoreId) (sq : Fin 4) (n : Nat) (routed : Bool) (f : CopyF) : CopyCmd :=
  let r (i : Nat) : Word64 := (c.sq sq).sreg (Fin.ofNat 32 (n + i))
  let regs : Vector Word64 4 := #v[r 0, r 1, r 2, r 3]
  let t := match c.task with
    | some t => (t.gang, t.idx)
    | none => (0, 0)
  let rte := c.rte[(Fin.ofNat 32 (bvf regs[(3 : Fin 4)] 32 5) : Fin 32)]
  ⟨c.nextId, regs, routed, f.scope, f.acq, f.rel, c.gen, c.part, t.1, t.2, true, bvf regs[(2 : Fin 4)] 62 1 == 1 || routed,
    .queued, 0, rte, 0, 0, 0, false, if routed then routeEject ret k rte else none, [], none, none, false⟩

/-- The queue of a partition in a channel (R312). -/
def Core.queueOf (c : Core) (x : Fin 4) (p : PartId) : List CopyCmd := (c.chans[x]).filter fun m => m.part == p

/-- The issue of COPY and COPY.R (R280, R288). DESIGN CHOICE (log 45): R280's traps come before the test of the queue's room. -/
def copyIssue (routed : Bool) (h : Hdr) (x : Fin 4) (a : Sel) (f : CopyF) (c : Comp) (s : State) :
    Host.Outcome State Fault Refusal :=
  let n := copyReg a
  let regs : List Res := (List.range 4).map fun i => .sreg (Fin.ofNat 32 (n + i))
  issue (op2 h c [] regs []) (fun s =>
    let k := s.me
    let m := k.copyCmd (s.die (dieOf s.curCore)).linkuse s.curCore s.curSeq.idx n routed f
    match s.copyCheck s.curCore m with
    | some (cause, addr) => .trap cause 0 addr s
    | none =>
      if 8 ≤ (k.queueOf x k.part).length then
        if (k.queueOf x k.part).all fun y => y.cur && y.deferred then .trap 0x54 0 0 s else .stall 2 s
      else
        let s := s.cmdRecord s.curCore m.part (6 + x.val) m.gang m.task.toNat m.gen.toNat 0 x.val
          (m.regs.toList.flatMap fun r => leBytes 8 r.toNat) 0
        .done (s.modMe fun k => { k with chans := k.chans.set x (k.chans[x] ++ [m]), nextId := k.nextId + 1 }) .seq false) s

/-- R280: checks a copy command and enqueues it. -/
def execCopy (h : Hdr) (x : Fin 4) (a : Sel) (f : CopyF) (c : Comp) (s : State) : Host.Outcome State Fault Refusal :=
  copyIssue false h x a f c s
/-- R280: checks a routed copy command and enqueues it, to start at the commit. -/
def execCopyR (h : Hdr) (x : Fin 4) (a : Sel) (f : CopyF) (c : Comp) (s : State) : Host.Outcome State Fault Refusal :=
  copyIssue true h x a f c s

/-! ### SYNCWAIT -/

/-- R286: stalls until the sync word's GEN, as it stood at the start of the rc, has reached a value, then returns FLAGS and GEN. -/
def execSyncwait (h : Hdr) (d : Dest) (a b : Sel) (off : BitVec 24) (c : Comp) (s : State) :
    Host.Outcome State Fault Refusal :=
  issue (op2 h c [a, b] [] (destRes d)) (fun s =>
    let x := (addOff (s.val [a, b] 0) off).toNat
    let e := (s.val [a, b] 1).toNat % 2 ^ 32
    if s.me.portBusy then .stall 2 s
    else
      s.localCheck x 32 32 .keep true fun _ s =>
        let gen := s.me.mem.readLE (x + 16) 4
        if (s.me.memThen.readLE (x + 16) 4 + 2 ^ 32 - e) % 2 ^ 32 < 2 ^ 31 then
          .done (s.produce (privLat (x + 31)) (destWr d 2 (BitVec.ofNat 64 ((s.me.mem.read (x + 20)).toNat * 2 ^ 32 + gen))) c)
            .seq true
        else .stall (0x20 + x / 32 % 4) s) s

/-! ### Sync words and failures -/

/-- The update of a sync word by a finished or failed copy (R285). -/
def Mem.syncUpdate (m : Mem) (a len : Nat) (failed : Bool) : Mem :=
  let gen := m.readLE (a + 16) 4
  let flags := (m.read (a + 20)).toNat
  if failed then (m.writeLE (a + 20) 1 (flags ||| 2)).writeLE (a + 16) 4 (gen + 1)
  else
    let target := m.readLE a 8
    let count := (m.readLE (a + 8) 8 + len) % 2 ^ 64
    if count = target then (m.writeLE (a + 8) 8 0).writeLE (a + 16) 4 (gen + 1)
    else
      let m := m.writeLE (a + 8) 8 count
      if target < count then m.writeLE (a + 20) 1 (flags ||| 1) else m

/-- The first command of each partition in a queue: a channel keeps the queues of the partitions apart (R7, R312). -/
def firstOfEach : List PartId → List CopyCmd → List CopyCmd
  | _, [] => []
  | seen, m :: l => if seen.contains m.part then firstOfEach seen l else m :: firstOfEach (m.part :: seen) l

/-- The commands of a channel that may run: the first of each partition. -/
def Core.chanHeads (c : Core) (x : Fin 4) : List CopyCmd := firstOfEach [] c.chans[x]

/-- A command of a channel replaced, found by its number. -/
def Core.putCmd (c : Core) (x : Fin 4) (m : CopyCmd) : Core :=
  { c with chans := c.chans.set x ((c.chans[x]).map fun y => if y.id = m.id then m else y) }

/-- A command taken off its channel; a walk it waited for is no longer waited for. -/
def Core.dropCmd (c : Core) (x : Fin 4) (m : CopyCmd) : Core :=
  { c with
    chans := c.chans.set x ((c.chans[x]).filter fun y => y.id != m.id)
    xres := c.xres.filter fun r => !(r.stream == some x && r.part == m.part)
    walks := c.walks.map fun w => if w.stream = some x ∧ w.part = m.part then { w with want := false } else w }

/-- A command finished and taken off its channel, counted among its engine's (R31). -/
def Core.copyDone (c : Core) (x : Fin 4) (m : CopyCmd) : Core :=
  let i : Fin 8 := Fin.ofNat 8 (3 + x.val)
  { c.dropCmd x m with eng := c.eng.set i (c.eng[i] + 1) }

/-- Whether pieces of a routed command are on their way. -/
def State.inFlight (s : State) (k : CoreId) (m : CopyCmd) : Bool := s.routed.any fun p => p.src == k && p.cmd == m.id

/-- The detail word of a copy failure (R290). -/
def copyDetail (x : Fin 4) (access kind level : Nat) : Nat :=
  (5 + x.val) * 2 ^ 28 + access * 2 ^ 26 + kind * 2 ^ 24 + level * 2 ^ 22

/-- The record of an asynchronous copy failure (R290, R357). -/
def Core.copyRecord (c : Core) (k : CoreId) (m : CopyCmd) (cause detail : Nat) : List (BitVec 8) :=
  let (tag, tagcut) := c.regionTag
  leBytes 1 6 ++ leBytes 1 cause ++ leBytes 1 m.part.val ++ leBytes 1 k.val ++ leBytes 2 m.gang.toNat ++
    leBytes 1 m.task.toNat ++ leBytes 1 (8 * (dieOf k).val + 16 * c.retrycnt.toNat) ++ leBytes 4 m.gen.toNat ++
    leBytes 1 tag ++ leBytes 2 0 ++ leBytes 1 (if tagcut then 64 else 0) ++ leBytes 4 m.cursor ++ leBytes 4 detail ++
    (m.regs.toList.flatMap fun r => leBytes 8 r.toNat)

/-- The trace record of a copy command's event (R388). -/
def State.copyTrace (s : State) (k : CoreId) (x : Fin 4) (m : CopyCmd) (kind : Nat) : State :=
  s.cmdRecord k m.part (6 + x.val) m.gang m.task.toNat m.gen.toNat kind x.val (m.regs.toList.flatMap fun r => leBytes 8 r.toNat) m.cursor

/-- A COPY FAILURE (R290): of the current region a program trap; of a committed generation an error record with its
message, after which the channel reports to the sync word. Pieces still under way are dropped. -/
def State.copyFail (s : State) (k : CoreId) (x : Fin 4) (m : CopyCmd) (cause detail addr : Nat) : State :=
  let s := { s with routed := s.routed.filter fun p => !(p.src == k && p.cmd == m.id) }
  let s := (s.copyTrace k x m 3).dropWaits fun w => w == .channel k x m.id
  if m.cur then s.takeTrap k ⟨0x0D, cause, none, 0, detail, 0, 0, 0, addr, m.cursor⟩
  else
    let d := dieOf k
    let n := ((s.die d).elogseq[m.part]).toNat
    let s := (s.elog d m.part ((s.core k).copyRecord k m cause detail)).postOut d m.part 0x84 (leBytes 4 n)
    s.modCore k fun c =>
      if m.failed ∨ m.sync.isNone then c.dropCmd x m else c.putCmd x { m with phase := .reporting, failed := true, stopAt := none }

/-- A failure met while pieces of the command are on their way: they are written first, since they come before its cursor. -/
def State.copyStop (s : State) (k : CoreId) (x : Fin 4) (m : CopyCmd) (cause detail addr : Nat) : State :=
  if s.inFlight k m then s.modCore k fun c => c.putCmd x { m with phase := .flying, stopAt := some (cause, detail, addr) }
  else s.copyFail k x m cause detail addr

/-- Where a command's route ejects. -/
def CopyCmd.target (k : CoreId) (m : CopyCmd) : CoreId := (m.route.map Prod.fst).getD k

/-- Whether the task that a routed command names is the active context of the core where its route ejects (R284); none is on a
die that is lost (R363). -/
def State.targetHere (s : State) (m : CopyCmd) (t : CoreId) : Bool :=
  let c := s.core t
  !(s.die (dieOf t)).lost && (match c.task with
   | some y => y.part == m.part && y.gang == m.gang && y.idx.toNat == bvf m.rte 28 4 && !c.retired
   | none => false) && (match m.sync with
      | some a => decide (a + 32 ≤ c.privTop)
      | none => true)

/-- Whether the target of a routed command is there, with its destination and sync word private (R284). -/
def State.targetOk (s : State) (m : CopyCmd) (t : CoreId) : Bool :=
  s.targetHere m t && decide (m.dst + m.len ≤ (s.core t).privTop)

/-! ### The run of a command -/

/-- A command that starts, a deferred one only when its region has committed (R281), and none on a die that is being reset
(R366); the floor of an acquire is its issuer's time now (R302). -/
def State.startStep (k : CoreId) (x : Fin 4) (s : State) (m : CopyCmd) : State :=
  if m.phase = .queued ∧ !(m.deferred && m.cur) ∧ (s.die (dieOf k)).rstphase = 0 then
    let (d, s) := (s.copyTrace k x m 1).drawDelay
    s.modCore k fun c => c.putCmd x { m with
      phase := if m.acq then .acquire else .moving
      floor := m.pts.getD c.pts
      at_ := s.rc + d }
  else s

/-- R281: a channel starts the next command of each partition's queue. -/
def execCopyStart (k : CoreId) (x : Fin 4) (s : State) : Host.Outcome State Fault Refusal :=
  .next (((s.core k).chanHeads x).foldl (State.startStep k x) s)

/-- A bank of a local piece (R196): ready, waking, or off. -/
def State.chanBank (s : State) (k : CoreId) (x : Fin 4) (m : CopyCmd) (owner : CoreId) (a n : Nat) : Except Nat (Bool × State) :=
  let bs := (banksOf a n).map fun b => (owner, b)
  match s.offBank bs with
  | some b => .error b.2
  | none =>
    if s.banksFull bs then .ok (true, s.unwaitBanks (.channel k x m.id) bs)
    else .ok (false, s.wakeBanks (.channel k x m.id) bs)

/-- The task of a command. -/
def CopyCmd.key (m : CopyCmd) : TaskKey := ⟨m.part, m.gang, m.task⟩

/-- What a device piece's translation answers: the physical ranges of its bytes with their lengths and NOMIG, a wait, or a fault
with its address. -/
inductive PieceX where
  | ok (l : List (Nat × Nat × Bool)) (s : State)
  | wait (s : State)
  | bad (f : XFault) (va : Nat) (s : State)

/-- The walk of the page a range enters next (R260), once its cursor has entered a page of a size. -/
def State.chanPrefetch (s : State) (k : CoreId) (x : Fin 4) (m : CopyCmd) (kind : AccKind) (start size : Nat) : State :=
  let va := start + m.cursor
  let next := (va / size + 1) * size
  if (m.cursor = 0 ∨ va / size ≠ (va - 64) / size) ∧ next < start + m.len then
    match s.translate k m.part (some x) (next % 2 ^ 48) kind m.scope true false with
    | .hit _ _ s => s
    | .wait s => s
    | .fault _ s => s
  else s

/-- An address of a command translated: by an entry that a shoot-down took from it while it ran (R269), else by the channel's
stream TLB (R260). A command that starts while a die is being reset finds that die's HBM gone (R366). -/
def State.cmdXlate (s : State) (k : CoreId) (x : Fin 4) (m : CopyCmd) (kind : AccKind) (va : Nat) : Xl :=
  match (match m.keep.find? fun e => e.covers m.part va with
    | some e =>
      let pa := e.pbase + va % e.size
      if permits kind e.r e.w e.x && scopeOk kind m.scope pa then Xl.hit pa e s else .fault ⟨1, levelOf e.size⟩ s
    | none => s.translate k m.part (some x) va kind m.scope false true) with
  | .hit pa e s =>
    if decide (pa < sysBase) && (s.die (hbmDie pa)).gone m.old then .fault ⟨2, levelOf e.size⟩ s
    else .hit pa e (s.touchTask m.key pa)
  | .wait s => .wait s
  | .fault f s => .fault f s

/-- A piece's bytes translated, page by page (R260, R283): it crosses at most one page boundary. -/
def State.pieceXlate (s : State) (k : CoreId) (x : Fin 4) (m : CopyCmd) (kind : AccKind) (start n : Nat) : PieceX :=
  let va := (start + m.cursor) % 2 ^ 48
  let n1 := min n (65536 - va % 65536)
  match s.cmdXlate k x m kind va with
  | .wait s => .wait s
  | .fault f s => .bad f va s
  | .hit pa e s =>
    let s := s.chanPrefetch k x m kind start e.size
    if s.farHeld k pa then .wait s
    else if n1 = n then .ok [(pa, n, e.nomig)] s
    else
      let va2 := (va + n1) % 2 ^ 48
      match s.cmdXlate k x m kind va2 with
      | .wait s => .wait s
      | .fault f s => .bad f va2 s
      | .hit pa2 e2 s => if s.farHeld k pa2 then .wait s else .ok [(pa, n1, e.nomig), (pa2, n - n1, e2.nomig)] s

/-- The requests of a piece counted at their homes (R270, R382), once it is performed. -/
def State.pieceReqs (s : State) (k : CoreId) (m : CopyCmd) (l : List (Nat × Nat × Bool)) : State :=
  l.foldl (fun s p => s.migCount k m.part p.1 p.2.2) s

/-- A device piece written, range by range (R299). -/
def State.putDevice (s : State) : List (Nat × Nat × Bool) → List (BitVec 8) → State
  | [], _ => s
  | (pa, n, _) :: l, bs => (s.untimedWrite pa (bs.take n)).putDevice l (bs.drop n)

/-- The command after a piece of n bytes: the cursor, and what comes after the last piece (R283). -/
def CopyCmd.moved (m : CopyCmd) (n t : Nat) : CopyCmd :=
  let m := { m with cursor := m.cursor + n, at_ := t, retries := 0 }
  if m.cursor < m.len then m else { m with phase := if m.routed then .flying else .releasing }

/-- A piece performed, counted (R382). -/
def Core.pieceCount (c : Core) (x : Fin 4) (m : CopyCmd) : Core := c.countFor (some m.part) 0x0A (6 + x.val) 0 true

/-- A piece done: the requests of its read and write counted, and the command moved on. -/
def State.pieceDone (s : State) (k : CoreId) (x : Fin 4) (m : CopyCmd) (reqs : List (Nat × Nat × Bool)) (n next : Nat) : State :=
  (s.pieceReqs k m reqs).modCore k fun c => ((c.putCmd x (m.moved n next)).pieceCount x m).works (Fin.ofNat 12 (6 + x.val))

/-- The write of a piece's bytes (R283): into the core's own store, into device memory, or onto the route as read at issue
(R278). `reqs` are the requests that read them, counted once the piece is done or has failed (R270). A device write waits
while a region's claim holds one of its lines (R299, log 44). -/
def State.copyWrite (s : State) (k : CoreId) (x : Fin 4) (m : CopyCmd) (reqs : List (Nat × Nat × Bool)) (bs : List (BitVec 8)) :
    State :=
  let n := bs.length
  let (d, s) := s.drawDelay
  let next := s.rc + 1 + d
  if m.dd then
    match s.pieceXlate k x m .store m.dst n with
    | .wait s => s
    | .bad f va s => (s.pieceReqs k m reqs).copyStop k x m 0x50 (copyDetail x 2 f.kind f.level) va
    | .ok l s => if l.any fun p => s.writeHeld p.1 p.2.1 then s else (s.putDevice l bs).pieceDone k x m (reqs ++ l) n next
  else
    match m.route with
    | some (t, cross) =>
      if cross ≠ 0 ∧ ((s.core k).changing ∨ (s.linkDown ∧ !(s.die (dieOf t)).lost)) then s
      else
        let t0 := s.rc + 2 * (bvf m.rte 24 4) + 16 * cross
        let at_ := s.routed.foldl (fun a p => if p.src = k ∧ p.cmd = m.id then max a p.at_ else a) (t0 + d)
        { s with routed := s.routed ++
          [(⟨k, x, m.id, t, m.dst + m.cursor, bs, decide (m.len ≤ m.cursor + n), at_⟩ : Routed)] }.pieceDone k x m reqs n next
    | none =>
      match s.chanBank k x m k (m.dst + m.cursor) n with
      | .error b => (s.pieceReqs k m reqs).copyStop k x m 0x24 (bankDetail (5 + x.val) k 0 0 b) (m.dst + m.cursor)
      | .ok (false, s) => s
      | .ok (true, s) =>
        (s.modCore k fun c => { c with mem := c.mem.writeN (m.dst + m.cursor) bs }).pieceDone k x m reqs n next

/-- A command's work in a cycle (R283): an acquire waits for its floor (R302); then one piece is read and written. None starts
while a level or divisor change is pending (R372). DESIGN CHOICE (log 45): a piece that meets a poisoned line fails with cause 0x80
(R350) and the detail word 0, since R290 lays out none for it. -/
def State.pieceStep (s : State) (k : CoreId) (x : Fin 4) (m : CopyCmd) : State :=
  let c := s.core k
  if m.phase = .acquire ∧ s.floorReached m.part m.scope m.floor then
    s.modCore k fun c => c.putCmd x { m with phase := .moving }
  else if m.phase ≠ .moving ∨ s.rc < m.at_ ∨ c.changing ∨ !(c.clk .control).edge ∨ !(c.clk .copy).edge then s
  else
    let n := min 64 (m.len - m.cursor)
    let a := m.src + m.cursor
    if m.sd then
      match s.pieceXlate k x m .load m.src n with
      | .wait s => s
      | .bad f va s => s.copyStop k x m 0x50 (copyDetail x 1 f.kind f.level) va
      | .ok l s =>
        let lines := l.flatMap fun p => (linesOf p.1 p.2.1).map fun y => y / 64
        if lines.any fun y => s.poison.contains y then (s.pieceReqs k m l).copyStop k x m 0x80 0 (a % 2 ^ 48)
        else s.copyWrite k x m l (l.flatMap fun p => s.mem.readN p.1 p.2.1)
    else
      match s.chanBank k x m k a n with
      | .error b => s.copyStop k x m 0x24 (bankDetail (5 + x.val) k 0 0 b) a
      | .ok (false, s) => s
      | .ok (true, s) => s.copyWrite k x m [] ((s.core k).mem.readN a n)

/-- Whether a command has moved a piece between two states. -/
def Core.moved (c : Core) (x : Fin 4) (m : CopyCmd) : Bool := (c.chans[x]).any fun y => y.id == m.id && y.cursor != m.cursor

/-- A channel's cycle: of the commands that may run, the first that can moves one piece (R274, R283). -/
def State.channelCycle (k : CoreId) (x : Fin 4) : List CopyCmd → State → State
  | [], s => s
  | m :: l, s =>
    let t := s.pieceStep k x m
    if (t.core k).moved x m then t else State.channelCycle k x l t

/-- R283: a channel reads and writes one piece. -/
def execCopyPiece (k : CoreId) (x : Fin 4) (s : State) : Host.Outcome State Fault Refusal :=
  .next (State.channelCycle k x ((s.core k).chanHeads x) s)

/-- The first piece on its way of each command of a channel. -/
def firstPieces : List Nat → List Routed → List Routed
  | _, [] => []
  | seen, p :: l => if seen.contains p.cmd then firstPieces seen l else p :: firstPieces (p.cmd :: seen) l

/-- A routed piece at the core where its route ejects (R284): written there, or, where the target is not there or its bank is
off, the end of the copy. -/
def State.pieceArrival (s : State) (k : CoreId) (x : Fin 4) (p : Routed) : State :=
  match ((s.core k).chans[x]).find? fun m => m.id == p.cmd with
  | none => { s with routed := s.routed.erase p }
  | some m =>
    let m' := { m with cursor := p.addr - m.dst }
    if !s.targetOk m p.dst then s.copyFail k x m' 0x52 (copyDetail x 2 0 0) p.addr
    else
      match s.chanBank k x m p.dst p.addr p.bytes.length with
      | .error b => s.copyFail k x m' 0x24 (bankDetail (5 + x.val) p.dst 0 0 b) p.addr
      | .ok (false, s) => s
      | .ok (true, s) =>
        let s := { s with routed := s.routed.erase p }
        let s := (s.modCore p.dst fun c => { c with mem := c.mem.writeN p.addr p.bytes }).modCore k fun c => c.works (Fin.ofNat 12 (6 + x.val))
        if p.last then s.modCore k fun c => c.putCmd x { m with phase := .releasing } else s

/-- The pieces that arrive for a channel: the first that is written ends its cycle (R274). -/
def State.arrivals (k : CoreId) (x : Fin 4) : List Routed → State → State
  | [], s => s
  | p :: l, s =>
    let t := s.pieceArrival k x p
    if t.routed.contains p then State.arrivals k x l t else t

/-- The pieces that have arrived for a channel and may be written now: the first of each command, unless the link is down for a
route over Feldspar (R362). -/
def State.arrived (s : State) (k : CoreId) (x : Fin 4) : List Routed :=
  (firstPieces [] (s.routed.filter fun p => p.src == k && p.chan == x)).filter fun p =>
    decide (p.at_ ≤ s.rc) && !(dieOf k != dieOf p.dst && s.linkDown && !(s.die (dieOf p.dst)).lost)

/-- R284: a routed piece reaches the core where its route ejects and is written there; a target that is not there, or an
off bank, stops the copy. -/
def execRoutedPieceArrival (k : CoreId) (x : Fin 4) (s : State) : Host.Outcome State Fault Refusal :=
  .next (State.arrivals k x (s.arrived k x) s)

/-- A command that has moved its last piece, or waits with a failure until its pieces have landed. -/
def State.ending (s : State) (k : CoreId) (m : CopyCmd) : Bool :=
  m.phase == .releasing || m.phase == .reporting || (m.phase == .flying && m.stopAt.isSome && !s.inFlight k m)

/-- The end of a command (R285): the release (R302), then the update of its sync word, in the core of its destination or, for
device memory, in the issuing core, which does not start across Feldspar while a change of divisors is pending (R372) or the link
is down (R362); an update that an off bank discards, a failed command's too, is reported (R290). -/
def State.finishStep (k : CoreId) (x : Fin 4) (s : State) (m : CopyCmd) : State :=
  let later (s : State) (m : CopyCmd) : State := s.modCore k fun c => c.putCmd x { m with at_ := s.rc + 1 }
  let drop (s : State) : State := (s.modCore k fun c => c.copyDone x m).dropWaits fun w => w == .channel k x m.id
  match m.phase, m.stopAt with
  | .flying, some (cause, detail, addr) => s.copyFail k x m cause detail addr
  | .releasing, _ =>
    if !m.rel || s.floorReached m.part m.scope (m.pts.getD (s.core k).pts) then later s { m with phase := .reporting } else s
  | .reporting, _ =>
    match m.sync with
    | none => drop (s.copyTrace k x m 2)
    | some a =>
      let t := m.target k
      if dieOf t ≠ dieOf k ∧ !(s.die (dieOf t)).lost ∧ ((s.core k).changing ∨ s.linkDown) then s
      else if m.routed ∧ !(if m.failed then s.targetHere m t else s.targetOk m t) then
        if m.failed then drop s else drop (s.copyFail k x m 0x52 (copyDetail x 3 0 0) a)
      else
        match s.chanBank k x m t a 32 with
        | .error b =>
          let s := s.copyFail k x m 0x24 (bankDetail (5 + x.val) t 0 0 b) a
          if m.cur then s else drop s
        | .ok (false, s) => later s m
        | .ok (true, s) =>
          let s := s.modCore t fun c => { c with mem := c.mem.syncUpdate a m.len m.failed }
          drop (if m.failed then s else s.copyTrace k x m 2)
  | _, _ => s

/-- The commands of a channel that end in this rc. Those whose sync word is in another core come after all the others of the rc
(R283). -/
def State.endings (s : State) (k : CoreId) (x : Fin 4) : List CopyCmd :=
  let l := ((s.core k).chanHeads x).filter fun m => s.ending k m && decide (m.at_ ≤ s.rc)
  if l.all CopyCmd.routed then l else l.filter fun m => !m.routed

/-- R285: after the last write and the release (R302), the copy updates its sync word, in the core of its destination or,
for device memory, in the issuing core. -/
def execCopyFinish (k : CoreId) (x : Fin 4) (s : State) : Host.Outcome State Fault Refusal :=
  .next ((s.endings k x).foldl (State.finishStep k x) s)

end Sys2Proof.Machine
end

