-- ==== Sys2Proof/Machine/Group.lean ====
section
/-! DEFINITION. The group table and who holds what (spec/17): teams, their members, the messages between cores and
combiners, and the tokens of member events (R333 to R337, R341). -/

namespace Sys2Proof.Machine

/-! ### The group table (R333 to R336) -/

/-- The cores of the package, in order; also the sixteen slots of a team. -/
def allCores : List CoreId := [0, 1, 2, 3, 4, 5, 6, 7, 8, 9, 10, 11, 12, 13, 14, 15]

/-- The die that holds command authority (R322, R363): die 1 once it has won, until it is lost itself. -/
def State.authority (s : State) : Fin 2 := if bvf (s.die 1).flstat 30 1 = 1 ∧ (s.die 1).lost = false then 1 else 0

/-- A task's identity. -/
def TaskSt.key (t : TaskSt) : TaskKey := ⟨t.part, t.gang, t.idx⟩

/-- The core that holds a task's context; one on a lost die is gone, which a split's loser keeps Held for a dump alone (R363,
R367). -/
def State.holder (s : State) (key : TaskKey) : Option CoreId :=
  allCores.find? fun k => !(s.die (dieOf k)).lost && (match (s.core k).task with
    | some t => t.key == key
    | none => false)

/-- The core whose active context is a task: a task that migrates off its retired core is absent (R278, R360). -/
def State.activeCore (s : State) (key : TaskKey) : Option CoreId := (s.holder key).filter fun k => !(s.core k).retired

/-- An entry of the group table. -/
def State.team (s : State) (t : Nat) : Team := alGet s.teams t Team.reset
/-- An entry replaced. -/
def State.setTeam (s : State) (t : Nat) (x : Team) : State := { s with teams := alSet s.teams t x }

/-- The slots below COUNT. -/
def Team.ranks (x : Team) : List (Fin 16) := allCores.filter fun m => decide (m.val < x.count.toNat)
/-- The task a slot names (R334). -/
def Team.keyOf (x : Team) (m : Fin 16) : TaskKey := ⟨Fin.ofNat 16 x.part.toNat, (x.mem[m]).gang, (x.mem[m]).task⟩
/-- The rank of a task in a team. -/
def Team.rankOf (x : Team) (key : TaskKey) : Option (Fin 16) := x.ranks.find? fun m => x.keyOf m == key
/-- A slot changed. -/
def Team.modMem (x : Team) (m : Fin 16) (f : Member → Member) : Team := { x with mem := x.mem.set m (f x.mem[m]) }

/-- The enabled teams that name a task, with its rank in each (R336). -/
def State.memberships (s : State) (key : TaskKey) : List (Nat × Fin 16) :=
  s.teams.filterMap fun e => if e.2.en then (e.2.rankOf key).map fun m => (e.1, m) else none

/-! ### Messages (R341) -/

/-- The rc a message takes between a die combiner and the package combiner. -/
def State.upDelay (s : State) (d : Fin 2) : Nat := if d = s.authority then 8 else 40

/-- A message sent, due a number of rc from now. -/
def State.send (s : State) (n : Nat) (m : Msg) : State := { s with msgs := s.msgs ++ [(s.rc + n, m)] }

/-- A member event's token (R337): 0 return, 1 absence, 2 departure, 3 abort, 4 absence of a member whose arrival has
left its core. A task of no team sends none. -/
def State.sendToken (s : State) (core : CoreId) (key : TaskKey) (ev : Nat) : State :=
  if s.teams.any fun e => (e.2.rankOf key).isSome then s.send (16 + s.upDelay (dieOf core)) (.token core key ev) else s

/-- The token of a task that leaves its core, saved or migrating (R337, R344): of absence, unless its arrival for the
barrier it waits at has left the core. -/
def State.sendAbsence (s : State) (k : CoreId) (key : TaskKey) : State :=
  let sent := match (s.core k).mid with
    | some m => match m.wait with
      | .inr w => w.sent && w.released.isNone
      | .inl _ => false
    | none => false
  s.sendToken k key (if sent then 4 else 1)

end Sys2Proof.Machine
end

