-- ==== Sys2Proof/Machine/Recover.lean ====
section
/-! DEFINITION. Detected errors (spec/18): the error replay with its retry counter (R36, R352) and the retirement of a
core (R358). -/

namespace Sys2Proof.Machine

/-- RETIREMENT (R358): the core is rolled back and never issues again, its task becomes Migrating and its migration
path starts (R360), its TLBs are invalidated, a pending pre-emption is satisfied, and KIND 0x04 is posted, with the
partition's trigger (R389) and the member token (R337). A free core is only marked (R359). -/
def State.retireCore (s : State) (k : CoreId) (r : Rep) : State :=
  match (s.core k).task with
  | none => s.modCore k fun c => { c with retired := true }
  | some t =>
    let s := s.logCore k { r with kind := 4, pc := 0, w1 := 0, w2 := 0 }
    let s := if bvf (s.die (dieOf k)).tntrig[t.part] 2 1 = 1 then
        s.trigger (dieOf k) t.part 3 0 ⟨k.val, t.gang, t.idx.toNat, (s.core k).gen.toNat⟩ else s
    let s := s.sendAbsence k t.key
    let (d, s) := s.drawDelay
    (s.rollback k false).modCore k fun c => { c.retainPending with
      retired := true
      task := some { t with phase := .migrating (s.rc + 1 + d) }
      preempt := none
      tlb := []
      stlb := Vector.replicate 4 []
      walks := [] }

/-- A DETECTED ERROR of the region in progress (R36, R352): the retry counter advances first; within RETRYLIM.LIMIT the
region replays, and beyond it the core is retired. A trap of the same rc is put aside (R35). -/
def State.detectedError (s : State) (k : CoreId) (r : Rep) : State :=
  let c := s.core k
  let n := c.retrycnt.toNat + 1
  let s := s.modCore k fun c => { c.untrap with retrycnt := BitVec.ofNat 4 n }
  if n ≤ c.retrylim.toNat then ((s.logCore k { r with kind := 2 }).modCore k fun c => c.count 0x05 0 0 true).rollback k true else s.retireCore k r

end Sys2Proof.Machine
end

