-- ==== Sys2Proof/Machine/Vector.lean ====
section
/-! DEFINITION. The vector engine (spec/07): lanes that take effect, the integer, float, compare, mask, permute,
conversion and reduction groups, and moves. -/

namespace Sys2Proof.Machine

/-! ### Lanes (R168) -/

/-- The bits of the lanes of a mask. -/
def laneBits (l : BitVec 64) : VWord := buildV 2048 32 (fun i => if bvf l i 1 = 1 then 2 ^ 32 - 1 else 0) 64

/-- The packed number of a list of elements of width w, the first lowest. -/
def packList (w : Nat) : List Nat → Nat
  | [] => 0
  | x :: l => x % 2 ^ w + 2 ^ w * packList w l

/-- Whether the lane of element j of width w takes effect (R164). -/
def laneOn (l : BitVec 64) (w j : Nat) : Bool := bvf l (j * w / 32) 1 == 1

/-- The result of an element operation: zero where the lane does not take effect, and the flags of those that do. -/
def mapElems (l : BitVec 64) (w : Nat) (f : Nat → Flagged Nat) : VWord × FFlags :=
  let r := (List.range (2048 / w)).map fun j => if laneOn l w j then f j else (0, FFlags.none)
  (BitVec.ofNat 2048 (packList w (r.map Prod.fst)), r.foldl (fun a x => a.or x.2) FFlags.none)

/-- The writes of a vector result (R47, R168): the bits that take effect to the register, and to the latch with zero
elsewhere. -/
def vecWr (d : Dest) (latch : Fin 4) (bits v : VWord) (f : FFlags) : List Wr :=
  [.latch latch (v &&& bits)] ++ (match d with
    | .reg r => [.vreg r bits v]
    | .latch => []) ++ [.flags f.bits]

/-- The v registers of selectors and a destination. -/
def vregsOf (names : List Sel) (d : Dest) : List (Fin 32) :=
  (names.filterMap fun x => match x with
    | .reg r => some r
    | _ => none) ++ (match d with
    | .reg r => [r]
    | .latch => [])

/-- A mask-guarded instruction of C over v registers. -/
def opV (len : Nat) (h : Hdr) (c : Comp) (names : List Sel) (d : Dest) : Op :=
  ⟨len, h.ring, c, .mask h, names, none, [], [], [], vregsOf names d, [], false, false⟩

/-- Whether a running drain's DSTV words write one of the registers (R171 rule 3). -/
def Core.drainHolds (c : Core) (vs : List (Fin 32)) : Bool :=
  c.drains.any fun d => d.running && !d.finished && d.vset.any fun r => vs.contains r

/-- A vector instruction whose result is due after `lat` cycles (R169). -/
def vector (op : Op) (lat : Nat) (f : Core → List Wr) (s : State) : Host.Outcome State Fault Refusal :=
  issue op (fun s =>
    if s.me.drainHolds op.vregs then .stall 2 s else .done (s.produce lat (f s.me) op.comp) .seq true) s

/-! ### Integer group (R174) -/

/-- An element as a number of a type. -/
def iVal (t : VITy) (x : Nat) : Int := if t.signed then sextN t.width x else x

/-- The result of an integer operation, clamped on request (R174). -/
def iFin (t : VITy) (sat : Bool) (x : Int) : Flagged Nat :=
  if sat ∧ (x < loOf t.signed t.width ∨ hiOf t.signed t.width < x) then
    (wrapN t.width (clampN t.signed t.width x), FFlags.ofSatd true)
  else (wrapN t.width x, FFlags.none)

/-- An integer vector instruction over up to three operands' elements (R174). -/
def vint (h : Hdr) (d : Dest) (names : List Sel) (t : VITy) (c : Comp) (latch : Fin 4) (lat : Nat) (sat : Bool)
    (f : Nat → Nat → Nat → Int) (s : State) : Host.Outcome State Fault Refusal :=
  vector (opV 2 h c names d) lat (fun k =>
    let w := t.width
    let l := k.lanes h
    let a := k.vector names 0
    let b := k.vector names 1
    let x := k.vector names 2
    let r := mapElems l w fun j => iFin t sat (f (elemOf a w j) (elemOf b w j) (elemOf x w j))
    vecWr d latch (laneBits l) r.1 r.2) s

/-! ### Float group (R175, R176) -/

/-- A float vector instruction over up to three operands' elements (R175). -/
def vfloat (h : Hdr) (d : Dest) (names : List Sel) (t : VFTy) (c : Comp) (lat : Nat)
    (f : Nat → Nat → Nat → Flagged Nat) (s : State) : Host.Outcome State Fault Refusal :=
  vector (opV 2 h c names d) lat (fun k =>
    let w := fmtWidth t.fmt
    let l := k.lanes h
    let a := k.vector names 0
    let b := k.vector names 1
    let x := k.vector names 2
    let r := mapElems l w fun j => f (elemOf a w j) (elemOf b w j) (elemOf x w j)
    vecWr d 3 (laneBits l) r.1 r.2) s

/-! ### Compare and mask logic (R177, R178) -/

/-- The width of a compare's or reduction's type. -/
def vtyWidth : VTy → Nat
  | .i t => t.width
  | .f t => fmtWidth t.fmt

/-- One element's condition, with INV (R177). -/
def cmpElem (cond : VCond) (ty : VTy) (a b : Nat) : Bool × Bool :=
  match ty with
  | .i t =>
    let x := iVal t a
    let y := iVal t b
    (match cond with
     | .eq => decide (x = y)
     | .lt => decide (x < y)
     | .le => decide (x ≤ y)
     | .un => false, false)
  | .f t =>
    let x := decodeF t.fmt a
    let y := decodeF t.fmt b
    let nan := x.isNaN || y.isNaN
    match cond with
    | .eq => (eqF x y, false)
    | .lt => (ltF x y, nan)
    | .le => (ltF x y || eqF x y, nan)
    | .un => (nan, false)

/-- The lanes whose every element meets the condition, and whether a lane that takes effect raised INV (R177). -/
def cmpLanes (l : BitVec 64) (cond : VCond) (ty : VTy) (a b : VWord) : BitVec 64 × Bool :=
  let w := vtyWidth ty
  let n := 32 / w
  let r := (List.range 64).map fun i =>
    (List.range n).foldl (fun x e =>
      let y := cmpElem cond ty (elemOf a w (n * i + e)) (elemOf b w (n * i + e))
      (x.1 && y.1, x.2 || y.2)) (true, false)
  (BitVec.ofNat 64 (packList 1 (r.map fun x => if x.1 then 1 else 0)),
   (r.mapIdx fun i x => x.2 && bvf l i 1 == 1).any id)

/-- The mask writes of a compare (R177): lanes that do not take effect keep both masks' bits. -/
def vcmpWr (pt pf : Fin 8) (l v : BitVec 64) : List Wr :=
  [.mask pt l v] ++ if pf = pt then [] else [.mask pf l (~~~v)]

/-- Mask logic over all 64 lanes, due after one cycle (R178). -/
def maskLogic (h : Hdr) (xd xa xb : Fin 8) (na nb : Bool) (f : BitVec 64 → BitVec 64 → BitVec 64) (s : State) :
    Host.Outcome State Fault Refusal :=
  let neg (n : Bool) (x : BitVec 64) : BitVec 64 := if n then ~~~x else x
  issue { op1 h [] [] [] with masks := [xa, xb] } (fun s =>
    .done (s.produce 1 [.mask xd (BitVec.allOnes 64) (f (neg na (s.me.mask xa)) (neg nb (s.me.mask xb)))] compNone)
      .seq true) s

/-! ### Lane moves (R179, R180, R183, R184) -/

/-- A move of whole lanes: lane i of the result is f i. -/
def vlanes (len : Nat) (h : Hdr) (d : Dest) (names : List Sel) (c : Comp) (latch : Fin 4) (lat : Nat)
    (f : Core → Nat → Nat) (s : State) : Host.Outcome State Fault Refusal :=
  vector (opV len h c names d) lat (fun k =>
    vecWr d latch (laneBits (k.lanes h)) (buildV 2048 32 (f k) 64) FFlags.none) s

/-! ### Conversion (R181) -/

/-- The writes of VCVT: elements by their governing lane, and zero in lanes above a narrowed result. -/
def cvtWr (d : Dest) (l : BitVec 64) (src dst : Fmt) (rm : RMode) (sat : Bool) (a : VWord) : List Wr :=
  let wf := fmtWidth src
  let wt := fmtWidth dst
  let wm := max wf wt
  let e := 2048 / wm
  let r := (List.range e).map fun j =>
    if laneOn l wm j then convertFmt src dst rm sat (elemOf a wf j) else (0, FFlags.none)
  let low := packList wt ((List.range e).map fun j => if laneOn l wm j then 2 ^ wt - 1 else 0)
  let high := packElems 32 (fun i => if e * wt / 32 ≤ i ∧ bvf l i 1 = 1 then 2 ^ 32 - 1 else 0) 64
  vecWr d 3 (BitVec.ofNat 2048 (low + high)) (BitVec.ofNat 2048 (packList wt (r.map Prod.fst)))
    (r.foldl (fun x y => x.or y.2) FFlags.none)

/-! ### Reductions (R93, R182) -/

/-- One level of the tree: adjacent pairs combined. -/
def pairUp (f : Nat → Nat → Flagged Nat) : List (Flagged Nat) → List (Flagged Nat)
  | x :: y :: l =>
    let r := f x.1 y.1
    (r.1, (x.2.or y.2).or r.2) :: pairUp f l
  | l => l

/-- The balanced tree of R93: n levels. -/
def treeUp (f : Nat → Nat → Flagged Nat) : Nat → List (Flagged Nat) → List (Flagged Nat)
  | 0, l => l
  | n + 1, l => treeUp f n (pairUp f l)

/-- The kind of a reduction. -/
inductive Red where
  | sum | max | min

/-- The identity of a reduction in an element type (R93), as a pattern. -/
def redIdent (r : Red) (ty : VTy) : Nat :=
  match ty with
  | .i t =>
    match r with
    | .sum => 0
    | .max => wrapN t.width (loOf t.signed t.width)
    | .min => wrapN t.width (hiOf t.signed t.width)
  | .f t =>
    match r with
    | .sum => signPat t.fmt true
    | .max => signPat t.fmt true + infPat t.fmt
    | .min => infPat t.fmt

/-- The combination of a reduction (R182): integers on 32 bits, floats in their type under RNE. -/
def redComb (r : Red) (ty : VTy) (x y : Nat) : Flagged Nat :=
  match ty with
  | .i t =>
    let a : Int := if t.signed then sextN 32 x else x
    let b : Int := if t.signed then sextN 32 y else y
    (wrapN 32 (match r with
      | .sum => a + b
      | .max => max a b
      | .min => min a b), FFlags.none)
  | .f t =>
    match r with
    | .sum => faddP t.fmt .rne x y
    | .max => (minmaxF t.fmt true x y, FFlags.none)
    | .min => (minmaxF t.fmt false x y, FFlags.none)

/-- The reduction of the elements whose lanes take effect (R93, R182). -/
def reduce (r : Red) (ty : VTy) (l : BitVec 64) (a : VWord) : Flagged Nat :=
  let w := vtyWidth ty
  let leaf (x : Nat) : Nat := match ty with
    | .i t => wrapN 32 (iVal t x)
    | .f _ => x
  let els := (List.range (2048 / w)).map fun j =>
    (leaf (if laneOn l w j then elemOf a w j else redIdent r ty), FFlags.none)
  ((treeUp (redComb r ty) 8 els).head?).getD (0, FFlags.none)

/-- A reduction into lane 0 (R182): the guard and VL choose sources, not lanes written. -/
def vreduce (h : Hdr) (d : Dest) (a : Sel) (ty : VTy) (c : Comp) (r : Red) (s : State) :
    Host.Outcome State Fault Refusal :=
  let lat := match ty with
    | .i _ => 8
    | .f _ => 12
  let latch : Fin 4 := match ty with
    | .i _ => 0
    | .f _ => 3
  vector (opV 2 h c [a] d) lat (fun k =>
    let x := reduce r ty (k.lanes h) (k.vector [a] 0)
    vecWr d latch (laneBits 1) (BitVec.ofNat 2048 x.1) x.2) s

/-! ### The instructions -/

/-- R174, OP 0. -/
def execVadd (h : Hdr) (d : Dest) (a b : Sel) (ty : VITy) (sat : Bool) (c : Comp) (s : State) :
    Host.Outcome State Fault Refusal :=
  vint h d [a, b] ty c 0 2 sat (fun x y _ => iVal ty x + iVal ty y) s
/-- R174, OP 1. -/
def execVsub (h : Hdr) (d : Dest) (a b : Sel) (ty : VITy) (sat : Bool) (c : Comp) (s : State) :
    Host.Outcome State Fault Refusal :=
  vint h d [a, b] ty c 0 2 sat (fun x y _ => iVal ty x - iVal ty y) s
/-- R174, OP 2. -/
def execVmul (h : Hdr) (d : Dest) (a b : Sel) (ty : VITy) (sat : Bool) (c : Comp) (s : State) :
    Host.Outcome State Fault Refusal :=
  vint h d [a, b] ty c 1 4 sat (fun x y _ => iVal ty x * iVal ty y) s
/-- R174, OP 3: the high half of the exact product. -/
def execVmulh (h : Hdr) (d : Dest) (a b : Sel) (ty : VITy) (c : Comp) (s : State) :
    Host.Outcome State Fault Refusal :=
  vint h d [a, b] ty c 1 4 false (fun x y _ => iVal ty x * iVal ty y / 2 ^ ty.width) s
/-- R174, OP 4. -/
def execVmin (h : Hdr) (d : Dest) (a b : Sel) (ty : VITy) (c : Comp) (s : State) : Host.Outcome State Fault Refusal :=
  vint h d [a, b] ty c 0 2 false (fun x y _ => min (iVal ty x) (iVal ty y)) s
/-- R174, OP 5. -/
def execVmax (h : Hdr) (d : Dest) (a b : Sel) (ty : VITy) (c : Comp) (s : State) : Host.Outcome State Fault Refusal :=
  vint h d [a, b] ty c 0 2 false (fun x y _ => max (iVal ty x) (iVal ty y)) s
/-- R174, OP 6. -/
def execVand (h : Hdr) (d : Dest) (a b : Sel) (ty : VITy) (c : Comp) (s : State) : Host.Outcome State Fault Refusal :=
  vint h d [a, b] ty c 0 2 false (fun x y _ => ((x &&& y : Nat) : Int)) s
/-- R174, OP 7. -/
def execVor (h : Hdr) (d : Dest) (a b : Sel) (ty : VITy) (c : Comp) (s : State) : Host.Outcome State Fault Refusal :=
  vint h d [a, b] ty c 0 2 false (fun x y _ => ((x ||| y : Nat) : Int)) s
/-- R174, OP 8. -/
def execVxor (h : Hdr) (d : Dest) (a b : Sel) (ty : VITy) (c : Comp) (s : State) : Host.Outcome State Fault Refusal :=
  vint h d [a, b] ty c 0 2 false (fun x y _ => ((x ^^^ y : Nat) : Int)) s
/-- R174, OP 9. -/
def execVshl (h : Hdr) (d : Dest) (a b : Sel) (ty : VITy) (c : Comp) (s : State) : Host.Outcome State Fault Refusal :=
  vint h d [a, b] ty c 0 2 false (fun x y _ => ((x * 2 ^ (y % ty.width) : Nat) : Int)) s
/-- R174, OP 10: logical for every type. -/
def execVshr (h : Hdr) (d : Dest) (a b : Sel) (ty : VITy) (c : Comp) (s : State) : Host.Outcome State Fault Refusal :=
  vint h d [a, b] ty c 0 2 false (fun x y _ => ((x / 2 ^ (y % ty.width) : Nat) : Int)) s
/-- R174, OP 11: arithmetic for every type. -/
def execVsra (h : Hdr) (d : Dest) (a b : Sel) (ty : VITy) (c : Comp) (s : State) : Host.Outcome State Fault Refusal :=
  vint h d [a, b] ty c 0 2 false (fun x y _ => sextN ty.width x / 2 ^ (y % ty.width)) s
/-- R174, OP 12. -/
def execVabs (h : Hdr) (d : Dest) (a : Sel) (ty : VITy) (sat : Bool) (c : Comp) (s : State) :
    Host.Outcome State Fault Refusal :=
  vint h d [a] ty c 0 2 sat (fun x _ _ => ((iVal ty x).natAbs : Int)) s
/-- R174, OP 13. -/
def execVneg (h : Hdr) (d : Dest) (a : Sel) (ty : VITy) (sat : Bool) (c : Comp) (s : State) :
    Host.Outcome State Fault Refusal :=
  vint h d [a] ty c 0 2 sat (fun x _ _ => -iVal ty x) s
/-- R174, OP 14: exact, with one clamp or wrap. -/
def execVmad (h : Hdr) (d : Dest) (a b x : Sel) (ty : VITy) (sat : Bool) (c : Comp) (s : State) :
    Host.Outcome State Fault Refusal :=
  vint h d [a, b, x] ty c 1 4 sat (fun x y z => iVal ty x * iVal ty y + iVal ty z) s
/-- R175, OP 0. -/
def execVfadd (h : Hdr) (d : Dest) (a b : Sel) (ty : VFTy) (rm : RMode) (c : Comp) (s : State) :
    Host.Outcome State Fault Refusal :=
  vfloat h d [a, b] ty c 4 (fun x y _ => faddP ty.fmt rm x y) s
/-- R175, OP 1. -/
def execVfsub (h : Hdr) (d : Dest) (a b : Sel) (ty : VFTy) (rm : RMode) (c : Comp) (s : State) :
    Host.Outcome State Fault Refusal :=
  vfloat h d [a, b] ty c 4 (fun x y _ => fsubP ty.fmt rm x y) s
/-- R175, OP 2. -/
def execVfmul (h : Hdr) (d : Dest) (a b : Sel) (ty : VFTy) (rm : RMode) (c : Comp) (s : State) :
    Host.Outcome State Fault Refusal :=
  vfloat h d [a, b] ty c 4 (fun x y _ => fmulP ty.fmt rm x y) s
/-- R175, OP 3: fused. -/
def execVfma (h : Hdr) (d : Dest) (a b x : Sel) (ty : VFTy) (rm : RMode) (c : Comp) (s : State) :
    Host.Outcome State Fault Refusal :=
  vfloat h d [a, b, x] ty c 4 (fun x y z => fmaP ty.fmt rm x y z) s
/-- R175, OP 4: fused. -/
def execVfms (h : Hdr) (d : Dest) (a b x : Sel) (ty : VFTy) (rm : RMode) (c : Comp) (s : State) :
    Host.Outcome State Fault Refusal :=
  vfloat h d [a, b, x] ty c 4 (fun x y z => fmsP ty.fmt rm x y z) s
/-- R175, OP 5: never a flag. -/
def execVfmin (h : Hdr) (d : Dest) (a b : Sel) (ty : VFTy) (_rm : RMode) (c : Comp) (s : State) :
    Host.Outcome State Fault Refusal :=
  vfloat h d [a, b] ty c 4 (fun x y _ => (minmaxF ty.fmt false x y, FFlags.none)) s
/-- R175, OP 6: never a flag. -/
def execVfmax (h : Hdr) (d : Dest) (a b : Sel) (ty : VFTy) (_rm : RMode) (c : Comp) (s : State) :
    Host.Outcome State Fault Refusal :=
  vfloat h d [a, b] ty c 4 (fun x y _ => (minmaxF ty.fmt true x y, FFlags.none)) s
/-- R175, OP 7. -/
def execVfabs (h : Hdr) (d : Dest) (a : Sel) (ty : VFTy) (_rm : RMode) (c : Comp) (s : State) :
    Host.Outcome State Fault Refusal :=
  vfloat h d [a] ty c 4 (fun x _ _ => fsignP ty.fmt false x) s
/-- R175, OP 8. -/
def execVfneg (h : Hdr) (d : Dest) (a : Sel) (ty : VFTy) (_rm : RMode) (c : Comp) (s : State) :
    Host.Outcome State Fault Refusal :=
  vfloat h d [a] ty c 4 (fun x _ _ => fsignP ty.fmt true x) s
/-- R175, OP 9; R176. -/
def execVfrcp (h : Hdr) (d : Dest) (a : Sel) (ty : VFTy) (rm : RMode) (c : Comp) (s : State) :
    Host.Outcome State Fault Refusal :=
  vfloat h d [a] ty c 12 (fun x _ _ => frcpP ty.fmt rm x) s
/-- R175, OP 10; R176. -/
def execVfrsq (h : Hdr) (d : Dest) (a : Sel) (ty : VFTy) (rm : RMode) (c : Comp) (s : State) :
    Host.Outcome State Fault Refusal :=
  vfloat h d [a] ty c 12 (fun x _ _ => frsqP ty.fmt rm x) s
/-- R177. -/
def execVcmp (h : Hdr) (pt pf : Fin 8) (a b : Sel) (cond : VCond) (ty : VTy) (c : Comp) (s : State) :
    Host.Outcome State Fault Refusal :=
  vector (opV 2 h c [a, b] .latch) 2 (fun k =>
    let l := k.lanes h
    let r := cmpLanes l cond ty (k.vector [a, b] 0) (k.vector [a, b] 1)
    vcmpWr pt pf l r.1 ++ if r.2 then [.flags (FFlags.ofInv true).bits] else []) s
/-- R178. -/
def execMand (h : Hdr) (xd xa xb : Fin 8) (na nb : Bool) (s : State) : Host.Outcome State Fault Refusal :=
  maskLogic h xd xa xb na nb (fun x y => x &&& y) s
/-- R178. -/
def execMor (h : Hdr) (xd xa xb : Fin 8) (na nb : Bool) (s : State) : Host.Outcome State Fault Refusal :=
  maskLogic h xd xa xb na nb (fun x y => x ||| y) s
/-- R178. -/
def execMxor (h : Hdr) (xd xa xb : Fin 8) (na nb : Bool) (s : State) : Host.Outcome State Fault Refusal :=
  maskLogic h xd xa xb na nb (fun x y => x ^^^ y) s
/-- R178. -/
def execMmov (h : Hdr) (xd xa : Fin 8) (na : Bool) (s : State) : Host.Outcome State Fault Refusal :=
  maskLogic h xd xa 0 na false (fun x _ => x) s
/-- R179. -/
def execVsel (h : Hdr) (d : Dest) (a b : Sel) (ms : Fin 8) (ns : Bool) (c : Comp) (s : State) :
    Host.Outcome State Fault Refusal :=
  vector { opV 2 h c [a, b] d with masks := [ms] } 2 (fun k =>
    vecWr d 0 (laneBits (k.lanes h)) (buildV 2048 32 (fun i =>
      if (bvf (k.mask ms) i 1 == 1) != ns then elemOf (k.vector [a, b] 0) 32 i
      else elemOf (k.vector [a, b] 1) 32 i) 64) FFlags.none) s
/-- R180, OP 0. -/
def execVperm (h : Hdr) (d : Dest) (a b : Sel) (c : Comp) (s : State) : Host.Outcome State Fault Refusal :=
  vlanes 2 h d [a, b] c 0 3 (fun k i =>
    elemOf (k.vector [a, b] 0) 32 (elemOf (k.vector [a, b] 1) 32 i % 64)) s
/-- R180, OP 1. -/
def execVrot (h : Hdr) (d : Dest) (a : Sel) (n : Fin 64) (c : Comp) (s : State) : Host.Outcome State Fault Refusal :=
  vlanes 2 h d [a] c 0 3 (fun k i => elemOf (k.vector [a] 0) 32 ((i + n.val) % 64)) s
/-- R180, OP 2. -/
def execVbcast (h : Hdr) (d : Dest) (a : Sel) (n : Fin 64) (c : Comp) (s : State) :
    Host.Outcome State Fault Refusal :=
  vlanes 2 h d [a] c 0 3 (fun k _ => elemOf (k.vector [a] 0) 32 n.val) s
/-- R180, OP 3. -/
def execVshup (h : Hdr) (d : Dest) (a : Sel) (n : Fin 64) (c : Comp) (s : State) : Host.Outcome State Fault Refusal :=
  vlanes 2 h d [a] c 0 3 (fun k i => if n.val ≤ i then elemOf (k.vector [a] 0) 32 (i - n.val) else 0) s
/-- R180, OP 4. -/
def execVshdn (h : Hdr) (d : Dest) (a : Sel) (n : Fin 64) (c : Comp) (s : State) : Host.Outcome State Fault Refusal :=
  vlanes 2 h d [a] c 0 3 (fun k i => if i + n.val < 64 then elemOf (k.vector [a] 0) 32 (i + n.val) else 0) s
/-- R181. -/
def execVcvt (h : Hdr) (d : Dest) (a : Sel) (from_ to_ : Fmt) (rm : RMode) (sat : Bool) (c : Comp) (s : State) :
    Host.Outcome State Fault Refusal :=
  vector (opV 2 h c [a] d) 3 (fun k => cvtWr d (k.lanes h) from_ to_ rm sat (k.vector [a] 0)) s
/-- R182. -/
def execVrsum (h : Hdr) (d : Dest) (a : Sel) (ty : VTy) (c : Comp) (s : State) : Host.Outcome State Fault Refusal :=
  vreduce h d a ty c .sum s
/-- R182. -/
def execVrmax (h : Hdr) (d : Dest) (a : Sel) (ty : VTy) (c : Comp) (s : State) : Host.Outcome State Fault Refusal :=
  vreduce h d a ty c .max s
/-- R182. -/
def execVrmin (h : Hdr) (d : Dest) (a : Sel) (ty : VTy) (c : Comp) (s : State) : Host.Outcome State Fault Refusal :=
  vreduce h d a ty c .min s
/-- R183, minor 0. -/
def execVmov (h : Hdr) (d : Dest) (a : Sel) (s : State) : Host.Outcome State Fault Refusal :=
  vlanes 1 h d [a] compNone 2 2 (fun k i => elemOf (k.vector [a] 0) 32 i) s
/-- R183, minor 1: one entry, with zero in lanes that do not take effect. -/
def execVpush (h : Hdr) (q : Fin 8) (a : Sel) (s : State) : Host.Outcome State Fault Refusal :=
  let op := { opV 1 h compNone [a] .latch with push := some q }
  issue op (fun s =>
    if s.me.drainHolds op.vregs then .stall 2 s
    else
      let place := ((s.me.q[q]).reserve).2
      let v := s.me.vector [a] 0 &&& laneBits (s.me.lanes h)
      .done ((s.modMe fun c => c.modQ q fun y => y.reserve.1).produce 2 [.entry q place v] compNone) .seq true) s
/-- R183, minor 2: bits [31:0] of a scalar to every lane. -/
def execVbcs (h : Hdr) (d : Dest) (a : Sel) (s : State) : Host.Outcome State Fault Refusal :=
  vector { opV 1 h compNone [a] d with scalars := [a], vregs := vregsOf [] d } 2 (fun k =>
    vecWr d 2 (laneBits (k.lanes h)) (buildV 2048 32 (fun _ => (k.scalar 2 [a] 0).toNat) 64) FFlags.none) s
/-- R183, minor 3: lanes 1 and 0 to a scalar register, when lane 0 takes effect; without it the operation writes nothing, and is
still one of the vector engine (R31). -/
def execVmvs (h : Hdr) (d : Dest) (a : Sel) (s : State) : Host.Outcome State Fault Refusal :=
  vector { opV 1 h compNone [a] d with vregs := vregsOf [a] .latch } 2 (fun k =>
    let v := k.vector [a] 0
    if bvf (k.lanes h) 0 1 = 1 then destWr d 2 (BitVec.ofNat 64 (elemOf v 32 1 * 2 ^ 32 + elemOf v 32 0)) else [.flags 0]) s
/-- R184. -/
def execVli (h : Hdr) (d : Dest) (imm : BitVec 12) (s : State) : Host.Outcome State Fault Refusal :=
  vlanes 1 h d [] compNone 2 2 (fun _ _ => (imm.signExtend 32).toNat) s

end Sys2Proof.Machine
end

