-- ==== Sys2Proof/Machine/Matrix.lean ====
section
/-! DEFINITION. Tiles, accumulators and the matrix array (spec/09): tile loads (R211 to R214), MMA and DRAIN at issue
(R217 to R219), the stages of the array (R215), the pass arithmetic (R90, R91, R220) and the checksum checks
(R221). -/

namespace Sys2Proof.Machine

/-! ### Tiles and shapes -/

/-- ROWS of a shape register (R206). -/
def shRows (x : BitVec 32) : Nat := bvf x 12 8
/-- The row length in bytes of a shape register (R206). -/
def shLen (x : BitVec 32) : Nat := (bvf x 6 6 + 1) * 8
/-- The format code of a shape register (R206). -/
def shFmt (x : BitVec 32) : Nat := bvf x 20 4

/-- A tile changed. -/
def Core.modTile (c : Core) (t : Fin 8) (f : TileSt → TileSt) : Core := { c with tiles := c.tiles.set t (f c.tiles[t]) }

/-- Bytes put into a tile from a byte on. -/
def TileSt.put (t : TileSt) (pos : Nat) (bs : List (BitVec 8)) : TileSt :=
  { t with data := bvSet t.data (8 * pos) (8 * bs.length) (leNat bs) }

/-- Reuse of the B operand of the last MMA ends when a load names its tile (R215): no MMA has the format code 15. -/
def Core.spoilB (c : Core) (t : Fin 8) : Core :=
  { c with lastB := c.lastB.map fun b => if b.1 = t then (b.1, 15, b.2.2) else b }

/-! ### Tile loads -/

/-- A shape record from its 32 bytes, with the offsets of TLDW, or the byte offset of its first invalid field
(R212, R213). -/
def shapeRec (bs : List (BitVec 8)) (add row0 col0 : Nat) : Except Nat ShapeRec :=
  let f (i n : Nat) : Nat := leNat ((bs.drop i).take n)
  let lim : List (Nat × Nat × Nat × Nat) :=
    [(8, 2, 1, 4096), (10, 2, 1, 4096), (12, 2, 1, 4096), (14, 2, 1, 4096), (16, 2, 1, 512), (18, 1, 1, 16), (19, 1, 1, 16),
     (20, 1, 1, 8), (21, 1, 1, 8), (22, 1, 1, 8), (23, 1, 1, 8), (24, 1, 0, 15), (25, 1, 0, 15), (30, 2, 0, 0)]
  match lim.find? fun x => !decide (x.2.2.1 ≤ f x.1 x.2.1 ∧ f x.1 x.2.1 ≤ x.2.2.2) with
  | some x => .error x.1
  | none =>
    .ok ⟨(f 0 4 + add) % 2 ^ 64, f 4 4, f 8 2, f 10 2, f 12 2, f 14 2, f 16 2, f 18 1, f 19 1, f 20 1, f 21 1, f 22 1, f 23 1,
      f 24 1, f 25 1, f 26 2, f 28 2, row0, col0⟩

/-- Byte i of a TLDW with row length l (R213): a constant, or the local address it is read from. -/
def ShapeRec.byte (r : ShapeRec) (l i : Nat) : Sum (BitVec 8) Nat :=
  let p := r.pbase + r.row0 + i / l
  let f := r.col0 + i % l
  let tap := f / r.cb
  let ch := f % r.cb
  let oy := p / r.ow
  let ox := p % r.ow
  if r.oh ≤ oy ∨ r.kh * r.kw ≤ tap then .inl 0
  else
    let iy : Int := (oy * r.sy + tap / r.kw * r.dy : Nat) - (r.pt : Int)
    let ix : Int := (ox * r.sx + tap % r.kw * r.dx : Nat) - (r.pl : Int)
    if iy < 0 ∨ (r.hgt : Int) ≤ iy ∨ ix < 0 ∨ (r.wid : Int) ≤ ix then
      .inl (BitVec.ofNat 8 (if f % 2 = 0 then r.padv else r.padv / 256))
    else .inr ((r.base + iy.toNat * r.pitch + ix.toNat * r.cb + ch) % 2 ^ 64)

/-- What the next port cycle of a tile load moves: 256 bytes of a TLD, 64 of a TLDW (R214). -/
def TileLoad.piece (l : TileLoad) : List (Sum (BitVec 8) Nat) :=
  match l.shape with
  | none => (List.range (min 256 (l.n - l.pos))).map fun i => .inr (l.base + l.pos + i)
  | some (r, len) => (List.range (min 64 (l.n - l.pos))).map fun i => r.byte len (l.pos + i)

/-- The addresses a piece reads. -/
def pieceAddrs (p : List (Sum (BitVec 8) Nat)) : List Nat :=
  p.filterMap fun x => match x with
    | .inr a => some a
    | .inl _ => none

/-- A port cycle of a tile load of L (R213, R214): the bytes are checked as they are generated, those before a byte that fails
are placed, and after the last one the fate is requested (R153). A wake delays every later port cycle by its length (R196). -/
def State.tilePort (s : State) (k : CoreId) (l : TileLoad) : State :=
  let c := s.core k
  let put (l : TileLoad) (s : State) : State :=
    s.modCore k fun c => { c with tloads := c.tloads.map fun x => if x.tile = l.tile then l else x }
  if (c.clk .control).cyc < l.nextCyc ∨ l.n ≤ l.pos then s
  else
    let p := l.piece
    let fault (x : Sum (BitVec 8) Nat) : Option (Nat × Nat × Nat) :=
      match x with
      | .inl _ => none
      | .inr a =>
        match s.resolvePriv k 1 a 1 with
        | .bad cause d => some (a, cause, d)
        | .win _ => none
        | .priv _ => if (c.bank (a / 131072)).state = .off then some (a, 0x24, bankDetail 1 k 0 0 (a / 131072)) else none
    let good := p.takeWhile fun x => (fault x).isNone
    let as_ := pieceAddrs good
    let bs := ((as_.map fun a => a / 131072).dedup).map fun b => (k, b)
    if !s.banksFull bs then
      (put { l with nextCyc := l.nextCyc + 1, ready := l.ready + 1 } (s.wakeBanks (.tile k l.tile) bs)).modCore k fun c =>
        { c with portFree := c.portFree + 1 }
    else
      let bytes := good.map fun x => match x with
        | .inl v => v
        | .inr a => c.mem.read a
      let s := (s.unwaitBanks (.tile k l.tile) bs).modCore k fun c => c.modTile l.tile fun t => t.put l.pos bytes
      match p.findSome? fault with
      | some (a, cause, d) =>
        let w := c.wordsAt 1 l.pc
        s.takeTrap k (Rep.trap cause 1 d l.pc.toNat w.1 w.2 a)
      | none =>
        let far := l.far || as_.any fun a => decide (0x1000000 ≤ a)
        let l' := { l with
          pos := l.pos + bytes.length
          nextCyc := l.nextCyc + 1
          far := far
          ready := l.ready + (if far && !l.far then 2 else 0)
          lastRead := match as_.getLast? with
            | some a => some a
            | none => l.lastRead }
        let s := put l' s
        if l'.n ≤ l'.pos then
          match l'.lastRead with
          | some a => s.modCore k fun c => c.askFate (fateReq l.fate a)
          | none => s
        else s

/-- The port cycles of the tile loads of a core in this rc. -/
def State.pumpTiles (s : State) (k : CoreId) : State := (s.core k).tloads.foldl (fun s l => s.tilePort k l) s

/-- A tile load accepted (R210, R214), with its first port cycle when it has no record cycles. -/
def State.startTile (s : State) (t : Fin 8) (n base cycles first : Nat) (shape : Option (ShapeRec × Nat)) (fate : Fate)
    (far : Bool) (comp : Comp) : State :=
  let cyc := (s.me.clk .control).cyc
  let l : TileLoad := ⟨t, n, base, shape, 0, cyc + first, none, fate, cyc + cycles + 3 + (if far then 2 else 0), far,
    s.mySeq.pc, comp⟩
  (s.modMe fun c => { (c.spoilB t).modTile t fun x => { x with fills := x.fills + 1 } with
    tloads := c.tloads ++ [l]
    portFree := cyc + cycles }).tilePort s.curCore l

/-- Whether check 4 holds a tile load (R210). -/
def Core.tileHeld (c : Core) (t : Fin 8) : Bool := (c.tiles[t]).fills != 0 || (c.tiles[t]).reads != 0

/-- R211: loads a tile from consecutive bytes of private store. -/
def execTld (h : Hdr) (t : Fin 8) (a : Sel) (fate : Fate) (off : BitVec 24) (c : Comp) (s : State) :
    Host.Outcome State Fault Refusal :=
  issue (op2 h c [a] [] []) (fun s =>
    let sh := s.me.tshape[t]
    let n := shRows sh * shLen sh
    let x := (addOff (s.val [a] 0) off).toNat
    if s.me.tileHeld t ∨ s.me.portBusy then .stall 2 s
    else
      s.localCheck x n 8 fate true fun _ s =>
        .done (s.startTile t n x ((n + 255) / 256) 0 none fate false c) .seq true) s

/-- R213: loads a tile as convolution windows that a shape record describes. DESIGN CHOICE (log 43): a record in banks 128 to 255
counts for the later ready cycle of R214, as a byte of a TLD there does. -/
def execTldw (h : Hdr) (t : Fin 8) (a b : Sel) (fate : Fate) (row0 col0 : BitVec 12) (c : Comp) (s : State) :
    Host.Outcome State Fault Refusal :=
  issue (op2 h c [a, b] [] []) (fun s =>
    let sh := s.me.tshape[t]
    let n := shRows sh * shLen sh
    let x := (s.val [a, b] 1).toNat
    if s.me.tileHeld t ∨ s.me.portBusy then .stall 2 s
    else
      s.localCheck x 32 32 .keep true fun _ s =>
        match shapeRec (s.me.mem.readN x 32) (s.val [a, b] 0).toNat row0.toNat col0.toNat with
        | .error i => .trap 0x31 (i * 2 ^ 24) x s
        | .ok r =>
          .done (s.startTile t n 0 (4 + (n + 63) / 64) 4 (some (r, shLen sh)) fate (decide (0x1000000 ≤ x)) c) .seq true) s

/-- R214: a tile is ready; its fill count drops and the load completes. -/
def execTileReady (k : CoreId) (t : Fin 8) (s : State) : Host.Outcome State Fault Refusal :=
  match (s.core k).tloads.find? fun l => l.tile == t && decide (l.n ≤ l.pos) &&
      decide (l.ready ≤ ((s.core k).clk .control).cyc) with
  | none => .next s
  | some l =>
    .next (s.modCore k fun c =>
      { ((c.offer 1 l.comp).modTile t fun x => { x with fills := x.fills - 1 }) with
        tloads := c.tloads.filter fun x => x.tile != t
        lastResult := s.rc })

/-! ### Format entries and passes -/

/-- The format entry an MMA or DRAIN chooses at issue (R173): FMT[FSEL], or by the counter of a loop of C. -/
def Core.fmtEntry (c : Core) (f : DrainF) : BitVec 32 :=
  if f.fl then c.fmt[(Fin.ofNat 16 (((c.sq 2).h[(Fin.ofNat 4 f.fsel.val : Fin 4)]).iter.toNat) : Fin 16)]
  else c.fmt[f.fsel]

/-- A format of an entry by the place of its code (R172). -/
def entFmt (e : BitVec 32) (lo : Nat) : Fmt := (Fmt.ofCode (bvf e lo 4)).getD .int8

/-- Whether an entry's combination is in the table of R94. -/
def comboOk (e : BitVec 32) : Bool :=
  let a := entFmt e 0
  let b := entFmt e 4
  let acc := entFmt e 8
  let bs := bvf e 16 2
  let fp8 (f : Fmt) : Bool := f == .e4m3 || f == .e5m2
  (a == .int8 && (b == .t2 || b == .int4 || b == .int8) && acc == .int32 && bs == 0) ||
    (fp8 a && fp8 b && acc == .fp32) || (a == .fp16 && b == .fp16 && acc == .fp32 && bs == 0) ||
    (a == .bf16 && b == .bf16 && acc == .fp32 && bs == 0)

/-- The entry check of R217: the combination, the output format (R88) and the RNA rule (R52). -/
def entryOk (e : BitVec 32) : Bool :=
  comboOk e && convertible (entFmt e 8) (entFmt e 12) && !(bvf e 18 3 == 4 && !(entFmt e 12).isInt)

/-- The pass depth of a combination (R216). -/
def passK (e : BitVec 32) : Nat :=
  match entFmt e 4 with
  | .t2 => 512
  | .int4 => 128
  | _ => 64
/-- The A stream's length in matrix cycles (R215). -/
def passT (e : BitVec 32) : Nat :=
  match entFmt e 0 with
  | .fp16 => 256
  | .bf16 => 256
  | _ => 64
/-- The row lengths in bytes of the A and B tiles (R216). -/
def passRows (e : BitVec 32) : Nat × Nat :=
  let bs := if bvf e 16 2 = 1 then 8 else 0
  (passK e * fmtWidth (entFmt e 0) / 8 + bs, passK e * fmtWidth (entFmt e 4) / 8 + bs)

/-- The tag of an accumulate format. -/
def tagOf (e : BitVec 32) : AccTag := if entFmt e 8 = .int32 then .int32 else .fp32

/-- Whether an MMA of m rows takes a paired A operand (R216). -/
def pairedA (e : BitVec 32) (m : Nat) : Bool := decide (32 < m) && entFmt e 4 == .t2

/-- The checks of R217 in REASON order: the first that fails, with the tile at fault. -/
def operandReason (c : Core) (e : BitVec 32) (ta tb : Fin 8) (m : Nat) : Option (Nat × Fin 8) :=
  let pair := pairedA e m
  let q := pair && ta.val % 2 == 0
  let ta1 : Fin 8 := ta + 1
  let sh (t : Fin 8) : BitVec 32 := c.tshape[t]
  let l := passRows e
  let fa := (entFmt e 0).code
  let fb := (entFmt e 4).code
  if shFmt (sh ta) ≠ fa then some (1, ta)
  else if q ∧ shFmt (sh ta1) ≠ fa then some (1, ta1)
  else if shFmt (sh tb) ≠ fb then some (2, tb)
  else if shLen (sh ta) ≠ l.1 then some (3, ta)
  else if q ∧ shLen (sh ta1) ≠ l.1 then some (3, ta1)
  else if shLen (sh tb) ≠ l.2 then some (4, tb)
  else if shRows (sh ta) < (if pair then min m 32 else m) then some (5, ta)
  else if q ∧ shRows (sh ta1) < m - 32 then some (5, ta1)
  else if shRows (sh tb) < 96 then some (6, tb)
  else if pair ∧ ta.val % 2 = 1 then some (7, ta)
  else none

/-- The detail word of matrix operand mismatch (R218). -/
def mismatchDetail (reason : Nat) (acc : Fin 4) (tile : Fin 8) : Nat :=
  reason * 2 ^ 28 + acc.val * 2 ^ 26 + tile.val * 2 ^ 23

/-! ### Drains at issue -/

/-- The words of a drain program up to its first DEND, or all 16 (R71, R224); a DEND with a non-zero unused field is kept, as
a word that does not decode. -/
def Core.drainWords (c : Core) (n : Fin 64) : List Word32 :=
  let l := (List.range 16).map fun i => c.dmem[(Fin.ofNat 1024 (16 * n.val + i) : Fin 1024)]
  let run := l.takeWhile fun w => fld w 27 5 != 0x11
  run ++ ((l.drop run.length).take 1).filter fun w => w != 0x88000000

/-- The v registers that the DLDP words of modes 0 and 1 of a program name (R227, R230). -/
def dldpRegs (ws : List Word32) : List (Fin 32) :=
  ws.flatMap fun w =>
    if fld w 27 5 = 5 then
      let n := fld w 0 5
      if fld w 16 2 = 0 then (Fin.ofNat 32 n : Fin 32) :: (if n < 31 then [(Fin.ofNat 32 (n + 1) : Fin 32)] else [])
      else if fld w 16 2 = 1 then [(Fin.ofNat 32 n : Fin 32)]
      else []
    else []

/-- The registers an MMA or DRAIN names for its drain (R227). -/
def Core.drainVregs (c : Core) (f : DrainF) : List (Fin 32) := if f.dr then dldpRegs (c.drainWords f.dprog) else []

/-- Whether the drain path has no place for another drain (R239): one running and three waiting. -/
def Core.drainFull (c : Core) : Bool := decide (4 ≤ (c.drains.filter fun d => !d.finished).length)

/-- A drain queued at the issue of an MMA or DRAIN, with what is fixed then (R227). -/
def Core.queueDrain (c : Core) (acc : Fin 4) (f : DrainF) (e : BitVec 32) (comp : Comp) : Core :=
  { c with
    drains := c.drains ++ [⟨c.nextId, acc, f.dprog, c.wins[f.win], f.win, e, f.scope, f.acq, f.rel, comp,
      (dldpRegs (c.drainWords f.dprog)).dedup.map fun r => (r.val, c.v[r]), false, false, 0, 0, [], [], 0, [], false, 0, 0, 0,
      0, none, false, none, false, false, (c.sq 2).pc⟩]
    nextId := c.nextId + 1 }

/-- Whether an accumulator is being drained or waits to be drained (R219). -/
def Core.draining (c : Core) (acc : Fin 4) : Bool :=
  c.drains.any fun d => d.acc == acc && !d.left

/-! ### MMA and DRAIN -/

/-- The A tiles of an MMA (R216): a paired operand takes two. -/
def mmaATiles (e : BitVec 32) (ta : Fin 8) (m : Nat) : List (Fin 8) :=
  ta :: if pairedA e m ∧ ta.val % 2 = 0 then [ta + 1] else []

/-- An accumulator changed. -/
def Core.modAcc (c : Core) (a : Fin 4) (f : AccSt → AccSt) : Core := { c with acc := c.acc.set a (f c.acc[a]) }

/-- An MMA accepted by the engine (R210, R215, R217, R221): read counts, the B slot and reuse, tag and row count, the
written-since-drain flag, and its drain. -/
def Core.acceptMma (c : Core) (acc : Fin 4) (z : Bool) (ta tb : Fin 8) (m : Nat) (f : DrainF) (e : BitVec 32) (comp : Comp) :
    Core :=
  let u := (c.clk .matrix).cyc
  let bf : BitVec 4 := BitVec.ofNat 4 (bvf e 4 4)
  let bsm : BitVec 2 := BitVec.ofNat 2 (bvf e 16 2)
  let reuse := match c.lastB with
    | some (t, f, b, _) => t == tb && f == bf && b == bsm
    | none => false
  let slot := match c.lastB with
    | some (_, _, _, x) => if reuse then x else !x
    | none => false
  let up (c : Core) (t : Fin 8) : Core := c.modTile t fun x => { x with reads := x.reads + 1 }
  let c := (mmaATiles e ta m).foldl up c
  let c := if reuse then c else up c tb
  let c := c.modAcc acc fun a => { a with
    tag := tagOf e
    rc := if z then m else max a.rc m
    dirty := a.dirty || !f.dr }
  let c := { c with
    mmas := c.mmas ++ [⟨c.nextId, acc, z, ta, tb, m, e, slot, reuse, if reuse then .waitA else .waitB, u + 1,
      if f.dr then compNone else comp, 0, 0, (c.sq 2).pc⟩]
    accPc := c.accPc.set acc (c.sq 2).pc
    nextId := c.nextId + 1
    lastB := some (tb, bf, bsm, slot)
    drains := if f.dr then c.drains else c.drains.map fun d => if d.acc = acc ∧ d.running then { d with dirtySince := true } else d
    checks := if f.dr then c.checks else c.checks.map fun x => if x.acc = acc ∧ x.byDrain then { x with keep := true } else x }
  if f.dr then c.queueDrain acc f e comp else c

/-- R217: checks its operands and starts a matrix pass, with a drain when DR = 1. -/
def execMma (h : Hdr) (acc : Fin 4) (z : Bool) (ta tb : Fin 8) (m1 : Fin 64) (f : DrainF) (c : Comp) (s : State) :
    Host.Outcome State Fault Refusal :=
  let op := { op2 h c [] [] [] with vregs := s.me.drainVregs f }
  issue op (fun s =>
    let k := s.me
    let e := k.fmtEntry f
    let m := m1.val + 1
    let busy := (k.mmas.filter fun x => x.stage != .streamed && x.stage != .final).length
    if (tb :: mmaATiles e ta m).any (fun t => (k.tiles[t]).fills != 0) ∨ k.draining acc ∨ k.drainHolds op.vregs then .stall 2 s
    else if 2 ≤ busy ∨ (f.dr ∧ k.drainFull) then .stall 2 s
    else if !entryOk e then .trap 0x11 0 0 s
    else
      match operandReason k e ta tb m with
      | some (r, t) => .trap 0x30 (mismatchDetail r acc t) 0 s
      | none =>
        let tag := (k.acc[acc]).tag
        if !z ∧ tag ≠ .empty ∧ tag ≠ tagOf e then .trap 0x30 (mismatchDetail 8 acc ta) 0 s
        else
          .done ((s.cmdHere s.curCore 4 5 acc.val).modMe fun k => (k.count 0x08 0 0 true).acceptMma acc z ta tb m f e c)
            .seq true) s

/-- R219: drains an accumulator through a drain program and a window. -/
def execDrain (h : Hdr) (acc : Fin 4) (f : DrainF) (c : Comp) (s : State) : Host.Outcome State Fault Refusal :=
  let op := { op2 h c [] [] [] with vregs := s.me.drainVregs f }
  issue op (fun s =>
    let e := s.me.fmtEntry f
    let tag := (s.me.acc[acc]).tag
    if s.me.drainHolds op.vregs ∨ s.me.drainFull then .stall 2 s
    else if !entryOk e then .trap 0x11 0 0 s
    else if tag ≠ .empty ∧ tag ≠ tagOf e then .trap 0x30 (mismatchDetail 8 acc 0) 0 s
    else .done (s.modMe fun k => k.queueDrain acc f e c) .seq true) s

/-! ### The stages of the array (R215) -/

/-- An accepted MMA of a core. -/
def Core.mma (c : Core) (id : Nat) (st : MmaStage) : Option MmaSt :=
  c.mmas.find? fun x => x.id == id && x.stage == st && decide (x.at_ ≤ (c.clk .matrix).cyc)

/-- An MMA of the list replaced. -/
def Core.setMma (c : Core) (x : MmaSt) : Core := { c with mmas := c.mmas.map fun y => if y.id = x.id then x else y }

/-- Whether an MMA has not ended its A stream. -/
def MmaSt.streaming (x : MmaSt) : Bool := x.stage != .streamed && x.stage != .final

/-- R215 step 2: the B load starts once every earlier MMA that uses its slot has ended its A stream. -/
def execMmaBLoadStart (k : CoreId) (id : Nat) (s : State) : Host.Outcome State Fault Refusal :=
  .next (s.modCore k fun c =>
    match c.mma id .waitB with
    | none => c
    | some x =>
      if c.mmas.any fun y => decide (y.id < id) && y.slot == x.slot && y.streaming then c
      else c.setMma { x with stage := .loadB, at_ := (c.clk .matrix).cyc + 24 })

/-- A B slot by its number. -/
def slotIx (b : Bool) : Fin 2 := if b then 1 else 0

/-- R215 step 2: the B load ends; the slot holds the tile, and the tile's read count drops. -/
def execMmaBLoadEnd (k : CoreId) (id : Nat) (s : State) : Host.Outcome State Fault Refusal :=
  .next (s.modCore k fun c =>
    match c.mma id .loadB with
    | none => c
    | some x =>
      let c := c.setMma { x with stage := .waitA, at_ := (c.clk .matrix).cyc }
      { c.modTile x.tb fun t => { t with reads := t.reads - 1 } with
        slots := c.slots.set (slotIx x.slot) (c.tiles[x.tb]).data })

/-- R215 step 3: the A stream starts after the B load and the previous stream. -/
def execMmaAStreamStart (k : CoreId) (id : Nat) (s : State) : Host.Outcome State Fault Refusal :=
  .next (s.modCore k fun c =>
    match c.mma id .waitA with
    | none => c
    | some x =>
      if c.mmas.any fun y => decide (y.id < id) && y.streaming then c
      else c.setMma { x with stage := .streamA, at_ := (c.clk .matrix).cyc + passT x.entry })

/-- R215 step 3: the A stream ends; the read counts drop, and the last element is final 98 cycles later. -/
def execMmaAStreamEnd (k : CoreId) (id : Nat) (s : State) : Host.Outcome State Fault Refusal :=
  .next (s.modCore k fun c =>
    match c.mma id .streamA with
    | none => c
    | some x =>
      let c1 := (mmaATiles x.entry x.ta x.m).foldl (fun c t => c.modTile t fun y => { y with reads := y.reads - 1 }) c
      c1.setMma { x with
        stage := .streamed
        at_ := x.at_ + 98
        adata := (c.tiles[x.ta + 1]).data ++ (c.tiles[x.ta]).data
        bdata := c.slots[slotIx x.slot] })

/-! ### The arithmetic of a pass (R90, R91, R220) -/

/-- Row i of the A operand as a number (R216): rows 32 on of a pair come from the second tile. -/
def MmaSt.aRow (x : MmaSt) (i : Nat) : Nat :=
  let l := 8 * (passRows x.entry).1
  if pairedA x.entry x.m ∧ 32 ≤ i then bvf x.adata (131072 + l * (i - 32)) l else bvf x.adata (l * i) l
/-- Row j of the B operand as a number. -/
def MmaSt.bRow (x : MmaSt) (j : Nat) : Nat :=
  let l := 8 * (passRows x.entry).2
  bvf x.bdata (l * j) l

/-- The elements of a row as numbers, from the least significant end (R77). -/
def rowElems (f : Fmt) (n row : Nat) : List Nat :=
  (List.range n).map fun k => row / 2 ^ (fmtWidth f * k) % 2 ^ fmtWidth f

/-- An exact integer of a value: an integer format's elements have exponent 0. -/
def FVal.toInt : FVal → Int
  | .nan => 0
  | .inf _ => 0
  | .fin n m _ => if n then -(m : Int) else m

/-- A row as exact integers, with T2BAD (R79). -/
def intRow (f : Fmt) (n row : Nat) : List Int × Bool :=
  let l := (rowElems f n row).map (readFmt f)
  (l.map fun v => v.1.toInt, l.any fun v => v.2.t2bad)

/-- The dot product of two integer rows. -/
def dotInt (a b : List Int) : Int := (List.zipWith (· * ·) a b).sum

/-- The elementwise sum of integer rows. -/
def sumRows (n : Nat) (rows : List (List Int)) : List Int :=
  rows.foldl (fun r x => List.zipWith (· + ·) r x) (List.replicate n 0)

/-- A row of FP8 or 16-bit floats as exact values, each with its block's scale (R91, R216), and whether a NaN scale
was applied. -/
def floatRow (f : Fmt) (bs : Bool) (row : Nat) : List FVal × Bool :=
  let l := (rowElems f 64 row).map (decodeF f)
  if bs then
    let sc (k : Nat) : FVal := decodeScale (row / 2 ^ (512 + 16 * (k / 32)) % 2 ^ 16)
    ((l.mapIdx fun k v => (mulF v (sc k)).1), (sc 0).isNaN || (sc 32).isNaN)
  else (l, false)

/-- An exact sum of values with INV (R91). -/
def sumF (l : List (FVal × Bool)) : FVal × Bool :=
  match l with
  | [] => (.fin false 0 0, false)
  | x :: l => l.foldl (fun r y => let z := addF .rne r.1 y.1; (z.1, r.2 || y.2 || z.2)) x

/-- One floating-point cell's pass (R91): groups of eight products, each sum rounded once and added. -/
def floatPass (acc : Nat) : Nat → List FVal → List FVal → FFlags → Flagged Nat
  | 0, _, _, fl => (acc, fl)
  | n + 1, a, b, fl =>
    let g := sumF (List.zipWith mulF (a.take 8) (b.take 8))
    let g32 := finishF .fp32 .rne g
    let r := faddP .fp32 .rne acc g32.1
    floatPass r.1 n (a.drop 8) (b.drop 8) ((fl.or g32.2).or r.2)

/-- The elementwise exact sum of rows of values. -/
def sumFRows (rows : List (List FVal)) : List FVal :=
  match rows with
  | [] => List.replicate 64 (.fin false 0 0)
  | r :: rs => rs.foldl (fun a x => List.zipWith (fun p q => (addF .rne p q).1) a x) r

/-- Word i of a wide value. -/
def w32 {n : Nat} (v : BitVec n) (i : Nat) : Nat := elemOf v 32 i

/-- The accumulator before a pass: zero with Z = 1 (R217). -/
def AccSt.start (a : AccSt) (z : Bool) : AccSt := if z then { a with elem := 0, cr := 0, cc := 0, corner := 0 } else a

/-- An accumulator after an integer pass, and T2BAD (R90, R220): every sum wraps modulo 2^32. -/
def AccSt.passInt (a : AccSt) (x : MmaSt) : AccSt × FFlags :=
  let e := x.entry
  let kp := passK e
  let as_ := (List.range x.m).map fun i => (intRow (entFmt e 0) kp (x.aRow i)).1
  let bp := (List.range 96).map fun j => intRow (entFmt e 4) kp (x.bRow j)
  let bs := bp.map Prod.fst
  let sa := sumRows kp as_
  let sb := sumRows kp bs
  let a := a.start x.z
  let add (old : Nat) (d : Int) : Nat := wrapN 32 ((old : Int) + d)
  let elems := as_.mapIdx fun i ra => bs.mapIdx fun j rb => add (w32 a.elem (96 * i + j)) (dotInt ra rb)
  let lo := packList 32 elems.flatten
  let keep := a.elem.toNat / 2 ^ (3072 * x.m) * 2 ^ (3072 * x.m)
  ({ a with
      elem := BitVec.ofNat 196608 (keep + lo)
      cr := BitVec.ofNat 3072 (packList 32 (bs.mapIdx fun j rb => add (w32 a.cr j) (dotInt sa rb)))
      cc := BitVec.ofNat 2048 (packList 32 ((as_.mapIdx fun i ra => add (w32 a.cc i) (dotInt ra sb)) ++
        (List.range (64 - x.m)).map fun i => w32 a.cc (x.m + i)))
      corner := BitVec.ofNat 32 (add a.corner.toNat (dotInt sa sb)) },
    { FFlags.none with t2bad := bp.any Prod.snd })

/-- An accumulator after a floating-point pass, with its flags (R91, R220); the checksum cells raise none (log 30). -/
def AccSt.passFloat (a : AccSt) (x : MmaSt) : AccSt × FFlags :=
  let e := x.entry
  let bsm := bvf e 16 2 == 1
  let ap := (List.range x.m).map fun i => floatRow (entFmt e 0) bsm (x.aRow i)
  let bp := (List.range 96).map fun j => floatRow (entFmt e 4) bsm (x.bRow j)
  let as_ := ap.map Prod.fst
  let bs := bp.map Prod.fst
  let sa := sumFRows as_
  let sb := sumFRows bs
  let a := a.start x.z
  let cell (old : Nat) (p q : List FVal) : Flagged Nat := floatPass old 8 p q FFlags.none
  let r := (as_.mapIdx fun i ra => bs.mapIdx fun j rb => cell (w32 a.elem (96 * i + j)) ra rb).flatten
  let keep := a.elem.toNat / 2 ^ (3072 * x.m) * 2 ^ (3072 * x.m)
  ({ a with
      elem := BitVec.ofNat 196608 (keep + packList 32 (r.map Prod.fst))
      cr := BitVec.ofNat 3072 (packList 32 (bs.mapIdx fun j rb => (cell (w32 a.cr j) sa rb).1))
      cc := BitVec.ofNat 2048 (packList 32 ((as_.mapIdx fun i ra => (cell (w32 a.cc i) ra sb).1) ++
        (List.range (64 - x.m)).map fun i => w32 a.cc (x.m + i)))
      corner := BitVec.ofNat 32 (cell a.corner.toNat sa sb).1 },
    r.foldl (fun f y => f.or y.2) (FFlags.ofSclbad ((ap ++ bp).any Prod.snd)))

/-- R215 step 4: the elements become final, with the MMA's completion; one cycle later its checksums, which are its
last result. -/
def execMmaResultsFinal (k : CoreId) (id : Nat) (s : State) : Host.Outcome State Fault Refusal :=
  .next (s.modCore k fun c =>
    match c.mma id .streamed with
    | some x =>
      let r := if tagOf x.entry = .int32 then (c.acc[x.acc]).passInt x else (c.acc[x.acc]).passFloat x
      let c := (c.modAcc x.acc fun _ => r.1).fmterrRaise r.2.bits
      ({ c.setMma { x with stage := .final, at_ := x.at_ + 1 } with lastVec := s.rc }).offer 2 x.comp
    | none =>
      match c.mma id .final with
      | some _ => { c with
          mmas := c.mmas.filter fun x => x.id != id
          eng := c.eng.set 0 (c.eng[(0 : Fin 8)] + 1)
          lastVec := s.rc }
      | none => c)

/-! ### Checksum checks (R221) -/

/-- An FP32 pattern as an integer in units of 2^−149, when it is finite. -/
def fpUnits (x : Nat) : Option Int :=
  match decodeF .fp32 x with
  | .fin n m e => let v : Int := m * 2 ^ (e + 149).toNat; some (if n then -v else v)
  | .nan => none
  | .inf _ => none

/-- Whether a sum of terms and its counterpart mismatch (R221). -/
def sumBad (tag : AccTag) (tol : Nat) (terms : List Nat) (x : Nat) : Bool :=
  match tag with
  | .empty => false
  | .int32 => terms.sum % 2 ^ 32 != x
  | .fp32 =>
    let l := terms.map fpUnits
    match l.all Option.isSome, fpUnits x with
    | true, some y =>
      let v := l.map fun o => o.getD 0
      decide ((v.sum - y).natAbs * 2 ^ 24 > tol * ((v.map Int.natAbs).sum + y.natAbs))
    | _, _ => false

/-- Whether an accumulator's sums disagree with its checksums (R221). -/
def AccSt.mismatch (a : AccSt) (tol : Nat) : Bool :=
  ((List.range 96).any fun j => sumBad a.tag tol ((List.range 64).map fun i => w32 a.elem (96 * i + j)) (w32 a.cr j)) ||
    ((List.range 64).any fun i => sumBad a.tag tol ((List.range 96).map fun j => w32 a.elem (96 * i + j)) (w32 a.cc i)) ||
    sumBad a.tag tol ((List.range 96).map fun j => w32 a.cr j) a.corner.toNat ||
    sumBad a.tag tol ((List.range 64).map fun i => w32 a.cc i) a.corner.toNat

/-- DRAINPOS at a stop (R242). -/
def drainPos (acc : Fin 4) (prog : Fin 64) (win : Fin 4) (stop elem cursor : Nat) : BitVec 64 :=
  BitVec.ofNat 64 (2 ^ 63 + acc.val * 2 ^ 61 + prog.val * 2 ^ 55 + win.val * 2 ^ 53 + stop * 2 ^ 50 + elem * 2 ^ 32 + cursor)

/-- R221: a check is final. A mismatch is a detected error, and at a drain also stops it (STOP 4); a clean check clears
the written-since-drain flag unless an MMA has set it since the drain started. -/
def execAbftCheckFinal (k : CoreId) (a : Fin 4) (s : State) : Host.Outcome State Fault Refusal :=
  let c := s.core k
  match c.checks.find? fun x => x.acc == a && decide (x.final ≤ (c.clk .matrix).cyc) with
  | none => .next s
  | some x =>
    let s := s.modCore k fun c => { c with checks := c.checks.erase x, lastVec := if c.rolled then c.lastVec else s.rc }
    if x.of_.mismatch c.abfttol.toNat then
      let w := c.wordsAt 2 x.pc
      let s := s.detectedError k ⟨2, 0, some 2, 0, 0, x.pc.toNat, w.1, w.2, 0, 0⟩
      .next (if x.byDrain then s.modCore k fun c => { c with drainpos := drainPos a x.prog x.win 4 0 0 } else s)
    else if x.keep then .next s
    else .next (s.modCore k fun c => c.modAcc a fun y => { y with dirty := false })

end Sys2Proof.Machine
end

