-- ==== Sys2Proof/Machine/Drain.lean ====
section
/-! DEFINITION. Drain programs (spec/10): the micro-instructions (R228 to R236), the histogram unit (R96, R234), drain
windows (R237), the start, the elements and the stops of a drain (R238 to R243). -/

namespace Sys2Proof.Machine

/-! ### The micro-instructions (R70, R228) -/

/-- The two-operand arithmetic of the drain path (R229). -/
inductive DArith where
  | add | mul | fma | max | min
  deriving DecidableEq, Repr

/-- A decoded drain micro-instruction (R228). -/
inductive DOp where
  | nop
  | mov (d a : Fin 8)
  | arith (o : DArith) (fp : Bool) (d a b : Fin 8)
  | ldpCol (d : Fin 8) (n : Nat)
  | ldpRow (d : Fin 8) (n : Nat)
  | ldpH (d : Fin 8) (x : Nat)
  | ldpI (d : Fin 8) (x : Nat)
  | cvt (d a : Fin 8) (src dst : Fmt) (rm : RMode) (sat : Bool)
  | bsc (d a b : Fin 8)
  | hist (d a : Fin 8)
  | lut (d a : Fin 8) (n : Nat)
  | shr (d a : Fin 8) (k : Nat) (rm : RMode)
  | sat (d a : Fin 8) (w : Nat)
  | stv (a : Fin 8) (n : Nat)
  | stq (a : Fin 8) (q : Fin 8)
  | stw (a : Fin 8) (f : Fmt)
  deriving DecidableEq, Repr

/-- The fields a word uses, as a mask of its low 27 bits: DD, DA, DB, and the given bits of MD and IMM. -/
def dUsed (dd da db : Bool) (md imm : Nat) : Nat :=
  (if dd then 7 * 2 ^ 24 else 0) + (if da then 7 * 2 ^ 21 else 0) + (if db then 7 * 2 ^ 18 else 0) + md * 2 ^ 16 + imm

/-- Whether every unused field of a word is zero (R71). -/
def dClean (w : Word32) (used : Nat) : Bool := fld w 0 27 &&& (2 ^ 27 - 1 - used) == 0

/-- A word of a drain program decoded (R70, R71, R76, R228); none where it is undecodable. -/
def decodeD (w : Word32) : Option DOp :=
  let d : Fin 8 := Fin.ofNat 8 (fld w 24 3)
  let a : Fin 8 := Fin.ofNat 8 (fld w 21 3)
  let b : Fin 8 := Fin.ofNat 8 (fld w 18 3)
  let md := fld w 16 2
  let imm := fld w 0 16
  let ar (o : DArith) : Option DOp :=
    if dClean w (dUsed true true true 3 0) ∧ md < 2 then some (.arith o (md == 1) d a b) else none
  match fld w 27 5 with
  | 0x00 => if dClean w 0 then some .nop else none
  | 0x01 => if dClean w (dUsed true true false 0 0) then some (.mov d a) else none
  | 0x02 => ar .add
  | 0x03 => ar .mul
  | 0x04 => ar .fma
  | 0x05 =>
    if md < 2 then
      if dClean w (dUsed true false false 3 31) then
        if md = 1 then some (.ldpRow d imm) else if imm = 31 then none else some (.ldpCol d imm)
      else none
    else if dClean w (dUsed true false false 3 0xFFFF) then some (if md = 2 then .ldpH d imm else .ldpI d imm)
    else none
  | 0x06 => ar .max
  | 0x07 => ar .min
  | 0x08 =>
    if dClean w (dUsed true true false 1 0xFF7) then
      match Fmt.ofCode (fld w 8 4), Fmt.ofCode (fld w 4 4), RMode.ofCode (fld w 0 3) with
      | some src, some dst, some rm =>
        if convertible src dst ∧ (rm ≠ .rna ∨ dst.isInt) then some (.cvt d a src dst rm (md == 1)) else none
      | _, _, _ => none
    else none
  | 0x09 => if dClean w (dUsed true true true 0 0) then some (.bsc d a b) else none
  | 0x0A => if dClean w (dUsed true true false 0 0) then some (.hist d a) else none
  | 0x0B => if dClean w (dUsed true true false 0 0xFF) then some (.lut d a imm) else none
  | 0x0C =>
    if dClean w (dUsed true true false 0 0x73F) then (RMode.ofCode (fld w 8 3)).map fun rm => .shr d a (fld w 0 6) rm
    else none
  | 0x0D =>
    if dClean w (dUsed true true false 0 0xF) then
      match Fmt.ofCode imm with
      | some f => if f.isInt then some (.sat d a (fmtWidth f)) else none
      | none => none
    else none
  | 0x0E => if dClean w (dUsed false true false 0 31) then some (.stv a imm) else none
  | 0x0F => if dClean w (dUsed false true false 0 1) then some (.stq a (if imm = 1 then 7 else 6)) else none
  | 0x10 =>
    if dClean w (dUsed false true false 0 0xF) then
      match Fmt.ofCode imm with
      | some f => if f = .t2 ∨ f = .int4 then none else some (.stw a f)
      | none => none
    else none
  | _ => none

/-- Words decoded one after the other. -/
def decodeDs : List Word32 → Option (List DOp)
  | [] => some []
  | w :: ws =>
    match decodeD w, decodeDs ws with
    | some o, some os => some (o :: os)
    | _, _ => none

/-- Whether an operation is DHIST. -/
def DOp.isHist : DOp → Bool
  | .hist _ _ => true
  | _ => false
/-- Whether an operation is DLUT. -/
def DOp.isLut : DOp → Bool
  | .lut _ _ _ => true
  | _ => false
/-- Whether an operation is DSTV. -/
def DOp.isStv : DOp → Bool
  | .stv _ _ => true
  | _ => false
/-- Whether an operation is DSTQ. -/
def DOp.isStq : DOp → Bool
  | .stq _ _ => true
  | _ => false

/-- A program decoded up to its first DEND (R71): none where a word, or the whole under R228, is undecodable. -/
def decodeProg (ws : List Word32) : Option (List DOp) :=
  match decodeDs ws with
  | some os =>
    if 1 < (os.filter DOp.isHist).length ∨ 1 < (os.filter DOp.isStv).length ∨ 1 < (os.filter DOp.isStq).length then none
    else some os
  | none => none

/-! ### The arithmetic of an element -/

/-- The arithmetic mould (R229). -/
def dArith (o : DArith) (fp : Bool) (a b c : Nat) : Flagged Nat :=
  if fp then
    match o with
    | .add => faddP .fp32 .rne a b
    | .mul => fmulP .fp32 .rne a b
    | .fma => fmaP .fp32 .rne a b c
    | .max => (minmaxF .fp32 true a b, FFlags.none)
    | .min => (minmaxF .fp32 false a b, FFlags.none)
  else
    let x := sextN 32 a
    let y := sextN 32 b
    (wrapN 32 (match o with
      | .add => x + y
      | .mul => x * y
      | .fma => x * y + sextN 32 c
      | .max => max x y
      | .min => min x y), FFlags.none)

/-- A quotient by a scale's significand to 64 bits and a sticky bit (R232). A NaN operand, the scale among them, sets INV (R81),
and a NaN scale SCLBAD besides (R82). -/
def divScale (x s : FVal) : FVal × FFlags :=
  match x, s with
  | _, .nan => (.nan, { FFlags.none with inv := true, sclbad := true })
  | .nan, _ => (.nan, FFlags.ofInv true)
  | .inf n, _ => (.inf n, FFlags.none)
  | .fin n m e, .fin _ p q =>
    if m = 0 then (.fin n 0 0, FFlags.none)
    else (.fin n (2 * (m * 2 ^ 64 / p) + if m * 2 ^ 64 % p = 0 then 0 else 1) (e - q - 65), FFlags.none)
  | .fin _ _ _, .inf _ => (.nan, FFlags.none)

/-- DBSC (R232). -/
def dBsc (a b : Nat) : Flagged Nat :=
  let (v, fl) := divScale (decodeF .fp32 a) (decodeScale (b % 2 ^ 16))
  let (p, fl2) := roundF .fp32 .rne false v
  (p, fl.or fl2)

/-- The integer part of a finite value that is not negative. -/
def floorVal : FVal → Nat
  | .nan => 0
  | .inf _ => 0
  | .fin _ m e => if 0 ≤ e then m * 2 ^ e.toNat else m / 2 ^ (-e).toNat

/-- DLUT by its table (R233). -/
def dLut (tab : VWord) (a : Nat) : Flagged Nat :=
  let x0 := decodeF .fp32 (elemOf tab 32 0)
  let st := decodeF .fp32 (elemOf tab 32 1)
  let (df, i1) := addF .rne (decodeF .fp32 a) (negF x0)
  let (pr, i2) := mulF df st
  let (u, fl) := roundF .fp32 .rne false pr
  let uv := decodeF .fp32 u
  if i1 ∨ i2 ∨ uv.isNaN then (canonNaN .fp32, FFlags.ofInv true)
  else
    let uc : FVal := if !ltF (.fin false 0 0) uv then .fin false 0 0 else if ltF (.fin false 61 0) uv then .fin false 61 0 else uv
    let k := min (floorVal uc) 60
    let f := (addF .rne uc (.fin true k 0)).1
    let y0 := elemOf tab 32 (2 + k)
    let y1 := elemOf tab 32 (3 + k)
    let d := fsubP .fp32 .rne y1 y0
    let m := finishF .fp32 .rne (mulF f (decodeF .fp32 d.1))
    let r := faddP .fp32 .rne y0 m.1
    (r.1, ((fl.or d.2).or m.2).or r.2)

/-- The exponent of the largest value of an output format for the histogram (R96). -/
def histEmax : Fmt → Int
  | .int4 => 2 | .int8 => 6 | .int16 => 14 | .int32 => 30 | .e4m3 => 8 | .e5m2 => 15 | .fp16 => 15
  | .bf16 => 127 | .fp32 => 127 | .e8m2 => 127 | .t2 => 127

/-- A number put into an ascending list. -/
def insertAsc (x : Int) : List Int → List Int
  | [] => [x]
  | y :: l => if x ≤ y then x :: y :: l else y :: insertAsc x l

/-- The histogram unit (R96): the scale of a block's contributions. -/
def histScale (h : Nat) (emax : Int) (xs : List Nat) : Flagged Nat :=
  let vs := xs.map (decodeF .fp32)
  let fin? (v : FVal) : Option (Nat × Int) := match v with
    | .fin _ m e => if m = 0 then none else some (m, e + (Nat.log2 m : Int))
    | .nan => none
    | .inf _ => none
  if vs.any fun v => match v with
      | .fin _ _ _ => false
      | .nan => true
      | .inf _ => true
  then (0x03FC, FFlags.ofSclbad true)
  else
    let nz := vs.filterMap fin?
    let sorted := nz.foldl (fun l x => insertAsc x.2 l) []
    let n := sorted.length
    if n = 0 then (0x01FC, FFlags.none)
    else
      let k := max 1 ((h * n + 255) / 256)
      let e := (sorted[k - 1]?).getD 0
      let q := (nz.filter fun x => x.2 == e).foldl (fun r x => max r ((4 * x.1 + 2 ^ Nat.log2 x.1 - 1) / 2 ^ Nat.log2 x.1)) 4
      let (q, e) := if 8 ≤ q then (4, e + 1) else (q, e)
      let x := e - emax + 127
      if x < 0 then (0, FFlags.none)
      else if 254 < x then (0x03FB, { FFlags.none with ovf := true })
      else (x.toNat * 4 + (q - 4), FFlags.none)

/-- What a drain's elements are computed from (R227): the accumulator, the captured registers and tables, the
percentile, and the output format's exponent. -/
structure DEnv where
  elem : BitVec 196608
  params : List (Nat × VWord)
  tables : List (Nat × BitVec 2048)
  hist : Nat
  emax : Int

/-- A store of an element, with its value (R236). -/
inductive DStore where
  | stv (n : Nat) (x : Nat)
  | stq (q : Fin 8) (x : Nat)
  | stw (f : Fmt) (x : Nat)
  deriving DecidableEq, Repr

/-- Whether a store pushes a queue, which a restart does again below its cursor (R243). -/
def DStore.pushes : DStore → Bool
  | .stq _ _ => true
  | .stv _ _ => false
  | .stw _ _ => false

/-- An element under way: its drain registers, the stores so far and the flags. -/
structure DRun where
  regs : Vector Nat 8
  stores : List DStore
  flags : FFlags

/-- A drain register written, with flags. -/
def DRun.put (r : DRun) (d : Fin 8) (x : Flagged Nat) : DRun :=
  { r with regs := r.regs.set d (x.1 % 2 ^ 32), flags := r.flags.or x.2 }

/-- One micro-instruction on element (i, j) (R228 to R234); `scale` is the block's scale. -/
def DOp.run (o : DOp) (env : DEnv) (i j : Nat) (scale : Flagged Nat) (r : DRun) : DRun :=
  match o with
  | .nop => r
  | .mov d a => r.put d (r.regs[a], FFlags.none)
  | .arith x fp d a b => r.put d (dArith x fp r.regs[a] r.regs[b] r.regs[d])
  | .ldpCol d n => r.put d (elemOf (alGet env.params (n + j / 64) 0) 32 (j % 64), FFlags.none)
  | .ldpRow d n => r.put d (elemOf (alGet env.params n 0) 32 i, FFlags.none)
  | .ldpH d x => r.put d ((convertFmt .fp16 .fp32 .rne false x).1, FFlags.none)
  | .ldpI d x => r.put d (wrapN 32 (sextN 16 x), FFlags.none)
  | .cvt d a src dst rm st => r.put d (convertFmt src dst rm st (r.regs[a] % 2 ^ fmtWidth src))
  | .bsc d a b => r.put d (dBsc r.regs[a] r.regs[b])
  | .hist d _ => r.put d scale
  | .lut d a n => r.put d (dLut (alGet env.tables n 0) r.regs[a])
  | .shr d a k rm =>
    let x := sextN 32 r.regs[a]
    r.put d (roundInt 32 rm false false (.fin (decide (x < 0)) x.natAbs (-(k : Int))))
  | .sat d a w =>
    let x := sextN 32 r.regs[a]
    let y := clampN true w x
    r.put d (wrapN 32 y, FFlags.ofSatd (x != y))
  | .stv a n => { r with stores := r.stores ++ [.stv n r.regs[a]] }
  | .stq a q => { r with stores := r.stores ++ [.stq q r.regs[a]] }
  | .stw a f => { r with stores := r.stores ++ [.stw f r.regs[a]] }

/-- Element (i, j) before its first word (R226). -/
def DEnv.start (env : DEnv) (i j : Nat) : DRun :=
  ⟨(Vector.replicate 8 0).set 0 (w32 env.elem (96 * i + j)), [], FFlags.none⟩

/-- The contribution of an element to its histogram block (R234): DA at DHIST. -/
def contribution (os : List DOp) (env : DEnv) (i j : Nat) : Nat :=
  let r := (os.takeWhile fun o => !o.isHist).foldl (fun r o => o.run env i j (0, FFlags.none) r) (env.start i j)
  match os.find? DOp.isHist with
  | some (.hist _ a) => r.regs[a]
  | _ => 0

/-- The scale of the block of element (i, j) (R96, R234). -/
def blockScale (os : List DOp) (env : DEnv) (i j : Nat) : Flagged Nat :=
  if os.any DOp.isHist then
    histScale env.hist env.emax ((List.range 32).map fun c => contribution os env i (j / 32 * 32 + c))
  else (0, FFlags.none)

/-- A whole element (R226): its stores and flags. -/
def runElem (os : List DOp) (env : DEnv) (i j : Nat) : DRun :=
  let sc := blockScale os env i j
  os.foldl (fun r o => o.run env i j sc r) (env.start i j)

/-! ### Windows (R237) -/

/-- R237: sets a drain window in the issue rc. -/
def execDwin (h : Hdr) (x : Fin 4) (a b : Sel) (len : BitVec 24) (c : Comp) (s : State) :
    Host.Outcome State Fault Refusal :=
  issue (op2 h c [a, b] [] []) (fun s =>
    let base := (s.val [a, b] 0).toNat
    let rs := (s.val [a, b] 1).toNat
    if 2 ^ 24 ≤ rs ∨ base % 64 ≠ 0 ∨ s.me.privTop < base + 64 * len.toNat then .trap 0x11 0 0 s
    else .done (s.modMe fun k => { k with wins := k.wins.set x (some ⟨base, rs, 64 * len.toNat⟩) }) .seq false) s

/-- The window offset of a DSTW of element (i, j) (R237); none where an E8M2 word stores nothing. -/
def dstwOff (w : WinSt) (f : Fmt) (i j : Nat) : Option Int :=
  if f = .e8m2 then
    if j % 32 = 0 then some ((i * w.stride + w.stride : Nat) - 8 + 2 * (j / 32 : Nat)) else none
  else some ((i * w.stride + j * (fmtWidth f / 8) : Nat) : Int)

/-! ### Starts, elements and stops -/

/-- A drain stopped (R241): DRAINPOS is set and the trap is taken, charged to the instruction that started the drain. -/
def State.stopDrain (s : State) (k : CoreId) (d : DrainSt) (stop cause detail elem addr cursor : Nat) : State :=
  let w := (s.core k).wordsAt 2 d.pc
  let s := s.modCore k fun c => { c with drainpos := drainPos d.acc d.prog d.winNo stop elem cursor }
  s.takeTrap k ⟨0x0D, cause, some 2, 0, detail, d.pc.toNat, w.1, w.2, addr, cursor⟩

/-- A drain of the list replaced. -/
def Core.setDrain (c : Core) (d : DrainSt) : Core := { c with drains := c.drains.map fun x => if x.id = d.id then d else x }

/-- The drain path starts on a drain: its run is noted, for what a detector finds in it later (R241, R348). -/
def Core.noteRun (c : Core) (rc : Nat) (d : DrainSt) : Core :=
  { c with ran := c.ran ++ [⟨d.pc, d.acc, d.prog, d.winNo, rc, none⟩] }

/-- The drain that runs. -/
def Core.runningDrain (c : Core) : Option DrainSt := c.drains.find? fun d => d.running && !d.finished

/-- The registers that a program's DSTV writes (R236). -/
def stvSet (os : List DOp) (rows : Nat) : List (Fin 32) :=
  os.flatMap fun o => match o with
    | .stv _ n => ((List.range ((rows * 96 + 63) / 64)).map fun i => n + i).filterMap fun r =>
        if h : r < 32 then some ⟨r, h⟩ else none
    | _ => []

/-- The tables that a program names. -/
def lutTables (os : List DOp) : List Nat :=
  (os.filterMap fun o => match o with
    | .lut _ _ n => some n
    | _ => none).dedup

/-- The words of a program, when it is decodable. -/
def progOf (ws : List Word32) : List DOp := (decodeProg ws).getD []

/-- R239: the next waiting drain starts once the drain path is free and its accumulator's elements are final; the
decoding, RC, HISTP and the tables are captured (R227), and a drain that stopped restarts from its cursor (R243). -/
def execDrainStart (k : CoreId) (s : State) : Host.Outcome State Fault Refusal :=
  let c := s.core k
  if c.runningDrain.isSome ∨ !(c.clk .matrix).edge then .next s
  else
    match c.drains.find? fun d => !d.running with
    | none => .next s
    | some d =>
      if c.mmas.any fun m => m.acc == d.acc && decide (m.id < d.id) &&
          !(m.stage == .final && decide (m.at_ ≤ (c.clk .matrix).cyc)) then .next s
      else
        let s := s.modCore k fun c => c.noteRun s.rc d
        let ws := c.drainWords d.prog
        match decodeProg ws with
        | none => .next (s.stopDrain k d 3 0x13 0 0 0 0)
        | some os =>
          let tabs := lutTables os
          match tabs.find? fun n => decide (c.privTop < 256 * n + 256) with
          | some n => .next (s.stopDrain k d 2 0x32 0 0 (256 * n) 0)
          | none =>
            match tabs.find? fun n => (c.bank (256 * n / 131072)).state == .off with
            | some n => .next (s.stopDrain k d 1 0x24 (bankDetail 4 k 0 0 (256 * n / 131072)) 0 (256 * n) 0)
            | none =>
              let rows := (c.acc[d.acc]).rc
              let pos := c.drainpos
              let again := bvf pos 63 1 == 1 && bvf pos 61 2 == d.acc.val && bvf pos 55 6 == d.prog.val &&
                bvf pos 53 2 == d.winNo.val
              .next (s.modCore k fun c => (c.setDrain { d with
                running := true
                waiting := tabs.any fun n => (c.bank (256 * n / 131072)).state != .full
                first := (c.clk .matrix).cyc
                rows := rows
                words := ws
                vset := stvSet os rows
                histH := c.histp.toNat
                tables := tabs.map fun n => (n, bytesV 2048 (c.mem.readN (256 * n) 256))
                restart := again
                skip := if again then bvf pos 32 13 else 0 }).wakeAll s.rc (.drain k)
                  (tabs.map fun n => 256 * n / 131072))

/-- What the stores of an element meet (R236, R237, R241): the first stop, with its number, cause, detail, address and
cursor; or the banks they need full. DESIGN CHOICE (log 43): the cursor of a DSTW whose window is not set is 0. -/
def Core.storeCheck (c : Core) (k : CoreId) (d : DrainSt) (i j : Nat) (l : List DStore) :
    Except (Nat × Nat × Nat × Nat × Nat) (List Nat) :=
  let e := 96 * i + j
  l.foldl (fun r x =>
    match r with
    | .error z => .error z
    | .ok bs =>
      match x with
      | .stv n _ =>
        if e < d.skip then .ok bs
        else
          let v := n + e / 64
          if 31 < v then .error (2, 0x32, 0, 0, 0)
          else if (c.bank (256 + v / 8)).state = .off then .error (1, 0x24, bankDetail 4 k 1 0 (v / 8), 0, 0)
          else .ok (bs ++ [256 + v / 8])
      | .stq _ _ => .ok bs
      | .stw f _ =>
        match d.win with
        | none => .error (2, 0x32, 0, 0, 0)
        | some w =>
          match dstwOff w f i j with
          | none => .ok bs
          | some o =>
            let n := fmtWidth f / 8
            if o < 0 ∨ (w.len : Int) < o + n then .error (2, 0x32, 0, (w.base + o).toNat, wrapN 32 o)
            else if e < d.skip then .ok bs
            else
              let a := w.base + o.toNat
              let ks := banksOf a n
              match ks.find? fun b => (c.bank b).state == .off with
              | some b => .error (1, 0x24, bankDetail 4 k 0 0 b, a, wrapN 32 o)
              | none => .ok (bs ++ ks)) (.ok [])

/-- One store performed (R236, R237); the stores of elements below the cursor of a restart are not, but their queue
entries are pushed (R243). -/
def Core.drainStore (c : Core) (id : Nat) (i j : Nat) (x : DStore) : Core :=
  match c.drains.find? fun d => d.id = id with
  | none => c
  | some d =>
    let e := 96 * i + j
    match x with
    | .stv n v =>
      if e < d.skip then c
      else
        let r : Fin 32 := Fin.ofNat 32 (n + e / 64)
        { c with
          v := c.v.set r (bvSet c.v[r] (32 * (e % 64)) 32 v)
          notes := c.notes.kept fun p => match p with
            | .lane x i => x != r || i.val != e % 64
            | _ => true }
    | .stw f v =>
      match d.win with
      | none => c
      | some w =>
        match dstwOff w f i j with
        | none => c
        | some o =>
          if e < d.skip then c
          else { c.keepOld (w.base + o.toNat) (fmtWidth f / 8) with
            mem := c.mem.writeLE (w.base + o.toNat) (fmtWidth f / 8) (v % 2 ^ fmtWidth f) }
    | .stq q v =>
      let (c, place, base) := if e % 64 = 0 then
          let r := (c.q[q]).reserve
          (c.modQ q fun _ => r.1, r.2, 0)
        else (c, d.qplace.getD 0, d.qfill)
      let word := bvSet base (32 * (e % 64)) 32 v
      if e % 64 = 63 ∨ e + 1 = 96 * d.rows then
        (c.modQ q fun y => y.fill place word).setDrain { d with qfill := 0, qplace := none }
      else c.setDrain { d with qfill := word, qplace := some place }

/-- The cycles from leaving the array to the stores (R238). -/
def DrainSt.lat (d : DrainSt) : Nat :=
  let os := progOf d.words
  4 + os.length + (if os.any DOp.isHist then 6 else 0) + 2 * (os.filter DOp.isLut).length

/-- The cycles by which the element at a running drain's cursor is late (R238): those of the stalls before it, and of the one
that holds it now. -/
def DrainSt.slipNow (d : DrainSt) (cyc : Nat) : Nat := max d.slip (cyc - (d.first + d.done / 16 + d.lat))

/-- The matrix cycle in which a running drain's last element leaves the array, as its stalls stand (R238). -/
def DrainSt.lastLeaves (d : DrainSt) (cyc : Nat) : Nat := d.first + (96 * d.rows - 1) / 16 + d.slipNow cyc

/-- The environment of a running drain: elements that have left the array are those that it held then (R219, R238). -/
def Core.drainEnv (c : Core) (d : DrainSt) : DEnv :=
  ⟨d.held.getD (c.acc[d.acc]).elem, d.params, d.tables, d.histH, histEmax (entFmt d.entry 12)⟩

/-- A drain finished: its last store is performed (R238, R243). -/
def Core.finishDrain (c : Core) (rc id : Nat) : Core :=
  match c.drains.find? fun d => d.id = id with
  | none => c
  | some d => { c.setDrain { d with finished := true } with
      lastVec := rc
      ran := c.ran.map fun r => if r.till.isNone then { r with till := some rc } else r
      eng := c.eng.set 2 (c.eng[(2 : Fin 8)] + 1)
      drainpos := if d.restart then 0 else c.drainpos }

/-- Whether the element at the cursor is due in this cycle (R238): its drain does not wait for a table (R233), and its acquire is
done (R302). -/
def State.elemDue (s : State) (k : CoreId) (d : DrainSt) : Bool :=
  let c := s.core k
  !d.waiting && decide (d.first + d.done / 16 + d.slip + d.lat ≤ (c.clk .matrix).cyc) && (c.clk .matrix).edge &&
    (d.done != 0 || !d.acq || s.coreFloor k d.scope)

/-- Whether the banks of a drain's tables are full (R233). -/
def Core.tablesFull (c : Core) (d : DrainSt) : Bool := d.tables.all fun t => (c.bank (256 * t.1 / 131072)).state == .full

/-- A drain whose tables are awake: its first element enters the drain path in this matrix cycle (R233). -/
def Core.tablesWoken (c : Core) (k : CoreId) (d : DrainSt) : Core :=
  if d.waiting && (c.clk .matrix).edge && c.tablesFull d then
    (c.unwait (.drain k)).setDrain { d with waiting := false, first := (c.clk .matrix).cyc }
  else c

/-- R238: one element is stored, in element order; a store that meets a waking bank or a full queue delays it and every
later one, and one that fails stops the drain at the element (R241). -/
def execDrainElement (k : CoreId) (s : State) : Host.Outcome State Fault Refusal :=
  let c := s.core k
  match c.runningDrain with
  | none => .next s
  | some d =>
    if d.rows = 0 then .next ((s.cmdHere k 5 6 d.acc.val).modCore k fun c => c.finishDrain s.rc d.id)
    else if !s.elemDue k d then .next s
    else
      let e := d.done
      let i := e / 96
      let j := e % 96
      let r := runElem (progOf d.words) (c.drainEnv d) i j
      match c.storeCheck k d i j r.stores with
      | .error (stop, cause, detail, addr, cursor) => .next (s.stopDrain k d stop cause detail e addr cursor)
      | .ok bs =>
        let full := r.stores.any fun x => match x with
          | .stq q _ => decide (e % 64 = 0) && !(c.q[q]).room
          | .stv _ _ => false
          | .stw _ _ => false
        if bs.any fun b => (c.bank b).state != .full then .next (s.modCore k fun c => c.wakeAll s.rc (.drain k) bs)
        else if full then .next s
        else
          .next ((if e + 1 = 96 * d.rows then s.cmdHere k 5 6 d.acc.val else s).modCore k fun c =>
            let c := (c.unwait (.drain k)).works 5
            let c := (if d.skip ≤ e ∨ r.stores.any DStore.pushes then c.count 0x09 0 0 true else c).setDrain { d with
              done := e + 1
              slip := (c.clk .matrix).cyc - (d.first + e / 16 + d.lat) }
            let c := (r.stores.foldl (fun c x => c.drainStore d.id i j x) c).fmterrRaise r.flags.bits
            if e + 1 = 96 * d.rows then c.finishDrain s.rc d.id else c)

/-- The waits and ends of drains at the start of an rc: a drain goes on once its tables are awake (R233), a check begins when a
drain's last element has left the array (R221), and the completion signals come in the rc after the last store, or after a
release (R240, R302). -/
def State.pumpDrains (s : State) (k : CoreId) : State :=
  let s := s.modCore k fun c => c.drains.foldl (fun c d => c.tablesWoken k d) c
  let c := s.core k
  c.drains.foldl (fun s d =>
    let cyc := (c.clk .matrix).cyc
    let s := if d.running && !d.waiting && !d.left && decide (d.lastLeaves cyc ≤ cyc) then
        s.modCore k fun c => { c.setDrain { d with left := true, held := some (c.acc[d.acc]).elem } with
          checks := c.checks ++ [⟨d.acc, c.acc[d.acc], d.lastLeaves cyc + 32, true, d.dirtySince, d.prog, d.winNo, d.pc⟩] }
      else s
    if d.finished && (!d.rel || s.coreFloor k d.scope) then
      s.modCore k fun c => { (c.offer 2 d.comp) with drains := c.drains.filter fun x => x.id != d.id }
    else s) s

end Sys2Proof.Machine
end

