-- ==== Sys2Proof/Machine/Special.lean ====
section
/-! DEFINITION. Special registers: MFSR and MTSR (R61, R62, R139), with the map of each register they reach. -/

namespace Sys2Proof.Machine

/-- TASKID (R320). -/
def Core.taskid (c : Core) : Nat :=
  match c.task with
  | some t => t.part.val * 2 ^ 24 + t.gang.toNat * 2 ^ 8 + t.idx.toNat
  | none => 0

/-- QWSHARE (R150). -/
def Core.qwshare (c : Core) : Nat := c.qwpart.toNat * 2 ^ 20 + c.share.toNat

/-- CLKDIV as MFSR reads it (R375): the value written last, with PEND. -/
def Core.clkdivRead (c : Core) : Nat := (c.clkdiv &&& 0x7777).toNat + if c.clkpend then 2 ^ 31 else 0

/-- PLEVEL (R374): the level, its source and the effective divisors in force. -/
def Core.plevel (c : Core) : Nat :=
  ((c.clk .copy).div - 1) * 2 ^ 16 + ((c.clk .matrix).div - 1) * 2 ^ 12 + ((c.clk .vector).div - 1) * 2 ^ 8 +
    ((c.clk .control).div - 1) * 2 ^ 4 + c.src.toNat * 4 + c.level.toNat

/-- The value of the special register of a number that a sequencer may read (R62); none when the number is
unassigned or not readable by it. -/
def State.readSr (s : State) (k : CoreId) (q : Fin 4) (n : Nat) : Option Nat :=
  let c := s.core k
  if n = 0x000 then some (c.seqid.toNat / 4 * 4 + q.val)
  else if n = 0x001 then some c.taskid
  else if n = 0x002 then some c.gen.toNat
  else if n = 0x010 then some c.rgnmax.toNat
  else if n = 0x011 then some c.rgncnt.toNat
  else if n = 0x012 then some c.retrylim.toNat
  else if n = 0x020 then some lscap
  else if n = 0x021 then some c.qwshare
  else if n = 0x030 then some c.clkdivRead
  else if n = 0x031 then some c.plevel
  else if n = 0x070 then some (s.qtime % 2 ^ 64)
  else if n = 0x060 ∧ 2 ≤ q.val then some c.drainpos.toNat
  else if q = 2 then
    if n = 0x040 then some c.vl.toNat
    else if n = 0x041 then some c.abfttol.toNat
    else if n = 0x042 then some c.histp.toNat
    else if n = 0x043 then some c.fmterrRead.toNat
    else if 0x048 ≤ n ∧ n < 0x050 then some (c.tshape[(Fin.ofNat 8 n : Fin 8)]).toNat
    else if 0x050 ≤ n ∧ n < 0x060 then some (c.fmt[(Fin.ofNat 16 n : Fin 16)]).toNat
    else none
  else none

/-- Whether TSHAPE may hold a value (R206): an assigned format, 1 to 128 rows, at most 16,384 bytes. -/
def tshapeOk (x : Nat) : Bool :=
  let rows := x / 2 ^ 12 % 256
  let rlen := x / 2 ^ 6 % 64
  (Fmt.ofCode (x / 2 ^ 20 % 16)).isSome && decide (1 ≤ rows ∧ rows ≤ 128 ∧ rows * (rlen + 1) * 8 ≤ 16384)

/-- Whether a format entry may hold a value (R172): no reserved code in A, B, ACC, OUT, RM or BSM. -/
def fmtEntryOk (x : Nat) : Bool :=
  (Fmt.ofCode (x % 16)).isSome && (Fmt.ofCode (x / 2 ^ 4 % 16)).isSome && (Fmt.ofCode (x / 2 ^ 8 % 16)).isSome &&
    (Fmt.ofCode (x / 2 ^ 12 % 16)).isSome && (RMode.ofCode (x / 2 ^ 18 % 8)).isSome &&
    decide (x / 2 ^ 16 % 4 < 2)

/-- The core after a sequencer writes a value to the special register of a number; none where the write raises illegal
operand: a number it may not write (R62), or a value the register refuses. -/
def Core.writeSr (c : Core) (q : Fin 4) (n x : Nat) : Option Core :=
  if n = 0x030 ∧ q = 0 then some { c with clkdiv := BitVec.ofNat 32 x &&& 0x7777, clkpend := true }
  else if q = 2 then
    if n = 0x040 then
      if 1 ≤ x % 128 ∧ x % 128 ≤ 64 then some { c with vl := BitVec.ofNat 7 x } else none
    else if n = 0x041 then some { c with abfttol := BitVec.ofNat 16 x }
    else if n = 0x042 then
      if 1 ≤ x % 512 ∧ x % 512 ≤ 256 then some { c with histp := BitVec.ofNat 9 x } else none
    else if n = 0x043 then some (c.fmterrClear (BitVec.ofNat 6 x))
    else if 0x048 ≤ n ∧ n < 0x050 then
      if tshapeOk x then
        some { c with tshape := c.tshape.set (Fin.ofNat 8 n : Fin 8) (BitVec.ofNat 32 x &&& 0x00FFFFC0) }
      else none
    else if 0x050 ≤ n ∧ n < 0x060 then
      if fmtEntryOk x then
        some { c with fmt := c.fmt.set (Fin.ofNat 16 n : Fin 16) (BitVec.ofNat 32 x &&& 0x001FFFFF) }
      else none
    else none
  else none

/-- R139: MFSR reads a special register into s[S] and b0 after two cycles. -/
def execMfsr (h : Hdr) (r : Fin 32) (srn : BitVec 12) (s : State) : Host.Outcome State Fault Refusal :=
  let op := op1 h [] [] (destRes (.reg r))
  issue op (fun s =>
    match s.readSr s.curCore s.curSeq.idx srn.toNat with
    | some v => .done (s.produce 2 (destWr (.reg r) 0 (BitVec.ofNat 64 v)) compNone) .seq true
    | none => .trap 0x11 0 0 s) s

/-- R139: MTSR writes a special register from s[S] in its issue rc. -/
def execMtsr (h : Hdr) (r : Fin 32) (srn : BitVec 12) (s : State) : Host.Outcome State Fault Refusal :=
  let op := op1 h [.reg r] [] []
  issue op (fun s =>
    match s.me.writeSr s.curSeq.idx srn.toNat (s.val [.reg r] 0).toNat with
    | some c => .done (s.setCore s.curCore c) .seq true
    | none => .trap 0x11 0 0 s) s

end Sys2Proof.Machine
end

