-- ==== Sys2Proof/Machine/Team.lean ====
section
/-! DEFINITION. Teams and barriers (spec/17): the group table, membership, GROUP.RANK and GROUP.SIZE, BAR and BARW, the
combining of arrivals, tokens, timeouts, breaks and releases. -/

namespace Sys2Proof.Machine

/-- A release sent to a member's core. -/
def State.sendRelease (s : State) (core : CoreId) (key : TaskKey) (t : Nat) (epoch : BitVec 16) (status pts : Nat) : State :=
  s.send (s.upDelay (dieOf core) + 16) (.release core key t epoch status pts)

/-! ### Episodes -/

/-- An episode ended (R341 to R343): every arrived member is released with the status, EPOCH advances, ARR and the
timeout are cleared, and BROKEN is set unless the episode completed. -/
def State.endEpisode (s : State) (t status : Nat) : State :=
  let x := s.team t
  let e := x.epoch + 1
  let s := x.ranks.foldl (fun s m =>
    if (x.mem[m]).arr then s.sendRelease (x.mem[m]).core (x.keyOf m) t e status x.maxPts else s) s
  let s := { s with combs := s.combs.filter fun c => c.team != t || !c.sent }
  s.setTeam t { x with
    epoch := e
    broken := x.broken || status != 0
    mem := x.mem.map fun m => { m with arr := false }
    maxPts := 0
    tcount := 0
    tlast := none }

/-- Completion (R341): someone has arrived and every member that is not departed has. -/
def Team.complete (x : Team) : Bool :=
  x.en && !x.broken && (x.ranks.any fun m => (x.mem[m]).arr) &&
    x.ranks.all fun m => (x.mem[m]).arr || (x.mem[m]).state == 2

/-- The test for completion. -/
def State.testEpisode (s : State) (t : Nat) : State := if (s.team t).complete then s.endEpisode t 0 else s

/-- An arrival at the package combiner (R341, R343): counted, or answered at once with STATUS 2. -/
def State.takeArrival (s : State) (t : Nat) (epoch : BitVec 16) (pts : Nat) (a : Arriver) : State :=
  let x := s.team t
  if !x.en then s.sendRelease a.core a.key t epoch 2 pts
  else
    match x.rankOf a.key with
    | none => s.sendRelease a.core a.key t x.epoch 2 pts
    | some m =>
      if x.broken ∨ epoch ≠ x.epoch then s.sendRelease a.core a.key t x.epoch 2 pts
      else
        let x := x.modMem m fun y => { y with arr := true }
        s.setTeam t { x with maxPts := max x.maxPts pts, tlast := some (x.tlast.getD s.qtime) }

/-- Whether a member is absent without having arrived, which holds the episode open and its timeout still (R337). -/
def Team.suspended (x : Team) : Bool := x.ranks.any fun m => (x.mem[m]).state == 0 && !(x.mem[m]).arr

/-- The timeouts advanced to the present Quartz time (R342). -/
def State.pumpTeams (s : State) : State :=
  { s with teams := s.teams.map fun e =>
      let x := e.2
      match x.tlast with
      | none => e
      | some t0 => (e.1, { x with
          tcount := if x.suspended then x.tcount else x.tcount + (s.qtime - t0)
          tlast := some s.qtime }) }

/-- Whether a team's timeout has expired (R342). -/
def Team.expired (x : Team) : Bool :=
  x.en && x.tlast.isSome && x.timeout != 0 && !x.suspended && decide (1000 * x.timeout.toNat ≤ x.tcount)

/-- R342: the timeout of an episode has been counted. -/
def execEpisodeTimeout (t : Fin 256) (s : State) : Host.Outcome State Fault Refusal :=
  .next (if (s.team t.val).expired then s.endEpisode t.val 1 else s)

/-! ### Writes of GRPCTL (R335, R343) -/

/-- The fields of a GRPCTL write other than EN and BROKEN, taken only while the team is disabled. -/
def Team.fields (x : Team) (v : BitVec 64) : Team :=
  if x.en then x
  else { x with part := BitVec.ofNat 4 (bvf v 52 4), timeout := BitVec.ofNat 20 (bvf v 12 20), count := BitVec.ofNat 5 (bvf v 0 5) }

/-- Whether EN may be set (R335). -/
def State.teamOk (s : State) (x : Team) : Bool :=
  decide (1 ≤ x.count.toNat ∧ x.count.toNat ≤ 16) &&
    (allCores.all fun m => (x.mem[m]).v == decide (m.val < x.count.toNat)) &&
    decide ((x.ranks.map x.keyOf).Nodup) &&
    bvf (s.die s.authority).partcfg[(Fin.ofNat 16 x.part.toNat : Fin 16)] 63 1 == 1 &&
    x.ranks.all fun m => decide ((s.memberships (x.keyOf m)).length < 4)

/-- R335: a write of EN = 1 enables the team or is refused; its present members' contexts gain it at once. -/
def execGrpctlEnable (t : Fin 256) (v : BitVec 64) (s : State) : Host.Outcome State Fault Refusal :=
  let x := (s.team t.val).fields v
  if (s.team t.val).en then .next s
  else if !s.teamOk x then .next (s.setTeam t.val x)
  else
    let mem := Vector.ofFn fun m : Fin 16 =>
      let y := x.mem[m]
      if m.val < x.count.toNat then
        match s.activeCore (x.keyOf m) with
        | some k => { y with state := 1, core := k, arr := false }
        | none => { y with state := 0, arr := false }
      else { y with arr := false }
    let x' := { x with en := true, broken := false, epoch := 0, mem := mem, maxPts := 0, tcount := 0, tlast := none }
    let s := s.setTeam t.val x'
    .next { s with
      combs := s.combs.filter fun c => c.team != t.val || !c.sent
      cores := Vector.ofFn fun j : Fin 16 =>
        let c := s.core j
        match (c.task.filter fun y => s.activeCore y.key == some j).bind fun y => x'.rankOf y.key with
        | some m => { c with members := c.members ++ [(t.val, m)] }
        | none => c }

/-- R335: a write of EN = 0 breaks the team and takes it out of every membership list. -/
def execGrpctlDisable (t : Fin 256) (s : State) : Host.Outcome State Fault Refusal :=
  if !(s.team t.val).en then .next s
  else
    let s := s.endEpisode t.val 2
    let s := s.setTeam t.val { s.team t.val with en := false }
    .next { s with cores := s.cores.map fun c => { c with members := c.members.filter fun m => m.1 != t.val } }

/-- R343: a write of 1 to BROKEN re-arms the team, for which its die combiners gather anew. -/
def execGrpctlRearm (t : Fin 256) (s : State) : Host.Outcome State Fault Refusal :=
  let x := s.team t.val
  .next (if x.broken then
    ({ s with combs := s.combs.filter fun c => c.team != t.val || !c.sent } : State).setTeam t.val
      { x with broken := false, mem := x.mem.map (fun m => { m with arr := false }), maxPts := 0, tcount := 0, tlast := none }
  else s)

/-! ### GROUP.RANK, GROUP.SIZE, BAR and BARW (R338 to R340) -/

/-- The body of an instruction that names a team: above 255 is an illegal operand, another's team cause 0x70. -/
def withTeam (a : Sel) (s : State) (go : Nat → Fin 16 → Out) : Out :=
  let t := (s.val [a] 0).toNat
  if 255 < t then .trap 0x11 0 0 s
  else
    match s.me.members.find? fun m => m.1 == t with
    | some m => go t m.2
    | none => .trap 0x70 0 0 s

/-- R338: this task's rank in a team. -/
def execGroupRank (h : Hdr) (d : Dest) (a : Sel) (s : State) : Host.Outcome State Fault Refusal :=
  issue (op1 h [a] [] (destRes d)) (fun s => withTeam a s fun _ m =>
    .done (s.produce 2 (destWr d 0 (BitVec.ofNat 64 m.val)) compNone) .seq true) s
/-- R338: a team's COUNT. -/
def execGroupSize (h : Hdr) (d : Dest) (a : Sel) (s : State) : Host.Outcome State Fault Refusal :=
  issue (op1 h [a] [] (destRes d)) (fun s => withTeam a s fun t _ =>
    .done (s.produce 2 (destWr d 0 ((s.team t).count.setWidth 64)) compNone) .seq true) s

/-- The arrival of a barrier (R340 steps 1 and 2). -/
def barrier (h : Hdr) (d : Dest) (a : Sel) (status : Bool) (s : State) : Host.Outcome State Fault Refusal :=
  issue { op1 h [a] [] (destRes d) with arr := true } (fun s => withTeam a s fun t _ =>
    .done s (.arrive ⟨.bar t status d, 0, false, 0, h.ring, compNone⟩) true) s

/-- R340: barrier; a status other than 0 traps at commit B. -/
def execBar (h : Hdr) (a : Sel) (s : State) : Host.Outcome State Fault Refusal := barrier h (.reg 0) a false s
/-- R340: barrier whose status goes to a register and b0. -/
def execBarw (h : Hdr) (d : Dest) (a : Sel) (s : State) : Host.Outcome State Fault Refusal := barrier h d a true s

/-! ### Arrivals, tokens and releases (R337, R340, R341) -/

/-- R340 step 3: after commit A, once the device floor has reached PTS, the core sends its arrival, tagged with the
team's EPOCH. -/
def execBarrierArrivalSend (k : CoreId) (s : State) : Host.Outcome State Fault Refusal :=
  let c := s.core k
  match c.mid, c.task with
  | some m, some y =>
    match m.wait with
    | .inl _ => .next s
    | .inr w =>
      if w.sent ∨ w.released.isSome ∨ !c.isRunning ∨ !s.coreFloor k .dev then .next s
      else
        let x := s.team w.team
        let rank := ((x.rankOf y.key).map Fin.val).getD 16
        .next ((s.send 16 (.arrival ⟨rank, k, y.key⟩ w.team x.epoch c.pts)).modCore k fun c => { c with
          mid := some { m with wait := .inr { w with sent := true, epoch := x.epoch } } })
  | _, _ => .next s

/-- Whether a die combiner may send what it has gathered (R341): every member present on its die has arrived; of an
ended episode or of a disabled or broken team it keeps nothing back (R343). A member that has come to its die after arriving at
another has arrived, whether or not that die's combined arrival has gone up. -/
def State.combReady (s : State) (c : DieComb) : Bool :=
  let x := s.team c.team
  let all := c.mem ++ (s.combs.filter fun y => y.team == c.team && y.epoch == c.epoch).flatMap DieComb.mem
  !c.sent && (!x.en || x.broken || c.epoch != x.epoch ||
    x.ranks.all fun m => !((x.mem[m]).state == 1 && dieOf (x.mem[m]).core == c.die) || (x.mem[m]).arr || all.any fun a => a.rank == m.val)

/-- What a die combiner has gathered, sent up. -/
def State.sendComb (s : State) (c : DieComb) : State :=
  { s.send (s.upDelay c.die) (.combined c.die c.team c.epoch c.pts c.mem) with
    combs := s.combs.map fun y => if y = c then { c with sent := true } else y }

/-- Whether a message crosses Feldspar on its way (R341): it goes between the package combiner and the other die. -/
def State.msgCrosses (s : State) (m : Msg) : Bool :=
  match m with
  | .arrival _ _ _ _ => false
  | .combined d _ _ _ _ => d != s.authority
  | .release k _ _ _ _ _ => dieOf k != s.authority
  | .token k _ _ => dieOf k != s.authority

/-- Whether a message arrives now: its time has come, and the link is up where it crosses (R362). -/
def State.msgDue (s : State) (m : Nat × Msg) : Bool := decide (m.1 ≤ s.rc) && !(s.linkDown && s.msgCrosses m.2)

/-- The message of a list that is due and of a kind. -/
def State.dueMsg (s : State) (p : Msg → Bool) : Option (Nat × Msg) := s.msgs.find? fun m => s.msgDue m && p m.2

/-- A message taken off the links. -/
def State.dropMsg (s : State) (m : Nat × Msg) : State := { s with msgs := s.msgs.erase m }

/-- An arrival on its way to a die. -/
def Msg.toDie (d : Fin 2) : Msg → Bool
  | .arrival a _ _ _ => dieOf a.core == d
  | _ => false

/-- R341: a die combiner receives an arrival, or finds that the members it waited for have left: it forwards the
combined arrival once it is complete, and later ones alone. -/
def execDieCombinerArrival (d : Fin 2) (s : State) : Host.Outcome State Fault Refusal :=
  match s.dueMsg (Msg.toDie d) with
  | some (t, .arrival a team epoch pts) =>
    let s := s.dropMsg (t, .arrival a team epoch pts)
    match s.combs.find? fun c => c.die == d && c.team == team && c.epoch == epoch with
    | none =>
      let c : DieComb := ⟨d, team, epoch, [a], pts, false⟩
      let s := { s with combs := s.combs ++ [c] }
      .next (if s.combReady c then s.sendComb c else s)
    | some c =>
      if c.sent then .next (s.send (s.upDelay d) (.combined d team epoch pts [a]))
      else
        let c' := { c with mem := c.mem ++ [a], pts := max c.pts pts }
        let s := { s with combs := s.combs.map fun y => if y = c then c' else y }
        .next (if s.combReady c' then s.sendComb c' else s)
  | _ =>
    match s.combs.find? fun c => c.die == d && s.combReady c with
    | some c => .next (s.sendComb c)
    | none => .next s

/-- A combined arrival of a die. -/
def Msg.fromDie (d : Fin 2) : Msg → Bool
  | .combined e _ _ _ _ => e == d
  | _ => false

/-- R341: the package combiner sets ARR for each member a message covers, and completes the episode when all have
arrived. -/
def execPackageCombinerArrival (d : Fin 2) (s : State) : Host.Outcome State Fault Refusal :=
  match s.dueMsg (Msg.fromDie d) with
  | some (t, .combined e team epoch pts l) =>
    let s := s.dropMsg (t, .combined e team epoch pts l)
    .next ((l.foldl (fun s a => s.takeArrival team epoch pts a) s).testEpisode team)
  | _ => .next s

/-- A member's slot after a token (R337). -/
def Member.token (m : Member) (k : CoreId) (ev : Nat) : Member :=
  match ev with
  | 0 => { m with state := 1, core := k }
  | 1 => { m with state := 0 }
  | 4 => { m with state := 0 }
  | _ => { m with state := 2 }

/-- A token of a core. -/
def Msg.isToken (k : CoreId) (ev : Nat) : Msg → Bool
  | .token c _ e => c == k && e == ev
  | _ => false

/-- A token applied to one team: an abort breaks it, the others may complete its episode (R337, R343). -/
def State.applyToken (s : State) (k : CoreId) (key : TaskKey) (ev t : Nat) : State :=
  let x := s.team t
  match x.rankOf key with
  | none => s
  | some m =>
    if !x.en then s
    else
      let s := s.setTeam t (x.modMem m fun y => y.token k ev)
      if ev = 3 then s.endEpisode t 2 else s.testEpisode t

/-- R337: a token reaches the package combiner. -/
def execMemberTokenArrival (k : CoreId) (ev : Fin 5) (s : State) : Host.Outcome State Fault Refusal :=
  match s.dueMsg (Msg.isToken k ev.val) with
  | some (t, .token c key e) =>
    let s := s.dropMsg (t, .token c key e)
    .next (s.teams.foldl (fun s x => s.applyToken c key e x.1) s)
  | _ => .next s

/-- The value a barrier returns (R340 step 5). -/
def barValue (status : Nat) (epoch : BitVec 16) : Word64 := BitVec.ofNat 64 (status + 65536 * epoch.toNat)

/-- The release a core holds used now (R340 steps 5 and 6): the value is written in the next rc, and commit B completes
22 rc from now, or with the value when the release was found in a restored record (R344). -/
def Core.useRelease (c : Core) (rc : Nat) : Core :=
  match c.mid with
  | none => c
  | some m =>
    match m.wait with
    | .inl _ => c
    | .inr w =>
      match w.released, m.doneAt with
      | some (st, _), none =>
        { c.modSeq m.seqr fun q => { q with
            pend := q.pend ++ [⟨c.nextId, .rc (rc + 1), if w.status then destWr w.d 0 (barValue st w.relEpoch) else [], compNone⟩] }
          with nextId := c.nextId + 1, mid := some { m with doneAt := some (rc + if m.atOnce then 1 else 22) } }
      | _, _ => c

/-- A release written into a barrier wait, if it waits for that team and holds none yet. -/
def Mid.release (m : Mid) (team : Nat) (epoch : BitVec 16) (status t : Nat) : Mid :=
  match m.wait with
  | .inl _ => m
  | .inr w =>
    if w.team = team ∧ w.released.isNone then { m with wait := .inr { w with released := some (status, t), relEpoch := epoch } }
    else m

/-- A release on its way to a core. -/
def Msg.toCore (k : CoreId) : Msg → Bool
  | .release c _ _ _ _ _ => c == k
  | _ => false

end Sys2Proof.Machine
end

