-- ==== Sys2Proof/Machine/Task.lean ====
section
/-! DEFINITION. The life of a task on a core (spec/16): how it finishes, is aborted, saved and moved out; the bytes of
its save area (R330, R331). -/

namespace Sys2Proof.Machine

/-! ### Device memory through a partition's tables -/

/-- The physical address of a virtual one for a partition, by a walk (R253, R255); none where the translation fails. DESIGN CHOICE
(log 45): the accesses of the loader, of saves and of launches, whose scope the spec does not give, may reach a page of the
system range (R254). -/
def State.vmap (s : State) (d : Fin 2) (p : PartId) (kind : AccKind) (va : Nat) : Option Nat :=
  match s.walkPT d p (va % 2 ^ 48) kind false with
  | .ok e => some (e.pbase + va % e.size)
  | .error _ => none

/-- Bytes read through a partition's tables, page by page, at most `fuel` pages; none where a page fails. -/
def State.vread (s : State) (d : Fin 2) (p : PartId) : Nat → Nat → Nat → Option (List (BitVec 8))
  | 0, _, n => if n = 0 then some [] else none
  | fuel + 1, va, n =>
    if n = 0 then some []
    else
      let m := min n (65536 - va % 65536)
      match s.vmap d p .load va, s.vread d p fuel (va + m) (n - m) with
      | some pa, some r => some (s.mem.readN pa m ++ r)
      | _, _ => none

/-- The requests of a core for n bytes through its partition's tables, counted: the entries that the walk of each page reads, and
each line of a page that translates (R255, R270, R382). -/
def State.vcount (s : State) (k : CoreId) (p : PartId) (kind : AccKind) : Nat → Nat → Nat → State
  | 0, _, _ => s
  | fuel + 1, va, n =>
    if n = 0 then s
    else
      let m := min n (65536 - va % 65536)
      let s := s.walkCount k p (va % 2 ^ 48)
      let s := match s.walkPT (dieOf k) p (va % 2 ^ 48) kind false with
        | .ok e => (linesOf (e.pbase + va % e.size) m).foldl (fun (s : State) a => s.migCount k p a e.nomig) s
        | .error _ => s
      s.vcount k p kind fuel (va + m) (n - m)

/-- Bytes written through a partition's tables, page by page (R331); a page that fails is passed over. -/
def State.vput (s : State) (d : Fin 2) (p : PartId) : Nat → Nat → List (BitVec 8) → State
  | 0, _, _ => s
  | fuel + 1, va, bs =>
    if bs.isEmpty then s
    else
      let m := min bs.length (65536 - va % 65536)
      let s := match s.vmap d p .store va with
        | some pa => s.untimedWrite pa (bs.take m)
        | none => s
      s.vput d p fuel (va + m) (bs.drop m)

/-- A gang's launch record noted with the dies whose HBM holds it (R364). -/
def State.noteLaunch (s : State) (r : LaunchRec) (ds : List (Fin 2)) : State :=
  if s.launchMem.contains (r, ds) then s else { s with launchMem := s.launchMem ++ [(r, ds)] }

/-! ### Final states and status records (R24, R112, R319) -/

/-- A context event in the partition's trace (R388 type 0x06), on the survivor's ring when the core's die is lost. -/
def State.contextEvent (s : State) (k : CoreId) (key : TaskKey) (gen : BitVec 32) (event code : Nat) : State :=
  s.tansy (if (s.die (dieOf k)).lost then dieOf k + 1 else dieOf k) key.part 6 k.val 0 key.gang key.idx.toNat gen.toNat
    (leBytes 1 event ++ leBytes 1 code)

/-- A task of a table gang has ended (R324): the gang leaves the list when it is aborted or its last task is Done. -/
def State.gangEnd (s : State) (key : TaskKey) (aborted : Bool) : State :=
  { s with dies := s.dies.map fun d => { d with
      ttgangs := d.ttgangs.filterMap fun g =>
        if g.1 = key.part ∧ g.2.1 = key.gang then
          (if aborted ∨ g.2.2.2 ≤ 1 then none else some (g.1, g.2.1, g.2.2.1, g.2.2.2 - 1))
        else some g } }

/-- The core without its context (R317): it is free. Its committed copies go on at their issuer's time (R302), and the class
window begins again with the next task (R388). -/
def Core.freed (c : Core) : Core :=
  { c with
    task := none, members := [], mid := none, preempt := none, spec := none, pinned := false, halted := none
    chans := c.chans.map fun l => l.map fun (m : CopyCmd) => { m with pts := some (m.pts.getD c.pts) }
    units := c.units.map fun x => { x with counts := [] } }

/-- A task Aborted on its core (R22, R329): the region's effects are discarded (R32), the status is posted, and its
teams hear of it (R337). -/
def State.abortTask (s : State) (k : CoreId) (code : Nat) : State :=
  match (s.core k).task with
  | none => s
  | some t =>
    let gen := (s.core k).gen
    let s := (s.rollback k false).modCore k Core.freed
    let s := s.status (dieOf k) code t.part.val t.gang t.idx.toNat (if code = 1 then t.cause.toNat else 0) t.tag gen.toNat
    ((s.contextEvent k t.key gen 9 code).sendToken k t.key 3).gangEnd t.key true

/-- A Saved or Migrating task Aborted (R329); a last node record stays (R364). -/
def State.abortSaved (s : State) (x : Saved) (code : Nat) : State :=
  let key : TaskKey := ⟨x.part, x.gang, x.idx⟩
  let s := { s with saved := s.saved.filterMap fun y =>
    if y = x then (if x.depth = 1 then some { x with depth := 0 } else none) else some y }
  let s := s.status (dieOf x.core) code x.part.val x.gang x.idx.toNat 0 x.tag x.ctx.gen.toNat
  ((s.contextEvent x.core key x.ctx.gen 9 code).sendToken x.core key 3).gangEnd key true

/-- HALT completed (R112): the core is free, and the task waits among those whose released work still runs. -/
def State.finishTask (s : State) (k : CoreId) : State :=
  match (s.core k).task with
  | none => s
  | some t =>
    (s.dropPin k).modCore k fun c =>
      { c.freed with finishing := c.finishing ++ [⟨t.part, t.gang, t.idx, t.tag, c.gen, t.table, t.gsize, t.image, t.save, t.regs⟩] }

/-- Whether released work of a task still runs on a core: lines, copies, launch records (R112, R328). -/
def Core.workLeft (c : Core) (p : PartId) (g : BitVec 16) (i : BitVec 4) : Bool :=
  (c.cb.any fun l => !l.cur && l.part == p && l.gang == g && l.task == i) ||
    (c.chans.toList.any fun l => l.any fun m => !m.cur && m.part == p && m.gang == g && m.task == i) ||
    c.lbuf.any fun l => !l.cur && l.rec_.part == p && l.gang == g && l.task == i

/-- R112: the tasks of a core whose last released work has ended are Done. -/
def State.settleDone (s : State) (k : CoreId) : State :=
  let c := s.core k
  (c.finishing.filter fun f => !c.workLeft f.part f.gang f.idx).foldl (fun s f =>
    let key : TaskKey := ⟨f.part, f.gang, f.idx⟩
    let s := s.modCore k fun c => { c with finishing := c.finishing.erase f }
    let s := s.status (dieOf k) 0 f.part.val f.gang f.idx.toNat 0 f.tag f.gen.toNat
    ((s.contextEvent k key f.gen 8 0).sendToken k key 2).gangEnd key false) s

/-! ### Saves (R40, R330, R331) -/

/-- The fault record (R266). -/
def FaultRec.bytes (f : FaultRec) : List (BitVec 8) :=
  leBytes 8 (f.va.toNat % 2 ^ 48) ++ leBytes 4 f.detail.toNat ++ leBytes 4 f.gen.toNat ++
    leBytes 1 (f.outst.toNat + 2 * f.replied.toNat + 4 * f.verdict.toNat) ++ List.replicate 15 0

/-- A fault record as its bytes have it. -/
def FaultRec.ofBytes (r : List (BitVec 8)) : FaultRec :=
  let f := field r 16 1
  ⟨BitVec.ofNat 64 (field r 0 8), BitVec.ofNat 32 (field r 8 4), BitVec.ofNat 32 (field r 12 4), f % 2 = 1, f / 2 % 2 = 1, f / 4 % 2 = 1⟩

/-- The barrier record (R344). -/
def Core.barBytes (c : Core) : List (BitVec 8) :=
  match c.mid with
  | none => List.replicate 16 0
  | some m =>
    match m.wait with
    | .inl _ => List.replicate 16 0
    | .inr w =>
      let (rel, st, t) := match w.released with
        | some (st, t) => (1, st, t)
        | none => (0, 0, 0)
      leBytes 1 w.team ++ leBytes 1 (1 + 2 * rel + 4 * st + 16 * w.sent.toNat) ++
        leBytes 2 (if rel = 1 then w.relEpoch.toNat else w.epoch.toNat) ++ leBytes 4 0 ++ leBytes 8 t

/-- A release written into the barrier record of a saved task (R344): its saved context takes it, and the record's bytes in
the save area are written again. -/
def State.releaseSaved (s : State) (key : TaskKey) (f : Mid → Mid) : State :=
  match s.saved.find? fun x => x.part = key.part ∧ x.gang = key.gang ∧ x.idx = key.idx ∧ x.depth = 2 with
  | none => s
  | some x =>
    let y := { x with ctx := { x.ctx with mid := x.ctx.mid.map f } }
    let s := { s with saved := s.saved.map fun z => if z = x then y else z }
    s.vput (dieOf x.core) x.part 2 (x.save.toNat + 0x880) y.ctx.barBytes

/-- R340, R344: a release reaches the task it is for, on the core that holds it or in its saved barrier record; a
barrier released with status 1 or 2 triggers the partition's recorder (R389). A core that holds a release after a
rollback or a restore uses it at once. -/
def execBarrierReleaseArrival (k : CoreId) (s : State) : Host.Outcome State Fault Refusal :=
  match s.dueMsg (Msg.toCore k) with
  | some (r, .release c key team epoch status t) =>
    let s := s.dropMsg (r, .release c key team epoch status t)
    let d := dieOf k
    let s := if status ≠ 0 ∧ bvf (s.die d).tntrig[key.part] 3 1 = 1 then
        s.trigger d key.part 4 0 ⟨c.val, key.gang, key.idx.toNat, (s.core c).gen.toNat⟩ else s
    match s.holder key with
    | some j =>
      .next (s.modCore j fun c =>
        let c := { c with mid := c.mid.map fun (m : Mid) => m.release team epoch status t }
        if c.isRunning then c.useRelease s.rc else c)
    | none => .next (s.releaseSaved key fun m => m.release team epoch status t)
  | _ => .next (s.modCore k fun c => if c.isRunning then c.useRelease s.rc else c)

/-- The pending-atomic record (R306), written with content by a migration alone. -/
def Core.atomBytes (c : Core) (migrating : Bool) : List (BitVec 8) :=
  match migrating, c.mid with
  | true, some m =>
    match m.wait with
    | .inl w =>
      let (r, v) := match w.returned with
        | some (v, _) => (2, v.toNat)
        | none => (0, 0)
      leBytes 1 (1 + r) ++ leBytes 1 w.core.val ++ leBytes 2 0 ++ leBytes 4 w.gen.toNat ++ leBytes 8 v
    | .inr _ => List.replicate 16 0
  | _, _ => List.replicate 16 0

/-- A bank's code in the state map, a waking bank counting as full (R53, R203). -/
def BankSt.code (b : BankSt) : Nat :=
  match b.state with
  | .full => 0 | .waking => 0 | .retention => 1 | .off => 2

/-- A section whose place, size and items R331 gives, and whose layout it leaves open (log 22). -/
def openSection (at_ n : Nat) (items : List Nat) : Nat × List (BitVec 8) :=
  (at_, (List.range n).map (Config.saveByte at_ items))

/-- The items of a hardware loop in a cut (R31). -/
def LoopSt.items (h : LoopSt) : List Nat := [h.count.toNat, h.lid.toNat, h.iter.toNat, h.start.toNat, h.stop.toNat, h.swp.toNat]

/-- The items of the cut (R31), with those of the node record that go with a full save (R330). -/
def Core.cutItems (c : Core) : List Nat :=
  (c.cut.pcs.toList.map BitVec.toNat) ++ (c.cut.loops.toList.flatMap fun l => l.toList.flatMap LoopSt.items) ++
    (c.cut.lives.toList.flatMap fun l => l.length :: l.map Fin.val) ++ [c.cut.tag.toNat, c.cut.gen.toNat] ++
    (c.cut.eng.toList.map BitVec.toNat) ++ [c.cut.p.toNat, c.gen.toNat, c.touched.toNat, c.pts]

/-- The special registers that a full save holds (R330). -/
def Core.specialItems (c : Core) : List Nat :=
  (c.m.toList.map BitVec.toNat) ++ [c.vl.toNat] ++ (c.fmt.toList.map BitVec.toNat) ++ (c.tshape.toList.map BitVec.toNat) ++
    [c.abfttol.toNat, c.histp.toNat, c.fmterr.toNat, c.drainpos.toNat, c.rgnmax.toNat, c.rgncnt.toNat, c.share.toNat, c.qwpart.toNat,
      c.clkdiv.toNat, c.seqid.toNat]

/-- The drain windows and the route table (R237, R277). -/
def Core.routeItems (c : Core) : List Nat :=
  (c.wins.toList.flatMap fun w => match w with
    | some w => [1, w.base, w.stride, w.len]
    | none => [0, 0, 0, 0]) ++ c.nrte :: c.rte.toList.map BitVec.toNat

/-- The node record (R330): four program counters, K's s1 to s8, GEN, the touched-dies mask, PTS and the fault record. -/
def Core.nodeItems (c : Core) : List Nat :=
  (c.cut.pcs.toList.map BitVec.toNat) ++ (((c.sq 0).s.toList.drop 1).take 8).map BitVec.toNat ++
    [c.gen.toNat, c.touched.toNat, c.pts] ++ c.frec.bytes.map BitVec.toNat

/-- The scalar registers and predicates of the four sequencers. -/
def Core.scalarItems (c : Core) : List Nat :=
  c.seqs.toList.flatMap fun q => (q.s.toList.map BitVec.toNat) ++ q.p.toList.map Bool.toNat

/-- An accumulator's elements, checksums, tag and row count (R208). -/
def AccSt.items (a : AccSt) : List Nat :=
  [a.elem.toNat, a.cr.toNat, a.cc.toNat, a.corner.toNat, (match a.tag with
    | .empty => 0 | .int32 => 1 | .fp32 => 2), a.rc]

/-- The bank state map (R331): two bits a bank. -/
def Core.bankMap (c : Core) : List (BitVec 8) := leBytes 65 (packElems 2 (fun k => (c.bank k).code) 260)

/-- The sections of a full save (R331): depth, cut, fault record, special registers, bank map, windows and routes, barrier and
pending-atomic records, scalar registers, v registers, accumulators, tiles, and the local banks; banks that are off, vector
banks among them, are not written (R203). -/
def Core.fullSections (c : Core) (migrating : Bool) : List (Nat × List (BitVec 8)) :=
  [(0, leBytes 4 2), openSection 0x40 0xC0 c.cutItems, (0x100, c.frec.bytes), openSection 0x200 0x200 c.specialItems,
    (0x400, c.bankMap), openSection 0x500 0x300 c.routeItems, (0x880, c.barBytes), (0x8C0, c.atomBytes migrating),
    openSection 0x1000 0x1000 c.scalarItems, openSection 0x4000 0x20000 (c.acc.toList.flatMap AccSt.items),
    (0x24000, c.tiles.toList.flatMap fun t => vBytes t.data)] ++
  (((List.range 4).filter fun i => (c.bank (256 + i)).state != .off).map fun i =>
    (0x2000 + 2048 * i, (List.range 8).flatMap fun j => vBytes c.v[(Fin.ofNat 32 (8 * i + j) : Fin 32)])) ++
  ((List.range (lscap / 131072)).filter fun k => (c.bank k).state != .off).map fun k =>
    (0x1000000 + 131072 * k, c.mem.readN (131072 * k) 131072)

/-- The sections of a node-boundary save: depth, the node record's items, the fault record, and the last node record (R330,
R364). -/
def Core.nodeSections (c : Core) : List (Nat × List (BitVec 8)) :=
  [(0, leBytes 4 1), openSection 0x40 0xC0 c.cutItems, (0x100, c.frec.bytes), openSection 0xC00 0x400 c.nodeItems]

/-- A wait as the barrier record and the pending-atomic record of its save area have it (R306, R344). The value that a record
holds is used; one that it does not hold is fetched again. -/
def Mid.reread (m : Mid) (r a : List (BitVec 8)) : Mid :=
  match m.wait with
  | .inl w =>
    let f := field a 0 1
    if f % 2 = 0 then m
    else
      { m with wait := .inl { w with
          core := Fin.ofNat 16 (field a 1 1)
          gen := BitVec.ofNat 32 (field a 4 4)
          returned := if f / 2 % 2 = 1 then some (BitVec.ofNat 64 (field a 8 8), 0) else none } }
  | .inr w =>
    let f := field r 1 1
    let e := BitVec.ofNat 16 (field r 2 2)
    let rel := f / 2 % 2 = 1
    { m with wait := .inr { w with
        team := field r 0 1
        sent := f / 16 % 2 = 1
        released := if rel then some (f / 4 % 4, field r 8 8) else none
        epoch := if rel then w.epoch else e
        relEpoch := if rel then e else w.relEpoch } }

/-- The context of a full save with what the laid-out sections of its area hold now (R331): `rd` gives an area's bytes, or
those saved where the area cannot be read. -/
def Core.reread (c : Core) (rd : Nat → List (BitVec 8) → List (BitVec 8)) : Core :=
  let map := leNat (rd 0x400 c.bankMap)
  let code (k : Nat) : Nat := map / 4 ^ k % 4
  let full (k : Nat) : Bool := code k < 2
  { c with
    banks := (List.range 260).filterMap fun k => match code k with
      | 0 => none
      | 1 => some (k, { BankSt.reset with state := .retention })
      | _ => some (k, { BankSt.reset with state := .off })
    frec := FaultRec.ofBytes (rd 0x100 c.frec.bytes)
    mid := c.mid.map fun m => m.reread (rd 0x880 c.barBytes) (rd 0x8C0 (c.atomBytes true))
    v := Vector.ofFn fun r : Fin 32 =>
      if full (256 + r.val / 8) then bytesV 2048 (rd (0x2000 + 256 * r.val) (vBytes c.v[r])) else c.v[r]
    tiles := Vector.ofFn fun t : Fin 8 => { c.tiles[t] with data := bytesV 131072 (rd (0x24000 + 16384 * t.val) (vBytes (c.tiles[t]).data)) }
    mem := ((List.range (lscap / 131072)).filter full).foldl (fun (m : Mem) k =>
      (m.clear (131072 * k) 131072).writeN (131072 * k) (rd (0x1000000 + 131072 * k) (c.mem.readN (131072 * k) 131072))) c.mem }

/-- Sections written into a save area by a core, its requests counted. -/
def State.putSections (s : State) (k : CoreId) (p : PartId) (base : Nat) (l : List (Nat × List (BitVec 8))) : State :=
  l.foldl (fun s x =>
    let fuel := x.2.length / 65536 + 2
    (s.vcount k p .store fuel (base + x.1) x.2.length).vput (dieOf k) p fuel (base + x.1) x.2) s

/-- A save begun (R40): a pending retention is applied (R203), and the bytes take a time that is not fixed. -/
def State.beginSave (s : State) (k : CoreId) (depth : Nat) : State :=
  let (d, s) := s.drawDelay
  s.modCore k fun c => { c.retainPending with
    task := c.task.map fun t => { t with phase := .saving (s.rc + 1 + d) depth }
    preempt := none
    spec := none }

/-- A pre-emption of a barrier wait, taken at once at cut A (R40 path 4, R344), unless the debug port holds the core (R391). -/
def State.preemptWait (s : State) (k : CoreId) : State :=
  match (s.core k).mid with
  | none => s
  | some m =>
    match m.wait with
    | .inl _ => s
    | .inr _ => if (s.core k).preempt.isSome && (s.core k).isRunning && !(s.core k).stopped then (s.rollback k false).beginSave k 2 else s

/-- A context put among the saved ones, and the core freed: a full save displaces the task's earlier full save and
leaves its last node record; a node save displaces both. -/
def State.storeContext (s : State) (k : CoreId) (t : TaskSt) (depth : Nat) (migrating : Bool) : State :=
  let c := s.core k
  let x : Saved := ⟨t.part, t.gang, t.idx, t.gsize, t.tag, t.save, t.image, t.regs, depth, t.table, migrating, k, c⟩
  { s with saved := (s.saved.filter fun (y : Saved) =>
      !(y.part == t.part && y.save == t.save && (depth == 1 || y.depth == 2))) ++ [x] }.modCore k Core.freed

/-- Whether the commands of committed generations of the task in a core have run to completion (R282, R330). -/
def Core.copiesDone (c : Core) (t : TaskSt) : Bool :=
  !(c.chans.toList.any fun l => l.any fun m => !m.cur && m.part == t.part && m.gang == t.gang && m.task == t.idx)

/-- R330: a save has written its last byte: the task is Saved and the core is free; one cancelled meanwhile is
Aborted. -/
def execSaveComplete (k : CoreId) (s : State) : Host.Outcome State Fault Refusal :=
  let c := s.core k
  match c.task with
  | none => .next s
  | some t =>
    match t.phase with
    | .saving at_ depth =>
      if s.rc < at_ ∨ !c.copiesDone t then .next s
      else
        match t.cancelled with
        | some code => .next (s.abortTask k code.toNat)
        | none =>
          let s := s.putSections k t.part t.save.toNat (if depth = 2 then c.fullSections false else c.nodeSections)
          let s := (s.sendAbsence k t.key).contextEvent k t.key c.gen (if depth = 2 then 6 else 5) 0
          .next (s.storeContext k t depth false)
    | _ => .next s

/-- R360 step 1: the migration path has written the cut's state into the save area; the retired core holds no
context. -/
def execMigrationPathComplete (k : CoreId) (s : State) : Host.Outcome State Fault Refusal :=
  let c := s.core k
  match c.task with
  | none => .next s
  | some t =>
    match t.phase with
    | .migrating at_ =>
      if s.rc < at_ ∨ !c.copiesDone t then .next s
      else
        match t.cancelled with
        | some code => .next (s.abortTask k code.toNat)
        | none =>
          let s := s.putSections k t.part t.save.toNat (c.fullSections true)
          .next ((s.contextEvent k t.key c.gen 7 0).storeContext k t 2 true)
    | _ => .next s

end Sys2Proof.Machine
end

