-- ==== Sys2Proof/Machine/Load.lean ====
section
/-! DEFINITION. The loader and the dispatch (spec/16): bind records (R313, R314), task images (R315), the checks of
R318, the state each kind of transfer sets up (R23, R114, R125, R189, R203, R332), routes (R278), and the world switch
(R383). -/

namespace Sys2Proof.Machine

/-! ### Bind records -/

/-- A bind record from its 64 bytes (R313). -/
def bindOf (r : BitVec 512) : Bind where
  kind := bvf r 0 8
  part := bvf r 8 8
  gang := BitVec.ofNat 16 (bvf r 16 16)
  task := bvf r 32 8
  gsize := bvf r 40 8
  share := bvf r 48 8
  qwpart := bvf r 56 8
  rgnlimit := bvf r 64 32
  retry := bvf r 96 8
  tag := BitVec.ofNat 16 (bvf r 112 16)
  image := BitVec.ofNat 64 (bvf r 128 64)
  save := BitVec.ofNat 64 (bvf r 192 64)
  regs := BitVec.ofNat 64 (bvf r 256 64)
  bad := bvf r 104 8 != 0 || bvf r 320 192 != 0
  table := false

/-- The partition a record names. -/
def Bind.pid (b : Bind) : PartId := Fin.ofNat 16 b.part
/-- The task a record names. -/
def Bind.key (b : Bind) : TaskKey := ⟨b.pid, b.gang, BitVec.ofNat 4 b.task⟩

/-- A record refused (R318): it is discarded and its status posted; for a PART byte above 15, refused under check 3, none is
(DESIGN CHOICE, log 45), since it names no partition's mailbox. A refused table launch ends its gang, and a refused migration
leaves the task Saved (log 33). -/
def State.refuse (s : State) (k : CoreId) (b : Bind) (code : Nat) : State :=
  let s := s.modCore k fun c => { c with staged := none }
  let s := if b.part < 16 then s.status (dieOf k) code b.part b.gang b.task 0 b.tag 0 else s
  let s := if b.table then s.gangEnd b.key true else s
  if b.kind = 4 then
    { s with saved := s.saved.map fun x =>
      if x.part = b.pid ∧ x.save = b.save ∧ x.depth = 2 then { x with migrating := false } else x }
  else s

/-! ### Images (R315) -/

/-- A task image as the loader takes it: entry points, data, bank records (first, count, state), drain memory, format
table and routes. -/
structure Image where
  entries : List Nat
  data : List (Nat × List (BitVec 8))
  banks : List (Nat × Nat × Nat)
  drain : List (BitVec 8)
  fmt : List Nat
  routes : List Nat


/-- Whether an image's header is good but for its tables' contents (R315). -/
def headerOk (h : List (BitVec 8)) : Bool :=
  let len := field h 44 4
  field h 0 4 == 0x4D495848 && field h 4 1 == 1 && decide (field h 5 1 ≤ bvf capid 56 8) && decide (field h 6 1 < 2) &&
    (decide (lscap = 0x2000000) || field h 6 1 == 0) && decide (field h 7 1 ≤ 32) && field h 12 4 == 0 &&
    field h 48 16 == 0 && decide (256 ≤ len) &&
    ((List.range 4).all fun i => decide (field h (16 + 4 * i) 4 % 4 = 0 ∧ field h (16 + 4 * i) 4 + 4 ≤ len)) &&
    decide (field h 32 4 % 16 = 0 ∧ field h 32 4 + 16 * field h 8 2 ≤ len) &&
    decide (field h 36 4 % 8 = 0 ∧ field h 36 4 + 8 * field h 10 2 ≤ len) &&
    decide (field h 40 4 % 64 = 0 ∧ field h 40 4 + 4096 ≤ len) &&
    ((List.range 16).all fun i => fmtEntryOk (field h (64 + 4 * i) 4)) &&
    ((List.range 32).all fun i => decide (i < field h 7 1) || field h (128 + 4 * i) 4 == 0)

/-- Whether a data record lies within the image and private local store (R315). -/
def dataOk (len privTop : Nat) (r : List (BitVec 8)) : Bool :=
  field r 12 4 == 0 && decide (field r 0 4 + field r 4 4 ≤ privTop ∧ field r 8 4 + field r 4 4 ≤ len)

/-- Whether a bank record names banks that exist and a state (R189, R315). -/
def bankOk (r : List (BitVec 8)) : Bool :=
  field r 5 3 == 0 && decide (1 ≤ field r 2 2 ∧ field r 2 2 ≤ 256 ∧ (field r 0 2 + field r 2 2) * 131072 ≤ lscap) &&
    decide (field r 4 1 < 3)

/-- Whether data bytes fall in a bank that a bank record sets off (R189). -/
def dataInOff (data banks : List (List (BitVec 8))) : Bool :=
  data.any fun r => field r 4 4 != 0 && banks.any fun b => field b 4 1 == 2 &&
    decide (field r 0 4 / 131072 < field b 0 2 + field b 2 2 ∧ field b 0 2 ≤ (field r 0 4 + field r 4 4 - 1) / 131072)

/-- The records of n bytes in a run of bytes. -/
def recordsOf (n : Nat) (bs : List (BitVec 8)) : List (List (BitVec 8)) :=
  (List.range (bs.length / n)).map fun i => (bs.drop (n * i)).take n

/-- Several reads of an image, in order; none where one fails. -/
def State.vreads (s : State) (d : Fin 2) (p : PartId) (base : Nat) : List (Nat × Nat) → Option (List (List (BitVec 8)))
  | [] => some []
  | x :: l =>
    match s.vread d p (x.2 / 65536 + 2) (base + x.1) x.2, s.vreads d p base l with
    | some a, some r => some (a :: r)
    | _, _ => none

/-- An image read and checked (R315): the status code of a refusal, 0x05 where its bytes do not translate. -/
def State.loadImage (s : State) (d : Fin 2) (p : PartId) (va privTop : Nat) : Except Nat Image :=
  match s.vread d p 2 va 256 with
  | none => .error 5
  | some h =>
    if !headerOk h then .error 4
    else
      match s.vreads d p va [(field h 32 4, 16 * field h 8 2), (field h 36 4, 8 * field h 10 2), (field h 40 4, 4096)] with
      | some [dt, bt, dr] =>
        let data := recordsOf 16 dt
        let banks := recordsOf 8 bt
        if !(data.all (dataOk (field h 44 4) privTop)) ∨ !(banks.all bankOk) ∨ dataInOff data banks then .error 4
        else
          match s.vreads d p va (data.map fun r => (field r 8 4, field r 4 4)) with
          | none => .error 5
          | some bytes =>
            .ok {
              entries := (List.range 4).map fun i => va + field h (16 + 4 * i) 4
              data := (data.map fun r => field r 0 4).zip bytes
              banks := banks.map fun r => (field r 0 2, field r 2 2, field r 4 1)
              drain := dr
              fmt := (List.range 16).map fun i => field h (64 + 4 * i) 4
              routes := (List.range (field h 7 1)).map fun i => field h (128 + 4 * i) 4 }
      | _ => .error 5

/-- The reads that the loader makes of an image, in order, as far as its checks let it come (R315): addresses with lengths. -/
def State.imageReads (s : State) (d : Fin 2) (p : PartId) (va privTop : Nat) : List (Nat × Nat) :=
  (va, 256) :: match s.vread d p 2 va 256 with
    | none => []
    | some h =>
      if !headerOk h then []
      else
        let tables := [(field h 32 4, 16 * field h 8 2), (field h 36 4, 8 * field h 10 2), (field h 40 4, 4096)]
        (tables ++ match s.loadImage d p va privTop, s.vread d p (field h 8 2 / 4096 + 2) (va + field h 32 4) (16 * field h 8 2) with
          | .ok _, some dt => (recordsOf 16 dt).map fun r => (field r 8 4, field r 4 4)
          | _, _ => []).map fun x => (va + x.1, x.2)

/-! ### Routes at a transfer (R278) -/

/-- An entry marked unused. -/
def rteUnused (r : BitVec 32) : BitVec 32 := r &&& 0xF0000000

/-- A route-table entry checked for the task that comes to a core: kept, regenerated, or none where no route exists. -/
def State.checkRoute (s : State) (k : CoreId) (key : TaskKey) (r : BitVec 32) : Option (BitVec 32) × State :=
  let ret := (s.die (dieOf k)).linkuse
  match (if bvf r 28 4 = key.idx.toNat then some k else s.activeCore ⟨key.part, key.gang, BitVec.ofNat 4 (bvf r 28 4)⟩) with
  | none => (some (if (routeEject ret k r).isSome then r else rteUnused r), s)
  | some t => if (routeEject ret k r).map Prod.fst = some t then (some r, s) else s.regenRoute ret k t r

/-- A route table checked, entry by entry; none where an entry has no route. -/
def State.checkRoutes (s : State) (k : CoreId) (key : TaskKey) : List (BitVec 32) → Option (List (BitVec 32)) × State
  | [] => (some [], s)
  | r :: l =>
    match s.checkRoute k key r with
    | (none, s) => (none, s)
    | (some r, s) =>
      match s.checkRoutes k key l with
      | (none, s) => (none, s)
      | (some l, s) => (some (r :: l), s)

/-- The entries of one other task of the gang that name a task now on core k, regenerated, or marked unused. -/
def State.fixEntries (s : State) (j k : CoreId) (idx : Nat) : List (BitVec 32) → List (BitVec 32) × State
  | [] => ([], s)
  | r :: l =>
    let ret := (s.die (dieOf j)).linkuse
    let (r', s) :=
      if bvf r 28 4 ≠ idx ∨ (routeEject ret j r).map Prod.fst = some k then (r, s)
      else
        match s.regenRoute ret j k r with
        | (some x, s) => (x, s)
        | (none, s) => (rteUnused r, s)
    let (l', s) := s.fixEntries j k idx l
    (r' :: l', s)

/-- A list as a route table. -/
def rteVec (l : List (BitVec 32)) : Vector (BitVec 32) 32 := Vector.ofFn fun i : Fin 32 => l.getD i.val 0

/-- The route tables of the gang's other active tasks checked against a task that has come to core k. -/
def State.fixRoutes (s : State) (k : CoreId) (key : TaskKey) : State :=
  allCores.foldl (fun s j =>
    match (s.core j).task with
    | some t =>
      if j ≠ k ∧ t.part = key.part ∧ t.gang = key.gang then
        let (l, s) := s.fixEntries j k key.idx.toNat ((s.core j).rte.toList.take (s.core j).nrte)
        s.modCore j fun c => { c with rte := rteVec l }
      else s
    | none => s) s

/-! ### The world switch (R383) -/

/-- Where a partition's counter block for a core lies; none when it is disabled or outside the allotment. -/
def State.cntBlock (s : State) (k : CoreId) (p : PartId) : Option Nat :=
  let r := (s.die (dieOf k)).cntbase[p]
  let base := bvf r 11 29 * 2048
  if bvf r 63 1 = 1 ∧ s.inAllot (dieOf k) p base (base + 2047) then some (base + 128 * k.val) else none

/-- The 64-byte requests for some counters' places in a block of a partition, counted as the core's (R270, R382, R383). -/
def State.cntRequests (s : State) (k : CoreId) (p : PartId) (a : Nat) (of_ : Fin 8 → Bool) : State :=
  let line (h : Nat) (s : State) : State :=
    if ([0, 1, 2, 3, 4, 5, 6, 7] : List (Fin 8)).any fun i => of_ i && i.val / 4 == h then s.migCount k p (a + 64 * h) false else s
  line 1 (line 0 s)

/-- The counters of a core written out and loaded for a partition, when it is not the one they are loaded for. -/
def State.worldSwitch (s : State) (k : CoreId) (q : PartId) : State :=
  let c := s.core k
  if c.cntpart = some q then s
  else
    let s := match c.cntpart with
      | none => s
      | some p =>
        match s.cntBlock k p with
        | none => s
        | some a => ([0, 1, 2, 3, 4, 5, 6, 7] : List (Fin 8)).foldl (fun (s : State) (i : Fin 8) =>
            if bvf c.cntcfg[i] 24 5 < 16 then
              s.ringWrite (a + 16 * i.val) (leBytes 8 (bvSet c.cntcfg[i] 24 5 0).toNat ++ leBytes 8 (c.cntval[i]).toNat)
            else s) (s.cntRequests k p a fun i => decide (bvf c.cntcfg[i] 24 5 < 16))
    let blk := s.cntBlock k q
    let s := match blk with
      | some a => s.cntRequests k q a fun i => bvf c.cntalloc i.val 1 == 0
      | none => s
    let read (i off : Nat) : Nat := match blk with
      | some a => s.mem.readLE (a + 16 * i + off) 8
      | none => 0
    s.modCore k fun c => { c with
      cntpart := some q
      cntcfg := Vector.ofFn fun i : Fin 8 =>
        if bvf c.cntalloc i.val 1 = 1 then
          (if bvf c.cntcfg[i] 24 5 = 16 then c.cntcfg[i] else bvSet (0 : BitVec 32) 24 5 16)
        else bvSet (BitVec.ofNat 32 (read i.val 0) &&& 0xC00FFFFF) 24 5 q.val
      cntval := Vector.ofFn fun i : Fin 8 =>
        if bvf c.cntalloc i.val 1 = 1 then (if bvf c.cntcfg[i] 24 5 = 16 then c.cntval[i] else 0)
        else BitVec.ofNat 64 (read i.val 8) &&& 0x0001FFFFFFFFFFFF }

/-! ### The context a transfer sets up -/

/-- What a core keeps when its context changes: released work, TLBs, clocks, counters, debug registers. Everything else
takes its cut-0 value (R23, R115). DESIGN CHOICE (log 45): a copy of a finished task that still runs reads, and reports into, the
local store of the task that has come in its place (R282). -/
def Core.cleared (c : Core) : Core :=
  { Core.reset with
    cb := c.cb, chans := c.chans, lbuf := c.lbuf, tlb := c.tlb, stlb := c.stlb, walks := c.walks, prefs := c.prefs, faultno := c.faultno
    nextId := c.nextId, clocks := c.clocks, level := c.level, src := c.src, grant := c.grant
    clkpend := c.clkpend || c.clkdiv != 0
    cntcfg := c.cntcfg, cntval := c.cntval, cntshd := c.cntshd, cntalloc := c.cntalloc, cntpart := c.cntpart, ovfs := c.ovfs, cntset := c.cntset
    dbgctl := c.dbgctl, dbgbp := c.dbgbp, stepOff := c.stepOff, units := c.units, finishing := c.finishing }

/-- The banks a bank record names set to its state (R189 step 3). -/
def Core.bankRecord (c : Core) (r : Nat × Nat × Nat) : Core :=
  (List.range r.2.1).foldl (fun c i =>
    let k := r.1 + i
    match r.2.2 with
    | 0 => c.modBank k fun _ => BankSt.reset
    | 1 => c.modBank k fun _ => { BankSt.reset with state := .retention }
    | _ => (c.modBank k fun _ => { BankSt.reset with state := .off }).loseBank k) c

/-- The drain memory of an image (R224). -/
def Image.dmem (x : Image) : Vector Word32 1024 := Vector.ofFn fun i : Fin 1024 => BitVec.ofNat 32 (field x.drain (4 * i.val) 4)
/-- The format table of an image. -/
def Image.fmtTable (x : Image) : Vector (BitVec 32) 16 := Vector.ofFn fun i : Fin 16 => BitVec.ofNat 32 (x.fmt.getD i.val 0) &&& 0x001FFFFF
/-- The route table of an image. -/
def Image.rte (x : Image) : List (BitVec 32) := x.routes.map (BitVec.ofNat 32)

/-- The limits of a bind record (R314), under the floor of R39. -/
def Core.limits (c : Core) (b : Bind) : Core :=
  { c with
    rgnmax := BitVec.ofNat 24 (max 0x400 b.rgnlimit), rgncnt := 0, retrylim := BitVec.ofNat 4 b.retry, retrycnt := 0
    share := BitVec.ofNat 5 b.share, qwpart := BitVec.ofNat 4 b.qwpart }

/-- The bit of a die in the touched-dies mask (R261). -/
def dieBit (d : Fin 2) : BitVec 2 := BitVec.ofNat 2 (2 ^ d.val)

/-- A scalar register as an initial-register block gives it (R125). -/
def initReg (regs : List (BitVec 8)) (q : Fin 4) (r : Fin 32) : Word64 :=
  if r = 0 then 0 else BitVec.ofNat 64 (field regs (256 * q.val + 8 * r.val) 8)

/-- A new dispatch at cut 0 (R23, R125, R142, R189): program counters, registers from the initial-register block,
data and banks. -/
def Core.launch (c : Core) (k : CoreId) (b : Bind) (x : Image) (regs : List (BitVec 8)) : Core :=
  let c := c.cleared.limits b
  let pcs := Vector.ofFn fun i : Fin 4 => BitVec.ofNat 48 (x.entries.getD i.val 0)
  let c := { c with
    seqs := Vector.ofFn fun i : Fin 4 => { SeqSt.reset with
      pc := pcs[i]
      s := Vector.ofFn fun r : Fin 32 => initReg regs i r }
    cut := { Cut.reset with pcs := pcs }
    seqid := BitVec.ofNat 32 (64 * k.val + 16 * (k.val / 4) + 8 * (k.val / 8))
    touched := dieBit (dieOf k)
    dmem := x.dmem
    fmt := x.fmtTable
    mem := x.data.foldl (fun m r => m.writeN r.1 r.2) [] }
  x.banks.foldl Core.bankRecord c

/-- A node-boundary resume (R114, R203, R314): the recorded program counters and K's s1 to s8, with the generation, the
touched-dies mask, PTS and the fault record; everything else as at cut 0 (R23), the other scalar registers from the bind
record's register block. DESIGN CHOICE (log 46): K's first instruction after it is not taken as one issued first after a completed
commit (R114), and after a rollback to that cut it is. -/
def Core.nodeResume (c : Core) (k : CoreId) (b : Bind) (x : Image) (regs : List (BitVec 8)) (o : Core) : Core :=
  let c := c.cleared.limits b
  let c := { c with
    seqs := Vector.ofFn fun i : Fin 4 => { SeqSt.reset with
      pc := o.cut.pcs[i]
      s := Vector.ofFn fun r : Fin 32 => if i = 0 ∧ 1 ≤ r.val ∧ r.val ≤ 8 then ((o.sq 0).s)[r] else initReg regs i r }
    cut := { Cut.reset with pcs := o.cut.pcs, tag := o.cut.tag, gen := o.gen }
    gen := o.gen
    seqid := o.seqid
    touched := o.touched ||| dieBit (dieOf k)
    pts := o.pts
    frec := o.frec
    dmem := x.dmem
    fmt := x.fmtTable }
  x.banks.foldl Core.bankRecord c

/-- A restore or a migration (R203, R314, R330, R332): every saved item, with the banks in their saved states, the
latches zero, and a barrier or atomic wait taken up again. -/
def Core.restore (c : Core) (k : CoreId) (rc : Nat) (b : Bind) (x : Image) (o : Core) : Core :=
  { (c.cleared.limits b) with
    seqs := Vector.ofFn fun i : Fin 4 => { o.sq i with
      b := Vector.replicate 4 0, arrival := none, pend := [], stall := none, pay := 0, fresh := i == 0 && o.gen != 0 }
    lastTag := o.lastTag
    gen := o.gen, seqid := o.seqid, cut := o.cut, eng := o.eng, v := o.v, m := o.m, vl := o.vl, fmt := o.fmt
    tshape := o.tshape, abfttol := o.abfttol, histp := o.histp, fmterr := o.fmterr, drainpos := o.drainpos
    wins := o.wins, clkdiv := o.clkdiv, clkpend := c.clkpend || c.clkdiv != o.clkdiv
    tiles := o.tiles.map fun t => { t with fills := 0, reads := 0 }
    acc := o.acc.map fun a => { a with dirty := false }
    banks := o.banks.map fun e => (e.1, { BankSt.reset with state := if e.2.state = .waking then .full else e.2.state })
    mem := o.mem
    touched := o.touched ||| dieBit (dieOf k), pts := o.pts, frec := o.frec
    mid := o.mid.map fun m => { m with
      doneAt := none
      atOnce := match m.wait with
        | .inl _ => false
        | .inr w => w.released.isSome
      wait := match m.wait with
        | .inl w => .inl { w with returned := w.returned.map fun v => (v.1, rc) }
        | .inr w => .inr w }
    dmem := x.dmem }

/-! ### The checks of R318 and the dispatch (R317) -/

/-- The saved context that a record of kind 2, 3 or 4 names: at its save area, of the depth the kind needs. -/
def State.savedFor (s : State) (b : Bind) : Option Saved :=
  s.saved.find? fun x => x.part == b.pid && x.save == b.save &&
    (match b.kind with
     | 2 => x.depth == 2 && !x.migrating
     | 3 => x.depth != 2
     | _ => x.depth == 2 && x.migrating)

/-- Checks 1 to 6 of R318, in order: the first that fails gives its status code. DESIGN CHOICE (log 45): of the save area, the first
page alone has to translate (check 5). -/
def State.bindCode (s : State) (k : CoreId) (b : Bind) : Option Nat :=
  let d := dieOf k
  let cfg := (s.die d).partcfg[b.pid]
  let al (x : BitVec 64) (n : Nat) (kind : AccKind) : Bool :=
    decide (x.toNat % n = 0) && (s.vmap d b.pid kind x.toNat).isSome
  if b.kind = 0 ∨ 4 < b.kind ∨ b.bad ∨ b.gsize = 0 ∨ 16 < b.gsize ∨ b.gsize ≤ b.task then some 5
  else if b.retry = 0 ∨ 15 < b.retry ∨ 15 < b.qwpart ∨ 2 ^ 24 ≤ b.rgnlimit then some 5
  else if 15 < b.part ∨ bvf cfg 63 1 = 0 ∨ bvf cfg (24 + k.val) 1 = 0 then some 5
  else if (if lscap = 0x1000000 then 8 else 16) < b.share then some 5
  else if !(al b.image 65536 .load && al b.save 67108864 .load && al b.save 67108864 .store && al b.regs 1024 .load) then some 5
  else if b.kind = 1 then none
  else
    match s.savedFor b with
    | none => some 5
    | some x =>
      if x.gang = b.gang ∧ x.idx.toNat = b.task ∧ x.gsize = b.gsize ∧
          (b.kind = 3 ∨ (x.ctx.share.toNat = b.share ∧ x.ctx.qwpart.toNat = b.qwpart)) then none
      else some 5

/-- The bytes of a save area at an offset, or the bytes saved where a page of it does not translate. -/
def State.areaBytes (s : State) (d : Fin 2) (p : PartId) (base off : Nat) (saved : List (BitVec 8)) : List (BitVec 8) :=
  (s.vread d p (saved.length / 65536 + 2) (base + off) saved.length).getD saved

/-- The reads that a record's load makes beside its image's: its register block, or its save area's sections. -/
def State.contextReads (s : State) (b : Bind) : List (Nat × Nat) :=
  match b.kind with
  | 1 => [(b.regs.toNat, 1024)]
  | 3 => [(b.regs.toNat, 1024), (b.save.toNat, 4096)]
  | _ => match s.savedFor b with
    | some y => (y.ctx.fullSections y.migrating).map fun x => (b.save.toNat + x.1, x.2.length)
    | none => []

/-- The requests of a load counted as the core's (R270, R382). -/
def State.loadCount (s : State) (k : CoreId) (b : Bind) : State :=
  (s.imageReads (dieOf k) b.pid b.image.toNat (lscap - 0x200000 * b.share) ++ s.contextReads b).foldl
    (fun s x => s.vcount k b.pid .load (x.2 / 65536 + 2) x.1 x.2) s

/-- The context a record that passed its checks sets up on a core. -/
def State.contextFor (s : State) (k : CoreId) (b : Bind) (x : Image) : Option Core :=
  let c := s.core k
  match b.kind with
  | 1 => (s.vread (dieOf k) b.pid 2 b.regs.toNat 1024).map fun r => c.launch k b x r
  | 3 =>
    match s.savedFor b, s.vread (dieOf k) b.pid 2 b.regs.toNat 1024 with
    | some y, some r => some (c.nodeResume k b x r { y.ctx with
        frec := FaultRec.ofBytes (s.areaBytes (dieOf k) b.pid b.save.toNat 0x100 y.ctx.frec.bytes) })
    | _, _ => none
  | _ => (s.savedFor b).map fun y => c.restore k s.rc b x (y.ctx.reread (s.areaBytes (dieOf k) b.pid b.save.toNat))

/-- The saved contexts after a record has taken its own: a full save is used up, a node save becomes the last node
record (R364). -/
def State.takeSaved (s : State) (b : Bind) : List Saved :=
  match s.savedFor b with
  | none => s.saved
  | some x => s.saved.filterMap fun y =>
      if y = x then (if b.kind = 3 then some { x with depth := 0 } else none) else some y

/-- Routes to check at a transfer: the image's at cut 0, the saved ones with a full context (R277). -/
def State.routesFor (s : State) (b : Bind) (x : Image) : List (BitVec 32) :=
  match b.kind with
  | 1 => x.rte
  | 3 => x.rte
  | _ => match s.savedFor b with
    | some y => y.ctx.rte.toList.take x.routes.length
    | none => x.rte

/-- The context installed (R317): the task is Running and loads for a time that is not fixed; the counters are switched
(R383), the membership list is built (R336), the gang's routes to it are checked (R278); a migration posts KIND 0x05, with
the tag of the region that its retirement rolled back (R369). DESIGN CHOICE (log 46): the times of the core's window granules are 0
after a node-boundary resume as after a dispatch (R293), and after a restore or a migration stand as the core had them. -/
def State.install (s : State) (k : CoreId) (b : Bind) (c : Core) (rte : List (BitVec 32)) : State :=
  let s := s.worldSwitch k b.pid
  let o := s.core k
  let (d, s) := s.drawDelay
  let t : TaskSt := ⟨b.pid, b.gang, BitVec.ofNat 4 b.task, b.gsize, b.tag, b.image, b.save, b.regs, b.table, .loading (s.rc + 1 + d),
    none, 0, s.rc⟩
  let s := { s with saved := s.takeSaved b, grans := s.grans.filter fun e => match e.1 with
    | .win j _ => !(j == k && (b.kind == 1 || b.kind == 3))
    | .line _ => true }
  let s := s.setCore k { c with
    cntcfg := o.cntcfg, cntval := o.cntval, cntpart := o.cntpart, staged := none
    task := some t, rte := rteVec rte, nrte := rte.length, members := s.memberships b.key }
  let s := (s.fixRoutes k b.key).refetch k
  let s := if b.kind = 4 then s.elog (dieOf k) b.pid ({ s.core k with rolled := true }.record k ⟨5, 0, none, 0, 0, 0, 0, 0, 0, 0⟩) else s
  s.contextEvent k b.key (s.core k).gen b.kind 0

/-- Whether a core takes its staged record now (R317): it is free and not retired, its die works, and, for a new gang,
no more than 256 messages of the partition wait (R400). -/
def State.canDispatch (s : State) (k : CoreId) : Bool :=
  let c := s.core k
  let d := s.die (dieOf k)
  match c.staged with
  | none => false
  | some b => c.task.isNone && !c.retired && !d.lost && d.rstphase == 0 &&
      !(b.kind == 1 && decide (256 < (d.mbout[b.pid]).length))

/-- R317, R318: the staged record of a free core is checked and dispatched, restored, resumed or migrated, or
refused. -/
def execDispatch (k : CoreId) (s : State) : Host.Outcome State Fault Refusal :=
  if !s.canDispatch k then .next s
  else
    match (s.core k).staged with
    | none => .next s
    | some b =>
      match s.bindCode k b with
      | some code => .next (s.refuse k b code)
      | none =>
        match s.loadImage (dieOf k) b.pid b.image.toNat (lscap - 0x200000 * b.share) with
        | .error code => .next (s.refuse k b code)
        | .ok x =>
          let rs := s.routesFor b x
          if rs.any fun r => decide (b.gsize ≤ bvf r 28 4) then .next (s.refuse k b 5)
          else
            match s.checkRoutes k b.key rs with
            | (none, s) => .next (s.refuse k b 5)
            | (some rs, s) =>
              if 4 < (s.memberships b.key).length then .next (s.refuse k b 5)
              else
                match s.contextFor k b x with
                | none => .next (s.refuse k b 5)
                | some c => .next ((s.loadCount k b).install k b c rs)

/-- R317: the context has loaded, and the first issue follows, from which the region count (R38) and the time of a pending
pre-emption run; a context that takes up a wait between commit A and commit B begins with that wait (log 23). -/
def execContextLoadComplete (k : CoreId) (s : State) : Host.Outcome State Fault Refusal :=
  match (s.core k).task with
  | none => .next s
  | some t =>
    match t.phase with
    | .loading at_ =>
      if s.rc < at_ then .next s
      else
        let s := s.modCore k fun c => { c with
          task := some { t with phase := .running }
          begun := c.mid.isSome
          rgncnt := 0
          preempt := c.preempt.map fun _ => 0 }
        .next (if (s.core k).mid.isSome then s.sendToken k t.key 0 else s)
    | _ => .next s

end Sys2Proof.Machine
end

