-- ==== Sys2Proof/Machine/Sched.lean ====
section
/-! DEFINITION. Scheduling (spec/16): YIELD.N (R114), LAUNCH (R328) and the launch queues (R327), the slot registers
(R316, R317), cancellation (R329), Quartz steps (R321), and the time-triggered table (R322 to R325). -/

namespace Sys2Proof.Machine

/-! ### YIELD.N and LAUNCH -/

/-- R114: a pending pre-emption is taken at the node boundary: the core rolls back to its cut, with K past this
instruction, and is saved at node depth. Otherwise only ring actions. -/
def execYieldN (h : Hdr) (s : State) : Host.Outcome State Fault Refusal :=
  issue (op1 h [] [] []) (fun s =>
    let k := s.curCore
    let c := s.me
    if c.preempt.isSome && !c.stopped && s.mySeq.fresh && ([0, 1, 2, 3] : List (Fin 4)).all fun q => (c.sq q).live.isEmpty then
      let next := s.mySeq.pc + 4
      .yield (((s.rollback k false).modCore k fun c => { c with cut := { c.cut with pcs := c.cut.pcs.set 0 next } }).beginSave k 1)
    else .done s .seq false) s

/-- Whether a launch record's bytes keep the limits of R327. -/
def launchOk (r : List (BitVec 8)) : Bool :=
  decide (1 ≤ field r 0 1 ∧ field r 0 1 ≤ 16) && field r 1 1 == 0 && field r 4 4 == 0 && field r 32 32 == 0 &&
    decide (field r 8 8 % 65536 = 0 ∧ field r 16 8 % 67108864 = 0 ∧ field r 24 8 % 1024 = 0)

/-- A launch record of a partition from its bytes (R327). -/
def launchOf (p : PartId) (r : List (BitVec 8)) : LaunchRec :=
  ⟨p, field r 0 1, BitVec.ofNat 16 (field r 2 2), BitVec.ofNat 64 (field r 8 8), BitVec.ofNat 64 (field r 16 8),
    BitVec.ofNat 64 (field r 24 8)⟩

/-- The 64 bytes of a launch record read as one timed device load (R293, R328), which its home counts once (R270), not between
the lines of one region (R296, log 21); the answer to a conflict is a replay. -/
def launchRead (pa va : Nat) (nomig : Bool) (s : State) : Out :=
  let k := s.curCore
  let c := s.me
  let p : Piece := ⟨.hbm, pa, 0, 64, none⟩
  match (if s.halfSeen p then none else s.pinClaims k [p]) with
  | none => .stall 2 s
  | some s =>
    let s := s.migCount k c.part pa nomig
    if s.poisoned k p then .trap 0x80 0 va s
    else
      match s.readPiece k p with
      | none => .yield (s.cohReplay k pa)
      | some s =>
        let bs := s.pieceBytes k p
        if !launchOk bs then .trap 0x61 0 va s
        else
          let (gang, idx) := match c.task with
            | some t => (t.gang, t.idx)
            | none => (0, 0)
          .done (s.modMe fun c => { c with
            lbuf := c.lbuf ++ [⟨c.nextId, launchOf c.part bs, hbmDie pa, gang, idx, c.gen, true⟩]
            nextId := c.nextId + 1 }) .seq false

/-- R328: reads a launch record and buffers it for release at the commit. -/
def execLaunch (h : Hdr) (a : Sel) (c : Comp) (s : State) : Host.Outcome State Fault Refusal :=
  issue (op2 h c [a] [] []) (fun s =>
    let va := (s.val [a] 0).toNat % 2 ^ 48
    if va % 64 ≠ 0 then .trap 0x20 0 va s
    else
      s.storeXlate va .load .dev fun pa e s =>
        if 4 ≤ s.me.lbuf.length then
          if s.me.lbuf.all LaunchEnt.cur then .trap 0x60 0 va s else .stall 2 s
        else if s.farHeld s.curCore pa then .stall 2 s
        else launchRead pa va e.nomig s) s

/-- R328: the oldest released launch record whose partition's launch queue has room is posted there. -/
def execLaunchRecordPost (k : CoreId) (s : State) : Host.Outcome State Fault Refusal :=
  match (s.core k).lbuf.find? fun l => !l.cur && !(s.die (dieOf k)).queueFull l.rec_.part with
  | none => .next s
  | some l =>
    let p := l.rec_.part
    .next (((s.noteLaunch l.rec_ [l.home]).modDie (dieOf k) fun x => { x with launchq := x.launchq.set p (x.launchq[p] ++ [.inl l.rec_]) }).modCore k
      fun c => { c with lbuf := c.lbuf.erase l }.works 11)

/-! ### The slot registers (R316, R317) -/

/-- R316: SLOT.STAGE: the record replaces a staged one not yet dispatched. -/
def execSlotStage (k : CoreId) (rec : BitVec 512) (s : State) : Host.Outcome State Fault Refusal :=
  .next (s.modCore k fun c => { c with staged := some (bindOf rec) })

/-- A pre-emption request noted in a core: an earlier one keeps its count, a new one its rc. -/
def Core.notePreempt (c : Core) (rc : Nat) : Core :=
  { c with preempt := some (c.preempt.getD 0), preAt := if c.preempt.isSome then c.preAt else rc + 1 }

/-- A pre-emption of a core's active task requested (R40, R317). It is pending from here on: a Held task and a barrier wait
take it at the end of this rc (`State.settle`). A task that is saving or migrating leaves anyhow, and a cancel of the same rc
drops the request. On a die that is lost a task stays Held (R367). -/
def State.requestPreempt (s : State) (k : CoreId) : State :=
  match (if (s.die (dieOf k)).lost ∨ (s.core k).cancelAt = s.rc + 1 then none else (s.core k).task) with
  | none => s
  | some t =>
    match t.phase with
    | .saving _ _ => s
    | .migrating _ => s
    | .held => s.modCore k fun c => c.notePreempt s.rc
    | .loading _ => s.modCore k fun c => c.notePreempt s.rc
    | .running => s.modCore k fun c => c.notePreempt s.rc

/-- R316: SLOT.PREEMPT. -/
def execSlotPreempt (k : CoreId) (s : State) : Host.Outcome State Fault Refusal := .next (s.requestPreempt k)

/-- An active task cancelled (R329, R344): a Held task or one in a barrier wait is Aborted at once; a Running one at its
next rendezvous, and one being saved or moved when that ends. A pre-emption request of the same rc is dropped (R317). -/
def State.cancelActive (s : State) (k : CoreId) : State :=
  match (if (s.die (dieOf k)).lost then none else (s.core k).task) with
  | none => s
  | some t =>
    let barWait := match (s.core k).mid with
      | some m => match m.wait with
        | .inr _ => true
        | .inl _ => false
      | none => false
    if t.phase = .held then s.abortTask k (if t.cause = 0 then 2 else 1)
    else if t.phase = .running ∧ barWait = true then s.abortTask k 2
    else s.modCore k fun c => { c with
      task := some { t with cancelled := some (t.cancelled.getD 2) }
      cancelAt := s.rc + 1
      preempt := if c.preAt = s.rc + 1 then none else c.preempt }

/-- A record that has not been dispatched removed with status 0x02 (R329); with a saved context its task is Aborted. -/
def State.dropBind (s : State) (k : CoreId) (b : Bind) : State :=
  match (if b.kind = 1 then none else s.savedFor b) with
  | some x => s.abortSaved x 2
  | none =>
    let s := if b.part < 16 then s.status (dieOf k) 2 b.part b.gang b.task 0 b.tag 0 else s
    let s := s.sendToken k b.key 3
    if b.table then s.gangEnd b.key true else s

/-- A staged record cancelled. -/
def State.cancelStaged (s : State) (k : CoreId) : State :=
  match (s.core k).staged with
  | none => s
  | some b => (s.modCore k fun c => { c with staged := none }).dropBind k b

/-- R316, R329: SLOT.CANCELA. -/
def execSlotCancela (k : CoreId) (s : State) : Host.Outcome State Fault Refusal := .next (s.cancelActive k)

/-- R316, R317, R329: SLOT.CANCELS; after a dispatch in the same rc it is a cancel after dispatch. -/
def execSlotCancels (k : CoreId) (s : State) : Host.Outcome State Fault Refusal :=
  match (s.core k).staged, (s.core k).task with
  | some _, _ => .next (s.cancelStaged k)
  | none, some t =>
    if t.stamp = s.rc ∧ (s.core k).isRunning = false ∧ t.phase ≠ .held then
      .next (s.modCore k fun c => { c with task := some { t with cancelled := some 3 } })
    else .next s
  | none, none => .next s

/-- R316: SLOT.RESUME of a Held task (R22); on a die that has lost its authority the task stays Held (R367), and one that a
request takes is saved (R317). -/
def execSlotResume (k : CoreId) (s : State) : Host.Outcome State Fault Refusal :=
  .next (if (s.die (dieOf k)).lost ∨ (s.core k).preempt.isSome then s else s.resume k)

/-- ASTATE of a slot register (R316, R317): loading until the rc of the task's first issue. -/
def Core.astate (c : Core) : Nat :=
  match c.task with
  | none => 0
  | some t =>
    match t.phase with
    | .loading _ => 5
    | .running => if c.begun then 1 else 5
    | .held => 2
    | .saving _ _ => 3
    | .migrating _ => 4

/-- R316: the value that SLOTn reads: ASTATE, SVALID, PPEND and APART; the control bits read as 0. -/
def State.slotRead (s : State) (k : CoreId) : BitVec 32 :=
  let c := s.core k
  BitVec.ofNat 32 (c.astate * 2 ^ 20 + c.staged.isSome.toNat * 2 ^ 19 + c.preempt.isSome.toNat * 2 ^ 18 +
    ((c.task.map fun t => t.part.val).getD 0) * 2 ^ 12)

/-! ### Quartz steps (R321) -/

/-- Whether a step is refused: the table runs, or a backward step is being absorbed. -/
def State.stepRefused (s : State) : Bool := bvf (s.die s.authority).ttctl 63 1 == 1 || bvf s.qstep 61 1 == 1

/-- R321: a forward step adds its offset at once. -/
def execQstepForward (off : BitVec 40) (s : State) : Host.Outcome State Fault Refusal :=
  .next (if s.stepRefused then { s with qstep := bvSet s.qstep 60 1 1 } else { s with qns := s.qns + 16 * off.toNat })

/-- R321: a backward step holds the count for its offset. -/
def execQstepBackward (off : BitVec 40) (s : State) : Host.Outcome State Fault Refusal :=
  .next (if s.stepRefused then { s with qstep := bvSet s.qstep 60 1 1 }
    else { s with qhold := 16 * off.toNat, qstep := bvSet s.qstep 61 1 1 })

/-- R321: the hold of a backward step has ended. -/
def execQstepHoldEnd (s : State) : Host.Outcome State Fault Refusal :=
  .next (if s.qhold = 0 then { s with qstep := bvSet s.qstep 61 1 0 } else s)

/-! ### The time-triggered table (R322 to R325) -/

/-- Whether a die's copy of the table launches: it governs and runs. -/
def State.ttRuns (s : State) (d : Fin 2) : Bool :=
  d == s.authority && bvf (s.die d).ttctl 63 1 == 1 && !(s.die d).lost && (s.die d).rstphase == 0

/-- Whether entry i of a table is ignored (R323). -/
def State.ttBad (s : State) (d : Fin 2) (i : Fin 256) : Bool :=
  let x := s.die d
  let a := x.tteA[i]
  let cores := bvf a 44 16
  let p : PartId := Fin.ofNat 16 (bvf a 40 4)
  let prev := if i.val = 0 then 0 else bvf x.tteA[(Fin.ofNat 256 (i.val - 1) : Fin 256)] 0 20
  decide (bvf a 0 20 < prev ∨ bvf x.ttctl 32 20 < bvf a 0 20 + bvf a 20 20 ∨ cores = 0) ||
    ((List.range 16).any fun n => cores / 2 ^ n % 2 == 1 && bvf x.partcfg[p] (24 + n) 1 == 0) || bvf x.partcfg[p] 62 1 == 0

/-- TTSTAT.NEXT (R322): the first entry from number n on that is not ignored, else the first of the next cycle. -/
def State.ttNext (s : State) (d : Fin 2) (n : Nat) : Nat :=
  let l := (List.range (min 256 (bvf (s.die d).ttctl 20 9))).filter fun j => !s.ttBad d (Fin.ofNat 256 j)
  match l.find? fun j => decide (n ≤ j) with
  | some j => j
  | none => l.headD 0

/-- The cores of an entry, in ascending order: task t goes to the t-th (R322). -/
def ttCores (a : BitVec 64) : List CoreId := allCores.filter fun k => bvf a (44 + k.val) 1 == 1

/-- The bind record of a table launch's task t (R324). -/
def ttBind (p : PartId) (gang : BitVec 16) (t gsize : Nat) (lim : BitVec 64) (r : LaunchRec) : Bind where
  kind := 1
  part := p.val
  gang := gang
  task := t
  gsize := gsize
  share := bvf lim 32 5
  qwpart := p.val
  rgnlimit := bvf lim 0 24
  retry := bvf lim 24 4
  tag := r.tag
  image := r.image
  save := r.save + BitVec.ofNat 64 (67108864 * t)
  regs := r.regs + BitVec.ofNat 64 (1024 * t)
  bad := false
  table := true

/-- A table record staged on a core (R324, R325): a displaced record goes back to the head of its partition's launch
queue, and an active task is asked to leave. -/
def State.ttStage (s : State) (k : CoreId) (b : Bind) : State :=
  let s := match (s.core k).staged with
    | none => s
    | some o => s.modDie (dieOf k) fun x => { x with launchq := x.launchq.set o.pid (.inr o :: x.launchq[o.pid]) }
  (s.modCore k fun c => { c with staged := some b }).requestPreempt k

/-- The launch of entry i (R324). -/
def State.ttLaunch (s : State) (d : Fin 2) (i : Fin 256) : State :=
  let x := s.die d
  let a := x.tteA[i]
  let p : PartId := Fin.ofNat 16 (bvf a 40 4)
  match x.ttgangs.find? fun g => g.1 == p with
  | some g =>
    let s := s.modDie d fun x => { x with partstat := x.partstat.set p (bvSet x.partstat[p] 0 32 (bvf x.partstat[p] 0 32 + 1)) }
    let s := s.status d 7 p.val g.2.1 0 0 g.2.2.1 0
    if bvf x.tntrig[p] 4 1 = 1 then s.trigger d p 5 0 ⟨0xFF, g.2.1, 0, 0⟩ else s
  | none =>
    let va := bvf x.tteB[i] 0 48
    match (if va % 64 = 0 then s.vread d p 2 va 64 else none) with
    | none => s.status d 5 p.val 0 0 0 0 0
    | some r =>
      if !launchOk r then s.status d 5 p.val 0 0 0 0 0
      else
        let gang := BitVec.ofNat 16 (bvf x.partstat[p] 32 16)
        let rec_ := launchOf p r
        let cs := ttCores a
        let s := s.noteLaunch rec_ ((((s.vmap d p .load va).filter fun pa => decide (pa < sysBase)).map hbmDie).toList)
        let s := s.modDie d fun x => { x with
          partstat := x.partstat.set p (bvSet x.partstat[p] 32 16 (gang.toNat + 1))
          ttgangs := x.ttgangs ++ [(p, gang, rec_.tag, cs.length)] }
        (cs.zipIdx).foldl (fun s c => s.ttStage c.1 (ttBind p gang c.2 cs.length x.partlim[p] rec_)) s

/-- R323, R324: at a slot's start the entry is ignored, skipped for an overrun, or launched; TTSTAT.NEXT moves on, and the
slot's end is noted. -/
def execTtSlotStart (d : Fin 2) (i : Fin 256) (s : State) : Host.Outcome State Fault Refusal :=
  let x := s.die d
  if !s.ttRuns d ∨ bvf x.ttctl 20 9 ≤ i.val then .next s
  else
    let s := s.modDie d fun x => { x with ttstat := bvSet x.ttstat 0 9 (s.ttNext d (i.val + 1)) }
    if s.ttBad d i then .next (s.modDie d fun x => { x with ttstat := bvSet x.ttstat 31 1 1 })
    else
      let stop := s.qtime / 1000 + bvf x.tteA[i] 20 20
      .next ((s.modDie d fun x => { x with slotEnds := x.slotEnds ++ [(i.val, stop)] }).ttLaunch d i)

/-- R325: at a slot's end the table raises an interrupt to the firmware, and stops nothing. -/
def execTtSlotEnd (d : Fin 2) (i : Fin 256) (s : State) : Host.Outcome State Fault Refusal :=
  .next (s.modDie d fun x =>
    match x.slotEnds.find? fun e => e.1 == i.val && decide (e.2 ≤ s.qtime / 1000) with
    | some e => { x with slotEnds := x.slotEnds.erase e, irqs := x.irqs ++ [(1, i.val, s.qtime)] }
    | none => x)

end Sys2Proof.Machine
end

