-- ==== Sys2Proof/Machine/Region.lean ====
section
/-! DEFINITION. The rendezvous of a region (spec/01): the causes of R34 taken together (R35), the completion of a commit
(R29 to R31), commit B of an atomic or a barrier (R306, R340), completion signals (R101), the region watchdog (R38) and
the overdue pre-emption (R40). -/

namespace Sys2Proof.Machine

/-! ### The four arrivals -/

/-- The sequencers in ring order. -/
def allSeqs : List (Fin 4) := [0, 1, 2, 3]

/-- The arrivals made, with their sequencers. -/
def Core.arrivals (c : Core) : List (Fin 4 × Arrival) :=
  allSeqs.filterMap fun q => (c.sq q).arrival.map fun a => (q, a)

/-- The explicit arrivals, whose tag and P a rendezvous takes. -/
def Core.explicit (c : Core) : List (Fin 4 × Arrival) := c.arrivals.filter fun a => !a.2.implicit

/-- The sequencers to which a breach of agreement of four arrivals is charged (R34, R56, R113): the implicit arrival that
breaks R113, else each whose tag, P or H differs from the first explicit one's. -/
def Core.mismatch (c : Core) : List (Fin 4) :=
  let imp := c.arrivals.filter fun a => a.2.implicit
  let alone := match imp.getLast? with
    | some x => if 1 < imp.length ∨ c.explicit.any (fun (a : Fin 4 × Arrival) => a.2.kind == ArrKind.halt) then some x.1 else none
    | none => none
  match alone, c.explicit with
  | some q, _ => [q]
  | none, [] => []
  | none, r :: l =>
    (l.filter fun (a : Fin 4 × Arrival) =>
      a.2.tag != r.2.tag || a.2.p != r.2.p || (a.2.kind == ArrKind.halt) != (r.2.kind == ArrKind.halt)).map Prod.fst

/-- Whether all four sequencers have arrived. -/
def Core.allArrived (c : Core) : Bool := c.arrivals.length == 4

/-! ### Causes of the execution model (R34, R35) -/

/-- The sequencer that the watchdog charges (R34): the longest stalled of those that have not arrived, else K. -/
def Core.longest (c : Core) : Fin 4 :=
  match allSeqs.foldl (fun (r : Option (Nat × Fin 4)) q =>
      match (c.sq q).arrival, (c.sq q).stall with
      | none, some (_, t) => match r with
        | some (t0, _) => if t < t0 then some (t, q) else r
        | none => some (t, q)
      | _, _ => r) none with
  | some (_, q) => q
  | none => 0

/-- Whether the region watchdog has run out (R38). DESIGN CHOICE (log 32): in the rc in which a ready commit with P completes and
would set the count to zero, the watchdog wins. -/
def Core.watchdogDue (c : Core) : Bool := c.isRunning && decide (c.rgnmax.toNat ≤ c.rgncnt.toNat)

/-- Whether the debug port holds the rendezvous: a stop outside step mode (R391, R393). -/
def Core.held (c : Core) : Bool := c.stopped && bvf c.dbgctl 27 1 == 0

/-- Whether a pending pre-emption is overdue (R40 path 3); between the commits of an atomic it waits (R306), and in the rc
of a commit for that commit. -/
def Core.preemptDue (c : Core) : Bool :=
  c.isRunning && !(c.allArrived && c.ready && !c.held) && (match c.preempt with
    | some n => decide (c.rgnmax.toNat ≤ n)
    | none => false) && (match c.mid with
    | some m => match m.wait with
      | .inl _ => false
      | .inr _ => true
    | none => true)

/-- The causes of an rc with the sequencers they are charged to (R34): those met at issue, those of four arrivals, the
watchdog, the overdue pre-emption. DESIGN CHOICE (log 32): of several queues or counters that are not empty at a rendezvous, the
lowest-numbered one's producer or signaller alone is charged. -/
def Core.causes (c : Core) : List (Nat × Fin 4) :=
  let full := ([0, 1, 2, 3, 4, 5, 6, 7] : List (Fin 8)).find? fun x => !(c.q[x]).ents.isEmpty
  let tok := ([0, 1, 2, 3, 4, 5, 6, 7] : List (Fin 8)).find? fun x => c.tok[x] != 0
  (if c.allArrived then
    (match full with
     | some x => [((1 : Nat), (if x.val < 6 then 1 else 2 : Fin 4))]
     | none => []) ++
    (match tok with
     | some x => [(3, signaller x)]
     | none => []) ++
    c.mismatch.map fun q => (4, q)
   else []) ++ c.detected ++ (if c.watchdogDue then [(5, c.longest)] else []) ++ (if c.preemptDue then [(6, 0)] else [])

/-- The least of the causes, the lower sequencer first. -/
def firstCause (l : List (Nat × Fin 4)) : Option (Nat × Fin 4) :=
  l.foldl (fun r x => match r with
    | some y => if x.1 < y.1 ∨ (x.1 = y.1 ∧ x.2 < y.2) then some x else some y
    | none => some x) none

/-- The mask of the secondary causes (R35, R357). -/
def secMask (l : List (Nat × Fin 4)) (primary : Nat) : Nat :=
  ((l.map Prod.fst).dedup.filter fun x => x != primary).foldl (fun m x => m + 2 ^ (x - 1)) 0

/-- The report of an execution-model cause: the address is that of the arrival, or of the head. -/
def Core.causeRep (c : Core) (x : Nat × Fin 4) (sec : Nat) : Rep :=
  let q := c.sq x.2
  let pc := if q.arrival.isSome then q.apc else q.pc
  let w := c.wordsAt x.2 pc
  ⟨0x0D, x.1, some x.2, sec, 0, pc.toNat, w.1, w.2, 0, 0⟩

/-- THE CAUSES OF AN RC TAKEN TOGETHER (R34, R35): a cancelled task ends at its rendezvous (R329); else the lowest code is
reported, with the others as its mask. DESIGN CHOICE (log 32): causes met at issue in an rc in which an instruction traps give
way to its trap, and are neither reported nor in its mask. Cause 0x06 alone rolls back and saves (R40). A task that is Held with
a request pending is saved at once, and a barrier wait takes its request. -/
def State.settle (s : State) (k : CoreId) : State :=
  let c := s.core k
  let held (s : State) : State :=
    match (s.core k).task with
    | some t => if t.phase = .held ∧ (s.core k).preempt.isSome then s.beginSave k 2 else s
    | none => s
  let s := if c.rolled ∨ !c.isRunning then s
    else
      match (if c.allArrived then c.task.bind TaskSt.cancelled else none) with
      | some code => s.abortTask k code.toNat
      | none =>
        let l := c.causes
        match firstCause l with
        | none => s
        | some (6, q) => ((s.logCore k (c.causeRep (6, q) 0)).rollback k false).beginSave k 2
        | some x =>
          s.takeTraps k (c.causeRep x (secMask l x.1)) ((if x.1 = 4 then c.mismatch.filter fun q => q != x.2 else []).map
            fun q => c.causeRep (4, q) (secMask l 4))
  (held (s.modCore k fun c => { c with detected := [] })).preemptWait k

/-- R38: the region watchdog's count has reached RGNMAX.LIMIT. -/
def execRegionWatchdog (k : CoreId) (s : State) : Host.Outcome State Fault Refusal :=
  .next (if (s.core k).watchdogDue then s.settle k else s)

/-- R40 path 3: a request has stayed pending for RGNMAX.LIMIT rc. -/
def execPreemptionOverdue (k : CoreId) (s : State) : Host.Outcome State Fault Refusal :=
  .next (if (s.core k).preemptDue then s.settle k else s)

/-! ### Completion signals (R101) -/

/-- R101: a completion signal is granted when no other signal on its counter was granted in the rc and it has room. -/
def execCompletionSignal (k : CoreId) (x : Fin 8) (s : State) : Host.Outcome State Fault Refusal :=
  .next (s.modCore k fun c =>
    if c.offered.contains x && c.sigRoom [] x then
      { c with
        offered := c.offered.erase x
        tok := c.tok.set x (c.tok[x] + 1)
        signalled := c.signalled.set x true }
    else c)

/-! ### The conditions of R29 -/

/-- Conditions 1 to 4 of R29: arrivals that agree, empty queues, zero counters, and every drain's last store performed, which holds
from the rc of that store on (R238). -/
def Core.atRendezvous (c : Core) : Bool :=
  c.allArrived && c.mismatch.isEmpty && c.q.toList.all (fun q => q.ents.isEmpty) && c.tok.toList.all (fun n => n == 0) &&
    c.drains.all (fun d => d.finished)

/-- The commit-time checks of R221 begun: once conditions 1 to 4 hold and every drain check is final, every accumulator
written since its last drain and not yet checked, whose elements are final; the check is final 32 matrix cycles later. -/
def Core.beginChecks (c : Core) : Core :=
  if c.checks.any fun x => x.byDrain then c
  else
    let l := ([0, 1, 2, 3] : List (Fin 4)).filter fun a => (c.acc[a]).dirty && !(c.checks.any fun x => x.acc == a) &&
      !c.mmas.any fun x => x.acc == a && x.stage != .final
    { c with checks := c.checks ++ l.map fun a => (⟨a, c.acc[a], (c.clk .matrix).cyc + 32, false, false, 0, 0, c.accPc[a]⟩ : CheckSt) }

/-- Condition 5 of R29: nothing started in the region is still to produce a result. -/
def Core.noResultsDue (c : Core) : Bool :=
  c.mmas.isEmpty && c.drains.isEmpty && c.tloads.isEmpty && c.loads.isEmpty && c.checks.isEmpty && c.offered.isEmpty && c.raise.isEmpty &&
    allSeqs.all (fun q => (c.sq q).pend.isEmpty) && c.acc.toList.all (fun a => !a.dirty) && (!c.timedRegion || (match c.ts with
      | .done _ => true
      | .idle => false
      | .claiming _ => false))

/-- Whether the error windows of the region's results have closed (R29). -/
def Core.windowsOver (c : Core) (rc : Nat) : Bool :=
  decide ((c.lastResult = 0 ∨ c.lastResult + 20 ≤ rc) ∧ (c.lastVec = 0 ∨ c.lastVec + 20 ≤ rc))

/-- The end of an rc at the rendezvous: the commit is ready once all of R29 holds. -/
def State.checkReady (s : State) (k : CoreId) : State :=
  let c := s.core k
  if c.isRunning && !c.rolled && !c.held && c.atRendezvous then
    s.modCore k fun c =>
      let c := c.beginChecks
      { c with ready := c.noResultsDue && c.windowsOver s.rc }
  else s

/-! ### Completion (R30, R31) -/

/-- Copy commands no longer of the current region; a step's commit releases the step's own alone (R393). -/
def Core.releaseCopies (c : Core) : Core :=
  { c with chans := c.chans.map fun l => l.map fun (m : CopyCmd) => { m with cur := m.cur && !c.ownId m.id } }

/-- The region's commit-buffer lines released at a timestamp, each free to be performed after a time that is not fixed
(R163), and its copies and launch records with them (R30 steps 2 and 3, R328); of a step its own alone (R393). A request that would
cross Feldspar does not start while a change of divisors is pending (R372). -/
def State.releaseEffects (s : State) (k : CoreId) (ts : Nat) (tag : BitVec 8) : State :=
  let s := (s.core k).cb.foldl (fun s l =>
    if (s.core k).ownLine l then
      let (d, s) := s.drawDelay
      let arrives := if (s.core k).changing && farHome k l.home l.addr then s.rc else s.rc + 1 + d
      s.modCore k fun c =>
        let release (y : CBLine) : CBLine :=
          if y.id = l.id ∧ c.ownLine y = true then { y with cur := false, ts := ts, tag := tag, at_ := arrives } else y
        { c with cb := c.cb.map release }
    else s) s
  let s := (s.core k).lbuf.foldl (fun s l => if l.cur && (s.core k).ownId l.id then s.cmdHere k 11 4 0 else s) s
  s.modCore k fun c => { c.releaseCopies with lbuf := c.lbuf.map fun (l : LaunchEnt) => { l with cur := l.cur && !c.ownId l.id } }

/-- The deferred moves to off applied (R30 step 4, R195): the region's pending ones and C's drop mask. The banks are off from
the next rc. -/
def Core.applyOff (c : Core) (drop : BitVec 4) : Core :=
  let ks := ((c.banks.filter fun b => b.2.pendOff).map Prod.fst) ++
    ((List.range 4).filter fun i => bvf drop i 1 == 1).map fun i => 256 + i
  { c with goOff := ks.dedup }

/-- A step blocked at a rendezvous is over once it completes (R393). -/
def Core.stepDone (c : Core) : DbgSt := if c.dbg = .blocked then .stopped (Fin.ofNat 4 (bvf c.dbgctl 24 2)) else c.dbg

/-- The program counters of the cut (R31): those after the arrivals, or a switch table's entry for the level in force. -/
def Core.nextPcs (c : Core) : Vector (BitVec 48) 4 :=
  match c.arrivals.findSome? fun a => match a.2.kind with
    | .swpt t => some t
    | .commit => none
    | .halt => none
    | .atom _ _ => none
    | .bar _ _ _ => none with
  | some t => Vector.ofFn fun q : Fin 4 => t.getD (4 * c.level.toNat + q.val) 0
  | none => Vector.ofFn fun q : Fin 4 => (c.sq q).pc

/-- Whether a rendezvous is a switch point, which ends every loop (R377). -/
def Core.switches (c : Core) : Bool := c.arrivals.any fun a => match a.2.kind with
  | .swpt _ => true
  | .commit => false
  | .halt => false
  | .atom _ _ => false
  | .bar _ _ _ => false

/-- What K or S waits for after a commit A (R306, R340). -/
def Core.midOf (c : Core) (k : CoreId) (p : Bool) : Option Mid :=
  c.arrivals.findSome? fun a =>
    let mk (w : Sum AtomWait BarWait) : Mid := ⟨a.1, (c.sq a.1).apc, w, none, false, p, a.2.ring, a.2.comp⟩
    match a.2.kind with
    | .atom line d => some (mk (.inl ⟨d, k, c.gen, none, line, false⟩))
    | .bar team status d => some (mk (.inr ⟨team, 0, status, d, false, none, 0⟩))
    | .commit => none
    | .halt => none
    | .swpt _ => none

/-- The signals that the completed arrivals raise in the next rc (R111): not those of HALT, and an atomic's or barrier's
only after commit B. -/
def Core.commitSignals (c : Core) : List (Fin 8) :=
  c.arrivals.flatMap fun a => match a.2.kind with
    | .commit => ringSigs a.1 a.2.ring
    | .swpt _ => ringSigs a.1 a.2.ring
    | .halt => []
    | .atom _ _ => []
    | .bar _ _ _ => []

/-- The core after its cut is recorded and the generation advanced (R30 steps 1, 4, 5 and 6, R31, R84, R242, R264, R297). -/
def Core.commit (c : Core) (k : CoreId) (tag : BitVec 8) (p : Bool) (drop : BitVec 4) : Core :=
  let pcs := c.nextPcs
  let sw := c.switches
  let seqs := Vector.ofFn fun q : Fin 4 =>
    { c.sq q with pc := pcs[q], live := if sw then [] else (c.sq q).live, arrival := none, fresh := q == 0 }
  let c1 := ({ c with
    seqs := seqs
    cut := ⟨pcs, Vector.ofFn fun q : Fin 4 => (c.sq q).h, Vector.ofFn fun q : Fin 4 => (seqs[q]).live, tag, c.gen + 1, c.eng, p⟩
    gen := c.gen + 1
    mid := c.midOf k p
    raise := c.raise ++ c.commitSignals
    retrycnt := 0
    cohcnt := 0
    pinned := false
    rgncnt := if p then 0 else c.rgncnt
    drainpos := 0
    frec := { c.frec with outst := false }
    reads := []
    used := []
    ts := .idle
    lastResult := 0
    lastVec := 0
    parity := []
    ran := []
    dbg := c.stepDone
    stepBase := none
    ready := false }).fmterrCommit
  (c1.applyOff drop).count 0x04 0 0 true

/-- The pin token after a commit (R298 step 5): claims on granules only read are given back, and the token too when the
run released no line. -/
def State.unpin (s : State) (k : CoreId) : State :=
  let s := s.dropClaims k
  s.dropPin k

/-- The trace records of a completed commit (R388 types 0x02 and 0x03). -/
def State.commitTrace (s : State) (k : CoreId) (tag : BitVec 8) (p halt : Bool) (ts : Nat) (pcs : Vector (BitVec 48) 4) : State :=
  match (s.core k).task with
  | none => s
  | some t =>
    let c := s.core k
    let s := s.tansy (dieOf k) t.part 2 k.val 0 t.gang t.idx.toNat c.gen.toNat
      (leBytes 1 tag.toNat ++ leBytes 1 (p.toNat + 2 * halt.toNat + 4 * c.pinned.toNat) ++ leBytes 2 0 ++ leBytes 8 ts ++
        pcs.toList.flatMap fun x => leBytes 8 x.toNat)
    c.reads.foldl (fun s r =>
      match r.writer with
      | some j =>
        if j ≠ k then
          let addr := match r.gran with
            | .line n => n * 64
            | .win _ n => n * 1024
          s.tansy (dieOf k) t.part 3 k.val 0 t.gang t.idx.toNat c.gen.toNat
            (leBytes 8 addr ++ leBytes 8 r.wts ++ leBytes 1 (dieOf j).val ++ leBytes 1 j.val)
        else s
      | none => s) s

/-- R30: the rendezvous completes. -/
def execCommitComplete (k : CoreId) (s : State) : Host.Outcome State Fault Refusal :=
  let c := s.core k
  if !c.ready ∨ !c.isRunning ∨ c.held then .next s
  else
    match c.explicit with
    | [] => .next s
    | r :: _ =>
      let tag := r.2.tag
      let p := r.2.p
      let halt := c.arrivals.any fun a => a.2.kind == .halt
      let drop := match (c.sq 2).arrival with
        | some a => a.drop
        | none => 0
      let ts := match c.ts with
        | .done t => t
        | .idle => 0
        | .claiming _ => 0
      let s := s.commitTrace k tag p halt ts c.nextPcs
      let s := s.releaseEffects k (if ts = 0 then c.pts else ts) tag
      let s := s.modCore k fun c => c.commit k tag p drop
      let s := if c.pinned then s.unpin k else s
      if halt then .next (s.finishTask k)
      else
        match (s.core k).mid with
        | some _ => .next (s.preemptWait k)
        | none => .next (if p && (s.core k).preempt.isSome && !(s.core k).stopped then s.beginSave k 2 else s)

/-! ### Commit B (R306, R340, R345) -/

/-- The core after commit B: steps 1, 5 and 6 of R30 with unchanged program counters, the adopted P, and a barrier's
release time in PTS. Of the signals that the next rc raises, those of the second word are offered, so that they give way to
the first word's on the same counter (R101, R306). -/
def Core.commitB (c : Core) (m : Mid) : Core :=
  let t := match m.wait with
    | .inl _ => c.pts
    | .inr w => match w.released with
      | some (_, t) => max c.pts t
      | none => c.pts
  { (c.modSeq 0 fun q => { q with fresh := true }) with
    cut := { c.cut with gen := c.gen + 1, eng := c.eng, p := m.p }
    gen := c.gen + 1
    pts := t
    mid := none
    raise := c.raise ++ ringSigs m.seqr m.ring
    offered := c.offered ++ compSigs m.seqr m.comp
    retrycnt := 0
    cohcnt := 0
    rgncnt := if m.p then 0 else c.rgncnt
    frec := { c.frec with outst := false }
    lastResult := 0
    lastVec := 0
    parity := []
    dbg := c.stepDone }.count 0x04 0 0 true

/-- The trap of a BAR whose release carried a status (R345). -/
def Mid.trap (m : Mid) : Option Nat :=
  match m.wait with
  | .inl _ => none
  | .inr w => match w.released with
    | some (1, _) => if w.status then none else some 0x71
    | some (2, _) => if w.status then none else some 0x72
    | some _ => none
    | none => none

/-- R306, R340: commit B completes; a BAR with a non-zero status traps at the new cut, and a pending pre-emption is taken
there when P is set. -/
def execCommitBComplete (k : CoreId) (s : State) : Host.Outcome State Fault Refusal :=
  let c := s.core k
  match c.mid with
  | none => .next s
  | some m =>
    match m.doneAt with
    | none => .next s
    | some t =>
      if s.rc < t ∨ !c.isRunning ∨ c.held then .next s
      else
        let s := s.commitTrace k c.cut.tag m.p false 0 c.cut.pcs
        let s := s.modCore k fun c => c.commitB m
        match m.trap with
        | some cause =>
          let w := c.wordsAt m.seqr m.pc
          .next ((s.takeTrap k (Rep.trap cause m.seqr 0 m.pc.toNat w.1 w.2 0)).settle k)
        | none => .next (if m.p && (s.core k).preempt.isSome && !(s.core k).stopped then s.beginSave k 2 else s)

end Sys2Proof.Machine
end

