-- ==== Sys2Proof/Machine/Err.lean ====
section
/-! DEFINITION. Errors and failover (spec/18): detector reports (R348 to R354), retirement requests (R359), the choice of a
spare (R360), Feldspar lanes (R362), the loss of a die (R363, R364), die reset (R365, R366) and split (R367). -/

namespace Sys2Proof.Machine

/-! ### Records -/

/-- The other die. -/
def otherDie (d : Fin 2) : Fin 2 := d + 1

/-- A record with only its kind, partition, core, and an address (R357). -/
def plainRec (kind part core die addr : Nat) : List (BitVec 8) :=
  leBytes 1 kind ++ leBytes 1 0 ++ leBytes 1 part ++ leBytes 1 core ++ leBytes 3 0 ++ leBytes 1 (8 * die) ++ leBytes 32 0 ++
    leBytes 8 addr ++ leBytes 8 0

/-- A record about work of a task that need not be the core's active one: kind, task and generation, the tag with its mark,
RETRYCNT and an address (R357). -/
def workRec (kind : Nat) (p : PartId) (k : CoreId) (gang : BitVec 16) (task : BitVec 4) (d : Fin 2) (retry : Nat)
    (gen : BitVec 32) (tag sec addr : Nat) : List (BitVec 8) :=
  leBytes 1 kind ++ leBytes 1 0 ++ leBytes 1 p.val ++ leBytes 1 k.val ++ leBytes 2 gang.toNat ++ leBytes 1 task.toNat ++
    leBytes 1 (8 * d.val + 16 * retry) ++ leBytes 4 gen.toNat ++ leBytes 1 tag ++ leBytes 2 0 ++ leBytes 1 sec ++
    leBytes 24 0 ++ leBytes 8 addr ++ leBytes 8 0

/-- A corrected error of a core (R349), logged for the partition of the structure it concerns: with the core's task when it is
that task's, else for the partition alone (log 27). -/
def State.correctedFor (s : State) (k : CoreId) (p : PartId) (q : Option (Fin 4)) (addr : Nat) : State :=
  if (s.core k).owner = some p then s.logCore k ⟨1, 0, q, 0, 0, 0, 0, 0, addr, 0⟩
  else s.elog (dieOf k) p (plainRec 1 p.val k.val (dieOf k).val addr)

/-- A corrected error of a core's own registers or stores: logged for its task, else for the partition that ran last on it
(log 27). -/
def State.corrected (s : State) (k : CoreId) (q : Option (Fin 4)) (addr : Nat) : State :=
  s.correctedFor k (((s.core k).owner.orElse fun _ => (s.core k).cntpart).getD 0) q addr

/-- A torn-commit record of a released line (R350). -/
def tornRec (k : CoreId) (d : Fin 2) (retry : Nat) (l : CBLine) : List (BitVec 8) :=
  workRec 9 l.part k l.gang l.task d retry l.gen l.tag.toNat 0 l.addr

/-- A released line dropped: it is never performed, and its claim and the pin token go as if it had been. -/
def State.dropLine (s : State) (k : CoreId) (l : CBLine) : State :=
  let s := s.modCore k fun c => { c with cb := c.cb.filter fun x => x.id != l.id }
  let s := match granOf l.home l.addr with
    | none => s
    | some g => if (s.core k).unperformed g then s else
        let x := s.gran g
        if (x.claim.map Prod.fst) = some k then s.setGran g { x with claim := none } else s
  (if l.pinned then s.freePin k else s).dropWaits fun w => w == .line k l.id

/-- A released line dropped with its torn-commit record, posted by a die. -/
def State.tearLine (s : State) (d : Fin 2) (k : CoreId) (l : CBLine) : State :=
  (s.dropLine k l).elog d l.part (tornRec k d (s.core k).retrycnt.toNat l)

/-! ### Detector reports (R348 to R351, R354) -/

/-- A detected error against an operation of the region in progress, whose record names the operation's address and words. -/
def State.opError (s : State) (k : CoreId) (q : Option (Fin 4)) (pc : BitVec 48) (addr : Nat) : State :=
  let w := match q with
    | some x => (s.core k).wordsAt x pc
    | none => (0, 0)
  s.detectedError k ⟨2, 0, q, 0, 0, pc.toNat, w.1, w.2, addr, 0⟩

/-- The place of the bytes of a stored datum, as a record gives it: a local byte's address. -/
def placeAddr : Place → Nat
  | .byte a => a
  | .sreg _ _ => 0
  | .pred _ _ => 0
  | .latch _ _ => 0
  | .lane _ _ => 0
  | .mask _ => 0
  | .queue _ _ => 0
  | .tile _ _ => 0
  | .acc _ _ => 0
  | .special _ => 0

/-- A part of a wide value replaced by bad bits. -/
def badPart {n : Nat} (v : BitVec n) (w i bad : Nat) : BitVec n := bvSet v (w * i) w bad

/-- The bits of a register's place as they stand. -/
def Core.placeBits (c : Core) (p : Place) : Nat :=
  match p with
  | .sreg q r => ((c.sq q).sreg r).toNat
  | .pred q r => ((c.sq q).pred r).toNat
  | .latch q b => ((c.sq q).b[b]).toNat
  | .lane r i => bvf c.v[r] (32 * i.val) 32
  | .mask m => (c.mask m).toNat
  | .queue _ _ => 0
  | .tile _ _ => 0
  | .acc _ _ => 0
  | .byte _ => 0
  | .special _ => 0

/-- A place with the bad bits that a detector found in it: it keeps them until it is written (R126). A special register's are
not described. -/
def Core.spoil (c : Core) (p : Place) (bad : Nat) : Core :=
  match p with
  | .sreg q r => c.modSeq q fun x => x.setSreg r (BitVec.ofNat 64 bad)
  | .pred q r => c.modSeq q fun x => x.setPred r (bad % 2 = 1)
  | .latch q b => c.modSeq q fun x => { x with b := x.b.set b (BitVec.ofNat 2048 bad) }
  | .lane r i => { c with v := c.v.set r (badPart c.v[r] 32 i.val bad) }
  | .mask m => c.setMask m (BitVec.ofNat 64 bad)
  | .queue q i => c.modQ q fun x => { x with ents := x.ents.mapIdx fun j e =>
      match e with
      | .filled v => if j = i.val then .filled (BitVec.ofNat 2048 bad) else .filled v
      | .reserved => .reserved }
  | .tile t i => { c with tiles := c.tiles.set t { c.tiles[t] with data := badPart (c.tiles[t]).data 8 i bad } }
  | .acc a i => { c with acc := c.acc.set a { c.acc[a] with elem := badPart (c.acc[a]).elem 32 i bad } }
  | .byte a => { c with mem := c.mem.write a (BitVec.ofNat 8 bad) }
  | .special _ => c

/-- Whether an MMA is reading a tile: at its B load, or in its A stream (R205, R215, R216). -/
def MmaSt.readsNow (x : MmaSt) (t : Fin 8) : Bool :=
  (x.stage == .loadB && x.tb == t) || (x.stage == .streamA && (mmaATiles x.entry x.ta x.m).contains t)

/-- The operation that reads a place: the one that the detector names; for a tile, when that is no MMA that names the tile, the
one that is reading it (R205). -/
def Core.reader (c : Core) (o : OpRef) (p : Place) : Option (Fin 4) × BitVec 48 :=
  match p with
  | .tile t _ =>
    if c.mmas.any fun m => m.pc == o.pc && (m.tb == t || (mmaATiles m.entry m.ta m.m).contains t) then (some 2, o.pc)
    else
      match c.mmas.find? fun m => m.readsNow t with
      | some m => (some 2, m.pc)
      | none => (o.seqr, o.pc)
  | _ => (o.seqr, o.pc)

/-- Whether a detected error can be charged to a core's region in progress: it runs, or a trap of this rc has rolled it back,
which the error then takes the place of (R35, R349, R354). -/
def Core.liveRegion (c : Core) : Bool := (c.isRunning && !c.rolled) || !c.trapped.isEmpty

/-- A storage parity error (R351): reported again at the same place for a read in the next run of the region it is stored data
lost, cause 0x83, unless that run had written the place before it read it; otherwise it is a detected error. The run is known by
the counts of replays, and begins after the rc of the first report. The bad bits stay until the place is written (R126), which the
rollback of a trap of this rc may have done. -/
def State.storageError (s : State) (k : CoreId) (o : OpRef) (place : Place) (bad : Nat) (written : Bool) : State :=
  let c := s.core k
  let run := c.retrycnt.toNat + 16 * c.cohcnt
  let (q, pc) := c.reader o place
  let s := if c.notes.bad.contains place ∨ (c.notes.hit.any fun h => h.1 == place) then s
    else s.modCore k fun c => { c.spoil place bad with notes := { c.notes with bad := c.notes.bad ++ [place] } }
  if !written && c.liveRegion && c.parity.any (fun e => e.1 == place && e.2.1 == run && decide (e.2.2 < o.at_)) then
    let w := c.wordsAt (q.getD 0) pc
    s.takeTrap k ⟨0x0D, 0x83, q, 0, 0, pc.toNat, w.1, w.2, placeAddr place, 0⟩
  else if c.liveRegion then
    let s := s.opError k q pc (placeAddr place)
    s.modCore k fun c => { c with parity := c.parity ++ [(place, c.retrycnt.toNat + 16 * c.cohcnt, s.rc)] }
  else s.corrected k q (placeAddr place)

/-- A parity error in the piece a channel moves (R289): read and written again, within RETRYLIM retries; else the copy
fails with cause 0x53. DESIGN CHOICE (log 46): the report names the read of the piece and its source address. -/
def State.pieceError (s : State) (k : CoreId) (x : Fin 4) : State :=
  let c := s.core k
  match (c.chanHeads x).find? fun m => m.phase == .moving with
  | none => s
  | some m =>
    if m.retries < c.retrylim.toNat then
      let (tag, tagcut) := c.regionTag
      let (d, s) := (s.elog (dieOf k) m.part (workRec 1 m.part k m.gang m.task (dieOf k) c.retrycnt.toNat m.gen tag
        (if tagcut then 64 else 0) (m.src + m.cursor))).drawDelay
      s.modCore k fun c => c.putCmd x { m with retries := m.retries + 1, at_ := s.rc + 1 + d }
    else s.copyStop k x m 0x53 (copyDetail x 1 0 0) (m.src + m.cursor)

/-- An error that lies in a channel (R282, R348, R358): against a copy of the region in progress it is a detected error, and where
it retires the core, the commands of committed generations on that channel do not complete but are reported (R290). DESIGN CHOICE
(log 46): their cause is 0x53; an error against a committed command's work is one of its piece. -/
def State.channelError (s : State) (k : CoreId) (x : Fin 4) : State :=
  let c := s.core k
  if c.liveRegion && (c.chans[x]).any fun m => m.cur && m.phase != .queued then
    let t := s.opError k none 0 0
    if (t.core k).retired then
      ((t.core k).chans[x]).foldl (fun t m => t.copyStop k x m 0x53 (copyDetail x 1 0 0) (m.src + m.cursor)) t
    else t
  else s.pieceError k x

/-- The run of the drain path in an rc of the region in progress, or of the one that a rollback of this rc has ended. -/
def Core.drainAt (c : Core) (at_ : Nat) : Option DrainRec :=
  (if c.rolled then c.lastRan else c.ran).find? fun r => decide (r.from_ ≤ at_) && (r.till.map fun t => decide (at_ ≤ t)).getD true

/-- An error of the drain path, or of drain memory as a program is decoded (R224, R241, R348, R354): against the MMA or DRAIN
that started the drain of that rc, whether it still runs or has ended. An error of the path stops it with STOP 4 (R241). DESIGN
CHOICE (log 45): a parity error in a word of drain memory is not one in the drain path, and leaves DRAINPOS as it stands. -/
def State.drainError (s : State) (k : CoreId) (at_ : Nat) (stop : Bool) : State :=
  let c := s.core k
  match (if c.liveRegion then c.drainAt at_ else none) with
  | none => s.corrected k (some 2) 0
  | some d =>
    let s := s.opError k (some 2) d.pc 0
    if stop then s.modCore k fun c => { c with drainpos := drainPos d.acc d.prog d.winNo 4 0 0 } else s

/-- Whether a lane of the mask-guarded instruction issued at an address in an rc takes effect (R168, R185). -/
def Core.laneTook (c : Core) (pc : BitVec 48) (rc : Nat) (lane : Fin 64) : Bool :=
  c.notes.ops.any fun e => e.1 == pc && e.2.1 == rc && bvf e.2.2 lane.val 1 == 1

/-- A parity error in state read by a save or by the migration path (R354, R361): the save restarts from its cut or the
core is retired; a migration aborts the task and marks the core. -/
def State.movedError (s : State) (k : CoreId) : State :=
  match (s.core k).task with
  | none => s
  | some t =>
    match t.phase with
    | .migrating _ => (s.abortTask k 8).modCore k fun c => { c with failed := true }
    | .saving _ depth =>
      let n := (s.core k).retrycnt.toNat + 1
      let s := s.modCore k fun c => { c with retrycnt := BitVec.ofNat 4 n }
      if n ≤ (s.core k).retrylim.toNat then
        let (d, s) := (s.logCore k ⟨2, 0, none, 0, 0, 0, 0, 0, 0, 0⟩).drawDelay
        s.modCore k fun c => { c with task := some { t with phase := .saving (s.rc + 1 + d) depth } }
      else s.retireCore k ⟨2, 0, none, 0, 0, 0, 0, 0, 0, 0⟩
    | .loading _ => s
    | .running => s
    | .held => s

/-- Whether a report of an operation comes too late, beyond the 20 rc of R348: the rc in which a debug stop has held it do not count
for work of C and its engines (R391). -/
def Core.tooLate (c : Core) (rc : Nat) (frozen : Bool) (at_ : Nat) : Bool :=
  decide (at_ + 20 + (if frozen then c.notes.frozenSince at_ else 0) < rc)

/-- R348 to R351: a detector reports, within 20 rc of the operation. Against an operation of the region in progress it is a
detected error; in a lane that does not take effect nothing is reported (R185); what is reloaded or corrected in place is
logged. -/
def execDetectorReport (k : CoreId) (r : Report) (s : State) : Host.Outcome State Fault Refusal :=
  let c := s.core k
  let late (o : OpRef) : Bool := c.tooLate s.rc (o.seqr == some 2) o.at_
  let part (p : Option PartId) : PartId := p.getD c.part
  match r with
  | .operation o =>
    .next (if late o then s else if c.liveRegion then s.opError k o.seqr o.pc 0 else s.corrected k o.seqr 0)
  | .residue o issued lane =>
    .next (if c.tooLate s.rc true o.at_ ∨ !c.laneTook o.pc issued lane then s else if c.liveRegion then s.opError k o.seqr o.pc 0 else s.corrected k o.seqr 0)
  | .drainPath at_ => .next (if c.tooLate s.rc true at_ then s else s.drainError k at_ true)
  | .storage o place bad w => .next (if late o then s else s.storageError k o place bad w)
  | .icache q line =>
    let p := part (((c.ic[q]).toList.flatten.find? fun (y : ICLine) => y.addr == line).map ICLine.part)
    .next ((s.modCore k fun c => { c with
      ic := c.ic.set q ((c.ic[q]).map fun l => l.filter fun (y : ICLine) => y.addr != line) }).correctedFor k p (some q) line)
  | .tlb x i =>
    let e := (c.tlbOf x)[i]?
    .next ((s.modCore k fun c => c.setTlb x ((c.tlbOf x).eraseIdx i)).correctedFor k (part (e.map TlbEnt.part)) none
      ((e.map TlbEnt.vbase).getD 0))
  | .drainMemory decode =>
    .next (match decode with
      | some t => if c.tooLate s.rc true t then s else s.drainError k t false
      | none => s.corrected k (some 2) 0)
  | .piece x => .next (s.pieceError k x)
  | .channel x at_ => .next (if c.tooLate s.rc false at_ then s else s.channelError k x)
  | .cbLine id =>
    match c.cb.find? fun l => l.id == id with
    | none => .next s
    | some l =>
      if l.cur then .next (if c.liveRegion then s.opError k none 0 l.addr else s) else .next (s.tearLine (dieOf k) k l)
  | .hbmLine n => .next (if s.poison.contains n then s else { s with poison := s.poison ++ [n] })
  | .single p a => .next (s.correctedFor k p none a)
  | .flit p a => .next (s.elog (dieOf k) p (plainRec 1 p.val 0xFF (dieOf k).val a))
  | .moved => .next (s.movedError k)

/-! ### Retirement and spares (R358 to R361) -/

/-- R359: CORERET.RETREQ: each named core of the die is retired with no detected error; of a free or a retired core only
the mark changes. -/
def execCoreretRetreq (d : Fin 2) (mask : BitVec 8) (s : State) : Host.Outcome State Fault Refusal :=
  .next ((coresOf d).foldl (fun s k =>
    if bvf mask (k.val % 8) 1 = 0 ∨ (s.core k).retired then s else s.retireCore k ⟨4, 0, none, 0, 0, 0, 0, 0, 0, 0⟩) s)

/-- The spare of a migrating context (R360): a core of the allowance, neither retired nor occupied; its own die first, the
lowest number first. -/
def State.spare (s : State) (x : Saved) : Option CoreId :=
  let ok (k : CoreId) : Bool :=
    let c := s.core k
    bvf (s.die (dieOf k)).partcfg[x.part] (24 + k.val) 1 == 1 && c.task.isNone && c.staged.isNone && !c.retired &&
      !(s.die (dieOf k)).lost && (s.die (dieOf k)).rstphase == 0
  (coresOf (dieOf x.core) ++ coresOf (otherDie (dieOf x.core))).find? ok

/-- Whether a migrating context waits for a record on a spare. -/
def State.unstaged (s : State) (x : Saved) : Bool :=
  x.migrating && !(s.cores.toList.any fun c => match c.staged with
    | some b => b.kind == 4 && b.part == x.part.val && b.save == x.save
    | none => false)

/-- The KIND 4 record of a migrating context, with its partition's limits (R314, R360). -/
def State.migBind (s : State) (x : Saved) : Bind where
  kind := 4
  part := x.part.val
  gang := x.gang
  task := x.idx.toNat
  gsize := x.gsize
  share := x.ctx.share.toNat
  qwpart := x.ctx.qwpart.toNat
  rgnlimit := bvf (s.die (dieOf x.core)).partlim[x.part] 0 24
  retry := bvf (s.die (dieOf x.core)).partlim[x.part] 24 4
  tag := x.tag
  image := x.image
  save := x.save
  regs := x.regs
  bad := false
  table := x.table

/-- R360 step 2: a KIND 4 record for a migrating task is staged on a spare, when there is one. -/
def execMigrationStage (p : PartId) (gang : BitVec 16) (t : Fin 16) (s : State) : Host.Outcome State Fault Refusal :=
  match s.saved.find? fun x => x.part == p && x.gang == gang && x.idx.toNat == t.val && s.unstaged x with
  | none => .next s
  | some x =>
    match s.spare x with
    | none => .next s
    | some k => .next (s.modCore k fun c => { c with staged := some (s.migBind x) })

/-! ### The loss of a die (R363, R364) -/

/-- How a die is lost: a fatal error, a die reset, or the losing side of a split. -/
inductive LossMode where
  | fatal | reset | split
  deriving DecidableEq, Repr

/-- A record to every partition's log of a die. -/
def State.logAll (s : State) (d : Fin 2) (kind : Nat) (enabled : Bool) : State :=
  allCores.foldl (fun s p => if enabled ∧ bvf (s.die d).partcfg[p] 63 1 = 0 then s
    else s.elog d p (plainRec kind p.val 0xFF d.val 0)) s

/-- The die of a home's HBM; none for the other homes. -/
def homeDie (h : Home) (addr : Nat) : Option (Fin 2) :=
  match h with
  | .hbm => some (if addr / 2 ^ 37 % 2 = 1 then 1 else 0)
  | .win _ => none
  | .sysr => none

/-- A task aborted by the loss of a die, as its teams see it at once: the token of a core that is gone does not come (R343). -/
def State.breakTeams (s : State) (k : CoreId) (key : TaskKey) : State := s.teams.foldl (fun s x => s.applyToken k key 3 x.1) s

/-- A context that the loss of die l touches (R355, R363): on l with a fatal error it is gone, else it takes cause 0x81 with its
rollback and report. Its task is Aborted with status 0x06; on the loser of a split the context stays Held, and no request for
it pends any more (R367). -/
def State.loseContext (s : State) (l : Fin 2) (k : CoreId) (mode : LossMode) : State :=
  match (s.core k).task with
  | none => s
  | some t =>
    let there := decide (dieOf k = l)
    let s := if there ∧ mode = .fatal then s
      else ((s.modCore k fun c => { c with rolled := false }).takeTrap k ⟨0x0D, 0x81, none, 0, 0, 0, 0, 0, 0, 0⟩).postTraps k
    if there ∧ mode = .split then
      let s := s.modCore k fun c => { c with
        preempt := none
        task := c.task.map fun y => { y with cancelled := none } }
      let gen := (s.core k).gen
      let s := s.status (dieOf k) 6 t.part.val t.gang t.idx.toNat 0 t.tag gen.toNat
      ((s.contextEvent k t.key gen 9 6).breakTeams k t.key).gangEnd t.key true
    else
      let s := s.abortTask k 6
      if there then s.breakTeams k t.key else s

/-- A saved context that the loss of die l touches: Aborted with status 0x06. -/
def State.loseSaved (s : State) (l : Fin 2) (x : Saved) : State :=
  let s := s.abortSaved x 6
  if dieOf x.core = l then s.breakTeams x.core ⟨x.part, x.gang, x.idx⟩ else s

/-- A gang that the loss of a die has Aborted, with what re-issues it (R364). -/
structure LostTask where
  part : PartId
  gang : BitVec 16
  idx : BitVec 4
  gsize : Nat
  tag : BitVec 16
  image : BitVec 64
  save : BitVec 64
  regs : BitVec 64
  deriving DecidableEq, Repr

/-- A task that is on a lost die but not in a context, with its generation: Aborted with status 0x06, and its teams break
(R343, R363). -/
def State.loseWork (s : State) (v : Fin 2) (k : CoreId) (t : LostTask) (gen : BitVec 32) : State :=
  let key : TaskKey := ⟨t.part, t.gang, t.idx⟩
  let s := s.status v 6 t.part.val t.gang t.idx.toNat 0 t.tag gen.toNat
  ((s.contextEvent k key gen 9 6).breakTeams k key).gangEnd key true

/-- What re-issues a finished task whose work still ran. -/
def Finishing.lost (f : Finishing) : LostTask := ⟨f.part, f.gang, f.idx, f.gsize, f.tag, f.image, f.save, f.regs⟩
/-- What re-issues a task that was staged for a new dispatch. -/
def Bind.lost (b : Bind) : LostTask := ⟨b.pid, b.gang, BitVec.ofNat 4 b.task, b.gsize, b.tag, b.image, b.save, b.regs⟩

/-- The finished tasks of a core whose released work still runs. -/
def Core.lostFinishing (c : Core) : List LostTask := c.finishing.map Finishing.lost
/-- The task of a core's staged record for a new dispatch; a record of another kind names a saved context, which stays. -/
def Core.lostStaged (c : Core) : List LostTask :=
  match c.staged with
  | some b => if b.kind = 1 ∧ b.part < 16 then [b.lost] else []
  | none => []

/-- The finished tasks of a lost die's core Aborted. -/
def State.loseFinishing (s : State) (v : Fin 2) (k : CoreId) : State :=
  ((s.core k).finishing.foldl (fun s f => s.loseWork v k f.lost f.gen) s).modCore k fun c => { c with finishing := [] }

/-- The staged record of a lost die's core dropped. -/
def State.loseStaged (s : State) (v : Fin 2) (k : CoreId) : State :=
  ((s.core k).lostStaged.foldl (fun s t => s.loseWork v k t 0) s).modCore k fun c => { c with staged := none }

/-- A released line of a lost die's core: dropped with its record, or, at a home on that die, with the die. -/
def State.tearFrom (s : State) (v : Fin 2) (k : CoreId) (all : Bool) (l : CBLine) : State :=
  if l.cur then s else if all ∨ homeDie l.home l.addr ≠ some (otherDie v) then s.tearLine v k l else s.dropLine k l

/-- A die's core whose die is gone: nothing of it is left but its counters and marks. Its unperformed lines are dropped, those on
the survivor with KIND 0x09 (R363), or every one when a reset's deadline tears them (R366). -/
def State.loseCore (s : State) (v : Fin 2) (all : Bool) (k : CoreId) : State :=
  let s := (s.core k).cb.foldl (fun s l => s.tearFrom v k all l) s
  let s := (s.loseFinishing v k).loseStaged v k
  (((s.dropClaims k).modCore k fun c => { c with
    cb := []
    chans := Vector.replicate 4 []
    lbuf := []
    walks := []
    prefs := []
    fills := [] }).dropPin k).dropWaits fun w => w.core == k

/-- A core of a split's loser, as the survivor sees it (R363): its claims on the survivor's granules and its lines there go. -/
def State.splitCore (s : State) (v : Fin 2) (k : CoreId) : State :=
  let s := (s.core k).cb.foldl (fun s l => if !l.cur ∧ homeDie l.home l.addr = some v then s.tearLine v k l else s) s
  (((s.loseFinishing v k).loseStaged v k).dropClaims k).dropPin k

/-- A staged record of a survivor's core whose saved context's mask names the lost die (R363): it goes with its task, which is
Aborted, or is refused where its context is a last node record alone. -/
def State.refuseStale (s : State) (l : Fin 2) (k : CoreId) : State :=
  match (s.core k).staged with
  | none => s
  | some b =>
    match (if b.kind = 1 then none else s.savedFor b) with
    | none => s
    | some x =>
      if bvf x.ctx.touched l.val 1 = 0 then s
      else if x.depth = 0 then s.refuse k b 5
      else s.modCore k fun c => { c with staged := none }

/-- The tasks that the loss of a die aborts: those on it, and those whose touched-dies mask names it. -/
def State.lostTasks (s : State) (l : Fin 2) : List LostTask :=
  (allCores.filterMap fun k => (s.core k).task.bind fun t =>
    if dieOf k = l ∨ bvf (s.core k).touched l.val 1 = 1 then
      some ⟨t.part, t.gang, t.idx, t.gsize, t.tag, t.image, t.save, t.regs⟩ else none) ++
  (s.saved.filterMap fun x =>
    if x.depth ≠ 0 ∧ bvf x.ctx.touched l.val 1 = 1 then some ⟨x.part, x.gang, x.idx, x.gsize, x.tag, x.image, x.save, x.regs⟩ else none) ++
  (coresOf l).flatMap fun k => (s.core k).lostStaged

/-- The finished tasks of a die whose released work still runs. -/
def State.lostWork (s : State) (l : Fin 2) : List LostTask := (coresOf l).flatMap fun k => (s.core k).lostFinishing

/-- Whether a virtual address of a partition lies in a die's HBM. -/
def State.inHbm (s : State) (v : Fin 2) (p : PartId) (va : Nat) : Bool :=
  match s.vmap v p .load va with
  | some pa => decide (pa < sysBase) && homeDie .hbm pa == some v
  | none => false

/-- Whether n bytes from the start of a page lie in a die's HBM. -/
def State.allInHbm (s : State) (v : Fin 2) (p : PartId) (va n : Nat) : Bool :=
  (List.range ((n + 65535) / 65536)).all fun i => s.inHbm v p (va + 65536 * i)

/-- Whether a task image lies whole in a die's HBM: its length stands in its header (R315). -/
def State.imageIn (s : State) (v : Fin 2) (p : PartId) (va : Nat) : Bool :=
  s.inHbm v p va && (match s.vread v p 2 (va + 44) 4 with
    | some bs => s.allInHbm v p va (leNat bs)
    | none => false)

/-- The last node record of a gang's task, when it is valid and its save area, image and register block survive (R364). -/
def State.nodeRec (s : State) (v : Fin 2) (t : LostTask) (i : Nat) : Option Bind :=
  match s.saved.find? fun x => x.part == t.part && x.gang == t.gang && x.idx.toNat == i && x.depth != 2 with
  | none => none
  | some x =>
    if s.allInHbm v t.part x.save.toNat (0x1000000 + lscap) ∧ s.imageIn v t.part x.image.toNat ∧ s.inHbm v t.part x.regs.toNat then
      some ⟨3, t.part.val, t.gang, i, t.gsize, x.ctx.share.toNat, x.ctx.qwpart.toNat, bvf (s.die v).partlim[t.part] 0 24,
        bvf (s.die v).partlim[t.part] 24 4, t.tag, x.image, x.save, x.regs, false, false⟩
    else none

/-- Whether the launch record of a task's gang lies in a die's HBM (R364). -/
def State.recordIn (s : State) (v : Fin 2) (t : LostTask) (r : LaunchRec) : Bool :=
  s.launchMem.any fun e => e.1.part == t.part && e.1.tag == t.tag && e.1.image == r.image && e.1.save == r.save &&
    e.1.regs == r.regs && e.2.contains v

/-- The re-issue of an Aborted gang (R364): resumes from its last node records, or its launch record as a new launch, when it and
the image survive, or nothing. The entries go to the survivor's launch queue, which its firmware places. -/
def State.reissue (s : State) (v : Fin 2) (t : LostTask) : State :=
  let rs := (List.range t.gsize).filterMap fun i => s.nodeRec v t i
  let r : LaunchRec := ⟨t.part, t.gsize, t.tag, t.image, t.save - BitVec.ofNat 64 (67108864 * t.idx.toNat),
    t.regs - BitVec.ofNat 64 (1024 * t.idx.toNat)⟩
  let l : List (Sum LaunchRec Bind) :=
    if rs.length = t.gsize then rs.map .inr
    else if s.recordIn v t r && s.imageIn v t.part t.image.toNat then [.inl r]
    else []
  s.modDie v fun x => { x with launchq := x.launchq.set t.part (x.launchq[t.part] ++ l) }

/-- One entry for each gang of a list. -/
def oncePerGang : List LostTask → List LostTask
  | [] => []
  | t :: l => t :: (oncePerGang l).filter fun y => !(y.part == t.part && y.gang == t.gang)

/-- Whether a message is on its way to or from a die. -/
def Msg.ofDie (d : Fin 2) : Msg → Bool
  | .arrival a _ _ _ => dieOf a.core == d
  | .combined e _ _ _ _ => e == d
  | .release c _ _ _ _ _ => dieOf c == d
  | .token c _ _ => dieOf c == d

/-- The teams and the table after die 0 is lost (R363): every entry at EN 0 with its waiting members released, and die 1's
standby copy of the table with EN cleared. -/
def State.takeOver (s : State) : State :=
  let s := s.teams.foldl (fun s x =>
    if x.2.en then
      let s := s.endEpisode x.1 2
      s.setTeam x.1 { s.team x.1 with en := false }
    else s) s
  let s := { s with cores := s.cores.map fun (c : Core) => { c with members := [] } }
  let old := (s.die 0).ttgangs
  (s.modDie 0 fun x => { x with ttgangs := [], ttrun := false, slotEnds := [] }).modDie 1 fun x => { x with
    ttctl := bvSet x.ttctl 63 1 0
    ttrun := false
    ttgangs := x.ttgangs ++ old }

/-- Whether what a command has still to read or write lies, by its partition's tables, in a die's HBM, the leaves of a lost die
taken as they stand. -/
def State.aimsAt (s : State) (l : Fin 2) (k : CoreId) (m : CopyCmd) : Bool :=
  let u := s.modDie l fun x => { x with lost := false }
  let hits (kind : AccKind) (start : Nat) : Bool :=
    let a := start + m.cursor
    (List.range ((start + m.len - 1) / 65536 - a / 65536 + 1)).any fun i =>
      match u.vmap (dieOf k) m.part kind ((a / 65536 + i) * 65536) with
      | some pa => decide (pa < sysBase) && homeDie .hbm pa == some l
      | none => false
  decide (m.cursor < m.len) && ((m.sd && hits .load m.src) || (m.dd && hits .store m.dst))

/-- A core's copies of committed regions that are aimed at a lost die's HBM, dropped (R363). -/
def State.dropAimed (s : State) (l : Fin 2) (k : CoreId) : State :=
  ([0, 1, 2, 3] : List (Fin 4)).foldl (fun s x => ((s.core k).chans[x]).foldl (fun s m =>
    if !m.cur ∧ s.aimsAt l k m then (s.modCore k fun c => c.dropCmd x m).dropWaits fun w => w == .channel k x m.id else s) s) s

/-- A TLB without the leaves of a lost die's HBM (R363). -/
def keepAlive (l : Fin 2) (x : List TlbEnt) : List TlbEnt :=
  x.filter fun e => homeDie .hbm e.pbase != some l || decide (sysBase ≤ e.pbase)

/-- What a survivor's core drops of its own when a die's HBM is gone: released lines and copies aimed at it, and its leaves
(R363); with `torn` each line's record is posted (R366). -/
def State.dropFar (s : State) (l : Fin 2) (torn : Bool) (k : CoreId) : State :=
  let s := (s.core k).cb.foldl (fun s y =>
    if !y.cur ∧ homeDie y.home y.addr = some l then (if torn then s.tearLine (otherDie l) k y else s.dropLine k y) else s) s
  (s.dropAimed l k).modCore k fun c => { c with stlb := c.stlb.map (keepAlive l) }

/-- Whether a launch record's writes to the mirror areas of both dies are performed: while the link is down a write to the partner
waits, and without a partner there is none (R400). -/
def State.mirrored (s : State) (d : Fin 2) (m : Nat × LaunchRec) : Bool :=
  decide (m.1 ≤ s.rc) && (!s.linkDown || (s.die (otherDie d)).lost)

/-- What the survivor adopts of a lost die's launches of a partition (R364): the records whose mirror writes are performed (R400),
in its queue or on their way there, and the bind records that were put back. -/
def State.launches (s : State) (d : Fin 2) (p : PartId) : List (Sum LaunchRec Bind) :=
  (((s.die d).launchq[p]).filter fun e => match e with
    | .inl r => s.launchMem.contains (r, [0, 1])
    | .inr _ => true) ++
  ((s.die d).mirrors.filter fun m => m.2.part == p && s.mirrored d m).map fun m => Sum.inl m.2

/-- The tokens of a lost die's cores that are under way, applied at once: they have been sent (R337, R343). -/
def State.lostTokens (s : State) (l : Fin 2) : State :=
  s.msgs.foldl (fun s m => match m.2 with
    | .token k key ev => if dieOf k = l then s.teams.foldl (fun s x => s.applyToken k key ev x.1) s else s
    | .arrival _ _ _ _ => s
    | .combined _ _ _ _ _ => s
    | .release _ _ _ _ _ _ => s) s

/-- The commands of a core that have started, marked when a die reset begins: they run on (R366). -/
def Core.markOld (c : Core) : Core :=
  { c with chans := c.chans.map fun l => l.map fun (m : CopyCmd) => if m.phase = .queued then m else { m with old := true } }

/-- THE LOSS OF A DIE (R363, R364): what the survivor does. -/
def State.loseDie (s : State) (l : Fin 2) (mode : LossMode) : State :=
  if (s.die l).lost then s
  else
    let v := otherDie l
    let tasks := s.lostTasks l ++ if mode = .reset then [] else s.lostWork l
    let adopted := s.launches l
    let s := s.lostTokens l
    let s := if mode = .reset then { s with cores := s.cores.map Core.markOld } else s
    let s := s.modDie l fun x => { x with lost := true }
    let s := s.modDie v fun x => { x with flstat := bvSet (bvSet x.flstat 29 1 1) 30 1 1 }
    let s := s.logAll v 8 false
    let s := allCores.foldl (fun s p => s.trigger v p 6 0 TrigAt.none) s
    let s := (coresOf l).foldl (fun s k => s.loseContext l k mode) s
    let s := (coresOf l).foldl (fun s k =>
      match mode with
      | .fatal => s.loseCore v false k
      | .split => s.splitCore v k
      | .reset => s.loseStaged v k) s
    let s := (coresOf v).foldl (fun s k => if bvf (s.core k).touched l.val 1 = 1 then s.loseContext l k mode else s) s
    let s := (coresOf v).foldl (fun s k => s.refuseStale l k) s
    let s := (s.saved.filter fun x => x.depth != 0 && bvf x.ctx.touched l.val 1 == 1).foldl (fun s x => s.loseSaved l x) s
    let s := if mode = .reset then s
      else { (coresOf v).foldl (fun s k => s.dropFar l false k) s with routed := s.routed.filter fun r => dieOf r.src != l }
    let s := { s with cores := s.cores.map fun (c : Core) => { c with tlb := keepAlive l c.tlb } }
    let s := if l = 0 then s.takeOver else s
    let s := { s with
      ptpPort := s.ptpPort.map fun p => if p = l then v else p
      msgs := s.msgs.filter fun m => !m.2.ofDie l
      combs := s.combs.filter fun c => c.die != l
      dies := s.dies.set v { s.die v with
        launchq := Vector.ofFn fun p : Fin 16 => ((s.die v).launchq[p]) ++ adopted p }
      launchMem := s.launchMem.map fun (e : LaunchRec × List (Fin 2)) => (e.1, e.2.filter fun d => d != l) }
    let s := s.modDie l fun x => { x with launchq := Vector.replicate 16 [], mirrors := [] }
    (oncePerGang tasks).foldl (fun s t => s.reissue v t) s

/-- R363: a fatal error of a die. -/
def execDieLost (d : Fin 2) (s : State) : Host.Outcome State Fault Refusal := .next (s.loseDie d .fatal)

/-! ### Feldspar lanes and heartbeats (R362, R363) -/

/-- Whether a die's firmware runs (R406). -/
def State.fwRuns (s : State) (d : Fin 2) : Bool := bvf (s.die d).bootstat 28 3 == 3 && !(s.die d).lost && (s.die d).rstphase == 0

/-- The detection of a split (R367): each die sets the four Feldspar crossings of LINKRET.VERT (R410), and its claim time, 2 µs
apart at most. -/
def State.split (s : State) : State :=
  let s := { s with dies := s.dies.map fun (x : Die) => { x with linkret := x.linkret ||| 0x000F0000 } }
  ([0, 1] : List (Fin 2)).foldl (fun s d =>
    let (n, s) := s.drawPick
    let c := ((coresOf d).filter fun k => !(s.core k).retired).length
    s.modDie d fun x => if x.lost ∨ x.claimAt.isSome ∨ x.claimedAt.isSome then x
      else { x with claimAt := some (s.qtime + n % 2000 + 10000 * (8 - c) + 5000 * d.val) }) s

/-- R362: a lane out of a die is retired; the link retrains on the lanes that remain, for 2 µs at most, and with no lane
left the dies split. -/
def execLaneRetire (d : Fin 2) (lane : Fin 4) (s : State) : Host.Outcome State Fault Refusal :=
  let s := s.modDie d fun x => { x with flstat := bvSet x.flstat (4 + lane.val) 1 0 }
  let s := s.modDie (otherDie d) fun x => { x with flstat := bvSet x.flstat lane.val 1 0 }
  if bvf (s.die d).flstat 4 4 = 0 then .next s.split
  else
    let (n, s) := s.drawDelay
    .next (s.modDie d fun x => { x with retrain := some (s.qtime + n % 2001) })

/-- R362: the link has retrained: RETRAINS counts on both dies, and KIND 0x0B goes to every enabled partition's log. -/
def execLaneRetrainComplete (d : Fin 2) (s : State) : Host.Outcome State Fault Refusal :=
  match (s.die d).retrain with
  | none => .next s
  | some t =>
    if s.qtime < t then .next s
    else
      let up (x : Die) : Die := { x with flstat := bvSet x.flstat 8 16 (min 0xFFFF (bvf x.flstat 8 16 + 1)) }
      let s := (s.modDie d fun x => { up x with retrain := none }).modDie (otherDie d) up
      .next (s.logAll d 0xB true)

/-- R363: a die's heartbeat reaches its partner over live lanes. -/
def execHeartbeat (d : Fin 2) (s : State) : Host.Outcome State Fault Refusal :=
  if !s.fwRuns d ∨ bvf (s.die d).flstat 4 4 = 0 then .next s
  else
    .next ((s.modDie d fun x => { x with hbSent := s.qtime }).modDie (otherDie d) fun x => { x with hbSeen := s.qtime })

/-- R363: 100 µs without a heartbeat from a partner whose lanes are live count as its loss. -/
def execHeartbeatTimeout (d : Fin 2) (s : State) : Host.Outcome State Fault Refusal :=
  if s.fwRuns d ∧ bvf (s.die d).flstat 0 4 ≠ 0 ∧ !(s.die (otherDie d)).lost ∧ (s.die d).hbSeen + 100000 ≤ s.qtime then
    .next (s.loseDie (otherDie d) .fatal)
  else .next s

/-! ### Split (R367) -/

/-- R367 step 3: at its claim time a die drives its pin low, unless the partner's is low. -/
def execSplitClaim (d : Fin 2) (s : State) : Host.Outcome State Fault Refusal :=
  match (s.die d).claimAt with
  | none => .next s
  | some t =>
    if s.qtime < t then .next s
    else
      .next (s.modDie d fun x =>
        if (s.die (otherDie d)).pinLow ∨ x.lost then { x with claimAt := none }
        else { x with claimAt := none, pinLow := true, claimedAt := some s.qtime })

/-- R367 step 4: 4 µs after claiming, a die other than die 0 withdraws when the partner claims too. -/
def execSplitClaimCheck (d : Fin 2) (s : State) : Host.Outcome State Fault Refusal :=
  match (s.die d).claimedAt with
  | none => .next s
  | some t =>
    if t + 4000 ≤ s.qtime ∧ d = 1 ∧ (s.die 0).pinLow then .next (s.modDie d fun x => { x with pinLow := false, claimedAt := none })
    else .next s

/-- R367 steps 5 and 6: the die that holds its claim 8 µs after claiming has won: the partner is lost, its contexts Held,
and its Tansy rings triggered and frozen at once (R389). -/
def execSplitWon (d : Fin 2) (s : State) : Host.Outcome State Fault Refusal :=
  match (s.die d).claimedAt with
  | none => .next s
  | some t =>
    if s.qtime < t + 8000 ∨ !(s.die d).pinLow then .next s
    else
      let o := otherDie d
      let s := s.modDie d fun x => { x with flstat := bvSet (bvSet x.flstat 31 1 1) 30 1 1, claimedAt := none }
      let s := s.logAll d 0xA false
      let s := s.loseDie o .split
      let s := allCores.foldl (fun s p => s.trigger o p 6 0 TrigAt.none) s
      .next (s.modDie o fun x => { x with
        flstat := bvSet x.flstat 31 1 1
        claimAt := none
        tnfreeze := Vector.replicate 16 none
        tnstat := x.tnstat.map fun r => bvSet r 63 1 1 })

/-! ### Die reset (R365, R366) -/

/-- Whether a transaction crosses Feldspar (R366 phase 3): lines, loads, started copies and their pieces, fills and walks. -/
def State.feldsparBusy (s : State) : Bool :=
  allCores.any fun k =>
    let c := s.core k
    c.cb.any (fun l => !l.cur && farHome k l.home l.addr) || (c.loads.any fun l => l.pieces.any fun p => farHome k p.home p.addr) ||
      (c.chans.toList.any fun l => l.any fun m => !m.cur && m.phase != .queued &&
        (s.aimsAt (otherDie (dieOf k)) k m || (m.route.map Prod.snd).getD 0 != 0)) ||
      (s.routed.any fun r => r.src == k && dieOf r.dst != dieOf k) || (c.fills.any fun f => (f.pa.map (farAddr k)).getD false) ||
      c.walks.any fun w => w.started && s.walkFar (dieOf k) w.part (w.vpage * 65536)

/-- The fence of a die reset (R366 phases 4 and 5): transactions in flight are dropped with KIND 0x09, and the die stands
at its reset values until it is released (R12). The registers that die 0 keeps for the package go with it: the step and shadow
registers, and the group table's entries but for those that die 1 has enabled since it took the table over. -/
def State.fence (s : State) (d : Fin 2) : State :=
  let v := otherDie d
  let tasks := s.lostWork d
  let s := (coresOf d).foldl (fun s k => s.loseCore v true k) s
  let s := (coresOf v).foldl (fun s k => s.dropFar d true k) s
  let s := { s with
    cores := Vector.ofFn fun k : Fin 16 => if dieOf k = d then Core.reset else s.core k
    dies := s.dies.set d { Die.reset with lost := true, rstphase := 5 }
    routed := s.routed.filter fun r => dieOf r.src != d && dieOf r.dst != d
    shoots := s.shoots.filter fun x => x.die != d }
  let s := if d = 0 then { s with qstep := 0, shtime := 0, shctl := 0, teams := s.teams.filter fun e => e.2.en } else s
  (oncePerGang tasks).foldl (fun s t => s.reissue v t) s

/-- A GO of RSTCTL (R365, R366 phase 1). -/
def State.resetGo (s : State) (d : Fin 2) (force : Bool) : State :=
  if (s.die d).rstphase ≠ 0 then s
  else
    let s := s.loseDie d .reset
    let s := s.modDie d fun x => { x with rstphase := 2, rstQdl := s.qtime + 1000 * bvf x.rstctl 0 20 }
    if force then s.fence d else s

/-- R366: RSTCTL.GO. -/
def execDieResetGo (d : Fin 2) (s : State) : Host.Outcome State Fault Refusal := .next (s.resetGo d false)
/-- R365: RSTCTL.GO with FORCE: phases 2 and 3 are skipped. -/
def execDieResetForce (d : Fin 2) (s : State) : Host.Outcome State Fault Refusal := .next (s.resetGo d true)

/-- The released lines of a core that are still to be performed, performed in order: those of a drain that ends before its
deadline, of which none is torn (R366). -/
def State.finishLines (s : State) (k : CoreId) : State :=
  (s.core k).cb.foldl (fun s l => if l.cur then s else s.putLine k l false) s

/-- R366 phase 3: no transaction of either die crosses Feldspar; the drain has ended. -/
def execDieResetQuiet (d : Fin 2) (s : State) : Host.Outcome State Fault Refusal :=
  .next (if (s.die d).rstphase = 2 ∧ s.feldsparBusy = false then ((coresOf d).foldl State.finishLines s).fence d else s)

/-- R366 phase 3: QDEADLINE µs have passed since GO. -/
def execQdeadline (d : Fin 2) (s : State) : Host.Outcome State Fault Refusal :=
  .next (if (s.die d).rstphase = 2 ∧ (s.die d).rstQdl ≤ s.qtime then s.fence d else s)

end Sys2Proof.Machine
end

