-- ==== Sys2Proof/Machine/Power.lean ====
section
/-! DEFINITION. Power levels and clocks (spec/19): the power controller's grant (R370), floors and divisors (R371), quiesce
points (R372), and switch points (R376). -/

namespace Sys2Proof.Machine

/-! ### Grants -/

/-- A die's current and thermal caps after a re-evaluation: the sensors are not described, so what they say is free
(log 3); the thermal cap stays set for ten intervals (R370). -/
def Die.caps (x : Die) (n : Nat) : Die :=
  let ta := x.tahold != 0 || n / 8 % 2 == 1
  { x with
    tahold := if x.tahold ≠ 0 then x.tahold - 1 else if n / 8 % 2 = 1 then 10 else 0
    pwrcap := bvSet (bvSet (bvSet (bvSet x.pwrcap 15 1 (n % 2)) 12 2 (n / 2 % 4)) 11 1 (if ta then 1 else 0)) 8 2 (n / 16 % 4) }

/-- The level a die grants and its source (R370): 0 nominal, 1 boost, 2 thermal cap, 3 current cap. -/
def grantOf (r : BitVec 32) : Nat × Nat :=
  let ca := bvf r 15 1 == 1
  let ta := bvf r 11 1 == 1
  let nom := bvf r 0 2
  if !ca && !ta then (if bvf r 7 1 = 1 then (3, 1) else (nom, 0))
  else
    let g := if ca then min nom (bvf r 12 2) else nom
    let g := if ta then min g (bvf r 8 2) else g
    (g, if ca && bvf r 12 2 == g then 3 else if ta && bvf r 8 2 == g then 2 else 0)

/-- A grant reaching a core: pending while it differs from the level in force (R372). -/
def Core.granted (c : Core) (g : Nat × Nat) : Core :=
  let l := BitVec.ofNat 2 g.1
  let src := BitVec.ofNat 2 g.2
  if l = c.level then { c with grant := none, src := src } else { c with grant := some (l, src) }

/-- R370: one grant for all cores of the die. -/
def execPowerGrant (d : Fin 2) (s : State) : Host.Outcome State Fault Refusal :=
  let (n, s) := s.drawPick
  let s := s.modDie d fun x => x.caps n
  let g := grantOf (s.die d).pwrcap
  .next ((coresOf d).foldl (fun s k => s.modCore k fun c => c.granted g) s)

/-! ### Quiesce points -/

/-- The floor of a domain at a level (R371), domains control, vector, matrix, copy. -/
def floorDiv (level : Nat) (i : Fin 4) : Nat :=
  match level with
  | 3 => 1
  | 2 => if i = 2 then 2 else 1
  | 1 => if i = 2 then 4 else 2
  | _ => if i = 2 then 8 else 4

/-- The effective divisor of a domain (R371). -/
def divOf (level : Nat) (clkdiv : BitVec 32) (i : Fin 4) : Nat := max (floorDiv level i) (bvf clkdiv (4 * i.val) 3 + 1)

/-- Whether a piece or a Feldspar request of a core is crossing its domains' boundary (R372): a copy's piece, its last one too; a
routed piece; the requests of released lines, loads, fills and walks that are out; and the value of an atomic on its way back. -/
def State.crossing (s : State) (k : CoreId) : Bool :=
  let c := s.core k
  c.chans.toList.any (fun l => l.any fun m => (m.phase == .moving || m.phase == .releasing) && decide (0 < m.cursor ∧ s.rc < m.at_)) ||
    s.routed.any (fun r => r.src == k) ||
    (c.cb.any fun l => !l.cur && decide (s.rc < l.at_) && farHome k l.home l.addr) ||
    (c.loads.any fun l => decide (s.rc < l.at_) && l.pieces.any fun p => farHome k p.home p.addr) ||
    (c.fills.any fun f => decide (s.rc < f.at_) && (f.pa.map (farAddr k)).getD false) ||
    (c.walks.any fun w => w.started && decide (s.rc < w.at_) && s.walkFar (dieOf k) w.part (w.vpage * 65536)) ||
    (match c.mid with
     | some m => match m.wait with
       | .inl w => w.far && (w.returned.map fun r => decide (s.rc < r.2)).getD false
       | .inr _ => false
     | none => false)

/-- R372: the first rc in which nothing crosses and every domain has an edge: the pending level and divisors hold from
the next rc, and every domain has an edge then (log 11). -/
def execQuiescePoint (k : CoreId) (s : State) : Host.Outcome State Fault Refusal :=
  let c := s.core k
  if !c.changing ∨ s.crossing k ∨ !(c.clocks.toList.all ClkSt.edge) then .next s
  else
    .next (s.modCore k fun c =>
      let (level, src) := c.grant.getD (c.level, c.src)
      { c with
        level := level
        src := src
        grant := none
        clkpend := false
        clocks := Vector.ofFn fun i : Fin 4 => { c.clocks[i] with div := divOf level.toNat c.clkdiv i, next := s.rc + 1 } })

/-! ### Switch points -/

/-- The two lines of a switch table, read as an instruction fetch through K's I-cache (R115, R377). -/
def State.fetchTable (s : State) (va : Nat) : Fetched :=
  match s.fetchWord s.curCore 0 va false with
  | .words _ _ s => s.fetchWord s.curCore 0 (va + 64) false
  | .miss s => .miss s
  | .fault va f s => .fault va f s

/-- A counter of the table, from the line that holds it. -/
def Core.tableWord (c : Core) (va : Nat) : Nat :=
  match c.icLine 0 c.part va with
  | some l => l.data.toNat / 2 ^ (8 * (va % 64)) % 2 ^ 48
  | none => 0

/-- R376, R377: K reads its switch table as an instruction fetch, checks it, and arrives at the rendezvous. -/
def execSwpt (h : Hdr) (a : Sel) (s : State) : Host.Outcome State Fault Refusal :=
  issue { op1 h [a] [] [] with arr := true } (fun s =>
    let va := (s.val [a] 0).toNat % 2 ^ 48
    if va % 128 ≠ 0 then .trap 0x20 0 va s
    else
      match s.fetchTable va with
      | .miss s => .stall 1 s
      | .fault va f s => let r := s.xlateTrap s.curCore 0 va .fetch f; .trap r.2.1 r.2.2 va r.1
      | .words _ _ s =>
        let t := (List.range 16).map fun i => s.me.tableWord (va + 8 * i)
        match t.find? fun x => x % 4 != 0 with
        | some x => .trap 0x12 0 x s
        | none => .done s (.arrive ⟨.swpt (t.map (BitVec.ofNat 48)), 0, false, 0, h.ring, compNone⟩) true) s

end Sys2Proof.Machine
end

