-- ==== Sys2Proof/Machine/Count.lean ====
section
/-! DEFINITION. Observation (spec/20): unit classes (R378, R379), the shadow trigger (R386), the Tansy recorder (R387 to
R389), debug stops, steps and dumps (R390 to R394). -/

namespace Sys2Proof.Machine

/-! ### Unit classes (R378, R379) -/

/-- A unit's class set. -/
def Core.setCls (c : Core) (u : Fin 12) (n : Nat) : Core := { c with units := c.units.set u { c.units[u] with cls := n } }

/-- Whether a unit waits on a wake that has not ended. -/
def State.onWake (s : State) (w : Waiter) : Bool :=
  s.cores.toList.any fun c => c.banks.any fun b => b.2.state == .waking && b.2.waiters.contains w

/-- The class of the matrix engine. -/
def Core.matrixCls (c : Core) : Nat :=
  match c.mmas.head? with
  | none => 1
  | some m => if m.stage = .waitB ∨ m.stage = .waitA then 2 else 0

/-- The queue that a running drain's next element is held on, from the cycle in which it is due. -/
def State.drainQueue (s : State) (k : CoreId) (d : DrainSt) : Option (Fin 8) :=
  ([6, 7] : List (Fin 8)).find? fun q => s.elemDue k d && decide (d.done % 64 = 0) && !((s.core k).q[q]).room &&
    (progOf d.words).any fun o => match o with
      | .stq _ x => x == q
      | _ => false

/-- The class of the drain path. -/
def State.drainCls (s : State) (k : CoreId) : Nat :=
  let c := s.core k
  match c.runningDrain with
  | some d =>
    match s.drainQueue k d with
    | some q => 0x10 + 8 + q.val
    | none => if s.onWake (.drain k) then 0x10 + 23
        else if d.done = 0 ∧ d.acq ∧ s.coreFloor k d.scope = false then 0x10 + 26 else 0
  | none => if c.drains.isEmpty then 1 else 2

/-- The class of a command at the head of a channel that performs no work in the rc: a piece that has been asked for moves; one that
a change of divisors, the link, a walk or another's claim keeps from starting is held by what it shares. -/
def State.cmdCls (s : State) (k : CoreId) (x : Fin 4) (m : CopyCmd) : Nat :=
  if s.onWake (.channel k x m.id) then 0x10 + 23
  else
    match m.phase with
    | .queued => if m.deferred && m.cur then 1 else 2
    | .acquire => 0x10 + 26
    | .moving => if s.rc < m.at_ then 0 else 2
    | .flying => 0
    | .releasing => if m.rel then 0x10 + 26 else 0
    | .reporting => 0

/-- The class of a copy channel: that of the first of its heads that is not empty. -/
def State.chanCls (s : State) (k : CoreId) (x : Fin 4) : Nat :=
  ((((s.core k).chanHeads x).map (s.cmdCls k x)).find? fun n => n != 1).getD 1

/-- The class of the commit buffer: held for the line's order or floor, on a wake, or by Feldspar. -/
def State.cbCls (s : State) (k : CoreId) : Nat :=
  match (s.core k).cb.find? fun l => !l.cur with
  | none => 1
  | some l =>
    if !s.lineOrdered k l then 0x10 + 26
    else if s.onWake (.line k l.id) then 0x10 + 23
    else if s.lineHeld k l then 2 else 0

/-- The class of the launch buffer in an rc in which it posts no record: one that a commit releases in this rc is queued for the
next. -/
def State.launchCls (s : State) (k : CoreId) : Nat :=
  match (s.core k).lbuf.find? fun l => !l.cur with
  | none => 1
  | some l => if (s.die (dieOf k)).queueFull l.rec_.part then 2 else 1

/-- The domain of a unit. -/
def unitDom (u : Fin 12) : Dom :=
  if u = 2 then .vector else if u = 4 ∨ u = 5 then .matrix else if 6 ≤ u.val ∧ u.val < 10 then .copy else .control

/-- An engine's class in an rc: 0 when it has performed work, else that of what it waits for. -/
def State.engineCls (s : State) (k : CoreId) (u : Fin 12) : Nat :=
  if (s.core k).worked.contains u then 0
  else if u = 4 then (s.core k).matrixCls
  else if u = 5 then s.drainCls k
  else if u.val < 10 then s.chanCls k (Fin.ofNat 4 (u.val - 6))
  else if u = 10 then s.cbCls k else s.launchCls k

/-- Whether a unit is halted or frozen by a debug stop (R391): not a sequencer that a step has tried, nor the vector and matrix
domains in the cycle of a step of C (R393). -/
def Core.frozen (c : Core) (u : Fin 12) : Bool :=
  c.stopped && (if u.val < 4 then c.tried.map Fin.val != some u.val
    else if u.val < 6 then !(c.clk .matrix).edge
    else bvf c.dbgctl 28 1 == 1)

/-- All units. -/
def allUnits : List (Fin 12) := [0, 1, 2, 3, 4, 5, 6, 7, 8, 9, 10, 11]

/-- The classes of an rc (R379): every unit of a core with an active context takes one, a unit without an edge keeps its last,
and so does every unit in the rc of a rollback; the lost-time counters and the class window count it (R382, R388). Sequencers
have theirs from their issue. -/
def State.classify (s : State) (k : CoreId) : State :=
  if (s.core k).task.isNone then s
  else
    allUnits.foldl (fun s u =>
      let c := s.core k
      let n := if c.frozen u then 3
        else if u.val < 4 ∨ c.rolled ∨ !(c.clk (unitDom u)).edge then (c.units[u]).cls else s.engineCls k u
      s.modCore k fun c =>
        let x := c.units[u]
        let c := { c with units := c.units.set u ⟨n, alSet x.counts n (alGet x.counts n 0 + 1)⟩ }
        let c := c.count 0x03 u.val n true
        if 0x10 ≤ n then c.count 0x03 u.val 0xFF true else c) s

/-! ### The shadow trigger (R386) -/

/-- R386: SHCTL.GO arms both dies, unless a trigger is armed. -/
def execShctlGo (s : State) : Host.Outcome State Fault Refusal :=
  .next (if bvf s.shctl 30 1 = 1 then s
    else { s with
      shctl := 0x40000000
      dies := s.dies.map fun (d : Die) => { d with sharmed := !d.lost } })

/-- A counter as its shadow keeps it. -/
def shadowOf (cfg : BitVec 32) (v : BitVec 64) : BitVec 64 := bvSet (v &&& 0x0001FFFFFFFFFFFF) 59 5 (bvf cfg 24 5)

/-- R386: a die latches every counter of its cores in the first rc at or after the time. -/
def execShadowLatch (d : Fin 2) (s : State) : Host.Outcome State Fault Refusal :=
  if !(s.die d).sharmed ∨ s.qtime < s.shtime.toNat then .next s
  else
    let s := (coresOf d).foldl (fun s k => s.modCore k fun c => { c with
      cntshd := Vector.ofFn fun i : Fin 8 => shadowOf c.cntcfg[i] c.cntval[i] }) s
    let s := s.modDie d fun x => { x with sharmed := false, shlat := BitVec.ofNat 64 s.qtime }
    .next (if s.dies.toList.any fun x => x.sharmed then s else { s with shctl := 0x20000000 })

/-! ### The Tansy recorder (R387 to R389) -/

/-- The class held for the most rc, the lower code winning a tie, and the rc of class 0. -/
def UnitCls.summary (x : UnitCls) : Nat × Nat :=
  let best := x.counts.foldl (fun (r : Nat × Nat) (e : Nat × Nat) => if r.2 < e.2 then e else r) (x.cls, 0)
  (best.1, min 0xFFFF (alGet x.counts 0 0))

/-- R388: the class summary of a core at the end of its window. -/
def execTansyClassSummary (k : CoreId) (s : State) : Host.Outcome State Fault Refusal :=
  let c := s.core k
  let win := 2 ^ (bvf (s.die (dieOf k)).tncfg[c.part] 52 4 + 8)
  let s := match c.task with
    | none => s
    | some t =>
      let body := c.units.toList.flatMap fun (x : UnitCls) => leBytes 1 x.summary.1 ++ leBytes 2 x.summary.2
      s.tansy (dieOf k) t.part 1 k.val 0 t.gang t.idx.toNat c.gen.toNat (body ++ leBytes 4 win)
  .next (s.modCore k fun c => { c with units := c.units.map fun (x : UnitCls) => { x with counts := [] } })

/-- R387: room has returned, and the records lost since the last lost record are told. -/
def execTansyLostRecord (d : Fin 2) (p : PartId) (s : State) : Host.Outcome State Fault Refusal :=
  let n := (s.die d).tnroom[p]
  .next (if n = 0 then s
    else (s.modDie d fun x => { x with tnroom := x.tnroom.set p 0 }).tansy d p 7 0xFF 0 0 0 0 (leBytes 8 n))

/-- R389: an incident trigger by the debug port. -/
def execIncidentTrigger (d : Fin 2) (p : PartId) (s : State) : Host.Outcome State Fault Refusal := .next (s.trigger d p 0 0 TrigAt.none)

/-- R389: POST µs after the trigger the ring is frozen. -/
def execTansyPostExpiry (d : Fin 2) (p : PartId) (s : State) : Host.Outcome State Fault Refusal :=
  match (s.die d).tnfreeze[p] with
  | none => .next s
  | some t =>
    .next (if s.qtime < t then s
      else s.modDie d fun x => { x with
        tnfreeze := x.tnfreeze.set p none
        tnstat := x.tnstat.set p (bvSet x.tnstat[p] 63 1 1) })

/-- R389: a write of 1 to FROZEN resumes recording and clears TRIGD and LOST. -/
def execTansyResume (d : Fin 2) (p : PartId) (s : State) : Host.Outcome State Fault Refusal :=
  .next (s.modDie d fun x => { x with
    tnstat := x.tnstat.set p 0
    tnfreeze := x.tnfreeze.set p none })

/-! ### Debug stops and steps (R390 to R393) -/

/-- Whether the debug port may act on a core's task (R390). -/
def State.debugOk (s : State) (k : CoreId) : Bool :=
  (s.core k).task.isSome && bvf (s.die (dieOf k)).dbgperm (s.core k).part.val 1 == 1

/-- R391: DBGCTL.STOPREQ: a stop triggered by K. -/
def execStopreq (k : CoreId) (s : State) : Host.Outcome State Fault Refusal :=
  .next (if s.debugOk k && (s.core k).isRunning then s.modCore k fun c => c.askStop 0 else s)

/-- Whether a requested stop has reached its boundary (R391): the rc after the end test of the innermost loop, or at once
without a loop; a rendezvous at which all four have arrived completes first (R392). -/
def Core.stopDue (c : Core) : Option (Fin 4) :=
  if c.allArrived || c.ready || !c.isRunning then none
  else
    match c.dbg with
    | .due q => some q
    | .pending q => if (c.sq q).live.isEmpty then some q else none
    | .running => none
    | .stopped _ => none
    | .stepping _ => none
    | .blocked => none

/-- R391: the four sequencers halt at their heads; a speculation of L is discarded (log 20). -/
def execDebugStop (k : CoreId) (s : State) : Host.Outcome State Fault Refusal :=
  .next (s.modCore k fun c => match c.stopDue with
    | some q => { c with dbg := .stopped q, stopped := true, spec := none }
    | none => c)

/-- R391: DBGCTL.RUN ends a stop, with the end of this rc; a step under way is over, and what it has left is the region's (R393). -/
def execRun (k : CoreId) (s : State) : Host.Outcome State Fault Refusal :=
  .next (if s.debugOk k && (s.core k).stopped then s.modCore k fun c => { c.stepOver with
      dbg := .running
      stepOff := false
      dbgctl := if c.stepOff then bvSet c.dbgctl 27 1 0 else c.dbgctl }
    else s)

/-- R390: DSTATE of DBGCTL: running, stop pending, stopped, stepping, step blocked. -/
def Core.dstate (c : Core) : Nat :=
  match c.dbg with
  | .running => 0
  | .pending _ => 1
  | .due _ => 1
  | .stopped _ => 2
  | .stepping _ => 3
  | .blocked => 4

/-- R390: the value that DBGCTL reads: its fields, with DSTATE in place; BLKFLAG shows a blocked step alone. -/
def Core.dbgRead (c : Core) : BitVec 32 :=
  let v := bvSet c.dbgctl 8 4 c.dstate
  if c.dbg = .blocked then v else bvSet v 16 5 0

/-- The sequencer that is stepped (R390). -/
def Core.stepSeq (c : Core) : Fin 4 := Fin.ofNat 4 (bvf c.dbgctl 24 2)

/-- R393: DBGCTL.STEP: the head instruction of STEPSEQ issues when R99 allows it; for C the vector and matrix domains take one
cycle. -/
def execStep (k : CoreId) (s : State) : Host.Outcome State Fault Refusal :=
  let c := s.core k
  if !s.debugOk k ∨ !c.stopped ∨ bvf c.dbgctl 27 1 = 0 ∨ c.stepping ∨ c.dbg = .running then .next s
  else
    .next (s.modCore k fun c => { c with
      dbg := .stepping false
      stepBase := some ⟨c.nextId, c.reads⟩
      reads := []
      clocks := if c.stepSeq = 2 then Vector.ofFn fun i : Fin 4 =>
          let x := c.clocks[i]
          if i = 1 ∨ i = 2 then { x with cyc := x.cyc + 1, edge := true } else x
        else c.clocks })

/-- The outcome of a stepped sequencer's cycle, whose class is n (R393): an instruction that could not issue, or that arrived at
a rendezvous, leaves the step blocked with its flag; C's step is over with its cycle, whether or not an instruction issued in it. -/
def Core.stepped (c : Core) (q : Fin 4) (n : Nat) : Core :=
  if c.dbg ≠ .stepping false ∨ c.stepSeq ≠ q then c
  else
    let c := { c with tried := some q }
    let block (n : Nat) : Core := { c.stepOver with dbg := .blocked, dbgctl := bvSet c.dbgctl 16 5 (n - 16) }
    if (c.sq q).arrival.isSome then block (0x10 + 26)
    else if q = 2 then { c.stepOver with dbg := .stopped 2 }
    else if n ≠ 0 then block n
    else { c with dbg := .stepping true }

/-- A cycle of a branch's cost paid in a step (R104, R393): C's step is over with its cycle; K, L and S go on to their heads. -/
def Core.stepPaid (c : Core) (q : Fin 4) : Core :=
  if c.dbg = .stepping false ∧ c.stepSeq = q ∧ q = 2 then { c.stepOver with dbg := .stopped 2, tried := some q } else c

/-- Whether the results of a stepped instruction have been produced, so that only its window and timestamp are to come. -/
def Core.stepQuiet (c : Core) : Bool :=
  c.dbg == .stepping true && c.loads.isEmpty && c.tloads.isEmpty && c.offered.isEmpty && (c.sq c.stepSeq).pend.isEmpty

/-- The step commit (R393): with the stepped instruction's windows closed, its own lines, copy and launch record are released; those
of the region before it stay. -/
def State.stepCommit (s : State) (k : CoreId) : State :=
  let c := s.core k
  let done := !c.timedRegion || (match c.ts with
    | .done _ => true
    | .idle => false
    | .claiming _ => false)
  if c.stepQuiet && done && decide (c.lastResult = 0 ∨ c.lastResult + 20 ≤ s.rc) then
    let ts := match c.ts with
      | .done t => t
      | .idle => c.pts
      | .claiming _ => c.pts
    (s.releaseEffects k ts c.cut.tag).modCore k fun c => { { c with reads := [] }.stepOver with
      dbg := .stopped c.stepSeq
      ts := .idle
      lastResult := 0 }
  else s

/-- A context as a dump holds it (R394): without the current region's lines, deferred copies and launch records, which stand
beside it. -/
def Core.dumped (c : Core) : Core :=
  { c with
    cb := c.cb.filter fun l => !l.cur
    chans := c.chans.map fun l => l.filter fun (m : CopyCmd) => !(m.cur && m.deferred)
    lbuf := c.lbuf.filter fun l => !l.cur }

/-- A partition's device memory as of its last completed commit (R394): the bytes of its allotment, with its lines that are
released and not yet performed applied in the order of their times. -/
def State.deviceView (s : State) (d : Fin 2) (p : PartId) : Mem :=
  let l := allCores.flatMap fun k => ((s.core k).cb.filter fun l => !l.cur && l.part == p).map fun l => (k, l)
  let t := (l.mergeSort fun a b => decide (a.2.ts ≤ b.2.ts)).foldl (fun (t : State) x => t.applyLine x.1 x.2) s
  t.mem.filter fun x => s.inAllot d p x.1 x.1

/-- The dump of a context of a partition on a core (R394). -/
def State.dumpOf (s : State) (k : CoreId) (p : PartId) (c : Core) : Dump where
  core := k
  ctx := c.dumped
  lines := c.cb.filter CBLine.cur
  copies := c.chans.toList.flatMap fun l => l.filter fun m => m.cur && m.deferred
  launches := c.lbuf.filter LaunchEnt.cur
  counters := (([0, 1, 2, 3, 4, 5, 6, 7] : List (Fin 8)).filter fun i => bvf (s.core k).cntcfg[i] 24 5 == p.val).map fun i =>
    (i, (s.core k).cntcfg[i], (s.core k).cntval[i])
  view := s.deviceView (dieOf k) p
  port := bvf (s.die (dieOf k)).dbgperm p.val 1 == 1

/-- R394: the dumps of a core's stopped or Held task, and of every context saved from it: the firmware takes any of them, the debug
port those of the partitions that it may act on (R390). -/
def execDump (k : CoreId) (s : State) : Host.Outcome State Fault Refusal :=
  let c := s.core k
  let here := match c.task with
    | some t => if t.phase = TaskPhase.held ∨ c.stopped = true then [s.dumpOf k t.part c] else []
    | none => []
  let saved := (s.saved.filter fun (x : Saved) => x.core == k && x.depth != 0).map fun (x : Saved) => s.dumpOf k x.part x.ctx
  .next { s with dump := here ++ saved }

end Sys2Proof.Machine
end

