-- ==== Sys2Proof/Machine/Crypto.lean ====
section
/-! DEFINITION. The verification functions of boot (R406, R407), which the spec names by their standards: SHA-384 and
SHA-256 (FIPS 180-4), ECDSA on P-384 (FIPS 186-5) and the Leighton-Micali scheme (RFC 8554) with the SHA-256/192 parameter
sets of SP 800-208. Their text is the standards' own, not the spec's (log 12). -/

namespace Sys2Proof.Machine

/-! ### SHA-2 -/

/-- A number as n bytes, most significant first. -/
def beBytes : Nat → Nat → List (BitVec 8)
  | 0, _ => []
  | n + 1, v => BitVec.ofNat 8 (v / 256 ^ n) :: beBytes n v

/-- The number that bytes give, most significant first. -/
def beNat (l : List (BitVec 8)) : Nat := l.foldl (fun n b => 256 * n + b.toNat) 0

/-- The first pieces of n elements of a list, `k` of them at most. -/
def chunks {α : Type} (n : Nat) : Nat → List α → List (List α)
  | 0, _ => []
  | k + 1, l => if l.isEmpty then [] else l.take n :: chunks n k (l.drop n)

/-- A hash function of the SHA-2 family: the rotations of its four functions, of which the last of each message function is
a shift, its round constants and its first chaining value. -/
structure Sha2 (w : Nat) where
  sum0 : Nat × Nat × Nat
  sum1 : Nat × Nat × Nat
  mix0 : Nat × Nat × Nat
  mix1 : Nat × Nat × Nat
  k : List (BitVec w)
  iv : List (BitVec w)

/-- The exclusive or of three rotations to the right. -/
def rot3 {w : Nat} (r : Nat × Nat × Nat) (x : BitVec w) : BitVec w :=
  x.rotateRight r.1 ^^^ x.rotateRight r.2.1 ^^^ x.rotateRight r.2.2

/-- The exclusive or of two rotations and a shift to the right. -/
def mix3 {w : Nat} (r : Nat × Nat × Nat) (x : BitVec w) : BitVec w :=
  x.rotateRight r.1 ^^^ x.rotateRight r.2.1 ^^^ (x >>> r.2.2)

/-- One round: the working variables a to h and the next sixteen words of the message schedule. -/
def Sha2.round {w : Nat} (p : Sha2 w) (x : List (BitVec w) × List (BitVec w)) (k : BitVec w) : List (BitVec w) × List (BitVec w) :=
  let v (i : Nat) : BitVec w := x.1.getD i 0
  let m (i : Nat) : BitVec w := x.2.getD i 0
  let t1 := v 7 + rot3 p.sum1 (v 4) + ((v 4 &&& v 5) ^^^ (~~~(v 4) &&& v 6)) + k + m 0
  let t2 := rot3 p.sum0 (v 0) + ((v 0 &&& v 1) ^^^ (v 0 &&& v 2) ^^^ (v 1 &&& v 2))
  ([t1 + t2, v 0, v 1, v 2, v 3 + t1, v 4, v 5, v 6], x.2.tail ++ [mix3 p.mix1 (m 14) + m 9 + mix3 p.mix0 (m 1) + m 0])

/-- A chaining value after one block of sixteen words. -/
def Sha2.block {w : Nat} (p : Sha2 w) (h m : List (BitVec w)) : List (BitVec w) :=
  List.zipWith (· + ·) h (p.k.foldl p.round (h, m)).1

/-- The hash of a byte string, all of its last chaining value. -/
def Sha2.hash {w : Nat} (p : Sha2 w) (bs : List (BitVec 8)) : List (BitVec 8) :=
  let n := bs.length
  let size := 2 * w
  let pad := (size - (n + 1 + w / 4) % size) % size
  let all := bs ++ [0x80] ++ List.replicate pad 0 ++ beBytes (w / 4) (8 * n)
  let words := (chunks (w / 8) all.length all).map fun l => BitVec.ofNat w (beNat l)
  ((chunks 16 words.length words).foldl p.block p.iv).flatMap fun x => beBytes (w / 8) x.toNat

/-- The round constants 1 to 20 of SHA-384 (FIPS 180-4). -/
def shaK0 : List Nat :=
  [0x428A2F98D728AE22, 0x7137449123EF65CD, 0xB5C0FBCFEC4D3B2F, 0xE9B5DBA58189DBBC,
    0x3956C25BF348B538, 0x59F111F1B605D019, 0x923F82A4AF194F9B, 0xAB1C5ED5DA6D8118,
    0xD807AA98A3030242, 0x12835B0145706FBE, 0x243185BE4EE4B28C, 0x550C7DC3D5FFB4E2,
    0x72BE5D74F27B896F, 0x80DEB1FE3B1696B1, 0x9BDC06A725C71235, 0xC19BF174CF692694,
    0xE49B69C19EF14AD2, 0xEFBE4786384F25E3, 0x0FC19DC68B8CD5B5, 0x240CA1CC77AC9C65]

/-- The round constants 21 to 40 of SHA-384 (FIPS 180-4). -/
def shaK1 : List Nat :=
  [0x2DE92C6F592B0275, 0x4A7484AA6EA6E483, 0x5CB0A9DCBD41FBD4, 0x76F988DA831153B5,
    0x983E5152EE66DFAB, 0xA831C66D2DB43210, 0xB00327C898FB213F, 0xBF597FC7BEEF0EE4,
    0xC6E00BF33DA88FC2, 0xD5A79147930AA725, 0x06CA6351E003826F, 0x142929670A0E6E70,
    0x27B70A8546D22FFC, 0x2E1B21385C26C926, 0x4D2C6DFC5AC42AED, 0x53380D139D95B3DF,
    0x650A73548BAF63DE, 0x766A0ABB3C77B2A8, 0x81C2C92E47EDAEE6, 0x92722C851482353B]

/-- The round constants 41 to 60 of SHA-384 (FIPS 180-4). -/
def shaK2 : List Nat :=
  [0xA2BFE8A14CF10364, 0xA81A664BBC423001, 0xC24B8B70D0F89791, 0xC76C51A30654BE30,
    0xD192E819D6EF5218, 0xD69906245565A910, 0xF40E35855771202A, 0x106AA07032BBD1B8,
    0x19A4C116B8D2D0C8, 0x1E376C085141AB53, 0x2748774CDF8EEB99, 0x34B0BCB5E19B48A8,
    0x391C0CB3C5C95A63, 0x4ED8AA4AE3418ACB, 0x5B9CCA4F7763E373, 0x682E6FF3D6B2B8A3,
    0x748F82EE5DEFB2FC, 0x78A5636F43172F60, 0x84C87814A1F0AB72, 0x8CC702081A6439EC]

/-- The round constants 61 to 80 of SHA-384 (FIPS 180-4). -/
def shaK3 : List Nat :=
  [0x90BEFFFA23631E28, 0xA4506CEBDE82BDE9, 0xBEF9A3F7B2C67915, 0xC67178F2E372532B,
    0xCA273ECEEA26619C, 0xD186B8C721C0C207, 0xEADA7DD6CDE0EB1E, 0xF57D4F7FEE6ED178,
    0x06F067AA72176FBA, 0x0A637DC5A2C898A6, 0x113F9804BEF90DAE, 0x1B710B35131C471B,
    0x28DB77F523047D84, 0x32CAAB7B40C72493, 0x3C9EBE0A15C9BEBC, 0x431D67C49C100D4C,
    0x4CC5D4BECB3E42B6, 0x597F299CFC657E2A, 0x5FCB6FAB3AD6FAEC, 0x6C44198C4A475817]

/-- The round constants of SHA-384. -/
def shaK : List Nat := shaK0 ++ shaK1 ++ shaK2 ++ shaK3

/-- SHA-384 before its last chaining value is cut to 48 bytes. -/
def sha512 : Sha2 64 where
  sum0 := (28, 34, 39)
  sum1 := (14, 18, 41)
  mix0 := (1, 8, 7)
  mix1 := (19, 61, 6)
  k := shaK.map (BitVec.ofNat 64)
  iv := [0xCBBB9D5DC1059ED8, 0x629A292A367CD507, 0x9159015A3070DD17, 0x152FECD8F70E5939,
    0x67332667FFC00B31, 0x8EB44A8768581511, 0xDB0C2E0D64F98FA7, 0x47B5481DBEFA4FA4]

/-- SHA-256, whose round constants are the upper halves of the first 64 of SHA-384. -/
def sha256 : Sha2 32 where
  sum0 := (2, 13, 22)
  sum1 := (6, 11, 25)
  mix0 := (7, 18, 3)
  mix1 := (17, 19, 10)
  k := (shaK.take 64).map fun n => BitVec.ofNat 32 (n / 2 ^ 32)
  iv := [0x6A09E667, 0xBB67AE85, 0x3C6EF372, 0xA54FF53A, 0x510E527F, 0x9B05688C, 0x1F83D9AB, 0x5BE0CD19]

/-- R406, R407: the SHA-384 of a byte string. -/
def sha384 (bs : List (BitVec 8)) : List (BitVec 8) := (sha512.hash bs).take 48

/-- SHA-256/192 (SP 800-208): the first 24 bytes of SHA-256. -/
def sha192 (bs : List (BitVec 8)) : List (BitVec 8) := (sha256.hash bs).take 24

/-! ### ECDSA on P-384 -/

/-- The prime of the field of P-384. -/
def p384 : Nat := 2 ^ 384 - 2 ^ 128 - 2 ^ 96 + 2 ^ 32 - 1

/-- The order of the base point of P-384. -/
def n384 : Nat := 0xFFFFFFFFFFFFFFFFFFFFFFFFFFFFFFFFFFFFFFFFFFFFFFFFC7634D81F4372DDF581A0DB248B0A77AECEC196ACCC52973

/-- The coefficient b of P-384; a is -3. -/
def b384 : Nat := 0xB3312FA7E23EE7E4988E056BE3F82D19181D9C6EFE8141120314088F5013875AC656398D8A2ED19D2A85C8EDD3EC2AEF

/-- A point of the curve; none is the point at infinity. -/
abbrev Point := Option (Nat × Nat)

/-- The base point of P-384. -/
def base384 : Point :=
  some (0xAA87CA22BE8B05378EB1C71EF320AD746E1D3B628BA79B9859F741E082542A385502F25DBF55296C3A545E3872760AB7,
    0x3617DE4A96262C6F5D9E98BF9292DC29F8F41DBD289A147CE9DA3113B5F0B8C00A60B1CE1D7E819D7A431D7C90EA0E5F)

/-- A power modulo m, by the low n bits of the exponent. -/
def powMod (m : Nat) : Nat → Nat → Nat → Nat
  | 0, _, _ => 1 % m
  | n + 1, b, e =>
    let r := powMod m n (b * b % m) (e / 2)
    if e % 2 = 1 then r * b % m else r

/-- The inverse modulo a prime m of 384 bits. -/
def invMod (m x : Nat) : Nat := powMod m 384 (x % m) (m - 2)

/-- The sum of two points. -/
def Point.add (a b : Point) : Point :=
  match a, b with
  | none, _ => b
  | _, none => a
  | some (x, y), some (u, v) =>
    if x = u ∧ (y + v) % p384 = 0 then none
    else
      let l := if x = u then (3 * x * x + (p384 - 3)) * invMod p384 (2 * y) % p384
        else (v + (p384 - y)) * invMod p384 (u + (p384 - x)) % p384
      let z := (l * l + (p384 - x) + (p384 - u)) % p384
      some (z, (l * (x + (p384 - z)) + (p384 - y)) % p384)

/-- A multiple of a point, by the low n bits of the factor. -/
def Point.mul : Nat → Nat → Point → Point
  | 0, _, _ => none
  | n + 1, k, a =>
    let r := Point.mul n (k / 2) (Point.add a a)
    if k % 2 = 1 then Point.add r a else r

/-- A public key from its 97 bytes: an uncompressed point of the curve (SEC 1). -/
def ecdsaKey (l : List (BitVec 8)) : Point :=
  let x := beNat ((l.drop 1).take 48)
  let y := beNat ((l.drop 49).take 48)
  if l.length = 97 ∧ l.headD 0 = 4 ∧ x < p384 ∧ y < p384 ∧ (y * y + 3 * x) % p384 = (x * x * x + b384) % p384 then some (x, y)
  else none

/-- R406: whether an ECDSA P-384 signature with SHA-384 verifies (FIPS 186-5): public key, signature, message. -/
def ecdsaOk (key sig msg : List (BitVec 8)) : Bool :=
  let r := beNat (sig.take 48)
  let t := beNat (sig.drop 48)
  match ecdsaKey key with
  | none => false
  | some q =>
    if sig.length ≠ 96 ∨ r = 0 ∨ n384 ≤ r ∨ t = 0 ∨ n384 ≤ t then false
    else
      let w := invMod n384 t
      match Point.add (Point.mul 384 (beNat (sha384 msg) * w % n384) base384) (Point.mul 384 (r * w % n384) (some q)) with
      | none => false
      | some z => z.1 % n384 == r

/-! ### Leighton-Micali signatures -/

/-- The digits of a hash with its checksum: 4 bits each, the upper half of a byte first (RFC 8554, Winternitz parameter 4). -/
def lmDigits (q : List (BitVec 8)) : List Nat :=
  let dig (l : List (BitVec 8)) : List Nat := l.flatMap fun b => [b.toNat / 16, b.toNat % 16]
  let sum := (dig q).foldl (fun n d => n + (15 - d)) 0
  dig q ++ (dig (beBytes 2 (sum * 16))).take 3

/-- A hash chain of n steps from step j on (RFC 8554): identity with leaf number, chain number. -/
def lmChain (id : List (BitVec 8)) (i : Nat) : Nat → Nat → List (BitVec 8) → List (BitVec 8)
  | 0, _, x => x
  | n + 1, j, x => lmChain id i n (j + 1) (sha192 (id ++ beBytes 2 i ++ beBytes 1 j ++ x))

/-- The path from a node of the tree to its root. -/
def lmPath (id : List (BitVec 8)) : List (List (BitVec 8)) → Nat → List (BitVec 8) → List (BitVec 8)
  | [], _, x => x
  | s :: l, n, x => lmPath id l (n / 2) (sha192 (id ++ beBytes 4 (n / 2) ++ beBytes 2 0x8383 ++ if n % 2 = 1 then s ++ x else x ++ s))

/-- R406: whether a Leighton-Micali signature verifies (RFC 8554 with LMS_SHA256_M24_H10 and LMOTS_SHA256_N24_W4 of SP
800-208): public key, signature, message. -/
def lmsOk (key sig msg : List (BitVec 8)) : Bool :=
  let num (l : List (BitVec 8)) (at_ : Nat) : Nat := beNat ((l.drop at_).take 4)
  let id := (key.drop 8).take 16
  let q := num sig 0
  let leaf := id ++ beBytes 4 q
  let ys := chunks 24 51 (sig.drop 32)
  if key.length ≠ 48 ∨ sig.length ≠ 1500 ∨ num key 0 ≠ 11 ∨ num key 4 ≠ 7 ∨ num sig 4 ≠ 7 ∨ num sig 1256 ≠ 11 ∨ 1024 ≤ q then false
  else
    let h := sha192 (leaf ++ beBytes 2 0x8181 ++ (sig.drop 8).take 24 ++ msg)
    let ends := ((ys.zip (lmDigits h)).zipIdx).map fun x => lmChain leaf x.2 (15 - x.1.2) x.1.2 x.1.1
    let pub := sha192 (leaf ++ beBytes 2 0x8080 ++ ends.flatten)
    let n := 1024 + q
    let root := lmPath id (chunks 24 10 (sig.drop 1260)) n (sha192 (id ++ beBytes 4 n ++ beBytes 2 0x8282 ++ pub))
    root == (key.drop 24).take 24

end Sys2Proof.Machine
end

