-- ==== Sys2Proof/Machine/HostIf.lean ====
section
/-! DEFINITION. The host complex (spec/21) and the writes of management registers (R11, R397): mailboxes (R398 to R402),
host and application-core accesses (R404, R397), time stamps (R405), and boot (R406 to R409). -/

namespace Sys2Proof.Machine

/-! ### Mailboxes (R398 to R400) -/

/-- The inbound messages that wait. -/
def State.inCount (s : State) (d : Fin 2) (p : PartId) : Nat :=
  let r := (s.die d).mbptr[p]
  (bvf r 48 16 + 65536 - bvf r 32 16) % 65536

/-- The oldest inbound message, when the mailbox is enabled and one waits. -/
def State.inMsg (s : State) (d : Fin 2) (p : PartId) : Option (List (BitVec 8)) :=
  let cfg := (s.die d).mbcfg[p]
  if s.mbOn d p ∧ s.inCount d p ≠ 0 then
    some (s.mem.readN (bvf cfg 12 28 * 4096 + 64 * (bvf (s.die d).mbptr[p] 32 16 % 2 ^ (bvf cfg 56 4 + 4))) 64)
  else none

/-- The oldest inbound message consumed. -/
def State.consume (s : State) (d : Fin 2) (p : PartId) : State :=
  s.modDie d fun x => { x with mbptr := x.mbptr.set p (bvSet x.mbptr[p] 32 16 (bvf x.mbptr[p] 32 16 + 1)) }

/-- A message rejected with a reason and consumed (R399 type 0x86). -/
def State.rejectMsg (s : State) (d : Fin 2) (p : PartId) (m : List (BitVec 8)) (reason : Nat) : State :=
  (s.consume d p).postOut d p 0x86 (leBytes 4 (field m 4 4) ++ leBytes 1 reason)

/-- The reason for which a message is rejected whatever it asks (R399, R402): its version, then its type, then its header. -/
def State.msgBad (s : State) (d : Fin 2) (p : PartId) (m : List (BitVec 8)) : Option Nat :=
  if (s.die d).mbver[p] = 0 ∨ field m 1 1 ≠ ((s.die d).mbver[p]).toNat then some 2
  else if 5 < field m 0 1 then some 1
  else if field m 2 1 ≠ p.val ∨ field m 3 1 ≠ 0 then some 3
  else none

/-- The messages at the head of the inbound ring that are rejected whatever they ask. -/
def State.rejectHeads (s : State) (d : Fin 2) (p : PartId) : Nat → State
  | 0 => s
  | n + 1 =>
    match s.inMsg d p with
    | none => s
    | some m =>
      match s.msgBad d p m with
      | some r => (s.rejectMsg d p m r).rejectHeads d p n
      | none => s

/-- The management core takes the oldest inbound message, when it is of a type (R400). -/
def withMsg (type : Nat) (d : Fin 2) (p : PartId) (s : State) (go : State → List (BitVec 8) → State) : Host.Outcome State Fault Refusal :=
  let s' := s.rejectHeads d p (s.inCount d p)
  match s'.inMsg d p with
  | none => .next s'
  | some m => .next (if field m 0 1 = type then go s' m else s')

/-- An ITAIL write announces messages, unless it would pass the ring's size (R398). The management core, once its firmware
runs, rejects those at the head that it cannot take. -/
def State.doorbell (s : State) (d : Fin 2) (p : PartId) (itail : Nat) : State :=
  let x := s.die d
  let n := (itail + 65536 - bvf x.mbptr[p] 32 16) % 65536
  let s := if 2 ^ (bvf x.mbcfg[p] 56 4 + 4) < n then s
    else s.modDie d fun x => { x with mbptr := x.mbptr.set p (bvSet x.mbptr[p] 48 16 itail) }
  if s.fwRuns d then s.rejectHeads d p (s.inCount d p) else s

/-- R398: an ITAIL write. -/
def execMailboxDoorbell (d : Fin 2) (p : PartId) (itail : BitVec 16) (s : State) : Host.Outcome State Fault Refusal :=
  .next (s.doorbell d p itail.toNat)

/-- The messages that wait in the management core put into the outbound ring while it has room (R400). -/
def State.flushOut (s : State) (d : Fin 2) (p : PartId) : Nat → State
  | 0 => s
  | n + 1 =>
    match (s.die d).mbout[p] with
    | [] => s
    | m :: l =>
      if s.ringRoom d p then
        ((s.modDie d fun x => { x with mbout := x.mbout.set p l }).ringOut d p m).flushOut d p n
      else s

/-- An OHEAD write frees outbound slots, unless it passes OTAIL (R398). -/
def State.oheadWrite (s : State) (d : Fin 2) (p : PartId) (ohead : Nat) : State :=
  let r := (s.die d).mbptr[p]
  if (bvf r 16 16 + 65536 - bvf r 0 16) % 65536 < (ohead + 65536 - bvf r 0 16) % 65536 then s
  else
    let s := s.modDie d fun x => { x with mbptr := x.mbptr.set p (bvSet x.mbptr[p] 0 16 ohead) }
    s.flushOut d p ((s.die d).mbout[p]).length

/-- R398: an OHEAD write. -/
def execMailboxOheadWrite (d : Fin 2) (p : PartId) (ohead : BitVec 16) (s : State) : Host.Outcome State Fault Refusal :=
  .next (s.oheadWrite d p ohead.toNat)

/-- The agreed version of two ranges (R402); 0 when there is none. -/
def agreed (min1 max1 min2 max2 : Nat) : Nat := if max min1 min2 ≤ min max1 max2 then min max1 max2 else 0

/-- R402: HELLO is answered with the agreed version, which applies from then on. -/
def execHello (d : Fin 2) (p : PartId) (s : State) : Host.Outcome State Fault Refusal :=
  withMsg 0 d p s fun s m =>
    let v := agreed (field m 8 1) (field m 9 1) (bvf capid 32 8) (bvf capid 40 8)
    let s := (s.consume d p).modDie d fun x => { x with mbver := x.mbver.set p (BitVec.ofNat 8 v) }
    s.postOut d p 0x80 (leBytes 1 v)

/-- A launch record on its way into a launch queue: it is written to the mirror areas of both dies first, which takes a time that
is not fixed (R400, log 37); the entries of a die arrive in order. -/
def State.mirror (s : State) (d : Fin 2) (r : LaunchRec) : State :=
  let (n, s) := s.drawDelay
  s.modDie d fun x => { x with mirrors := x.mirrors ++ [(x.mirrors.foldl (fun t m => max t m.1) (s.rc + 1 + n), r)] }

/-- R400: a launch message's record goes to the mirror areas, and from there to the launch queue; with the queue full the
message stays (R327). -/
def execMailboxLaunch (d : Fin 2) (p : PartId) (s : State) : Host.Outcome State Fault Refusal :=
  withMsg 1 d p s fun s m =>
    if (s.die d).queueFull p then s
    else
      let va := field m 8 8
      match (if va % 64 = 0 then s.vread d p 2 va 64 else none) with
      | none => s.rejectMsg d p m 3
      | some r =>
        if !launchOk r ∨ bvf (s.die d).partcfg[p] 63 1 = 0 then s.rejectMsg d p m 3
        else (s.consume d p).mirror d (launchOf p r)

/-! ### Fault replies (R265) -/

/-- Whether a fault record holds the request that a reply answers. -/
def FaultRec.answers (f : FaultRec) (gen no : Nat) : Bool := f.outst && f.gen.toNat == gen && f.detail.toNat % 65536 == no

/-- A fault record with the mark of a verdict. -/
def FaultRec.marked (f : FaultRec) (abort : Bool) : FaultRec := { f with replied := true, verdict := abort }

/-- A reply to a running context (R265): RETRY lets a halted L go on; ABORT of its request traps; with L not halted on it
the request is marked. -/
def State.replyRunning (s : State) (k : CoreId) (abort : Bool) : State :=
  let c := s.core k
  match c.halted with
  | some h =>
    if abort ∧ h.va / 65536 = c.frec.va.toNat / 65536 then
      let w := c.wordsAt 1 h.pc
      (s.modCore k fun c => { c with frec := { c.frec with outst := false } }).takeTrap k
        (Rep.trap 0x40 1 c.frec.detail.toNat h.pc.toNat w.1 w.2 h.va)
    else s.modCore k fun c => { c with frec := c.frec.marked abort, halted := none }
  | none => s.modCore k fun c => { c with frec := c.frec.marked abort }

/-- R265: a reply is delivered to the context wherever it is, or dropped and logged. -/
def State.faultReply (s : State) (d : Fin 2) (key : TaskKey) (abort : Bool) (gen no : Nat) : State :=
  let onCore (k : CoreId) : Bool :=
    let c := s.core k
    (match c.task with
     | some t => t.key == key && t.phase != .held && (match t.phase with
       | .saving _ _ => false
       | .migrating _ => false
       | .loading _ => true
       | .running => true
       | .held => false)
     | none => false) && c.frec.answers gen no
  let leaving (k : CoreId) : Bool :=
    let c := s.core k
    (match c.task with
     | some t => t.key == key && (match t.phase with
       | .saving _ _ => true
       | .migrating _ => true
       | .loading _ => false
       | .running => false
       | .held => false)
     | none => false) && c.frec.answers gen no
  let isSaved (x : Saved) : Bool := x.depth != 0 && x.part == key.part && x.gang == key.gang && x.idx == key.idx && x.ctx.frec.answers gen no
  match allCores.find? onCore with
  | some k => s.replyRunning k abort
  | none =>
    match allCores.find? leaving with
    | some k => s.modCore k fun c => { c with frec := c.frec.marked abort }
    | none =>
      match s.saved.find? isSaved with
      | some x =>
        let f := x.ctx.frec.marked abort
        let s := { s with saved := s.saved.map fun y => if y = x then { x with ctx := { x.ctx with frec := f } } else y }
        s.vput d x.part 2 (x.save.toNat + 0x100) f.bytes
      | none =>
        s.elog d key.part (leBytes 1 7 ++ leBytes 1 0 ++ leBytes 1 key.part.val ++ leBytes 1 0xFF ++ leBytes 2 key.gang.toNat ++
          leBytes 1 key.idx.toNat ++ leBytes 1 (8 * d.val) ++ leBytes 4 gen)

/-- R265: a fault reply. -/
def execFaultReply (d : Fin 2) (p : PartId) (s : State) : Host.Outcome State Fault Refusal :=
  withMsg 2 d p s fun s m =>
    if 15 < field m 10 1 ∨ 1 < field m 11 1 then s.rejectMsg d p m 3
    else
      (s.consume d p).faultReply d ⟨p, BitVec.ofNat 16 (field m 8 2), BitVec.ofNat 4 (field m 10 1)⟩ (field m 11 1 = 1)
        (field m 12 4) (field m 16 2)

/-! ### Cancel, counters, trigger -/

/-- Every task of a gang cancelled (R329), wherever it stands. -/
def State.cancelGang (s : State) (p : PartId) (g : BitVec 16) : State :=
  let s := allCores.foldl (fun s k =>
    match (s.core k).staged with
    | some b => if b.part = p.val ∧ b.gang = g then s.cancelStaged k else s
    | none => s) s
  let s := allCores.foldl (fun s k =>
    match (s.core k).task with
    | some t =>
      if t.part = p ∧ t.gang = g then
        if t.stamp = s.rc ∧ (s.core k).isRunning = false ∧ t.phase ≠ .held then
          s.modCore k fun c => { c with task := some { t with cancelled := some 3 } }
        else s.cancelActive k
      else s
    | none => s) s
  let s := (s.saved.filter fun x => x.depth != 0 && x.part == p && x.gang == g).foldl (fun s x => s.abortSaved x 2) s
  ([0, 1] : List (Fin 2)).foldl (fun s d =>
    let mine (e : Sum LaunchRec Bind) : Bool := match e with
      | .inl _ => false
      | .inr b => b.gang == g
    let bs := ((s.die d).launchq[p]).filter mine
    let s := s.modDie d fun x => { x with launchq := x.launchq.set p ((x.launchq[p]).filter fun e => !mine e) }
    bs.foldl (fun s e => match e with
      | .inl _ => s
      | .inr b => s.dropBind (Fin.ofNat 16 (8 * d.val)) b) s) s

/-- R329: a cancel of every task of a gang. -/
def execCancel (d : Fin 2) (p : PartId) (s : State) : Host.Outcome State Fault Refusal :=
  withMsg 3 d p s fun s m => (s.consume d p).cancelGang p (BitVec.ofNat 16 (field m 8 2))

/-- Whether a CNTCFG value keeps the UNIT and ARG columns of R382. -/
def cntOk (v : Nat) : Bool :=
  let unit := v / 2 ^ 16 % 16
  let arg := v % 256
  match v / 2 ^ 8 % 256 with
  | 0x02 => decide (unit < 4) && arg == 0
  | 0x03 => decide (unit < 12) && (arg == 0xFF || decide (arg < 4) || decide (0x10 ≤ arg ∧ arg ≤ 0x10 + 26))
  | 0x07 => unit == 0 && decide (1 ≤ arg ∧ arg ≤ 3)
  | 0x0A => decide (6 ≤ unit ∧ unit ≤ 9) && arg == 0
  | e => decide (e < 0x10) && unit == 0 && arg == 0

/-- A write of a counter's configuration (R381, R382): EN, OVIE, UNIT, EVENT and ARG as a whole, or nothing. -/
def Core.writeCfg (c : Core) (i : Fin 8) (v : Nat) : Core :=
  if cntOk v then { c with cntcfg := c.cntcfg.set i (bvSet (BitVec.ofNat 32 v &&& 0xC00FFFFF) 24 5 (bvf c.cntcfg[i] 24 5)) } else c

/-- A write of a counter's value (R381, R384): VALUE is replaced, in place of the rc's count, and 1 to OVF clears it unless VALUE
wrapped in the rc of the write. -/
def Core.writeVal (c : Core) (i : Fin 8) (v : Nat) : Core :=
  let old := bvf c.cntval[i] 48 1
  let ovf := if v / 2 ^ 48 % 2 = 1 ∧ !c.ovfs.contains i then 0 else old
  { c with cntval := c.cntval.set i (BitVec.ofNat 64 (v % 2 ^ 48 + ovf * 2 ^ 48)), cntset := c.cntset ++ [i] }

/-- R381, R386: a partition's access to a counter; another owner's counter reads as zero and takes no write. -/
def execCounterAccess (d : Fin 2) (p : PartId) (s : State) : Host.Outcome State Fault Refusal :=
  withMsg 4 d p s fun s m =>
    let n := field m 8 1
    let i := field m 9 1
    if 15 < n ∨ 7 < i ∨ 3 < field m 10 1 ∨ n / 8 ≠ d.val then s.rejectMsg d p m 3
    else
      let k : CoreId := Fin.ofNat 16 n
      let x : Fin 8 := Fin.ofNat 8 i
      let shadow := field m 10 1 / 2 = 1
      let mine := bvf (s.core k).cntcfg[x] 24 5 == p.val
      let s := s.consume d p
      let s := if field m 10 1 = 1 ∧ mine = true then s.modCore k fun c => (c.writeCfg x (field m 16 8)).writeVal x (field m 24 8) else s
      let c := s.core k
      let r := if shadow then (if bvf c.cntshd[x] 59 5 = p.val then (0, (c.cntshd[x]).toNat) else (0, 0))
        else if mine then ((c.cntcfg[x]).toNat, (c.cntval[x]).toNat) else (0, 0)
      s.postOut d p 0x85 (leBytes 1 n ++ leBytes 1 i ++ leBytes 6 0 ++ leBytes 8 r.1 ++ leBytes 8 r.2)

/-- R389: a partition's incident trigger. -/
def execTrigger (d : Fin 2) (p : PartId) (s : State) : Host.Outcome State Fault Refusal :=
  withMsg 5 d p s fun s _ => (s.consume d p).trigger d p 1 0 TrigAt.none

/-! ### Boot (R406 to R409) -/

/-- R12, R406: power-on reset. What the outside world still sends, the values not yet drawn and the count of rc are the
model's own and stay; the rc ends. -/
def execPowerOnReset (s : State) : Host.Outcome State Fault Refusal :=
  .next { State.reset with rc := s.rc + 1, inputs := s.inputs, free := s.free, watch := s.watch }

/-- A field of BOOTSTAT set. -/
def Die.boot (x : Die) (phase err : Nat) : Die := { x with bootstat := bvSet (bvSet x.bootstat 28 3 phase) 24 4 err }

/-- A die starts to verify the image in its boot window, for a time that is not fixed. -/
def State.bootVerify (s : State) (d : Fin 2) : State :=
  let (t, s) := s.drawDelay
  s.modDie d fun x => { (x.boot 2 0) with bootDue := some (s.rc + 1 + t) }

/-- R406 step 1: GO: die 0 sends die 1 the same image, and each waiting die verifies it. -/
def execBootGo (s : State) : Host.Outcome State Fault Refusal :=
  let image := (s.die 0).bootwin
  .next (([0, 1] : List (Fin 2)).foldl (fun s d =>
    if bvf (s.die d).bootstat 28 3 = 1 ∧ (s.die d).rstphase = 0 then
      (s.modDie d fun x => { x with bootwin := image }).bootVerify d
    else s) s)

/-- Whether bytes lo to hi of a header are zero. -/
def zeroBytes (h : List (BitVec 8)) (lo hi : Nat) : Bool := ((h.drop lo).take (hi + 1 - lo)).all fun b => b == 0

/-- The first check of an image that fails on a die (R406, R407), 0 when it passes. -/
def bootErr (d : Fin 2) (w : Mem) : Nat :=
  let h := w.readN 0 4096
  let blen := field h 8 8
  let slot := field h 20 1
  let run (lo n : Nat) : List (BitVec 8) := (h.drop lo).take n
  if field h 0 4 ≠ 0x46574248 ∨ field h 4 4 ≠ 1 ∨ blen % 64 ≠ 0 ∨ blen < 64 ∨ 4194304 - 4096 < blen ∨
      !(zeroBytes h 21 63 && zeroBytes h 112 127 && zeroBytes h 224 255 && zeroBytes h 1756 1791 && zeroBytes h 1889 1919 &&
        zeroBytes h 1968 4095) ∨
      sha384 (w.readN 4096 blen) ≠ run 64 48 then 1
  else if 3 < slot ∨ Config.fuseRevoked d slot = true ∨ sha384 (run 1792 97) ≠ Config.fuseEpub d slot ∨
      sha384 (run 1920 48) ≠ Config.fuseLpub d slot then 2
  else if ecdsaOk (run 1792 97) (run 128 96) (run 0 128) = false then 3
  else if lmsOk (run 1920 48) (run 256 1500) (run 0 128) = false then 4
  else if field h 16 4 < Config.fuseSvn d then 5
  else 0

/-- A die fails to boot (R406, R408): phase 4; a running partner holds command authority alone. -/
def State.bootFail (s : State) (d : Fin 2) (err : Nat) : State :=
  let s := s.modDie d fun x => { (x.boot 4 err) with bootDue := none }
  if bvf (s.die (otherDie d)).bootstat 28 3 = 3 then s.loseDie d .fatal else s

/-- A die's firmware starts (R406, R408, R409): a die that comes back from reset is lost no more and joins in standby, a split's
loser too; DESIGN CHOICE (log 45): the link has trained again with every lane live on both dies. A partner that has failed
counts as lost. -/
def State.bootRun (s : State) (d : Fin 2) : State :=
  let o := otherDie d
  let back := (s.die d).lost
  let s := s.modDie d fun x => { (x.boot 3 0) with
    bootstat := bvSet (bvSet (bvSet x.bootstat 28 3 3) 24 4 0) 0 16 (x.bootwin.readLE 16 4)
    bootDue := none
    hbSeen := s.qtime
    hbSent := s.qtime
    lost := false
    rstphase := 0 }
  let s := if back then s.modDie o fun x => { x with flstat := bvSet (bvSet (bvSet x.flstat 29 1 0) 31 1 0) 0 8 0xFF, hbSeen := s.qtime } else s
  if bvf (s.die o).bootstat 28 3 = 4 ∧ (s.die o).lost = false then s.loseDie o .fatal else s

/-- R406 steps 3 and 4: verification ends. -/
def execBootVerifyComplete (d : Fin 2) (s : State) : Host.Outcome State Fault Refusal :=
  match (s.die d).bootDue with
  | none => .next s
  | some t =>
    if s.rc < t ∨ bvf (s.die d).bootstat 28 3 ≠ 2 then .next s
    else
      match bootErr d (s.die d).bootwin with
      | 0 => .next (s.bootRun d)
      | e => .next (s.bootFail d e)

/-- R406: no image within 10 s of reset. -/
def execBootTimeout (d : Fin 2) (s : State) : Host.Outcome State Fault Refusal :=
  .next (if bvf (s.die d).bootstat 28 3 = 1 ∧ (s.die d).rstphase = 0 ∧ 10000000000 ≤ s.qtime then s.bootFail d 6 else s)

/-- R409: a die released from reset boots again from the image that the survivor sends. -/
def execDieResetRelease (d : Fin 2) (s : State) : Host.Outcome State Fault Refusal :=
  if (s.die d).rstphase ≠ 5 ∨ bvf (s.die d).bootstat 28 3 = 2 then .next s
  else
    let image := (s.die (otherDie d)).bootwin
    .next ((s.modDie d fun x => { x with bootwin := image }).bootVerify d)

/-! ### Accesses from outside the cores (R397, R404, R405) -/

/-- Where the stamp of an event message goes (R405). -/
def ptpPlace (m : PtpMode) : PtpPlace :=
  match m with
  | .receive => .received
  | .oneStep => .frame
  | .twoStep => .descriptor

/-- R405: an event message is stamped in Quartz time as it passes the MII, and the stamp goes where its mode has it. -/
def execPtpEventMessage (d : Fin 2) (m : PtpMsg) (s : State) : Host.Outcome State Fault Refusal :=
  .next (s.modDie d fun x => { x with ptp := x.ptp ++ [⟨m.msg, ptpPlace m.mode, s.qtime⟩] })

/-- The runs of bytes of a window access that fall into a partition's ranges (R404): physical address, place in the access,
and length. `at_` is the window offset at which the next range starts. -/
def bar2Runs (off n : Nat) : List (Nat × Nat) → Nat → List (Nat × Nat × Nat)
  | [], _ => []
  | (lo, hi) :: l, at_ =>
    let len := hi + 1 - lo
    let first := max off at_
    let stop := min (off + n) (at_ + len)
    let rest := bar2Runs off n l (at_ + len)
    if first < stop then (lo + (first - at_), first - off, stop - first) :: rest else rest

/-- Bytes placed in a run of bytes. -/
def placeBytes (bs : List (BitVec 8)) (at_ : Nat) (new : List (BitVec 8)) : List (BitVec 8) :=
  bs.take at_ ++ new ++ bs.drop (at_ + new.length)

/-- R404: a host access through VF BAR2, untimed; bytes beyond the ranges, and beyond the window's 64 GiB, read as zero and ignore
writes. -/
def execHostBar2Access (d : Fin 2) (p : PartId) (off : BitVec 36) (wr : Bool) (n : Fin 65) (data : BitVec 512) (s : State) :
    Host.Outcome State Fault Refusal :=
  let runs := bar2Runs off.toNat (min n.val (2 ^ 36 - off.toNat)) (s.allotRanges d p) 0
  if wr then
    .next (runs.foldl (fun s r => s.untimedWrite r.1 (((vBytes data).drop r.2.1).take r.2.2)) s)
  else
    .next { s with bar2 := runs.foldl (fun bs r => placeBytes bs r.2.1 (s.mem.readN r.1 r.2.2)) (List.replicate n.val 0) }

/-- R299, R397: an application core's access to HBM, untimed. -/
def execApplicationCoreAccess (pa : BitVec 40) (wr : Bool) (n : Fin 65) (data : BitVec 512) (s : State) :
    Host.Outcome State Fault Refusal :=
  if wr then .next (s.untimedWrite pa.toNat ((vBytes data).take n.val))
  else .next { s with bar2 := s.mem.readN pa.toNat n.val }

/-! ### Management and debug registers (R11) -/

/-- A register's writable bits taken from a value. -/
def masked {w : Nat} (mask : BitVec w) (v : BitVec 64) : BitVec w := v.setWidth w &&& mask

/-- A write of MIGTHRESH (R270): a count of 0 stores 1, and the counters that reach the new threshold become candidates. -/
def Die.writeMigthresh (x : Die) (v : BitVec 64) : Die :=
  let r := bvSet (masked 0x0001FFFF v : BitVec 32) 0 16 (max 1 (bvf v 0 16))
  let full (m : MigCnt) : Bool := bvf r 16 1 == 1 && decide (bvf r 0 16 ≤ m.count)
  { x with
    migthresh := r
    migcnt := x.migcnt.filter fun m => !full m
    migcand := x.migcand ++ x.migcnt.filter full }

/-- A write of TTCTL (R322): MAJOR is kept from 1 to 1,000,000; a table that is switched off stops. -/
def Die.writeTtctl (x : Die) (v : BitVec 64) : Die :=
  let r := bvSet (masked 0x800FFFFF1FFFFFFF v : BitVec 64) 32 20 (min 1000000 (max 1 (bvf v 32 20)))
  { x with ttctl := r, ttrun := x.ttrun && bvf r 63 1 == 1 }

/-- A write of SDCMD (R267): SCOPE 3 with GO is refused; the other commands start. -/
def State.writeSdcmd (s : State) (d : Fin 2) (v : BitVec 64) : State :=
  let cmd : BitVec 64 := masked 0x600FFFFFFFFF0000 v
  if bvf v 63 1 = 0 then s.modDie d fun x => { x with sdcmd := cmd }
  else if bvf v 61 2 = 3 ∨ bvf (s.die d).sdstat 31 1 = 1 then
    s.modDie d fun x => { x with sdcmd := cmd, sdstat := bvSet x.sdstat 29 1 1 }
  else s.startShoot d cmd

/-- A write of DBGCTL (R390, R393): FRZENG, STEPMODE and STEPSEQ; STEPMODE cleared during a stop holds from the next RUN. -/
def Core.writeDbgctl (c : Core) (v : BitVec 64) : Core :=
  let late := c.stopped && bvf c.dbgctl 27 1 == 1 && bvf v 27 1 == 0
  let r := bvSet (bvSet c.dbgctl 28 1 (bvf v 28 1)) 24 2 (bvf v 24 2)
  { c with stepOff := late, dbgctl := if late then r else bvSet r 27 1 (bvf v 27 1) }

/-- A write of MBCFG (R398). -/
def State.writeMbcfg (s : State) (d : Fin 2) (p : PartId) (v : BitVec 64) : State :=
  let s := s.modDie d fun x => { x with mbcfg := x.mbcfg.set p (masked 0x8FF000FFFFFFF000 v) }
  s.flushOut d p ((s.die d).mbout[p]).length

/-- A write of MBPTR (R398): its two writable pointers, the doorbell first. -/
def State.writeMbptr (s : State) (d : Fin 2) (p : PartId) (v : BitVec 64) : State :=
  (s.doorbell d p (bvf v 48 16)).oheadWrite d p (bvf v 0 16)

/-- Whether a register is the boot window, which the host reaches through PF0 BAR0 in any case (R404, R406). -/
def bootWindow (r : MReg) : Bool :=
  match r with
  | .bootwin _ => true
  | _ => false

/-- R404: what a partition's function reads in its BAR0 window: MBCFG, whose EN reads 0 when the rings do not lie in the
allotment, and MBPTR. -/
def State.vfBar0Read (s : State) (d : Fin 2) (p : PartId) (off : BitVec 12) : BitVec 64 :=
  if off = 0 then bvSet (s.die d).mbcfg[p] 63 1 (s.mbOn d p).toNat
  else if off = 8 then (s.die d).mbptr[p]
  else 0

/-- R11, R397: a write to a management or debug register that has no step of its own. Reserved and read-only fields are
ignored, and a register of another die's cores takes no write. -/
def State.writeReg (s : State) (d : Fin 2) (r : MReg) (v : BitVec 64) : State :=
  let coreReg (k : CoreId) (f : Core → Core) : State := if dieOf k = d then s.modCore k f else s
  match r with
  | .ptroot p => s.modDie d fun x => { x with ptroot := x.ptroot.set p (masked 0x000000FFFFFFF001 v) }
  | .sdcmd => s.writeSdcmd d v
  | .sdstat => s.modDie d fun x => if bvf v 29 1 = 1 then { x with sdstat := bvSet x.sdstat 29 1 0 } else x
  | .migthresh => s.modDie d fun x => x.writeMigthresh v
  | .linkret => s.modDie d fun x => { x with linkret := masked 0x00FFFFFF v }
  | .cohctl => s.modDie d fun x => { x with cohctl := BitVec.ofNat 32 (max 1 (bvf v 0 16)) }
  | .partcfg p => s.modDie d fun x => { x with partcfg := x.partcfg.set p (masked 0xC00000FFFFFFFFFF v) }
  | .partlim p =>
    s.modDie d fun x => { x with partlim := x.partlim.set p (bvSet (masked 0x0000001F0FFFFFFF v : BitVec 64) 24 4 (max 1 (bvf v 24 4))) }
  | .allot p i =>
    s.modDie d fun x => { x with allot := x.allot.set (Fin.ofNat 128 (p.val * 8 + i.val)) (masked 0x8000FFFFFFFFFFFF v) }
  | .partstat p => s.modDie d fun x => { x with partstat := x.partstat.set p (masked 0x0000FFFFFFFFFFFF v) }
  | .ttctl => s.modDie d fun x => x.writeTtctl v
  | .ttstat => s.modDie d fun x => if bvf v 31 1 = 1 then { x with ttstat := bvSet x.ttstat 31 1 0 } else x
  | .tteA i => s.modDie d fun x => { x with tteA := x.tteA.set i (masked 0x0FFFFFFFFFFFFFFF v) }
  | .tteB i => s.modDie d fun x => { x with tteB := x.tteB.set i (masked 0x0000FFFFFFFFFFFF v) }
  | .elogcfg p => s.modDie d fun x => { x with elogcfg := x.elogcfg.set p (masked 0x8F0000FFFFFFF000 v) }
  | .qstep => if d = 0 ∧ bvf v 60 1 = 1 then { s with qstep := bvSet s.qstep 60 1 0 } else s
  | .grpctl t => s.setTeam t.val ((s.team t.val).fields v)
  | .grpmem t m =>
    let x := s.team t.val
    if x.en then s
    else s.setTeam t.val (x.modMem m fun y => { y with
      v := bvf v 31 1 == 1, task := BitVec.ofNat 4 (bvf v 20 4), gang := BitVec.ofNat 16 (bvf v 4 16) })
  | .rstctl => s.modDie d fun x => { x with rstctl := BitVec.ofNat 64 (max 1 (bvf v 0 20)) }
  | .pwrcap => s.modDie d fun x => { x with
      pwrcap := bvSet (bvSet x.pwrcap 7 1 (bvf v 7 1)) 0 2 (if bvf v 0 2 = 3 then 2 else bvf v 0 2) }
  | .cntalloc k => coreReg k fun c => { c with cntalloc := masked 0xFF v }
  | .cntbase p => s.modDie d fun x => { x with cntbase := x.cntbase.set p (masked 0x800000FFFFFFF800 v) }
  | .cntcfg k i => coreReg k fun c => c.writeCfg i v.toNat
  | .cntval k i => coreReg k fun c => c.writeVal i v.toNat
  | .shtime => if d = 0 then { s with shtime := v } else s
  | .tncfg p => s.modDie d fun x => { x with tncfg := x.tncfg.set p (masked 0x8FF000FFFFFFF000 v) }
  | .tntrig p => s.modDie d fun x => { x with tntrig := x.tntrig.set p (masked 0xFFFF001E v) }
  | .dbgperm => s.modDie d fun x => { x with dbgperm := masked 0xFFFF v }
  | .dbgctl k => coreReg k fun c => c.writeDbgctl v
  | .dbgbp k i => coreReg k fun c => { c with dbgbp := c.dbgbp.set i (masked 0xF0FFFFFFFFFFFFFF v) }
  | .mbcfg p => s.writeMbcfg d p v
  | .bootwin a => s.modDie d fun x => { x with
      bootwin := x.bootwin.writeN a.toNat ((leBytes 8 v.toNat).take (4194304 - a.toNat)) }
  | .launchTake p => s.modDie d fun x => { x with launchq := x.launchq.set p (x.launchq[p]).tail }
  | .migTake => s.modDie d fun x => { x with migcand := x.migcand.tail }
  | .irqTake => s.modDie d fun x => { x with irqs := x.irqs.tail }
  | .slew => { s with slew := max (-500) (min 500 v.toInt) }
  | .discipline port => { s with ptpPort := some port }
  | .mbptr p => s.writeMbptr d p v
  | .vfBar0 p off => if off = 0 then s.writeMbcfg d p v else if off = 8 then s.writeMbptr d p v else s
  | .pfBar0 r => if bootWindow r ∨ (s.die d).permits.contains r then s.writeReg d r v else s
  | .permit r on => s.modDie d fun x => { x with permits := if on then x.permits ++ [r] else x.permits.filter fun y => y != r }

/-- R11: a write to a register without a row of its own. -/
def execRegisterWrite (d : Fin 2) (r : MReg) (v : BitVec 64) (s : State) : Host.Outcome State Fault Refusal := .next (s.writeReg d r v)

end Sys2Proof.Machine
end

