-- ==== Sys2Proof/Machine/Scalar.lean ====
section
/-! DEFINITION. The scalar computations of the common map (R123 to R138): integer arithmetic, ALUX, compares and
predicate logic. -/

namespace Sys2Proof.Machine

/-! ### The results -/

/-- A shift amount: the low six bits (R133). -/
def sh6 (b : Word64) : Nat := b.toNat % 64
/-- High half of the signed product, rounded to minus infinity (R136). -/
def mulhV (a b : Word64) : Word64 := BitVec.ofInt 64 ((a.toInt * b.toInt) / 2 ^ 64)
/-- High half of the unsigned product (R136). -/
def mulhuV (a b : Word64) : Word64 := BitVec.ofNat 64 (a.toNat * b.toNat / 2 ^ 64)
/-- The field of width w at position p (R136). -/
def extV (a : Word64) (p w : Nat) : Nat := a.toNat / 2 ^ p % 2 ^ w
/-- The field, sign-extended (R136). -/
def extsV (a : Word64) (p w : Nat) : Word64 := BitVec.ofInt 64 (sextN w (extV a p w))
/-- b with its field of width w at p replaced by the low bits of a (R136). -/
def insV (a b : Word64) (p w : Nat) : Word64 := bvSet b p w a.toNat
/-- Trailing zero bits among the n lowest (R136). -/
def ctzFrom (a : Nat) : Nat → Nat
  | 0 => 0
  | n + 1 => if a % 2 = 1 then 0 else 1 + ctzFrom (a / 2) n
/-- Leading zero bits of an n-bit number (R136). -/
def clzFrom (a : Nat) : Nat → Nat
  | 0 => 0
  | n + 1 => if a / 2 ^ n % 2 = 1 then 0 else 1 + clzFrom a n
/-- One bits among the n lowest (R136). -/
def popcFrom (a : Nat) : Nat → Nat
  | 0 => 0
  | n + 1 => a / 2 ^ n % 2 + popcFrom a n
/-- A shifted left by 22 with the immediate in its low bits (R136). -/
def lihV (a : Word64) (imm : BitVec 22) : Word64 := (a <<< 22) ||| imm.setWidth 64

/-! ### The shared forms -/

/-- A computation written to its register and its latch after a latency (R130, R133). -/
def alu (op : Op) (d : Dest) (latch : Fin 4) (lat : Nat) (f : State → Word64) (s : State) :
    Host.Outcome State Fault Refusal :=
  issue op (fun s => .done (s.produce lat (destWr d latch (f s)) op.comp) .seq true) s

/-- A one-word computation of two selectors. -/
def alu2 (h : Hdr) (d : Dest) (a b : Sel) (latch : Fin 4) (lat : Nat) (f : Word64 → Word64 → Word64) (s : State) :
    Host.Outcome State Fault Refusal :=
  alu (op1 h [a, b] [] (destRes d)) d latch lat (fun s => f (s.val [a, b] 0) (s.val [a, b] 1)) s

/-- A two-word computation of two selectors (ALUX). -/
def alux2 (h : Hdr) (d : Dest) (a b : Sel) (c : Comp) (latch : Fin 4) (lat : Nat) (f : Word64 → Word64 → Word64)
    (s : State) : Host.Outcome State Fault Refusal :=
  alu (op2 h c [a, b] [] (destRes d)) d latch lat (fun s => f (s.val [a, b] 0) (s.val [a, b] 1)) s

/-- A two-word computation of one selector (ALUX), into b0 after one cycle. -/
def alux1 (h : Hdr) (d : Dest) (a : Sel) (c : Comp) (f : Word64 → Word64) (s : State) :
    Host.Outcome State Fault Refusal :=
  alu (op2 h c [a] [] (destRes d)) d 0 1 (fun s => f (s.val [a] 0)) s

/-- A result that writes predicates, due after one cycle; a destination among p4 to p7 under an active SWP loop raises
the loop fault (R107). -/
def predOut (op : Op) (ps : List (Fin 8)) (w : State → List Wr) (s : State) : Out :=
  match s.mySeq.stageDest ps with
  | some i => .trap 0x14 (loopDetail s.mySeq i) 0 s
  | none => .done (s.produce 1 (w s) op.comp) .seq true

/-- A compare (R137). -/
def compare (op : Op) (pt pf : Fin 8) (c : State → Bool) (s : State) : Host.Outcome State Fault Refusal :=
  issue op (predOut op [pt, pf] fun s => cmpWrites pt pf (c s)) s

/-- A one-word compare of two selectors (R137). -/
def compare2 (h : Hdr) (pt pf : Fin 8) (a b : Sel) (f : Word64 → Word64 → Bool) (s : State) :
    Host.Outcome State Fault Refusal :=
  compare (op1 h [a, b] [] (predRes pt ++ predRes pf)) pt pf (fun s => f (s.val [a, b] 0) (s.val [a, b] 1)) s

/-- A two-word compare with an immediate (R137). -/
def compareI (h : Hdr) (pt pf : Fin 8) (a : Sel) (imm : BitVec 22) (c : Comp) (f : Word64 → Word64 → Bool)
    (s : State) : Host.Outcome State Fault Refusal :=
  compare (op2 h c [a] [] (predRes pt ++ predRes pf)) pt pf (fun s => f (s.val [a] 0) (imm.signExtend 64)) s

/-- Predicate logic (R138): the sources are optionally negated and read at issue. -/
def predLogic (h : Hdr) (xd xa xb : Fin 8) (na nb : Bool) (f : Bool → Bool → Bool) (s : State) :
    Host.Outcome State Fault Refusal :=
  let op := op1 h [] (predRes xa ++ predRes xb) (predRes xd)
  issue op (predOut op [xd] fun s => plWrites xd (f (s.mySeq.pred xa != na) (s.mySeq.pred xb != nb))) s

/-! ### The instructions -/

/-- R133: a + b modulo 2^64. -/
def execAdd (h : Hdr) (d : Dest) (a b : Sel) (s : State) : Host.Outcome State Fault Refusal :=
  alu2 h d a b 0 1 (fun x y => x + y) s
/-- R133: a - b modulo 2^64. -/
def execSub (h : Hdr) (d : Dest) (a b : Sel) (s : State) : Host.Outcome State Fault Refusal :=
  alu2 h d a b 0 1 (fun x y => x - y) s
/-- R133: bitwise and. -/
def execAnd (h : Hdr) (d : Dest) (a b : Sel) (s : State) : Host.Outcome State Fault Refusal :=
  alu2 h d a b 0 1 (fun x y => x &&& y) s
/-- R133: bitwise or. -/
def execOr (h : Hdr) (d : Dest) (a b : Sel) (s : State) : Host.Outcome State Fault Refusal :=
  alu2 h d a b 0 1 (fun x y => x ||| y) s
/-- R133: bitwise exclusive or. -/
def execXor (h : Hdr) (d : Dest) (a b : Sel) (s : State) : Host.Outcome State Fault Refusal :=
  alu2 h d a b 0 1 (fun x y => x ^^^ y) s
/-- R133: shift left by b[5:0]. -/
def execShl (h : Hdr) (d : Dest) (a b : Sel) (s : State) : Host.Outcome State Fault Refusal :=
  alu2 h d a b 0 1 (fun x y => x <<< sh6 y) s
/-- R133: logical shift right by b[5:0]. -/
def execShr (h : Hdr) (d : Dest) (a b : Sel) (s : State) : Host.Outcome State Fault Refusal :=
  alu2 h d a b 0 1 (fun x y => x >>> sh6 y) s
/-- R133: arithmetic shift right by b[5:0]. -/
def execSra (h : Hdr) (d : Dest) (a b : Sel) (s : State) : Host.Outcome State Fault Refusal :=
  alu2 h d a b 0 1 (fun x y => x.sshiftRight (sh6 y)) s
/-- R133: the low 64 bits of the product, into b1 after three cycles. -/
def execMul (h : Hdr) (d : Dest) (a b : Sel) (s : State) : Host.Outcome State Fault Refusal :=
  alu2 h d a b 1 3 (fun x y => x * y) s
/-- R134: a plus a signed 6-bit immediate. -/
def execAddi (h : Hdr) (d : Dest) (a : Sel) (imm : BitVec 6) (s : State) : Host.Outcome State Fault Refusal :=
  alu (op1 h [a] [] (destRes d)) d 0 1 (fun s => s.val [a] 0 + imm.signExtend 64) s
/-- R134: a sign-extended 12-bit immediate. -/
def execLi (h : Hdr) (d : Dest) (imm : BitVec 12) (s : State) : Host.Outcome State Fault Refusal :=
  alu (op1 h [] [] (destRes d)) d 0 1 (fun _ => imm.signExtend 64) s
/-- R136, OP 0. -/
def execAddiLong (h : Hdr) (d : Dest) (a : Sel) (imm : BitVec 22) (c : Comp) (s : State) :
    Host.Outcome State Fault Refusal :=
  alux1 h d a c (fun x => x + imm.signExtend 64) s
/-- R136, OP 1. -/
def execAndi (h : Hdr) (d : Dest) (a : Sel) (imm : BitVec 22) (c : Comp) (s : State) :
    Host.Outcome State Fault Refusal :=
  alux1 h d a c (fun x => x &&& imm.signExtend 64) s
/-- R136, OP 2. -/
def execOri (h : Hdr) (d : Dest) (a : Sel) (imm : BitVec 22) (c : Comp) (s : State) :
    Host.Outcome State Fault Refusal :=
  alux1 h d a c (fun x => x ||| imm.signExtend 64) s
/-- R136, OP 3. -/
def execXori (h : Hdr) (d : Dest) (a : Sel) (imm : BitVec 22) (c : Comp) (s : State) :
    Host.Outcome State Fault Refusal :=
  alux1 h d a c (fun x => x ^^^ imm.signExtend 64) s
/-- R136, OP 4. -/
def execShli (h : Hdr) (d : Dest) (a : Sel) (n : Fin 64) (c : Comp) (s : State) : Host.Outcome State Fault Refusal :=
  alux1 h d a c (fun x => x <<< n.val) s
/-- R136, OP 5. -/
def execShri (h : Hdr) (d : Dest) (a : Sel) (n : Fin 64) (c : Comp) (s : State) : Host.Outcome State Fault Refusal :=
  alux1 h d a c (fun x => x >>> n.val) s
/-- R136, OP 6. -/
def execSrai (h : Hdr) (d : Dest) (a : Sel) (n : Fin 64) (c : Comp) (s : State) : Host.Outcome State Fault Refusal :=
  alux1 h d a c (fun x => x.sshiftRight n.val) s
/-- R136, OP 7: into b1 after four cycles. -/
def execMulh (h : Hdr) (d : Dest) (a b : Sel) (c : Comp) (s : State) : Host.Outcome State Fault Refusal :=
  alux2 h d a b c 1 4 mulhV s
/-- R136, OP 8: into b1 after four cycles. -/
def execMulhu (h : Hdr) (d : Dest) (a b : Sel) (c : Comp) (s : State) : Host.Outcome State Fault Refusal :=
  alux2 h d a b c 1 4 mulhuV s
/-- R136, OP 9. -/
def execMin (h : Hdr) (d : Dest) (a b : Sel) (c : Comp) (s : State) : Host.Outcome State Fault Refusal :=
  alux2 h d a b c 0 1 (fun x y => if x.sle y then x else y) s
/-- R136, OP 10. -/
def execMax (h : Hdr) (d : Dest) (a b : Sel) (c : Comp) (s : State) : Host.Outcome State Fault Refusal :=
  alux2 h d a b c 0 1 (fun x y => if y.sle x then x else y) s
/-- R136, OP 11. -/
def execMinu (h : Hdr) (d : Dest) (a b : Sel) (c : Comp) (s : State) : Host.Outcome State Fault Refusal :=
  alux2 h d a b c 0 1 (fun x y => if x.ule y then x else y) s
/-- R136, OP 12. -/
def execMaxu (h : Hdr) (d : Dest) (a b : Sel) (c : Comp) (s : State) : Host.Outcome State Fault Refusal :=
  alux2 h d a b c 0 1 (fun x y => if y.ule x then x else y) s
/-- R136, OP 13. -/
def execExt (h : Hdr) (d : Dest) (a : Sel) (pos width1 : Fin 64) (c : Comp) (s : State) :
    Host.Outcome State Fault Refusal :=
  alux1 h d a c (fun x => BitVec.ofNat 64 (extV x pos.val (width1.val + 1))) s
/-- R136, OP 14. -/
def execExts (h : Hdr) (d : Dest) (a : Sel) (pos width1 : Fin 64) (c : Comp) (s : State) :
    Host.Outcome State Fault Refusal :=
  alux1 h d a c (fun x => extsV x pos.val (width1.val + 1)) s
/-- R136, OP 15. -/
def execIns (h : Hdr) (d : Dest) (a b : Sel) (pos width1 : Fin 64) (c : Comp) (s : State) :
    Host.Outcome State Fault Refusal :=
  alux2 h d a b c 0 1 (fun x y => insV x y pos.val (width1.val + 1)) s
/-- R136, OP 16. -/
def execClz (h : Hdr) (d : Dest) (a : Sel) (c : Comp) (s : State) : Host.Outcome State Fault Refusal :=
  alux1 h d a c (fun x => BitVec.ofNat 64 (clzFrom x.toNat 64)) s
/-- R136, OP 17. -/
def execCtz (h : Hdr) (d : Dest) (a : Sel) (c : Comp) (s : State) : Host.Outcome State Fault Refusal :=
  alux1 h d a c (fun x => BitVec.ofNat 64 (ctzFrom x.toNat 64)) s
/-- R136, OP 18. -/
def execPopc (h : Hdr) (d : Dest) (a : Sel) (c : Comp) (s : State) : Host.Outcome State Fault Refusal :=
  alux1 h d a c (fun x => BitVec.ofNat 64 (popcFrom x.toNat 64)) s
/-- R136, OP 19. -/
def execLih (h : Hdr) (d : Dest) (a : Sel) (imm : BitVec 22) (c : Comp) (s : State) :
    Host.Outcome State Fault Refusal :=
  alux1 h d a c (fun x => lihV x imm) s
/-- R137. -/
def execCmpeq (h : Hdr) (pt pf : Fin 8) (a b : Sel) (s : State) : Host.Outcome State Fault Refusal :=
  compare2 h pt pf a b cmpEqC s
/-- R137. -/
def execCmplt (h : Hdr) (pt pf : Fin 8) (a b : Sel) (s : State) : Host.Outcome State Fault Refusal :=
  compare2 h pt pf a b cmpLtC s
/-- R137. -/
def execCmpltu (h : Hdr) (pt pf : Fin 8) (a b : Sel) (s : State) : Host.Outcome State Fault Refusal :=
  compare2 h pt pf a b cmpLtuC s
/-- R137, with an immediate. -/
def execCmpeqi (h : Hdr) (pt pf : Fin 8) (a : Sel) (imm : BitVec 22) (c : Comp) (s : State) :
    Host.Outcome State Fault Refusal :=
  compareI h pt pf a imm c cmpEqC s
/-- R137, with an immediate. -/
def execCmplti (h : Hdr) (pt pf : Fin 8) (a : Sel) (imm : BitVec 22) (c : Comp) (s : State) :
    Host.Outcome State Fault Refusal :=
  compareI h pt pf a imm c cmpLtC s
/-- R137, with an immediate. -/
def execCmpltui (h : Hdr) (pt pf : Fin 8) (a : Sel) (imm : BitVec 22) (c : Comp) (s : State) :
    Host.Outcome State Fault Refusal :=
  compareI h pt pf a imm c cmpLtuC s
/-- R138. -/
def execPand (h : Hdr) (xd xa xb : Fin 8) (na nb : Bool) (s : State) : Host.Outcome State Fault Refusal :=
  predLogic h xd xa xb na nb (fun x y => x && y) s
/-- R138. -/
def execPor (h : Hdr) (xd xa xb : Fin 8) (na nb : Bool) (s : State) : Host.Outcome State Fault Refusal :=
  predLogic h xd xa xb na nb (fun x y => x || y) s
/-- R138. -/
def execPxor (h : Hdr) (xd xa xb : Fin 8) (na nb : Bool) (s : State) : Host.Outcome State Fault Refusal :=
  predLogic h xd xa xb na nb (fun x y => x != y) s
/-- R138. -/
def execPmov (h : Hdr) (xd xa : Fin 8) (na : Bool) (s : State) : Host.Outcome State Fault Refusal :=
  predLogic h xd xa 0 na false (fun x _ => x) s

end Sys2Proof.Machine
end

