-- ==== Sys2Proof/Machine/Seqctl.lean ====
section
/-! DEFINITION. Sequencer control: no-operation and breakpoint (R102), branches (R103, R104), hardware loops (R105),
and the explicit arrivals at a rendezvous (R110). -/

namespace Sys2Proof.Machine

/-- R102: only ring actions. -/
def execNop (h : Hdr) (s : State) : Host.Outcome State Fault Refusal :=
  issue (op1 h [] [] []) (fun s => .done s .seq false) s

/-- R102: a debug stop is requested when breakpoints are enabled for the task's partition (R390, R391). -/
def execBrk (h : Hdr) (s : State) : Host.Outcome State Fault Refusal :=
  issue (op1 h [] [] []) (fun s =>
    let perm := (s.die (dieOf s.curCore)).dbgperm
    .done (if bvf perm s.me.part.val 1 = 1 then s.modMe fun c => c.askStop s.curSeq.idx else s) .seq false) s

/-- The target of a PC-relative branch (R103). -/
def branchTarget (pc : BitVec 48) (off : BitVec 18) : BitVec 48 := pc + 4 * off.signExtend 48

/-- The cost of a taken branch beyond its own cycle (R104): one in K, C and S. DESIGN CHOICE (log 42): in L none for a BR that was
never predicted, since its guard was due, as R104 gives L a cost for a predicted branch and for JR alone. -/
def branchCost (q : Fin 4) : Nat := if q = 1 then 0 else 1

/-- The operands and guard of a branch: C interlocks on them (R132). -/
def opBr (h : Hdr) (names : List Sel) (writes : List Res) : Op := { op1 h names [] writes with lock := true }

/-- R103: branch. -/
def execBr (h : Hdr) (off : BitVec 18) (s : State) : Host.Outcome State Fault Refusal :=
  issue (opBr h [] []) (fun s =>
    .done s (.jump (branchTarget s.mySeq.pc off) (branchCost s.curSeq.idx)) false) s

/-- R103: branch and link; s31 takes the return address, no latch is written. DESIGN CHOICE (log 42): a taken BRL costs one cycle
in L too, and the link is due after one cycle, of which R104 and R130 say nothing. -/
def execBrl (h : Hdr) (off : BitVec 18) (s : State) : Host.Outcome State Fault Refusal :=
  issue (opBr h [] [.sreg 31]) (fun s =>
    let q := s.mySeq
    .done (s.produce 1 [.sreg 31 ((q.pc + 4).setWidth 64)] compNone) (.jump (branchTarget q.pc off) 1) true) s

/-- R103: jump to a register target; a misaligned target traps with nothing written. The link goes to b0, and to the
destination when it is not zero. -/
def execJr (h : Hdr) (d : Dest) (a : Sel) (s : State) : Host.Outcome State Fault Refusal :=
  issue (opBr h [a] (destRes d)) (fun s =>
    let q := s.mySeq
    let t := (s.val [a] 0).setWidth 48
    if t.toNat % 4 = 0 then .done (s.produce 1 (destWr d 0 ((q.pc + 4).setWidth 64)) compNone) (.jump t 1) true
    else .trap 0x12 0 t.toNat s) s

/-- The trip count of LOOP (R105). -/
def loopValue (n : LoopCount) (s : State) : Nat :=
  match n with
  | .imm x => x.toNat
  | .sel a => (s.val [a] 0).toNat

/-- The selector a LOOP reads. -/
def loopNames : LoopCount → List Sel
  | .imm _ => []
  | .sel a => [a]

/-- Whether LOOP raises the loop fault (R105): the loop is active, the count is too large, a second SWP loop, or a
body not contained in an active loop's body. -/
def SeqSt.loopBad (q : SeqSt) (x : Fin 4) (swp : Bool) (n : Nat) (start stop : BitVec 48) : Bool :=
  q.live.contains x || decide (2 ^ 32 ≤ n) || (swp && (decide (2 ^ 32 - 4 < n) || q.swpLoop.isSome)) ||
    q.live.any fun i => !decide ((q.h[i]).start ≤ start ∧ stop ≤ (q.h[i]).stop)

/-- R105: sets up a hardware loop; a count of zero skips the body. -/
def execLoop (h : Hdr) (x : Fin 4) (swp : Bool) (n : LoopCount) (lid : BitVec 8) (len : BitVec 18) (c : Comp)
    (s : State) : Host.Outcome State Fault Refusal :=
  let op := { op2 h c (loopNames n) [] (if swp then [.pred 4, .pred 5, .pred 6, .pred 7] else []) with lock := true }
  issue op (fun s =>
    let q := s.mySeq
    let k := loopValue n s
    let start := q.pc + 8
    let stop := start + 4 * len.setWidth 48
    if q.loopBad x swp k start stop then .trap 0x14 (x.val * 256 + lid.toNat) 0 s
    else
      let q' := { q with h := q.h.set x ⟨BitVec.ofNat 32 k, lid, 0, start, stop, swp⟩ }
      if k = 0 then .done (s.modMySeq fun _ => q') (.loop stop) false
      else .done (s.modMySeq fun _ => { q' with live := x :: q'.live }.stage) (.loop start) false) s

/-- An explicit arrival (R110, R111): waits at issue, signals after completion. -/
def opArrive (r : Ring) : Op := ⟨1, r, compNone, .none, [], none, [], [], [], [], [], false, true⟩

/-- R110: the sequencer arrives at the rendezvous of its region. -/
def execCommit (r : Ring) (p : Bool) (drop : BitVec 4) (tag : BitVec 8) (s : State) :
    Host.Outcome State Fault Refusal :=
  issue (opArrive r) (fun s => .done s (.arrive ⟨.commit, tag, p, drop, r, compNone⟩) false) s

/-- R110, R112: the final arrival of a stream. -/
def execHalt (r : Ring) (p : Bool) (drop : BitVec 4) (tag : BitVec 8) (s : State) :
    Host.Outcome State Fault Refusal :=
  issue (opArrive r) (fun s => .done s (.arrive ⟨.halt, tag, p, drop, r, compNone⟩) false) s

end Sys2Proof.Machine
end

