-- ==== Sys2Proof/Machine/Dispatch.lean ====
section
/-! DEFINITION. The one dispatch of the rows of the opcode table to their meanings. -/

namespace Sys2Proof.Machine

/-- The meaning of every row of the opcode table at a state: an instruction word acts for the sequencer that
`State.cur` names, a step of an engine for the agent its operands name. -/
def exec (i : Instr) (s : State) : Host.Outcome State Fault Refusal :=
  match i with
  | .nop h => Sys2Proof.Machine.execNop h s
  | .brk h => Sys2Proof.Machine.execBrk h s
  | .xfenceCore h => Sys2Proof.Machine.execXfenceCore h s
  | .xfenceQuad h => Sys2Proof.Machine.execXfenceQuad h s
  | .xfenceDev h => Sys2Proof.Machine.execXfenceDev h s
  | .xfenceSys h => Sys2Proof.Machine.execXfenceSys h s
  | .commit r p drop tag => Sys2Proof.Machine.execCommit r p drop tag s
  | .halt r p drop tag => Sys2Proof.Machine.execHalt r p drop tag s
  | .add h d a b => Sys2Proof.Machine.execAdd h d a b s
  | .sub h d a b => Sys2Proof.Machine.execSub h d a b s
  | .and h d a b => Sys2Proof.Machine.execAnd h d a b s
  | .or h d a b => Sys2Proof.Machine.execOr h d a b s
  | .xor h d a b => Sys2Proof.Machine.execXor h d a b s
  | .shl h d a b => Sys2Proof.Machine.execShl h d a b s
  | .shr h d a b => Sys2Proof.Machine.execShr h d a b s
  | .sra h d a b => Sys2Proof.Machine.execSra h d a b s
  | .mul h d a b => Sys2Proof.Machine.execMul h d a b s
  | .addi h d a imm => Sys2Proof.Machine.execAddi h d a imm s
  | .li h d imm => Sys2Proof.Machine.execLi h d imm s
  | .addiLong h d a imm c => Sys2Proof.Machine.execAddiLong h d a imm c s
  | .andi h d a imm c => Sys2Proof.Machine.execAndi h d a imm c s
  | .ori h d a imm c => Sys2Proof.Machine.execOri h d a imm c s
  | .xori h d a imm c => Sys2Proof.Machine.execXori h d a imm c s
  | .shli h d a n c => Sys2Proof.Machine.execShli h d a n c s
  | .shri h d a n c => Sys2Proof.Machine.execShri h d a n c s
  | .srai h d a n c => Sys2Proof.Machine.execSrai h d a n c s
  | .mulh h d a b c => Sys2Proof.Machine.execMulh h d a b c s
  | .mulhu h d a b c => Sys2Proof.Machine.execMulhu h d a b c s
  | .min h d a b c => Sys2Proof.Machine.execMin h d a b c s
  | .max h d a b c => Sys2Proof.Machine.execMax h d a b c s
  | .minu h d a b c => Sys2Proof.Machine.execMinu h d a b c s
  | .maxu h d a b c => Sys2Proof.Machine.execMaxu h d a b c s
  | .ext h d a pos width1 c => Sys2Proof.Machine.execExt h d a pos width1 c s
  | .exts h d a pos width1 c => Sys2Proof.Machine.execExts h d a pos width1 c s
  | .ins h d a b pos width1 c => Sys2Proof.Machine.execIns h d a b pos width1 c s
  | .clz h d a c => Sys2Proof.Machine.execClz h d a c s
  | .ctz h d a c => Sys2Proof.Machine.execCtz h d a c s
  | .popc h d a c => Sys2Proof.Machine.execPopc h d a c s
  | .lih h d a imm c => Sys2Proof.Machine.execLih h d a imm c s
  | .cmpeq h pt pf a b => Sys2Proof.Machine.execCmpeq h pt pf a b s
  | .cmplt h pt pf a b => Sys2Proof.Machine.execCmplt h pt pf a b s
  | .cmpltu h pt pf a b => Sys2Proof.Machine.execCmpltu h pt pf a b s
  | .cmpeqi h pt pf a imm c => Sys2Proof.Machine.execCmpeqi h pt pf a imm c s
  | .cmplti h pt pf a imm c => Sys2Proof.Machine.execCmplti h pt pf a imm c s
  | .cmpltui h pt pf a imm c => Sys2Proof.Machine.execCmpltui h pt pf a imm c s
  | .pand h xd xa xb na nb => Sys2Proof.Machine.execPand h xd xa xb na nb s
  | .por h xd xa xb na nb => Sys2Proof.Machine.execPor h xd xa xb na nb s
  | .pxor h xd xa xb na nb => Sys2Proof.Machine.execPxor h xd xa xb na nb s
  | .pmov h xd xa na => Sys2Proof.Machine.execPmov h xd xa na s
  | .br h off => Sys2Proof.Machine.execBr h off s
  | .brl h off => Sys2Proof.Machine.execBrl h off s
  | .jr h d a => Sys2Proof.Machine.execJr h d a s
  | .loop h x swp n lid len c => Sys2Proof.Machine.execLoop h x swp n lid len c s
  | .mfsr h r srn => Sys2Proof.Machine.execMfsr h r srn s
  | .mtsr h r srn => Sys2Proof.Machine.execMtsr h r srn s
  | .ld h d a sz => Sys2Proof.Machine.execLd h d a sz s
  | .ldx h d a sz fate off c => Sys2Proof.Machine.execLdx h d a sz fate off c s
  | .ldd h d a sz scope acq off c => Sys2Proof.Machine.execLdd h d a sz scope acq off c s
  | .st h v a sz => Sys2Proof.Machine.execSt h v a sz s
  | .stx h v a sz fate off c => Sys2Proof.Machine.execStx h v a sz fate off c s
  | .std h v a sz scope rel off c => Sys2Proof.Machine.execStd h v a sz scope rel off c s
  | .ldq h q a fate off c => Sys2Proof.Machine.execLdq h q a fate off c s
  | .lddq h q a scope acq off c => Sys2Proof.Machine.execLddq h q a scope acq off c s
  | .stq h q a fate off c => Sys2Proof.Machine.execStq h q a fate off c s
  | .gather h q a b fate esz off c => Sys2Proof.Machine.execGather h q a b fate esz off c s
  | .scatter h q a b fate esz off c => Sys2Proof.Machine.execScatter h q a b fate esz off c s
  | .atomAdd h d a b f c => Sys2Proof.Machine.execAtomAdd h d a b f c s
  | .atomAnd h d a b f c => Sys2Proof.Machine.execAtomAnd h d a b f c s
  | .atomOr h d a b f c => Sys2Proof.Machine.execAtomOr h d a b f c s
  | .atomXor h d a b f c => Sys2Proof.Machine.execAtomXor h d a b f c s
  | .atomMin h d a b f c => Sys2Proof.Machine.execAtomMin h d a b f c s
  | .atomMax h d a b f c => Sys2Proof.Machine.execAtomMax h d a b f c s
  | .atomMinu h d a b f c => Sys2Proof.Machine.execAtomMinu h d a b f c s
  | .atomMaxu h d a b f c => Sys2Proof.Machine.execAtomMaxu h d a b f c s
  | .atomSwap h d a b f c => Sys2Proof.Machine.execAtomSwap h d a b f c s
  | .atomCas h d a b cmp f c => Sys2Proof.Machine.execAtomCas h d a b cmp f c s
  | .pref h a scope off c => Sys2Proof.Machine.execPref h a scope off c s
  | .prefi h x a nl off c => Sys2Proof.Machine.execPrefi h x a nl off c s
  | .tld h t a fate off c => Sys2Proof.Machine.execTld h t a fate off c s
  | .tldw h t a b fate row0 col0 c => Sys2Proof.Machine.execTldw h t a b fate row0 col0 c s
  | .bank h a st cnt => Sys2Proof.Machine.execBank h a st cnt s
  | .syncwait h d a b off c => Sys2Proof.Machine.execSyncwait h d a b off c s
  | .copy h x a f c => Sys2Proof.Machine.execCopy h x a f c s
  | .copyR h x a f c => Sys2Proof.Machine.execCopyR h x a f c s
  | .dwin h x a b len c => Sys2Proof.Machine.execDwin h x a b len c s
  | .launch h a c => Sys2Proof.Machine.execLaunch h a c s
  | .yieldN h => Sys2Proof.Machine.execYieldN h s
  | .swpt h a => Sys2Proof.Machine.execSwpt h a s
  | .groupRank h d a => Sys2Proof.Machine.execGroupRank h d a s
  | .groupSize h d a => Sys2Proof.Machine.execGroupSize h d a s
  | .bar h a => Sys2Proof.Machine.execBar h a s
  | .barw h d a => Sys2Proof.Machine.execBarw h d a s
  | .vadd h d a b ty sat c => Sys2Proof.Machine.execVadd h d a b ty sat c s
  | .vsub h d a b ty sat c => Sys2Proof.Machine.execVsub h d a b ty sat c s
  | .vmul h d a b ty sat c => Sys2Proof.Machine.execVmul h d a b ty sat c s
  | .vmulh h d a b ty c => Sys2Proof.Machine.execVmulh h d a b ty c s
  | .vmin h d a b ty c => Sys2Proof.Machine.execVmin h d a b ty c s
  | .vmax h d a b ty c => Sys2Proof.Machine.execVmax h d a b ty c s
  | .vand h d a b ty c => Sys2Proof.Machine.execVand h d a b ty c s
  | .vor h d a b ty c => Sys2Proof.Machine.execVor h d a b ty c s
  | .vxor h d a b ty c => Sys2Proof.Machine.execVxor h d a b ty c s
  | .vshl h d a b ty c => Sys2Proof.Machine.execVshl h d a b ty c s
  | .vshr h d a b ty c => Sys2Proof.Machine.execVshr h d a b ty c s
  | .vsra h d a b ty c => Sys2Proof.Machine.execVsra h d a b ty c s
  | .vabs h d a ty sat c => Sys2Proof.Machine.execVabs h d a ty sat c s
  | .vneg h d a ty sat c => Sys2Proof.Machine.execVneg h d a ty sat c s
  | .vmad h d a b x ty sat c => Sys2Proof.Machine.execVmad h d a b x ty sat c s
  | .vfadd h d a b ty rm c => Sys2Proof.Machine.execVfadd h d a b ty rm c s
  | .vfsub h d a b ty rm c => Sys2Proof.Machine.execVfsub h d a b ty rm c s
  | .vfmul h d a b ty rm c => Sys2Proof.Machine.execVfmul h d a b ty rm c s
  | .vfma h d a b x ty rm c => Sys2Proof.Machine.execVfma h d a b x ty rm c s
  | .vfms h d a b x ty rm c => Sys2Proof.Machine.execVfms h d a b x ty rm c s
  | .vfmin h d a b ty rm c => Sys2Proof.Machine.execVfmin h d a b ty rm c s
  | .vfmax h d a b ty rm c => Sys2Proof.Machine.execVfmax h d a b ty rm c s
  | .vfabs h d a ty rm c => Sys2Proof.Machine.execVfabs h d a ty rm c s
  | .vfneg h d a ty rm c => Sys2Proof.Machine.execVfneg h d a ty rm c s
  | .vfrcp h d a ty rm c => Sys2Proof.Machine.execVfrcp h d a ty rm c s
  | .vfrsq h d a ty rm c => Sys2Proof.Machine.execVfrsq h d a ty rm c s
  | .vcmp h pt pf a b cond ty c => Sys2Proof.Machine.execVcmp h pt pf a b cond ty c s
  | .mand h xd xa xb na nb => Sys2Proof.Machine.execMand h xd xa xb na nb s
  | .mor h xd xa xb na nb => Sys2Proof.Machine.execMor h xd xa xb na nb s
  | .mxor h xd xa xb na nb => Sys2Proof.Machine.execMxor h xd xa xb na nb s
  | .mmov h xd xa na => Sys2Proof.Machine.execMmov h xd xa na s
  | .vsel h d a b ms ns c => Sys2Proof.Machine.execVsel h d a b ms ns c s
  | .vperm h d a b c => Sys2Proof.Machine.execVperm h d a b c s
  | .vrot h d a n c => Sys2Proof.Machine.execVrot h d a n c s
  | .vbcast h d a n c => Sys2Proof.Machine.execVbcast h d a n c s
  | .vshup h d a n c => Sys2Proof.Machine.execVshup h d a n c s
  | .vshdn h d a n c => Sys2Proof.Machine.execVshdn h d a n c s
  | .vcvt h d a from_ to_ rm sat c => Sys2Proof.Machine.execVcvt h d a from_ to_ rm sat c s
  | .vrsum h d a ty c => Sys2Proof.Machine.execVrsum h d a ty c s
  | .vrmax h d a ty c => Sys2Proof.Machine.execVrmax h d a ty c s
  | .vrmin h d a ty c => Sys2Proof.Machine.execVrmin h d a ty c s
  | .vmov h d a => Sys2Proof.Machine.execVmov h d a s
  | .vpush h q a => Sys2Proof.Machine.execVpush h q a s
  | .vbcs h d a => Sys2Proof.Machine.execVbcs h d a s
  | .vmvs h d a => Sys2Proof.Machine.execVmvs h d a s
  | .vli h d imm => Sys2Proof.Machine.execVli h d imm s
  | .vbank h st mask => Sys2Proof.Machine.execVbank h st mask s
  | .mma h acc z ta tb m1 f c => Sys2Proof.Machine.execMma h acc z ta tb m1 f c s
  | .drain h acc f c => Sys2Proof.Machine.execDrain h acc f c s
  | .dispatch k => Sys2Proof.Machine.execDispatch k s
  | .contextLoadComplete k => Sys2Proof.Machine.execContextLoadComplete k s
  | .commitComplete k => Sys2Proof.Machine.execCommitComplete k s
  | .saveComplete k => Sys2Proof.Machine.execSaveComplete k s
  | .regionWatchdog k => Sys2Proof.Machine.execRegionWatchdog k s
  | .preemptionOverdue k => Sys2Proof.Machine.execPreemptionOverdue k s
  | .completionSignal k x => Sys2Proof.Machine.execCompletionSignal k x s
  | .resultDue k q id => Sys2Proof.Machine.execResultDue k q id s
  | .icacheFill k q line => Sys2Proof.Machine.execIcacheFill k q line s
  | .deviceLoadReturn k id => Sys2Proof.Machine.execDeviceLoadReturn k id s
  | .wakeEnd k b => Sys2Proof.Machine.execWakeEnd k b s
  | .bankCensus d => Sys2Proof.Machine.execBankCensus d s
  | .tileReady k t => Sys2Proof.Machine.execTileReady k t s
  | .mmaBLoadStart k id => Sys2Proof.Machine.execMmaBLoadStart k id s
  | .mmaAStreamStart k id => Sys2Proof.Machine.execMmaAStreamStart k id s
  | .mmaResultsFinal k id => Sys2Proof.Machine.execMmaResultsFinal k id s
  | .abftCheckFinal k a => Sys2Proof.Machine.execAbftCheckFinal k a s
  | .drainStart k => Sys2Proof.Machine.execDrainStart k s
  | .drainElement k => Sys2Proof.Machine.execDrainElement k s
  | .tlbWalkComplete k id => Sys2Proof.Machine.execTlbWalkComplete k id s
  | .shootdownPage d p va => Sys2Proof.Machine.execShootdownPage d p va s
  | .shootdownPartition d p => Sys2Proof.Machine.execShootdownPartition d p s
  | .shootdownAll d => Sys2Proof.Machine.execShootdownAll d s
  | .shootdownAck d k => Sys2Proof.Machine.execShootdownAck d k s
  | .migrationCountHalve d => Sys2Proof.Machine.execMigrationCountHalve d s
  | .copyStart k x => Sys2Proof.Machine.execCopyStart k x s
  | .copyPiece k x => Sys2Proof.Machine.execCopyPiece k x s
  | .routedPieceArrival k x => Sys2Proof.Machine.execRoutedPieceArrival k x s
  | .copyFinish k x => Sys2Proof.Machine.execCopyFinish k x s
  | .timestampProcedure k => Sys2Proof.Machine.execTimestampProcedure k s
  | .linePerformed k id => Sys2Proof.Machine.execLinePerformed k id s
  | .pinTokenGrant p => Sys2Proof.Machine.execPinTokenGrant p s
  | .atomValueReturn k => Sys2Proof.Machine.execAtomValueReturn k s
  | .commitBComplete k => Sys2Proof.Machine.execCommitBComplete k s
  | .barrierArrivalSend k => Sys2Proof.Machine.execBarrierArrivalSend k s
  | .dieCombinerArrival d => Sys2Proof.Machine.execDieCombinerArrival d s
  | .packageCombinerArrival d => Sys2Proof.Machine.execPackageCombinerArrival d s
  | .barrierReleaseArrival k => Sys2Proof.Machine.execBarrierReleaseArrival k s
  | .memberTokenArrival k ev => Sys2Proof.Machine.execMemberTokenArrival k ev s
  | .episodeTimeout t => Sys2Proof.Machine.execEpisodeTimeout t s
  | .grpctlEnable t v => Sys2Proof.Machine.execGrpctlEnable t v s
  | .grpctlDisable t => Sys2Proof.Machine.execGrpctlDisable t s
  | .grpctlRearm t => Sys2Proof.Machine.execGrpctlRearm t s
  | .slotStage k rec => Sys2Proof.Machine.execSlotStage k rec s
  | .slotPreempt k => Sys2Proof.Machine.execSlotPreempt k s
  | .slotCancela k => Sys2Proof.Machine.execSlotCancela k s
  | .slotCancels k => Sys2Proof.Machine.execSlotCancels k s
  | .slotResume k => Sys2Proof.Machine.execSlotResume k s
  | .ttSlotStart d e => Sys2Proof.Machine.execTtSlotStart d e s
  | .ttSlotEnd d e => Sys2Proof.Machine.execTtSlotEnd d e s
  | .launchRecordPost k => Sys2Proof.Machine.execLaunchRecordPost k s
  | .qstepForward off => Sys2Proof.Machine.execQstepForward off s
  | .qstepBackward off => Sys2Proof.Machine.execQstepBackward off s
  | .qstepHoldEnd => Sys2Proof.Machine.execQstepHoldEnd s
  | .detectorReport k r => Sys2Proof.Machine.execDetectorReport k r s
  | .coreretRetreq d mask => Sys2Proof.Machine.execCoreretRetreq d mask s
  | .migrationPathComplete k => Sys2Proof.Machine.execMigrationPathComplete k s
  | .migrationStage p gang t => Sys2Proof.Machine.execMigrationStage p gang t s
  | .laneRetire d lane => Sys2Proof.Machine.execLaneRetire d lane s
  | .laneRetrainComplete d => Sys2Proof.Machine.execLaneRetrainComplete d s
  | .splitClaim d => Sys2Proof.Machine.execSplitClaim d s
  | .splitClaimCheck d => Sys2Proof.Machine.execSplitClaimCheck d s
  | .splitWon d => Sys2Proof.Machine.execSplitWon d s
  | .heartbeat d => Sys2Proof.Machine.execHeartbeat d s
  | .heartbeatTimeout d => Sys2Proof.Machine.execHeartbeatTimeout d s
  | .dieLost d => Sys2Proof.Machine.execDieLost d s
  | .dieResetGo d => Sys2Proof.Machine.execDieResetGo d s
  | .dieResetForce d => Sys2Proof.Machine.execDieResetForce d s
  | .dieResetQuiet d => Sys2Proof.Machine.execDieResetQuiet d s
  | .qdeadline d => Sys2Proof.Machine.execQdeadline d s
  | .powerGrant d => Sys2Proof.Machine.execPowerGrant d s
  | .quiescePoint k => Sys2Proof.Machine.execQuiescePoint k s
  | .shctlGo => Sys2Proof.Machine.execShctlGo s
  | .shadowLatch d => Sys2Proof.Machine.execShadowLatch d s
  | .tansyClassSummary k => Sys2Proof.Machine.execTansyClassSummary k s
  | .tansyLostRecord d p => Sys2Proof.Machine.execTansyLostRecord d p s
  | .incidentTrigger d p => Sys2Proof.Machine.execIncidentTrigger d p s
  | .tansyPostExpiry d p => Sys2Proof.Machine.execTansyPostExpiry d p s
  | .tansyResume d p => Sys2Proof.Machine.execTansyResume d p s
  | .stopreq k => Sys2Proof.Machine.execStopreq k s
  | .debugStop k => Sys2Proof.Machine.execDebugStop k s
  | .run k => Sys2Proof.Machine.execRun k s
  | .step k => Sys2Proof.Machine.execStep k s
  | .dump k => Sys2Proof.Machine.execDump k s
  | .mailboxDoorbell d p itail => Sys2Proof.Machine.execMailboxDoorbell d p itail s
  | .mailboxOheadWrite d p ohead => Sys2Proof.Machine.execMailboxOheadWrite d p ohead s
  | .hello d p => Sys2Proof.Machine.execHello d p s
  | .mailboxLaunch d p => Sys2Proof.Machine.execMailboxLaunch d p s
  | .faultReply d p => Sys2Proof.Machine.execFaultReply d p s
  | .cancel d p => Sys2Proof.Machine.execCancel d p s
  | .counterAccess d p => Sys2Proof.Machine.execCounterAccess d p s
  | .trigger d p => Sys2Proof.Machine.execTrigger d p s
  | .powerOnReset => Sys2Proof.Machine.execPowerOnReset s
  | .bootGo => Sys2Proof.Machine.execBootGo s
  | .bootVerifyComplete d => Sys2Proof.Machine.execBootVerifyComplete d s
  | .bootTimeout d => Sys2Proof.Machine.execBootTimeout d s
  | .dieResetRelease d => Sys2Proof.Machine.execDieResetRelease d s
  | .ptpEventMessage d m => Sys2Proof.Machine.execPtpEventMessage d m s
  | .hostBar2Access d p off wr n data => Sys2Proof.Machine.execHostBar2Access d p off wr n data s
  | .registerWrite d r v => Sys2Proof.Machine.execRegisterWrite d r v s
  | .mmaBLoadEnd k id => Sys2Proof.Machine.execMmaBLoadEnd k id s
  | .mmaAStreamEnd k id => Sys2Proof.Machine.execMmaAStreamEnd k id s
  | .applicationCoreAccess pa wr n data => Sys2Proof.Machine.execApplicationCoreAccess pa wr n data s

end Sys2Proof.Machine
end

