-- ==== Sys2Proof/Machine/Ahead.lean ====
section
/-! DEFINITION. L's speculation (R119 to R122): L issues past a branch whose guard is not yet due, into a buffer that
becomes its state when the prediction is confirmed and is discarded otherwise (log 20). -/

namespace Sys2Proof.Machine

/-- The kinds of word L issues in speculative mode (R120): majors 2 to 18 but for a destination p4 to p7 under an active SWP
loop, LD and LDX, and BR, none with a ring bit or completion signal set. -/
def specKind (q : SeqSt) (w w2 : Word32) : Bool :=
  let m := majOf w
  let stage := decide (14 ≤ m ∧ m ≤ 17 ∧ (4 ≤ fld w 15 3 ∨ 4 ≤ fld w 12 3)) || (m == 18 && decide (4 ≤ fld w 12 3))
  fld w 28 4 == 0 && !(twoWord .l m && fld w2 28 2 != 0) &&
    ((decide (2 ≤ m ∧ m ≤ 18) && !(q.swpLoop.isSome && stage)) || [19, 24, 25].contains m)

/-- The values that a load wrote when its data returned, read where they stand now. -/
def SeqSt.written (q : SeqSt) (w : Wr) : Wr :=
  match w with
  | .sreg r _ => .sreg r (q.sreg r)
  | .latch b _ => .latch b q.b[b]
  | .pred p _ => .pred p (q.pred p)
  | .vreg r bits v => .vreg r bits v
  | .mask m lanes v => .mask m lanes v
  | .entry x place v => .entry x place v
  | .flags f => .flags f

/-- The buffered state with the results that are due by now (R121): those of the buffer's own instructions, and those that
were in flight when speculation began. -/
def Core.specDeliver (c : Core) (rc : Nat) (x : Spec) : Spec :=
  let real := c.sq 1
  let c1 := x.buf.pend.foldl (fun (y : Core) (p : Pend) =>
    if y.dueNow rc p then y.deliver rc 1 p
    else if p.due == .onReturn && !(real.pend.any fun z => z.id == p.id) then
      match (y.sq 1).pend.find? fun z => z.id == p.id with
      | some z => y.deliver rc 1 { z with writes := z.writes.map real.written }
      | none => y
    else y) { c with seqs := c.seqs.set 1 x.buf }
  { x with buf := c1.sq 1 }

/-- Whether L may begin to speculate at a branch with a guard that is not due (R119): it waits for no token (R122), and neither a
debug stop nor an acquire load is about. -/
def Core.specOpens (c : Core) (h : Hdr) : Bool :=
  !h.ring.wp && !h.ring.wn && h.gp != 0 && c.spec.isNone && c.dbg == .running && !c.rolled && !(c.loads.any fun l => l.acq)

/-- Speculative mode entered past a branch at the head of a state of L, at the predicted path (R119): taken when the offset is
negative. A branch that falls through an end test is not passed. -/
def Core.specOpen (c : Core) (q : SeqSt) (h : Hdr) (off : BitVec 18) (late : List (Fin 8)) : Core :=
  let q := { q with stall := none }
  let taken := off.msb
  let t := branchTarget q.pc off
  let past := q.advance 1
  if !taken && q.tested past then c
  else { c with spec := some ⟨if taken then q.jump t else past, q.pc, late, 0, h.gp, !h.gn, taken, t, q.pc + 4, h.ring, [], false⟩ }

/-- A compare's length in words, header, predicates and scalar operands (R137). -/
def compareOf (i : Instr) : Option (Nat × Hdr × List (Fin 8) × List Sel) :=
  match i with
  | .cmpeq h pt pf a b => some (1, h, [pt, pf], [a, b])
  | .cmplt h pt pf a b => some (1, h, [pt, pf], [a, b])
  | .cmpltu h pt pf a b => some (1, h, [pt, pf], [a, b])
  | .cmpeqi h pt pf a _ _ => some (2, h, [pt, pf], [a])
  | .cmplti h pt pf a _ _ => some (2, h, [pt, pf], [a])
  | .cmpltui h pt pf a _ _ => some (2, h, [pt, pf], [a])
  | _ => none

/-- Whether one of a sequencer's operands waits on a load: a result in flight that writes it and the latch of loads (R45). -/
def SeqSt.onLoad (q : SeqSt) (l : List Sel) : Bool :=
  q.pend.any fun p => (p.writes.any fun w => match w with
    | .latch b _ => b == 2
    | _ => false) && (selRes l).any fun r => p.writes.any fun w => w.hits r

/-- L at a compare that waits on a load, with no token to wait for: it goes on past the branch that follows when the compare
produces its guard (R119, R122). -/
def State.specCompare (s : State) (k : CoreId) (i : Instr) : State :=
  match compareOf i with
  | none => s
  | some (n, h, ps, names) =>
    let c := s.core k
    let q := c.sq 1
    let past := q.advance n
    if c.spec.isSome ∨ c.rolled ∨ (q.stall.map Prod.fst) ≠ some 2 ∨ h.ring.wp ∨ h.ring.wn ∨ !q.onLoad names ∨
        q.tested past then s
    else
      match s.fetch k .l past.pc true with
      | .miss s => s
      | .fault _ _ s => s
      | .words w w2 s =>
        match decode .l w w2 with
        | .ok (.br hb off) =>
          if ps.contains hb.gp && c.specOpens hb then s.modCore k fun c => c.specOpen past hb off ps else s
        | _ => s

/-- What L's attempt at an instruction does for its speculation (R119). -/
def State.specAfter (s : State) (k : CoreId) (q : Seq) (i : Instr) : State :=
  match q, i with
  | .l, .br h off =>
    let c := s.core k
    if c.specOpens h && (c.sq 1).busy (.pred h.gp) && (c.sq 1).stall.map Prod.fst == some 2 then s.modCore k fun c => c.specOpen (c.sq 1) h off []
    else s
  | .l, i => s.specCompare k i
  | _, _ => s

/-- The buffer with every result of its own instructions written, in order; what was in flight before stays (R122). -/
def Core.specResults (c : Core) (rc : Nat) (x : Spec) : SeqSt :=
  let real := c.sq 1
  let b := (c.specDeliver rc x).buf
  let c1 := b.pend.foldl (fun (y : Core) (p : Pend) =>
    if real.pend.any fun z => z.id == p.id then y
    else
      match (y.sq 1).pend.find? fun z => z.id == p.id with
      | some z => y.deliver rc 1 z
      | none => y) { c with seqs := c.seqs.set 1 b }
  let b := c1.sq 1
  { b with
    p := Vector.ofFn fun i : Fin 8 => if x.late.contains i then real.p[i] else b.p[i]
    stall := none
    pay := 0 }

/-- The places of L's registers whose bits a confirmed buffer has changed hold no bad ones any more. -/
def Core.specClean (c : Core) (old new : SeqSt) : Core :=
  { c with notes := c.notes.kept fun p => match p with
      | .sreg q r => q != 1 || old.sreg r == new.sreg r
      | .pred q b => q != 1 || old.pred b == new.pred b
      | .latch q b => q != 1 || old.b[b] == new.b[b]
      | _ => true }

/-- The branch at L's head decided (R122, R104): it issues, with its ring signals and breakpoints; then the buffer becomes L's
state, with its results, fates and counts, or is discarded and L goes the other way at a cost of four cycles beyond this one.
Where a debug stop falls due behind the branch (R391), nothing after it has issued. -/
def Core.specClose (c : Core) (rc : Nat) (on : Bool) (x : Spec) : Core :=
  let q := { c.sq 1 with stall := none }
  let taken := q.pred x.guard == x.sense
  let past := if taken then q.jump x.target else q.advance 1
  let real := c
  let c := (({ c with spec := none, confirmed := true }.doTokens 1 x.ring true).count 0x02 1 0 true).modSeq 1 fun _ => past
  let c := c.watch 1 on q
  if taken = x.predicted then
    if c.dbg = .due 1 then c
    else
      let b := real.specResults rc x
      let c := (List.range x.issued).foldl (fun (y : Core) _ => y.count 0x02 1 0 true) (c.specClean q b)
      { c with
        seqs := c.seqs.set 1 b
        breqs := c.breqs ++ x.fates
        lastResult := if x.issued = 0 then c.lastResult else rc }
  else c.modSeq 1 fun y => { y with pay := 5 }

/-- Whether L's speculation is decided: L has come to the branch and has a cycle (R98), the branch's guard is due (R122), and its
signals have room (R100), with the waits of the rc's issuing set counted as granted. -/
def Core.specDecided (c : Core) (x : Spec) : Bool :=
  (c.sq 1).pc == x.br && (c.clk .control).edge && !(c.sq 1).busy (.pred x.guard) && (c.tokenFail 1 x.ring true).isNone &&
    c.isRunning && !c.rolled && !c.stopped

/-- Confirmation in the rc in which the guard becomes due, before the rc's issues (R122); `on` tells whether breakpoints are
enabled. -/
def Core.specConfirm (c : Core) (rc : Nat) (on : Bool) : Core :=
  match c.spec with
  | some x => if c.specDecided x then (c.specClose rc on x).setCls 1 0 else c
  | none => c

/-- Speculation ends, with L stalling at the instruction (R120). -/
def State.specStop (s : State) (k : CoreId) (x : Spec) : State :=
  s.modCore k fun c => { c with spec := some { x with ended := true } }

/-- One instruction tried in speculative mode (R120, R121): what it would do is worked out on a copy, of which only L's own
state and its fates are kept. -/
def State.specTry (s : State) (k : CoreId) (x : Spec) : Host.Outcome State Fault Refusal :=
  if x.ended ∨ 16 ≤ x.issued then .next s
  else
    match s.fetch k .l x.buf.pc true with
    | .miss s => .next s
    | .fault _ _ s => .next (s.specStop k x)
    | .words w w2 s =>
      if !specKind x.buf w w2 ∨ (majOf w = 19 ∧ (x.buf.busy (.pred (f8 w 24)) || x.late.contains (f8 w 24)) = true) then .next (s.specStop k x)
      else
        match decode .l w w2 with
        | .error _ => .next (s.specStop k x)
        | .ok i =>
          let c := s.core k
          let t := { s with curCore := k, curSeq := .l }.modCore k fun c =>
            { c with spec := none, seqs := c.seqs.set 1 { x.buf with
              stall := none
              pay := 0
              pend := x.buf.pend ++ [(⟨c.nextId, .onReturn, x.late.map fun p => Wr.pred p false, compNone⟩ : Pend)] }, nextId := c.nextId + 1 }
          match exec i t with
          | .next t =>
            let d := t.core k
            let b := { d.sq 1 with pend := (d.sq 1).pend.filter fun p => p.id != c.nextId }
            if d.rolled ∨ d.dbg ≠ c.dbg ∨ d.notes.hit.length ≠ c.notes.hit.length ∨
                d.loads.length ≠ c.loads.length ∨ x.buf.tested b = true then .next (s.specStop k x)
            else
              match b.stall with
              | some (n, _) => .next (if n = 2 then s else s.specStop k x)
              | none =>
                .next (s.modCore k fun c => { c with
                  nextId := d.nextId
                  spec := some { x with buf := b, issued := x.issued + 1, fates := x.fates ++ d.breqs.drop c.breqs.length } })
          | .fault r => .fault r
          | .refused r => .refused r

/-- L's cycle in speculative mode (R119 to R122), when it has issued nothing else: the buffer goes on. -/
def State.specCycle (s : State) (k : CoreId) (x : Spec) : Host.Outcome State Fault Refusal :=
  let x := (s.core k).specDeliver s.rc x
  (s.modCore k fun c => { (c.setCls 1 2) with spec := some x }).specTry k x

end Sys2Proof.Machine
end

