-- ==== Sys2Proof/Machine/Cycle.lean ====
section
/-! DEFINITION. One reference cycle (R3, R4): the order in which a model of one agent at a time takes what the sequencers,
engines and management machinery do in an rc (log 1). An rc is a list of phases; each phase changes the state and lists the
actions that follow, and one step of the machine takes one action or enters the next phase. -/

namespace Sys2Proof.Machine

/-! ### The start of an rc: clock edges, token values, inputs -/

/-- A clock at the start of an rc (R371, R373): an edge every `div` rc. A stopped domain has no edge that its pipelines see,
or no count (R391). -/
def ClkSt.tick (x : ClkSt) (rc : Nat) (quiet still : Bool) : ClkSt :=
  if rc < x.next then { x with edge := false }
  else { x with next := rc + x.div, edge := !quiet, cyc := if still then x.cyc else x.cyc + 1 }

/-- The clocks of a core at the start of an rc. During a debug stop the vector and matrix domains freeze, and the copy domain under
FRZENG (R391). -/
def Core.tickClocks (c : Core) (rc : Nat) : Vector ClkSt 4 :=
  Vector.ofFn fun i : Fin 4 =>
    (c.clocks[i]).tick rc (c.stopped && (i == 1 || i == 2))
      (c.stopped && (if i = 0 then false else if i = 3 then bvf c.dbgctl 28 1 == 1 else true))

/-- One more rc in which a debug stop holds the work of the vector and matrix domains. -/
def Notes.freeze (n : Notes) (rc : Nat) : Notes :=
  { n with froze := match n.froze with
      | (a, m) :: l => if a + m = rc then (a, m + 1) :: l else (rc, 1) :: (a, m) :: l
      | [] => [(rc, 1)] }

/-- The error windows and the detectors of frozen work moved on by one rc while a core is stopped (R391). -/
def Core.suspend (c : Core) (rc : Nat) : Core :=
  { c with lastVec := if c.lastVec = 0 then 0 else c.lastVec + 1, notes := c.notes.freeze rc }

/-- Whether a core stays stopped in the rc that begins: RUN ends a stop with its own rc (R391). -/
def Core.staysStopped (c : Core) : Bool :=
  c.stopped && (match c.dbg with
    | .stopped _ => true
    | .stepping _ => true
    | .blocked => true
    | .running => false
    | .pending _ => false
    | .due _ => false)

/-- A core at the start of an rc: its clocks, the token values that waits see (R100), and the signals of a completed commit
(R111). -/
def Core.startRc (c : Core) (rc : Nat) : Core :=
  let c := { c with stopped := c.staysStopped }
  let c := if c.suspended then c.suspend rc else c
  let up (x : Fin 8) : Bool := c.raise.contains x
  { c with
    clocks := c.tickClocks rc
    tok0 := c.tok
    tok := Vector.ofFn fun x : Fin 8 => if up x then c.tok[x] + 1 else c.tok[x]
    signalled := Vector.ofFn up
    raise := []
    worked := []
    waited := Vector.replicate 8 false
    assume := Vector.replicate 8 false
    q := c.q.map fun x => { x with freed := 0 }
    ovfs := []
    cntset := []
    tried := none
    confirmed := false
    oldBytes := []
    notes := { c.notes with hit := [] }
    rolled := false }

/-- Whether a step from outside waits for the issues of its rc: a detector's report, which takes the place of the rc's traps
(R35), but for structures that are reloaded in place; and the end of a debug stop, from which issue resumes in the next rc
(R391). -/
def afterIssue (i : Instr) : Bool :=
  match i with
  | .detectorReport _ r => match r with
    | .icache _ _ => false
    | .tlb _ _ => false
    | _ => true
  | .run _ => true
  | _ => false

/-- The steps that the outside world, the firmware, the debug port and the detectors ask for (log 4). -/
def fromOutside (i : Instr) : Bool :=
  match i with
  | .shootdownPage _ _ _ | .shootdownPartition _ _ | .shootdownAll _ => true
  | .grpctlEnable _ _ | .grpctlDisable _ | .grpctlRearm _ => true
  | .slotStage _ _ | .slotPreempt _ | .slotCancela _ | .slotCancels _ | .slotResume _ => true
  | .qstepForward _ | .qstepBackward _ => true
  | .detectorReport _ _ | .coreretRetreq _ _ | .laneRetire _ _ | .dieLost _ => true
  | .dieResetGo _ | .dieResetForce _ | .dieResetRelease _ => true
  | .shctlGo | .incidentTrigger _ _ | .tansyResume _ _ => true
  | .stopreq _ | .run _ | .step _ | .dump _ => true
  | .mailboxDoorbell _ _ _ | .mailboxOheadWrite _ _ _ => true
  | .powerOnReset | .bootGo => true
  | .ptpEventMessage _ _ | .hostBar2Access _ _ _ _ _ _ | .applicationCoreAccess _ _ _ _ | .registerWrite _ _ _ => true
  | _ => false

/-- A phase: the state it makes, and the actions that follow. -/
abbrev Phase := State → State × List Action

/-- Every core changed. -/
def State.eachCore (s : State) (f : Core → Core) : State := { s with cores := s.cores.map f }

/-- An action for each core that passes a test. -/
def onCores (p : CoreId → Bool) (a : CoreId → Instr) : List Action :=
  (allCores.filter p).map fun k => .ev (a k)

/-- The dies. -/
def bothDies : List (Fin 2) := [0, 1]

/-- An action for each die that passes a test. -/
def onDies (p : Fin 2 → Bool) (a : Fin 2 → Instr) : List Action := (bothDies.filter p).map fun d => .ev (a d)

/-- An action for each partition of each die that passes a test. -/
def onParts (p : Fin 2 → PartId → Bool) (a : Fin 2 → PartId → Instr) : List Action :=
  bothDies.flatMap fun d => (allCores.filter (p d)).map fun x => .ev (a d x)

/-- The table of a die at a Quartz microsecond (R322 to R324): a cycle begins, and the entries whose START it is. -/
def State.tableStart (s : State) (d : Fin 2) (us : Nat) : State × List Action :=
  let x := s.die d
  let major := max 1 (bvf x.ttctl 32 20)
  let at_ := (us + major - bvf x.ttctl 0 20 % major) % major
  let s := if s.ttRuns d ∧ at_ = 0 then s.modDie d fun y => { y with ttrun := true, ttstat := bvSet y.ttstat 0 9 (s.ttNext d 0) } else s
  (s, if s.ttRuns d ∧ (s.die d).ttrun = true then
      ((List.range (min 256 (bvf x.ttctl 20 9))).filter fun i => bvf x.tteA[(Fin.ofNat 256 i : Fin 256)] 0 20 % major == at_).map
        fun i => Action.ev (.ttSlotStart d (Fin.ofNat 256 i))
    else [])

/-- The boundaries of Quartz time that the count has passed (R10, R204, R270, R322, R363, R370). -/
def State.boundaries (s : State) : State × List Action :=
  let passed (ns : Nat) : Bool := s.qlast / (16 * ns) != s.qns / (16 * ns)
  let us := s.qns / 16000
  let control := if passed 10000 then
      onDies (fun _ => true) Instr.bankCensus ++ onDies (fun _ => true) Instr.powerGrant ++ onDies s.fwRuns Instr.heartbeat
    else []
  let halve := if passed 1000000 then onDies (fun _ => true) Instr.migrationCountHalve else []
  let s := { s with qlast := s.qns }
  if passed 1000 then
    let r0 := s.tableStart 0 us
    let r1 := r0.1.tableStart 1 us
    let ends := bothDies.flatMap fun d => ((r1.1.die d).slotEnds.filter fun e => decide (e.2 ≤ us)).map fun e =>
      Action.ev (.ttSlotEnd d (Fin.ofNat 256 e.1))
    (r1.1, control ++ halve ++ ends ++ r0.2 ++ r1.2)
  else (s, control ++ halve)

/-- The rc starts: route checks see LINKRET as it stands (R410); records staged before it are taken (R317), then what Quartz time
brings, and what comes from outside (R397). -/
def phaseStart : Phase := fun s =>
  let s := { s.eachCore (fun c => c.startRc s.rc) with dies := s.dies.map fun (x : Die) => { x with linkuse := x.linkret } }
  let staged := onCores s.canDispatch Instr.dispatch
  let (s, timed) := s.boundaries
  let now := s.inputs.filter fun x => decide (x.1 ≤ s.rc) && !afterIssue x.2
  ({ s with inputs := s.inputs.filter fun x => !decide (x.1 ≤ s.rc) || afterIssue x.2 },
    staged ++ timed ++ (now.filter fun x => fromOutside x.2).map fun x => .ev x.2)

/-- Wakes whose last rc is over: their banks are full in this rc (R187). -/
def phaseWakes : Phase := fun s =>
  (s, allCores.flatMap fun k => ((s.core k).banks.filter fun b => (b.2.wakeEnd.map fun t => decide (t < s.rc)).getD false).map fun b =>
    Action.ev (.wakeEnd k (Fin.ofNat 260 b.1)))

/-! ### What is due -/

/-- A function of state over every core. -/
def State.foldCores (s : State) (f : State → CoreId → State) : State := allCores.foldl f s

/-- The phase of a core's task, when it has one. -/
def Core.taskPhase (c : Core) : Option TaskPhase := c.task.map TaskSt.phase

/-- The ends of drains and the port cycles of tile loads; loads, saves and moves of contexts that are over. -/
def phaseContext : Phase := fun s =>
  let s := s.foldCores fun s k => (s.pumpDrains k).pumpTiles k
  let is (p : TaskPhase → Bool) (k : CoreId) : Bool := ((s.core k).taskPhase.map p).getD false
  (s,
    onCores (is fun x => match x with
      | .loading t => decide (t ≤ s.rc)
      | .running => false | .held => false | .saving _ _ => false | .migrating _ => false) Instr.contextLoadComplete ++
    onCores (is fun x => match x with
      | .saving t _ => decide (t ≤ s.rc)
      | .running => false | .held => false | .loading _ => false | .migrating _ => false) Instr.saveComplete ++
    onCores (is fun x => match x with
      | .migrating t => decide (t ≤ s.rc)
      | .running => false | .held => false | .loading _ => false | .saving _ _ => false) Instr.migrationPathComplete)

/-- Whether the matrix domain of a core works in this rc. -/
def State.matrixEdge (s : State) (k : CoreId) : Bool := ((s.core k).clk .matrix).edge

/-- The cores whose matrix domain works in this rc. -/
def State.matrixCores (s : State) : List CoreId := allCores.filter s.matrixEdge

/-- The checksum checks of a core that are final, with an error or without. -/
def Core.finalChecks (c : Core) (bad : Bool) : List CheckSt :=
  c.checks.filter fun x => decide (x.final ≤ (c.clk .matrix).cyc) && x.of_.mismatch c.abfttol.toNat == bad

/-- Checksum checks that are final and clean, and the start of the next drain (R221, R239). -/
def phaseChecks : Phase := fun s =>
  (s, (s.matrixCores.flatMap fun k => ((s.core k).finalChecks false).map fun x => Action.ev (.abftCheckFinal k x.acc)) ++
    (s.matrixCores.filter fun k => (s.core k).drains.any fun d => !d.running).map fun k => Action.ev (.drainStart k))

/-- The elements of the running drains, up to sixteen in a matrix cycle (R238). -/
def phaseElements : Phase := fun s =>
  (s, s.matrixCores.flatMap fun k =>
    match (s.core k).runningDrain with
    | some d => if d.rows = 0 then [Action.ev (.drainElement k)]
        else if s.elemDue k d then List.replicate 16 (Action.ev (.drainElement k)) else []
    | none => [])

/-- The MMAs of a core that are at a stage whose time has come. -/
def Core.mmasAt (c : Core) (st : MmaStage) : List MmaSt :=
  c.mmas.filter fun x => x.stage == st && decide (x.at_ ≤ (c.clk .matrix).cyc)

/-- The ends of B loads and A streams, and final elements (R215). -/
def phaseMmaEnds : Phase := fun s =>
  (s, s.matrixCores.flatMap fun k =>
    ((s.core k).mmasAt .final).map (fun x => Action.ev (.mmaResultsFinal k x.id)) ++
    ((s.core k).mmasAt .streamed).map (fun x => Action.ev (.mmaResultsFinal k x.id)) ++
    ((s.core k).mmasAt .streamA).map (fun x => Action.ev (.mmaAStreamEnd k x.id)) ++
    ((s.core k).mmasAt .loadB).map (fun x => Action.ev (.mmaBLoadEnd k x.id)))

/-- The starts of A streams and B loads (R215). -/
def phaseMmaStarts : Phase := fun s =>
  (s, s.matrixCores.flatMap fun k =>
    ((s.core k).mmasAt .waitA).map (fun x => Action.ev (.mmaAStreamStart k x.id)) ++
    ((s.core k).mmasAt .waitB).map (fun x => Action.ev (.mmaBLoadStart k x.id)))

/-- Tiles that are ready, and results that reach their due cycle, in program order (R130, R169, R214). -/
def phaseResults : Phase := fun s =>
  (s, allCores.flatMap fun k =>
    let c := s.core k
    ((c.tloads.filter fun l => decide (l.n ≤ l.pos ∧ l.ready ≤ (c.clk .control).cyc)).map fun l => Action.ev (.tileReady k l.tile)) ++
    allSeqs.flatMap fun q => ((c.sq q).pend.filter fun p => c.dueNow s.rc p).map fun p => Action.ev (.resultDue k q p.id))

/-- Whether a core's engines are frozen by a debug stop under FRZENG (R391). -/
def Core.frzeng (c : Core) : Bool := c.stopped && bvf c.dbgctl 28 1 == 1

/-- Whether an atomic's value has reached a core that waits for it (R306). -/
def State.atomBack (s : State) (k : CoreId) : Bool :=
  let c := s.core k
  c.isRunning && (match c.mid with
    | some m => m.doneAt.isNone && (match m.wait with
      | .inl w => match w.returned with
        | some (_, t) => decide (t ≤ s.rc)
        | none => false
      | .inr _ => false)
    | none => false)

/-- Whether a core's barrier still has its arrival to send (R340). -/
def Core.arrivalUnsent (c : Core) : Bool :=
  c.isRunning && (match c.mid with
    | some m => match m.wait with
      | .inl _ => false
      | .inr w => !w.sent && w.released.isNone
    | none => false)

/-- Whether a die's memory-side cache gives a line up in an rc, when and which is not fixed (R293, log 3): a line that is claimed
stays, and so does one that only rings have touched, so that recording moves no floor (R20). -/
def evicts (rc : Nat) (d : Fin 2) (e : Gran × GranSt) : Bool :=
  match e.1 with
  | .line n => n / 2 ^ 31 % 2 == d.val && e.2.claim.isNone && !e.2.ring && Config.freeEvict d.val rc n
  | .win _ _ => false

/-- The lines that a die's memory-side cache gives up in an rc: the eviction floor rises to the end of their latest lease
(R293). -/
def State.evictLines (s : State) (d : Fin 2) : State :=
  let out := s.grans.filter (evicts s.rc d)
  if out.isEmpty then s
  else { (s.modDie d fun x => { x with evict := out.foldl (fun n e => max n e.2.rts) x.evict }) with
    grans := s.grans.filter fun e => !evicts s.rc d e }

/-- The walks of a core that wait for a place or for Feldspar, started where they may be (R259, R362, R372). -/
def State.startWalks (s : State) (k : CoreId) : State :=
  if (s.core k).walks.any fun w => !w.started then
    ([none, some 0, some 1, some 2, some 3] : List (Option (Fin 4))).foldl (fun s x => (s.pumpWalks k x).pumpWalks k x) s
  else s

/-- What memory and translation do in an rc: untimed writes that waited, and lines that are evicted; walks and fills that end,
data that returns, acknowledgements, lines that are performed, launch records posted, values of atomics, and arrivals of
barriers. -/
def phaseMemory : Phase := fun s =>
  let s := (bothDies.foldl State.evictLines s.pumpWrites).foldCores fun s k => (s.startWalks k).pumpPrefs k
  (s, (allCores.flatMap fun k =>
      let c := s.core k
      ((c.walks.filter fun w => w.started && decide (w.at_ ≤ s.rc)).map fun w => Action.ev (.tlbWalkComplete k w.id)) ++
      ((c.fills.filter fun f => f.pa.isSome && decide (f.at_ ≤ s.rc)).map fun f => Action.ev (.icacheFill k f.tgt f.line)) ++
      (c.loads.filter fun l => decide (l.at_ ≤ s.rc) && l.todo.isEmpty).map fun l => Action.ev (.deviceLoadReturn k l.id)) ++
    (s.shoots.filter fun x => decide (x.at_ ≤ s.rc)).map (fun x => Action.ev (.shootdownAck x.die x.core)) ++
    (s.pins.filter fun e => e.holder.isNone && e.queue.any fun x => decide (x.1 < s.rc)).map (fun e => Action.ev (.pinTokenGrant e.part)) ++
    (allCores.flatMap fun k =>
      let c := s.core k
      if c.frzeng then [] else (c.cb.filter fun l => s.lineReady k l).map fun l => Action.ev (.linePerformed k l.id)) ++
    onCores (fun k => !(s.core k).frzeng && (s.core k).lbuf.any fun l => !l.cur) Instr.launchRecordPost ++
    onCores s.atomBack Instr.atomValueReturn ++
    onCores (fun k => (s.core k).arrivalUnsent) Instr.barrierArrivalSend)

/-! ### Teams, migration, messages -/

/-- The messages that are due and of a kind. -/
def State.dueMsgs (s : State) (p : Msg → Bool) : List (Nat × Msg) := s.msgs.filter fun m => s.msgDue m && p m.2

/-- Arrivals at the die combiners, and what they can send up (R341). -/
def phaseDieComb : Phase := fun s =>
  (s, bothDies.flatMap fun d =>
    ((s.dueMsgs (Msg.toDie d)).map fun _ => Action.ev (.dieCombinerArrival d)) ++
    (s.combs.filter fun c => c.die == d && s.combReady c).map fun _ => Action.ev (.dieCombinerArrival d))

/-- The tokens of an event that are due. -/
def State.tokensDue (s : State) (ev : Fin 5) : List Action :=
  s.msgs.filterMap fun m => match m.2 with
    | .token k _ e => if s.msgDue m ∧ e = ev.val then some (Action.ev (.memberTokenArrival k ev)) else none
    | .arrival _ _ _ _ => none
    | .combined _ _ _ _ _ => none
    | .release _ _ _ _ _ _ => none

/-- The package combiner, in the order of R343: arrivals, departures and return tokens, absence tokens, aborts. -/
def phasePackage : Phase := fun s =>
  (s, (bothDies.flatMap fun d => (s.dueMsgs (Msg.fromDie d)).map fun _ => Action.ev (.packageCombinerArrival d)) ++
    s.tokensDue 2 ++ s.tokensDue 0 ++ s.tokensDue 1 ++ s.tokensDue 4 ++ s.tokensDue 3)

/-- Timeouts, the last event of R343. -/
def phaseTimeouts : Phase := fun s =>
  let s := s.pumpTeams
  (s, (s.teams.filter fun x => x.2.expired).map fun x => Action.ev (.episodeTimeout (Fin.ofNat 256 x.1)))

/-- Whether a core holds a release that it has not used (R344). -/
def Core.releaseHeld (c : Core) : Bool :=
  c.isRunning && (match c.mid with
    | some m => m.doneAt.isNone && (match m.wait with
      | .inl _ => false
      | .inr w => w.released.isSome)
    | none => false)

/-- The step that takes the message at the head of an inbound ring, by its type (R399); a message that is rejected whatever
it asks is taken as an ITAIL write takes it. -/
def State.mailStep (s : State) (d : Fin 2) (p : PartId) (m : List (BitVec 8)) : Instr :=
  if (s.msgBad d p m).isSome then .mailboxDoorbell d p (BitVec.ofNat 16 (bvf (s.die d).mbptr[p] 48 16))
  else
    match field m 0 1 with
    | 0 => .hello d p
    | 1 => .mailboxLaunch d p
    | 2 => .faultReply d p
    | 3 => .cancel d p
    | 4 => .counterAccess d p
    | _ => .trigger d p

/-- The messages that the management cores take in this rc: when is not fixed (log 3). -/
def State.mail (s : State) : State × List Action :=
  (bothDies.flatMap fun d => allCores.map fun p => (d, p)).foldl (fun r x =>
    let s := r.1
    if !s.fwRuns x.1 then r
    else
      match s.inMsg x.1 x.2 with
      | none => r
      | some m =>
        let (n, s) := s.drawPick
        (s, if n % 2 = 1 then r.2 ++ [Action.ev (s.mailStep x.1 x.2 m)] else r.2)) (s, [])

/-- Releases of barriers, migrating contexts that find a spare, and messages from the partitions. -/
def phaseMessages : Phase := fun s =>
  let rel := (s.dueMsgs fun m => allCores.any fun k => Msg.toCore k m).filterMap fun m => match m.2 with
    | .release k _ _ _ _ _ => some (Action.ev (.barrierReleaseArrival k))
    | .arrival _ _ _ _ => none
    | .combined _ _ _ _ _ => none
    | .token _ _ _ => none
  let held := onCores (fun k => (s.core k).releaseHeld) Instr.barrierReleaseArrival
  let mig := (s.saved.filter fun x => s.unstaged x && (s.spare x).isSome).map fun x =>
    Action.ev (.migrationStage x.part x.gang (Fin.ofNat 16 x.idx.toNat))
  let (s, mail) := s.mail
  (s, rel ++ held ++ mig ++ mail)

/-! ### Management -/

/-- The Tansy records of lost counts, each written in the rc in which room returns, which is not fixed (log 3). -/
def State.lostRecords (s : State) : State × List Action :=
  (bothDies.flatMap fun d => allCores.map fun p => (d, p)).foldl (fun r x =>
    let s := r.1
    if ((s.die x.1).tnroom[x.2]) = 0 then r
    else
      let (n, s) := s.drawWatch
      (s, if n % 2 = 1 then r.2 ++ [Action.ev (.tansyLostRecord x.1 x.2)] else r.2)) (s, [])

/-- Whether an optional time has come. -/
def timeUp (now : Nat) (t : Option Nat) : Bool := (t.map fun t => decide (t ≤ now)).getD false

/-- Mirrored launch records whose writes are performed, placed in the launch queues: while the link is down a write to the
partner waits, and without a partner there is none (R400). -/
def State.pumpMirrors (s : State) (d : Fin 2) : State :=
  let alone := (s.die (otherDie d)).lost
  ((s.die d).mirrors.filter fun m => s.mirrored d m).foldl
    (fun s m => (s.noteLaunch m.2 (if alone then [d] else [0, 1])).modDie d fun x => { x with
      launchq := x.launchq.set m.2.part (x.launchq[m.2.part] ++ [.inl m.2]) })
    (s.modDie d fun x => { x with mirrors := x.mirrors.filter fun m => !s.mirrored d m })

/-- The management machinery: mirrored launches, traces, the shadow trigger, Quartz steps, lanes, heartbeats, splits, resets and
boot. -/
def phaseManage : Phase := fun s =>
  let s := bothDies.foldl State.pumpMirrors s
  let now := s.qtime
  let (s, lost) := s.lostRecords
  (s, lost ++
    onParts (fun d p => timeUp now ((s.die d).tnfreeze[p])) Instr.tansyPostExpiry ++
    onDies (fun d => (s.die d).sharmed && decide (s.shtime.toNat ≤ now)) Instr.shadowLatch ++
    (if bvf s.qstep 61 1 = 1 ∧ s.qhold = 0 then [Action.ev .qstepHoldEnd] else []) ++
    onDies (fun d => timeUp now (s.die d).retrain) Instr.laneRetrainComplete ++
    onDies (fun d => s.fwRuns d && bvf (s.die d).flstat 0 4 != 0 && !(s.die (otherDie d)).lost &&
      decide ((s.die d).hbSeen + 100000 ≤ now)) Instr.heartbeatTimeout ++
    onDies (fun d => timeUp now (s.die d).claimAt) Instr.splitClaim ++
    onDies (fun d => timeUp now ((s.die d).claimedAt.map fun t => t + 4000)) Instr.splitClaimCheck ++
    onDies (fun d => timeUp now ((s.die d).claimedAt.map fun t => t + 8000)) Instr.splitWon ++
    onDies (fun d => (s.die d).rstphase == 2 && !s.feldsparBusy) Instr.dieResetQuiet ++
    onDies (fun d => (s.die d).rstphase == 2 && decide ((s.die d).rstQdl ≤ now)) Instr.qdeadline ++
    onDies (fun d => timeUp s.rc (s.die d).bootDue) Instr.bootVerifyComplete ++
    onDies (fun d => bvf (s.die d).bootstat 28 3 == 1 && (s.die d).rstphase == 0 && decide (10000000000 ≤ now)) Instr.bootTimeout)

/-! ### Issue -/

/-- The outcome of a step with its next state changed. -/
def andThen (o : Host.Outcome State Fault Refusal) (f : State → State) : Host.Outcome State Fault Refusal :=
  match o with
  | .next s => .next (f s)
  | .fault r => .fault r
  | .refused r => .refused r

/-- A sequencer after an attempt to issue (R379, R393): its class is that of its stall, 0 when it issued; the rc of a
rollback keeps the class. The task's first issue is noted (R317), which an attempt that traps is also (log 23). -/
def Core.attempted (c : Core) (q : Fin 4) : Core :=
  if c.rolled then { c with begun := true }
  else
    let n := if c.confirmed && q == 1 then 0 else
      match (c.sq q).stall with
      | some (n, _) => n
      | none => 0
    ({ c with begun := c.begun || (c.sq q).stall.isNone }.setCls (Fin.ofNat 12 q.val) n).stepped q n

/-- A sequencer after its attempt; at its task's first issue the member's return token is sent (R337). -/
def State.attempted (s : State) (k : CoreId) (q : Fin 4) : State :=
  let t := s.modCore k fun c => c.attempted q
  if !(s.core k).begun && (t.core k).begun then
    match (t.core k).task with
    | some x => t.sendToken k x.key 0
    | none => t
  else t

/-- THE ATTEMPT OF A SEQUENCER TO ISSUE ITS HEAD (R99, R115): the words at its program counter are fetched and decoded, and
the instruction is carried out. A miss waits; a fetch that fails translation and a word that is no instruction trap (R50,
R262). L opens its speculation at a branch whose guard is not due, or at the compare before it (R119). -/
def State.attempt (s : State) (k : CoreId) (q : Seq) : Host.Outcome State Fault Refusal :=
  let s := { s with curCore := k, curSeq := q }
  match s.fetch k q s.mySeq.pc false with
  | .miss s => .next ((s.stallWith 1).attempted k q.idx)
  | .fault va f s =>
    let r := s.xlateTrap k q.idx va .fetch f
    .next ((r.1.trapHere r.2.1 r.2.2 va).attempted k q.idx)
  | .words w w2 s =>
    match decode q w w2 with
    | .error e => .next ((s.trapHere e.cause.toNat 0 0).attempted k q.idx)
    | .ok i =>
      andThen (exec i s) fun s => (s.specAfter k q i).attempted k q.idx

/-- Whether a sequencer is being stepped and its instruction is still to issue (R393). -/
def Core.steps (c : Core) (q : Fin 4) : Bool := c.dbg == .stepping false && c.stepSeq == q

/-- Whether a sequencer has a cycle in which it may issue (R98, R32): its task runs, its domain has an edge, and no debug
stop holds it but for a step of its own. -/
def Core.mayIssue (c : Core) (q : Seq) : Bool :=
  c.isRunning && !c.rolled && (c.clk (seqDom q)).edge && (!c.stopped || c.steps q.idx)

/-- The class of a wait between commit A and commit B (R379). -/
def Mid.cls (m : Mid) : Nat :=
  match m.wait with
  | .inl _ => 0x10 + 26
  | .inr _ => 0x10 + 24

/-- L's issue cycle in speculative mode: the compare that the branch waits for issues once it can (R119); until then, and until
its predicate is due, the speculation goes on. -/
def State.specIssue (s : State) (k : CoreId) (y : Spec) : Host.Outcome State Fault Refusal :=
  if ((s.core k).sq 1).pc = y.br then s.specCycle k y
  else
    match s.attempt k .l with
    | .next t => if (t.core k).rolled ∨ ((t.core k).sq 1).stall.isNone then .next t else t.specCycle k y
    | .fault r => .fault r
    | .refused r => .refused r

/-- A sequencer's issue cycle: what holds it before its head is looked at (R29, R104, R264, R298, R306, R340), then the
attempt. -/
def State.issueCycle (s : State) (k : CoreId) (q : Seq) : Host.Outcome State Fault Refusal :=
  let c := s.core k
  let x := c.sq q.idx
  let held (n : Nat) : Host.Outcome State Fault Refusal :=
    .next (s.modCore k fun c => (c.setCls (Fin.ofNat 12 q.idx.val) n).stepped q.idx n)
  if !c.mayIssue q then .next s
  else if x.arrival.isSome then held (0x10 + 26)
  else
    match c.mid with
    | some m => held m.cls
    | none =>
      if q = .l ∧ c.halted.isSome then held haltClass
      else if 0 < x.pay then
        .next (s.modCore k fun c => (((c.modSeq q.idx fun y => { y with pay := y.pay - 1 }).setCls (Fin.ofNat 12 q.idx.val)
          (if c.confirmed && q == .l then 0 else 1))).stepPaid q.idx)
      else if c.pinned && !s.holdsPin k then held floorClass
      else
        match q, c.spec with
        | .l, some y => s.specIssue k y
        | _, _ => s.attempt k q

/-- L's speculation confirmed where it is decided (R122). -/
def State.confirm (s : State) (k : CoreId) : State :=
  s.modCore k fun c => c.specConfirm s.rc (bvf (s.die (dieOf k)).dbgperm c.part.val 1 == 1)

/-- The four sequencers tried with some waits taken as granted, the branch that L's speculation has waited for with them; the
answer is the counters whose waits were granted. -/
def State.tryIssue (s : State) (k : CoreId) (l : Vector Bool 8) : Vector Bool 8 :=
  let s := (s.modCore k fun c => { c with assume := l }).confirm k
  let s := [Seq.c, .k, .l, .s].foldl (fun (t : State) q => match t.issueCycle k q with
    | .next t => t
    | .fault _ => t
    | .refused _ => t) s
  (s.core k).waited

/-- THE LARGEST ISSUING SET (R100): the waits that are granted, from all of them down to those that the set they allow
grants. -/
def State.largest (s : State) (k : CoreId) : Nat → Vector Bool 8 → Vector Bool 8
  | 0, l => l
  | n + 1, l =>
    let w := s.tryIssue k l
    let l' := Vector.ofFn fun x : Fin 8 => l[x] && w[x]
    if l' = l then l else s.largest k n l'

/-- The waits taken as granted on the counters that stand at 15 (R100). -/
def State.assumeWaits (s : State) (k : CoreId) : State :=
  let c := s.core k
  let full := c.tok0.map fun n => decide (15 ≤ n)
  if c.isRunning && full.toList.any id then
    let l := s.largest k 8 full
    s.modCore k fun c => { c with assume := l }
  else s

/-- PREFIs whose lines are all filled or dropped, complete (R118). -/
def Core.prefisDone (c : Core) (rc : Nat) : Core :=
  allSeqs.foldl (fun (c : Core) q =>
    (c.sq q).pend.foldl (fun (c : Core) p =>
      if p.due == .onReturn && !(c.loads.any fun l => l.id == p.id) && !(c.fills.any fun f => f.prefi == some p.id) then
        c.deliver rc q p
      else c) c) c

/-- Whether work that a core started before its acknowledgement still runs (R269): released lines, started copies, loads. -/
def Core.workBelow (c : Core) (n : Nat) : Bool :=
  (c.cb.any fun l => !l.cur && decide (l.id < n)) || (c.loads.any fun l => decide (l.id < n)) ||
    c.chans.toList.any fun l => l.any fun m => m.phase != .queued && decide (m.id < n)

/-- SDSTAT.DRAINED set once all the work is performed (R269). -/
def State.settleShoots (s : State) : State :=
  let l := s.sdwait.filter fun w => (s.core w.core).workBelow w.bound
  { s with
    sdwait := l
    dies := Vector.ofFn fun d : Fin 2 =>
      let x := s.die d
      if bvf x.sdstat 31 1 = 0 ∧ bvf x.sdstat 0 16 = 0xFFFF ∧ !(l.any fun w => w.die == d) then
        { x with sdstat := bvSet x.sdstat 30 1 1 } else x }

/-- The issue of the rc: every sequencer of every core has its cycle, C before K, L and S, whose effects in an rc do not
depend on the order (log 1). -/
def phaseIssue : Phase := fun s =>
  let s := s.foldCores fun s k => ((s.pumpFills k).pumpLoads k).modCore k fun c => c.prefisDone s.rc
  let s := s.settleShoots
  let s := s.foldCores fun s k => (s.assumeWaits k).confirm k
  (s, (allCores.filter fun k => (s.core k).isRunning).flatMap fun k =>
    ([Seq.c, .k, .l, .s].filter fun q => !(s.core k).stopped || (s.core k).steps q.idx).map fun q => Action.issue k q)

/-! ### The end of an rc -/

/-- Completion signals, once the issues of the rc are known (R101). -/
def phaseSignals : Phase := fun s =>
  (s, allCores.flatMap fun k => (s.core k).offered.dedup.map fun x => Action.ev (.completionSignal k x))

/-- The reports of a core's registers that hold bad bits and were read in this rc (R126, R185): a value that fails its check is
never seen. -/
def Core.badReads (c : Core) (rc : Nat) : List Report :=
  c.notes.hit.map fun h => .storage ⟨some h.2.1, h.2.2, rc⟩ h.1 (c.placeBits h.1) false

/-- Once the traps of an rc are known: what detectors report, and checksum checks that fail, which take their place (R35); and
the ends of debug stops. -/
def phaseReports : Phase := fun s =>
  let now := s.inputs.filter fun x => decide (x.1 ≤ s.rc)
  ({ s with inputs := s.inputs.filter fun x => !decide (x.1 ≤ s.rc) },
    (now.filter fun x => fromOutside x.2).map (fun x => Action.ev x.2) ++
      (allCores.flatMap fun k => ((s.core k).badReads s.rc).map fun r => Action.ev (.detectorReport k r)) ++
      allCores.flatMap fun k => ((s.core k).finalChecks true).map fun x => Action.ev (.abftCheckFinal k x.acc))

/-- The region count and the count of a pending pre-emption in an rc, from the first issue on (R38, R40, R317). -/
def Core.countRegion (c : Core) : Core :=
  if !c.isRunning ∨ !c.begun then c
  else
    let still := c.stopped || c.halted.isSome || (match c.mid with
      | some m => match m.wait with
        | .inl _ => false
        | .inr _ => true
      | none => false)
    { c with
      rgncnt := if still then c.rgncnt else c.rgncnt + 1
      preempt := c.preempt.map fun n => n + 1 }

/-- The causes of the rc (R34, R35, R38, R40), and the requests that a Held task or a barrier wait takes at once. -/
def phaseCauses : Phase := fun s =>
  let s := s.eachCore fun c => { c.countRegion with assume := Vector.replicate 8 false }
  (s, allCores.flatMap fun k =>
    let c := s.core k
    if c.task.isNone then []
    else if c.watchdogDue && !c.allArrived then [Action.ev (.regionWatchdog k)]
    else if c.preemptDue && !c.allArrived then [Action.ev (.preemptionOverdue k)]
    else [Action.settle k])

/-- Commits that complete (R30), and commits B (R306, R340). -/
def phaseCommits : Phase := fun s =>
  (s, onCores (fun k => (s.core k).ready && (s.core k).isRunning && !(s.core k).held) Instr.commitComplete ++
    onCores (fun k => (((s.core k).mid.map fun m => timeUp s.rc m.doneAt).getD false)) Instr.commitBComplete)

/-- The private stores of S that are performed in this rc, with their fates (R153, R159). DESIGN CHOICE (log 46): a bank that
has gone to retention since the store's issue takes the bytes and is not woken (R156, R192). -/
def Core.performStores (c : Core) (rc : Nat) : Core :=
  (c.stores.filter fun x => c.isDue rc x.due).foldl (fun (c : Core) x =>
    { c with mem := x.bytes.foldl (fun (m : Mem) (b : Nat × BitVec 8) => m.write b.1 b.2) c.mem }.askFate x.fate)
    { c with stores := c.stores.filter fun x => !c.isDue rc x.due }

/-- The channels. -/
def allChans : List (Fin 4) := [0, 1, 2, 3]

/-- The steps of a channel in this rc (R281 to R285): commands that end, a piece, and commands that start. -/
def State.chanSteps (s : State) (k : CoreId) (x : Fin 4) : List Action :=
  let l := (s.core k).chanHeads x
  let does (p : CopyCmd → Bool) (i : Instr) : List Action := if l.any p then [Action.ev i] else []
  does (fun m => s.ending k m && !m.routed) (.copyFinish k x) ++
    does (fun m => m.phase == .acquire || m.phase == .moving) (.copyPiece k x) ++
    does (fun m => m.phase == .queued) (.copyStart k x)

/-- Private stores, then the copy channels, whose accesses come after all others of an rc (R283). -/
def phaseCopies : Phase := fun s =>
  let s := s.eachCore fun c => c.performStores s.rc
  (s, allCores.flatMap fun k => if (s.core k).frzeng then [] else allChans.flatMap fun x => s.chanSteps k x)

/-- Whether a channel writes a routed piece in this rc: one has arrived, at the channel's rate (R274, R283). -/
def State.routeDue (s : State) (k : CoreId) (x : Fin 4) : Bool :=
  ((s.core k).clk .control).edge && ((s.core k).clk .copy).edge && !(s.arrived k x).isEmpty

/-- Routed pieces that arrive, and the ends of routed commands, by channel (R283 to R285); and the timestamp procedures of
regions at their rendezvous (R295). -/
def phaseRoutes : Phase := fun s =>
  (s, (allChans.flatMap fun x => (allCores.filter fun k => !(s.core k).frzeng).flatMap fun k =>
      (if s.routeDue k x then [Action.ev (.routedPieceArrival k x)] else []) ++
        if ((s.core k).chanHeads x).any fun m => m.routed && s.ending k m then [Action.ev (.copyFinish k x)] else []) ++
    onCores (fun k =>
      let c := s.core k
      c.isRunning && !c.rolled && c.timedRegion && (c.atRendezvous && !c.held || c.stepQuiet)) Instr.timestampProcedure)

/-- The overflow messages of an rc (R385). -/
def State.overflows (s : State) (k : CoreId) : State :=
  let c := s.core k
  c.ovfs.foldl (fun s i =>
    let g := c.cntcfg[i]
    let tag := bvf g 24 5
    if bvf g 30 1 = 0 then s
    else if tag < 16 then
      s.postOut (dieOf k) (Fin.ofNat 16 tag) 0x83 (leBytes 1 k.val ++ leBytes 1 i.val ++ leBytes 6 0 ++ leBytes 8 s.qtime)
    else s.modDie (dieOf k) fun x => { x with irqs := x.irqs ++ [(2, 8 * k.val + i.val, s.qtime)] }) s

/-- The fabric events of an rc, whose number is not fixed (R382, log 3), counted by management counters alone. -/
def State.fabric (s : State) (k : CoreId) : State :=
  ([0x0E, 0x0F] : List Nat).foldl (fun s e =>
    if (s.core k).cntcfg.toList.any fun g => bvf g 31 1 == 1 && bvf g 8 8 == e && bvf g 24 5 == 16 then
      let (n, s) := s.drawWatch
      s.modCore k fun c => (List.range n).foldl (fun (c : Core) _ => c.countFor none e 0 0 true) c
    else s) s

/-- The classes of the sequencers of an active context that does not run: nothing at their heads; but the rc of a rollback
keeps those before it. -/
def Core.idleCls (c : Core) : Core :=
  if c.isRunning ∨ c.rolled then c else allSeqs.foldl (fun (c : Core) q => c.setCls (Fin.ofNat 12 q.val) 1) c

/-- A core at the end of an rc: the reports of its traps, banks, the rendezvous, a step's commit, tasks that are Done, classes
and counters. -/
def State.endCore (s : State) (k : CoreId) : State :=
  let s := (s.postTraps k).modCore k fun c => c.settleBanks s.rc
  let s := ((s.checkReady k).stepCommit k).settleDone k
  let s := (s.modCore k Core.idleCls).classify k
  let s := s.modCore k fun c => if c.isRunning then c.count 0x01 0 0 true else c
  (s.fabric k).overflows k

/-- Whether a core's class window ends with this rc (R388). -/
def State.windowEnds (s : State) (k : CoreId) : Bool :=
  let c := s.core k
  c.task.isSome && (s.rc + 1) % 2 ^ (bvf (s.die (dieOf k)).tncfg[c.part] 52 4 + 8) == 0

/-- The end of an rc; a stop whose boundary has come halts the core from the next rc on (R391). -/
def phaseEnd : Phase := fun s =>
  let s := s.foldCores State.endCore
  (s, onCores (fun k => (s.core k).changing) Instr.quiescePoint ++ onCores s.windowEnds Instr.tansyClassSummary ++
    onCores (fun k => (s.core k).stopDue.isSome) Instr.debugStop)

/-! ### Time -/

/-- Quartz time after one rc (R321): 5 sixteenths of a ns pass (log 13), corrected by the slew in millionths, of which a
backward step absorbs what is left of it. -/
def State.passTime (s : State) : State :=
  let a := s.qfrac + 5 * (1000000 + s.slew).toNat
  let n := a / 1000000
  let h := min n s.qhold
  { s with rc := s.rc + 1, qns := s.qns + (n - h), qhold := s.qhold - h, qfrac := a % 1000000 }

/-- The time of the next rc. -/
def phaseTime : Phase := fun s => (s.passTime, [])

/-! ### The phases of an rc -/

/-- The phases in order. -/
def phases : List Phase :=
  [phaseStart, phaseWakes, phaseContext, phaseChecks, phaseElements, phaseMmaEnds, phaseMmaStarts, phaseResults, phaseMemory,
    phaseDieComb, phasePackage, phaseTimeouts, phaseMessages, phaseManage, phaseIssue, phaseSignals, phaseReports,
    phaseCauses, phaseCommits, phaseCopies, phaseRoutes, phaseEnd, phaseTime]

/-- The next phase entered: its actions become the agenda; after the last phase comes the first. -/
def State.enter (s : State) : State :=
  match phases[s.phase]? with
  | some f =>
    let r := f s
    { r.1 with agenda := r.2, phase := s.phase + 1 }
  | none => { s with phase := 0 }

/-- One action of the agenda. -/
def State.act (s : State) (a : Action) : Host.Outcome State Fault Refusal :=
  match a with
  | .issue k q => s.issueCycle k q
  | .settle k => .next (s.settle k)
  | .ev i => exec i s

end Sys2Proof.Machine
end

