-- ==== Sys2Proof/Machine/Step.lean ====
section
/-! DEFINITION. The step of the machine, and an instruction placed where the next step fetches it. -/

namespace Sys2Proof.Machine

/-- ONE STEP (log 1): the next action of the current rc, or the next phase of it. -/
def step (s : State) : Host.Outcome State Fault Refusal :=
  match s.agenda with
  | [] => .next s.enter
  | a :: l => { s with agenda := l }.act a

/-- A word placed in the I-cache of a sequencer at an address. -/
def Core.placeWord (c : Core) (q : Fin 4) (a : BitVec 48) (w : Word32) : Core :=
  let old := match c.icLine q c.part a.toNat with
    | some l => l.data
    | none => 0
  c.icPut q ⟨c.part, a.toNat / 64 * 64, bvSet old (8 * (a.toNat % 64)) 32 w.toNat, 65536⟩

/-- The task that core 0 runs when an instruction is placed for it and it runs none. -/
def placedTask : TaskSt := ⟨0, 0, 0, 1, 0, 0, 0, 0, false, .running, none, 0, 0⟩

/-- A core made ready to issue from a sequencer: its task runs, the sequencer's domain has an edge, and nothing holds the
sequencer. -/
def Core.ready4 (c : Core) (q : Seq) : Core :=
  { c with
    task := some (match c.task with
      | some t => { t with phase := .running }
      | none => placedTask)
    clocks := c.clocks.set (seqDom q).idx { c.clk (seqDom q) with edge := true }
    seqs := c.seqs.set q.idx { c.sq q.idx with arrival := none, pay := 0 }
    mid := none
    halted := none
    spec := none
    pinned := false
    stopped := false
    rolled := false }

/-- An instruction placed for the very next step (log 2): its words stand in the I-cache of core 0's sequencer that accepts
it, the first of K, L, C, S, at that sequencer's program counter; core 0 runs a task, and the agenda holds the sequencer's
issue alone. The bits of the second word above the row's are zero. -/
def State.withFetchWord (s : State) (nbits w : Nat) : State :=
  let q := match decodeAny nbits w with
    | some r => r.1
    | none => .k
  let w1 := BitVec.ofNat 32 w
  let w2 := BitVec.ofNat 32 (w / 2 ^ 32)
  let s := s.modCore 0 fun c =>
    let c := c.ready4 q
    let pc := (c.sq q.idx).pc
    (c.placeWord q.idx pc w1).placeWord q.idx (pc + 4) w2
  { s with agenda := [.issue 0 q] }

end Sys2Proof.Machine
end

