-- ==== Sys2Proof/Safety.lean ====
section
/-! DEFINITION. The terms that claims about the machine are stated in: when an instruction's head passes the checks of
R99, what an issued instruction leaves unchanged, a result put in flight, and the canonical form of every memory. -/

namespace Sys2Proof.Machine

/-- The head of the current sequencer passes checks 2, 3 and 4 of R99 for an instruction: its tokens (R26, R100), its
queues (R144), no outstanding acquire load in L (R302), its guard (R43), its interlocks (R131, R132), the vector banks it
names (R171), and a two-word instruction does not lie across the end of a loop's body (R106). -/
structure Goes (op : Op) (s : State) : Prop where
  tokens : s.me.tokenFail s.curSeq.idx op.ring (!op.arr) = none
  queues : s.me.queueFail op.names op.push = none
  acquire : s.curSeq.idx = 1 → s.me.loads.any (fun l => l.acq) = false
  sometimes : op.guard.never = false
  known : ((s.curSeq.idx != 2 || op.lock) && op.guard.res.any s.mySeq.busy) = false
  holds : op.guard.holds s.mySeq = true
  free : s.mySeq.interlocked s.curSeq.idx op = false
  banks : s.me.vbankState op.vregs = (none, none)
  fits : op.len = 2 → s.mySeq.splitsLoop = none

/-- What an issued instruction leaves unchanged when its own effect on the core is `own`: the package outside the cores, the
other cores and sequencers, the current sequencer's registers and latches, every register of the core that neither `own` nor the
end of an issue writes, the states of the banks, and every byte of device memory and of local store. The end of an issue writes
tokens (R26), queues (R46), offered signals (R101), result numbers, wake lists (R190), counters (R382), the debug stop (R391)
and the notes for the detectors (R126, R185). -/
structure Frame (own : Core → Core) (s t : State) : Prop where
  outside : t = { s with cores := t.cores }
  others : ∀ k, k ≠ s.curCore → t.core k = s.core k
  core : t.me = { own s.me with
    seqs := t.me.seqs, tok := t.me.tok, waited := t.me.waited, signalled := t.me.signalled, q := t.me.q,
    offered := t.me.offered, nextId := t.me.nextId, banks := t.me.banks, cntval := t.me.cntval, ovfs := t.me.ovfs,
    dbg := t.me.dbg, notes := t.me.notes }
  banks : ∀ b, (t.me.bank b).state = (s.me.bank b).state
  seqs : ∀ j, j ≠ s.curSeq.idx → t.me.sq j = s.me.sq j
  scalars : t.mySeq.s = s.mySeq.s
  latches : t.mySeq.b = s.mySeq.b
  memory : ∀ a, t.mem.read a = s.mem.read a
  stores : ∀ k a, (t.core k).mem.read a = ((if k = s.curCore then own (s.core k) else s.core k)).mem.read a

/-- The current sequencer's predicates are unchanged, but for p4 to p7 under an active SWP loop, whose stages they follow
(R107). -/
def PredsKept (s t : State) : Prop :=
  ∀ p : Fin 8, p.val < 4 ∨ s.mySeq.swpLoop = none → t.mySeq.p[p] = s.mySeq.p[p]

/-- The sequencer stands past the instruction: its program counter, loops and active list are those of R106 and R108 after
an instruction of `len` words. -/
def Past (len : Nat) (s t : State) : Prop :=
  t.mySeq.pc = (s.mySeq.advance len).pc ∧ t.mySeq.h = (s.mySeq.advance len).h ∧ t.mySeq.live = (s.mySeq.advance len).live

/-- The results in flight of the current sequencer are those before and one more: due `lat` cycles of the sequencer's
issue clock after this one (R130), with its writes and its second word's signals. -/
def InFlight (lat : Nat) (ws : List Wr) (comp : Comp) (s t : State) : Prop :=
  t.mySeq.pend = s.mySeq.pend ++
    [⟨s.me.nextId, .cycle (seqDom s.curSeq) ((s.me.clk (seqDom s.curSeq)).cyc + lat), ws, comp⟩]

/-- The instruction issues with a result in flight and what `own` does to the core: it stands past itself, and all else is
unchanged. -/
def Yields (i : Instr) (op : Op) (lat : Nat) (ws : List Wr) (own : Core → Core) (s : State) : Prop :=
  ∃ t, exec i s = .next t ∧ InFlight lat ws op.comp s t ∧ Past op.len s t ∧ Frame own s t ∧ PredsKept s t

/-- The instruction issues and its one effect is a result in flight. -/
def Produces (i : Instr) (op : Op) (lat : Nat) (ws : List Wr) (s : State) : Prop := Yields i op lat ws id s

/-- The instruction issues and its effect is what `own` does to the core, no result in flight: it stands past itself. -/
def Does (i : Instr) (op : Op) (own : Core → Core) (s : State) : Prop :=
  ∃ t, exec i s = .next t ∧ t.mySeq.pend = s.mySeq.pend ∧ Past op.len s t ∧ Frame own s t ∧ PredsKept s t

/-- The instruction takes a trap of its own checks (R34): its report gives the cause, the detail and the address. It has read its
operands first, and bad bits in one are noted, so that their report takes the trap's place (R35, R126). -/
def Traps (i : Instr) (op : Op) (cause detail addr : Nat) (s : State) : Prop :=
  exec i s = .next ((s.noted op).trapHere cause detail addr)

/-- What a program can see of a core is unchanged, whatever else the core's engines and translation hold: the registers,
latches and predicates of its sequencers (but p4 to p7 where an SWP loop is active, whose stages they follow, R107), vector
registers and masks, special registers, accumulators, the bytes of tiles, drain memory and windows, its cut and identity, and the
bytes of its local store. -/
structure SameCore (c d : Core) : Prop where
  scalars : ∀ j : Fin 4, (d.sq j).s = (c.sq j).s ∧ (d.sq j).b = (c.sq j).b
  preds : ∀ (j : Fin 4) (p : Fin 8), p.val < 4 ∨ (c.sq j).swpLoop = none → (d.sq j).p[p] = (c.sq j).p[p]
  vectors : d.v = c.v ∧ d.m = c.m
  special : d.seqid = c.seqid ∧ d.gen = c.gen ∧ d.rgnmax = c.rgnmax ∧ d.rgncnt = c.rgncnt ∧ d.retrylim = c.retrylim ∧
    d.share = c.share ∧ d.qwpart = c.qwpart ∧ d.clkdiv = c.clkdiv ∧ d.vl = c.vl ∧ d.abfttol = c.abfttol ∧
    d.histp = c.histp ∧ d.fmterr = c.fmterr ∧ d.tshape = c.tshape ∧ d.fmt = c.fmt ∧ d.drainpos = c.drainpos
  matrix : d.acc = c.acc ∧ (∀ t : Fin 8, (d.tiles[t]).data = (c.tiles[t]).data) ∧ d.dmem = c.dmem ∧ d.wins = c.wins
  context : d.cut = c.cut ∧ d.task = c.task ∧ d.pts = c.pts
  store : ∀ a, d.mem.read a = c.mem.read a

/-- What a program can see of the package is unchanged: of every core, and of device memory. -/
structure Quiet (s t : State) : Prop where
  where_ : t.curCore = s.curCore ∧ t.curSeq = s.curSeq ∧ t.rc = s.rc
  cores : ∀ k, SameCore (s.core k) (t.core k)
  memory : ∀ a, t.mem.read a = s.mem.read a

/-- n bytes at a lie in a core's private store, in banks that are all full (R149, R190). -/
def PrivateFull (s : State) (k : CoreId) (a n : Nat) : Prop :=
  0 < n ∧ a + n - 1 < (s.core k).privTop ∧
    ∀ b, a / 131072 ≤ b → b ≤ (a + n - 1) / 131072 → ((s.core k).bank b).state = .full

/-- n bytes at a, within one 128-byte stripe, lie in the quad window of a core, at `addr` of core `t` (R151): the member is
present and the bank there is full. -/
def WindowFull (s : State) (k : CoreId) (a n : Nat) (t : CoreId) (addr : Nat) : Prop :=
  0 < n ∧ 0x40000000 ≤ a ∧ a + n - 1 < 0x40000000 + 0x800000 * (s.core k).share.toNat ∧ a % 128 + n ≤ 128 ∧
    t.val = 4 * (k.val / 4) + (a - 0x40000000) / 128 % 4 ∧
    addr = (s.core k).privTop + 128 * ((a - 0x40000000) / 512) + a % 128 ∧
    s.present k t = true ∧ ((s.core t).bank (addr / 131072)).state = .full

/-- A virtual address of the current core's task has its translation in the control TLB (R259), for a kind and scope of
access that the entry permits: the physical address. -/
def Translated (s : State) (va : Nat) (kind : AccKind) (scope : Scope) (pa : Nat) : Prop :=
  ∃ e, s.me.tlb.find? (fun e => e.covers s.me.part va) = some e ∧ permits kind e.r e.w e.x = true ∧
    pa = e.pbase + va % e.size ∧ scopeOk kind scope pa = true

/-- The little-endian bytes of a number with their addresses (R8). -/
def bytesAt (a n v : Nat) : List (Nat × BitVec 8) := (List.range n).map fun i => (a + i, BitVec.ofNat 8 (v / 256 ^ i))

/-- The requests that a fate makes of a bank (R153). -/
def fateReqs (fate : Fate) (last : Nat) : List (Nat × SupplyReq) :=
  match fate with
  | .keep => []
  | .retain => [(last / 131072, .retention)]
  | .drop => [(last / 131072, .off)]

/-- Every memory of the package has its canonical form: device memory, every core's local store, that of every saved
context, the boot windows, and what dumps hold. -/
structure MemOk (s : State) : Prop where
  device : s.mem.wf = true
  cores : ∀ k, (s.core k).mem.wf = true
  saved : ∀ x ∈ s.saved, x.ctx.mem.wf = true
  boot : ∀ d, (s.die d).bootwin.wf = true
  dump : ∀ x ∈ s.dump, x.ctx.mem.wf = true ∧ x.view.wf = true

end Sys2Proof.Machine
end

