-- ==== Sys2Proof/Certificates/Slice0/Obligations.lean ====
section
/-! DEFINITION. The statements for the provers. -/

open Sys2Proof Sys2Proof.Machine

/-! ### Scalar results -/

/-- R133, R134: majors 2 to 12 put their result in flight for the latch of its class and, under N, the register, due after
the latency of R130; nothing else changes. -/
def Claims.ScalarResults : Prop :=
  ∀ (h : Hdr) (d : Dest) (a b : Sel) (imm6 : BitVec 6) (imm12 : BitVec 12) (s : State),
    (Goes (op1 h [a, b] [] (destRes d)) s →
      let op := op1 h [a, b] [] (destRes d)
      let x := s.val [a, b] 0
      let y := s.val [a, b] 1
      Produces (.add h d a b) op 1 (destWr d 0 (x + y)) s ∧
      Produces (.sub h d a b) op 1 (destWr d 0 (x - y)) s ∧
      Produces (.and h d a b) op 1 (destWr d 0 (x &&& y)) s ∧
      Produces (.or h d a b) op 1 (destWr d 0 (x ||| y)) s ∧
      Produces (.xor h d a b) op 1 (destWr d 0 (x ^^^ y)) s ∧
      Produces (.shl h d a b) op 1 (destWr d 0 (BitVec.ofNat 64 (x.toNat * 2 ^ (y.toNat % 64)))) s ∧
      Produces (.shr h d a b) op 1 (destWr d 0 (BitVec.ofNat 64 (x.toNat / 2 ^ (y.toNat % 64)))) s ∧
      Produces (.sra h d a b) op 1 (destWr d 0 (BitVec.ofInt 64 (x.toInt / 2 ^ (y.toNat % 64)))) s ∧
      Produces (.mul h d a b) op 3 (destWr d 1 (BitVec.ofNat 64 (x.toNat * y.toNat))) s) ∧
    (Goes (op1 h [a] [] (destRes d)) s →
      Produces (.addi h d a imm6) (op1 h [a] [] (destRes d)) 1
        (destWr d 0 (BitVec.ofInt 64 ((s.val [a] 0).toInt + imm6.toInt))) s) ∧
    (Goes (op1 h [] [] (destRes d)) s →
      Produces (.li h d imm12) (op1 h [] [] (destRes d)) 1 (destWr d 0 (BitVec.ofInt 64 imm12.toInt)) s)

/-- R136: the twenty operations of ALUX. -/
def Claims.AluxResults : Prop :=
  ∀ (h : Hdr) (d : Dest) (a b : Sel) (imm : BitVec 22) (n pos width1 : Fin 64) (c : Comp) (s : State),
    (Goes (op2 h c [a] [] (destRes d)) s →
      let op := op2 h c [a] [] (destRes d)
      let x := s.val [a] 0
      let into (i : Instr) (v : Word64) : Prop := Produces i op 1 (destWr d 0 v) s
      into (.addiLong h d a imm c) (BitVec.ofInt 64 (x.toInt + imm.toInt)) ∧
      into (.andi h d a imm c) (x &&& BitVec.ofInt 64 imm.toInt) ∧
      into (.ori h d a imm c) (x ||| BitVec.ofInt 64 imm.toInt) ∧
      into (.xori h d a imm c) (x ^^^ BitVec.ofInt 64 imm.toInt) ∧
      into (.shli h d a n c) (BitVec.ofNat 64 (x.toNat * 2 ^ n.val)) ∧
      into (.shri h d a n c) (BitVec.ofNat 64 (x.toNat / 2 ^ n.val)) ∧
      into (.srai h d a n c) (BitVec.ofInt 64 (x.toInt / 2 ^ n.val)) ∧
      (∃ v, into (.ext h d a pos width1 c) v ∧
        ∀ i, i < 64 → v.getLsbD i = (decide (i ≤ width1.val) && x.getLsbD (pos.val + i))) ∧
      (∃ v, into (.exts h d a pos width1 c) v ∧
        ∀ i, i < 64 → v.getLsbD i = x.getLsbD (pos.val + min i width1.val)) ∧
      into (.clz h d a c) x.clz ∧
      into (.ctz h d a c) x.ctz ∧
      into (.popc h d a c) x.cpop ∧
      into (.lih h d a imm c) (BitVec.ofNat 64 (x.toNat * 2 ^ 22) ||| imm.setWidth 64)) ∧
    (Goes (op2 h c [a, b] [] (destRes d)) s →
      let op := op2 h c [a, b] [] (destRes d)
      let x := s.val [a, b] 0
      let y := s.val [a, b] 1
      Produces (.mulh h d a b c) op 4 (destWr d 1 (((x.signExtend 128 * y.signExtend 128) >>> 64).setWidth 64)) s ∧
      Produces (.mulhu h d a b c) op 4 (destWr d 1 (((x.setWidth 128 * y.setWidth 128) >>> 64).setWidth 64)) s ∧
      Produces (.min h d a b c) op 1 (destWr d 0 (BitVec.ofInt 64 (min x.toInt y.toInt))) s ∧
      Produces (.max h d a b c) op 1 (destWr d 0 (BitVec.ofInt 64 (max x.toInt y.toInt))) s ∧
      Produces (.minu h d a b c) op 1 (destWr d 0 (BitVec.ofNat 64 (min x.toNat y.toNat))) s ∧
      Produces (.maxu h d a b c) op 1 (destWr d 0 (BitVec.ofNat 64 (max x.toNat y.toNat))) s ∧
      (∃ v, Produces (.ins h d a b pos width1 c) op 1 (destWr d 0 v) s ∧
        ∀ i, i < 64 → v.getLsbD i =
          if pos.val ≤ i ∧ i ≤ pos.val + width1.val then x.getLsbD (i - pos.val) else y.getLsbD i))

/-- R133 to R136: the results of the scalar instructions of majors 2 to 13. -/
def Obligations.ScalarArithmetic : Prop := Claims.ScalarResults ∧ Claims.AluxResults

/-- R137, R107, R109: a compare puts in flight, for each of its destinations that is not p0, the condition for pT and its negation
for pF where pF is another; with a destination among p4 to p7 under an active SWP loop it takes the loop fault instead. The model's
choice, log 42: the places of the loop's number and identity in the report's detail. -/
def Claims.CompareResults : Prop :=
  ∀ (h : Hdr) (pt pf : Fin 8) (a b : Sel) (imm : BitVec 22) (c : Comp) (s : State),
    let ws (v : Bool) : List Wr :=
      (if pt = 0 then [] else [.pred pt v]) ++ (if pf = pt ∨ pf = 0 then [] else [.pred pf (!v)])
    (Goes (op1 h [a, b] [] (predRes pt ++ predRes pf)) s →
      let op := op1 h [a, b] [] (predRes pt ++ predRes pf)
      let x := s.val [a, b] 0
      let y := s.val [a, b] 1
      ((pt.val < 4 ∧ pf.val < 4) ∨ s.mySeq.swpLoop = none →
        Produces (.cmpeq h pt pf a b) op 1 (ws (decide (x = y))) s ∧
        Produces (.cmplt h pt pf a b) op 1 (ws (decide (x.toInt < y.toInt))) s ∧
        Produces (.cmpltu h pt pf a b) op 1 (ws (decide (x.toNat < y.toNat))) s) ∧
      (∀ l, 4 ≤ pt.val ∨ 4 ≤ pf.val → s.mySeq.swpLoop = some l →
        Traps (.cmpeq h pt pf a b) op 0x14 (loopDetail s.mySeq l) 0 s ∧
        Traps (.cmplt h pt pf a b) op 0x14 (loopDetail s.mySeq l) 0 s ∧
        Traps (.cmpltu h pt pf a b) op 0x14 (loopDetail s.mySeq l) 0 s)) ∧
    (Goes (op2 h c [a] [] (predRes pt ++ predRes pf)) s →
      let op := op2 h c [a] [] (predRes pt ++ predRes pf)
      let x := s.val [a] 0
      ((pt.val < 4 ∧ pf.val < 4) ∨ s.mySeq.swpLoop = none →
        Produces (.cmpeqi h pt pf a imm c) op 1 (ws (decide (x.toInt = imm.toInt))) s ∧
        Produces (.cmplti h pt pf a imm c) op 1 (ws (decide (x.toInt < imm.toInt))) s ∧
        Produces (.cmpltui h pt pf a imm c) op 1 (ws (decide (x.toNat < (BitVec.ofInt 64 imm.toInt).toNat))) s) ∧
      (∀ l, 4 ≤ pt.val ∨ 4 ≤ pf.val → s.mySeq.swpLoop = some l →
        Traps (.cmpeqi h pt pf a imm c) op 0x14 (loopDetail s.mySeq l) 0 s ∧
        Traps (.cmplti h pt pf a imm c) op 0x14 (loopDetail s.mySeq l) 0 s ∧
        Traps (.cmpltui h pt pf a imm c) op 0x14 (loopDetail s.mySeq l) 0 s))

/-- R138, R107: predicate logic over optionally negated predicates, read at issue; p0 reads as true and a write to it is
discarded; with a destination among p4 to p7 under an active SWP loop it takes the loop fault instead (R109). The model's choice,
log 42: the places of the loop's number and identity in the report's detail. -/
def Claims.PredicateLogic : Prop :=
  ∀ (h : Hdr) (xd xa xb : Fin 8) (na nb : Bool) (s : State),
    let rd (p : Fin 8) (n : Bool) : Bool := (if p = 0 then true else s.mySeq.p[p]) != n
    let ws (v : Bool) : List Wr := if xd = 0 then [] else [.pred xd v]
    let fault (i : Instr) (op : Op) (l : Fin 4) : Prop := Traps i op 0x14 (loopDetail s.mySeq l) 0 s
    (Goes (op1 h [] (predRes xa ++ predRes xb) (predRes xd)) s →
      let op := op1 h [] (predRes xa ++ predRes xb) (predRes xd)
      (xd.val < 4 ∨ s.mySeq.swpLoop = none →
        Produces (.pand h xd xa xb na nb) op 1 (ws (rd xa na && rd xb nb)) s ∧
        Produces (.por h xd xa xb na nb) op 1 (ws (rd xa na || rd xb nb)) s ∧
        Produces (.pxor h xd xa xb na nb) op 1 (ws (rd xa na != rd xb nb)) s) ∧
      (∀ l, 4 ≤ xd.val → s.mySeq.swpLoop = some l →
        fault (.pand h xd xa xb na nb) op l ∧ fault (.por h xd xa xb na nb) op l ∧ fault (.pxor h xd xa xb na nb) op l)) ∧
    (Goes (op1 h [] (predRes xa) (predRes xd)) s →
      (xd.val < 4 ∨ s.mySeq.swpLoop = none →
        Produces (.pmov h xd xa na) (op1 h [] (predRes xa) (predRes xd)) 1 (ws (rd xa na)) s) ∧
      (∀ l, 4 ≤ xd.val → s.mySeq.swpLoop = some l → fault (.pmov h xd xa na) (op1 h [] (predRes xa) (predRes xd)) l))

/-- R137, R138, R107, R109: the compares and predicate logic, and the loop faults they take. The model's choice, log 42: the
detail of a loop fault's report. -/
def Obligations.ComparesAndPredicates : Prop := Claims.CompareResults ∧ Claims.PredicateLogic

/-! ### Issue -/

/-- R45, R46, R47, R123, R146, R164, R165, R168: what an operand reads at issue. In a scalar place a register gives its value, s0
zero; a latch, a popped entry and a peeked one their low 64 bits. In a vector place a selector gives a whole vector register, latch
or entry. A pop or peek finds the entry that the pops before it leave at the head. m0 is all ones; a lane takes effect below VL
where its guard's bit is set, or clear under GN. Element j of width w is bits jw to jw + w − 1. -/
def Claims.OperandReads : Prop :=
  ∀ (names : List Sel) (i : Nat) (h : Hdr) (s : State),
    let c := s.me
    let at_ (x : Sel) : Prop := names[i]? = some x
    (at_ (.reg 0) → s.val names i = 0) ∧
    (∀ r, r ≠ 0 → at_ (.reg r) → s.val names i = s.mySeq.s[r]) ∧
    (∀ b, at_ (.latch b) → s.val names i = (s.mySeq.b[b]).setWidth 64) ∧
    (∀ r, at_ (.reg r) → c.vector names i = c.v[r]) ∧
    (∀ b, at_ (.latch b) → c.vector names i = (c.sq 2).b[b]) ∧
    (∀ q v, at_ (.pop q) ∨ at_ (.peek q) →
      (c.q[q]).ents[((names.take i).filter fun y => decide (y = .pop q)).length]? = some (.filled v) →
      s.val names i = v.setWidth 64 ∧ c.vector names i = v) ∧
    (∀ m, c.mask m = if m = 0 then BitVec.allOnes 64 else c.m[m]) ∧
    (∀ j, j < 64 → (c.lanes h).getLsbD j = (decide (j < c.vl.toNat) && ((c.mask h.gp).getLsbD j != h.gn))) ∧
    ∀ (v : VWord) (w j n : Nat), n < w → (elemOf v w j).testBit n = v.getLsbD (w * j + n)

/-- R26, R46, R100: an instruction that issues takes one token from each counter it waits on, raises each it signals (at its
arrival's completion for an instruction that arrives), and pops each queue as often as its operands pop it. -/
def Claims.IssueTokensAndPops : Prop :=
  ∀ (op : Op) (body : State → Out) (s s' : State) (late : Bool), Goes op s → body s = .done s' .seq late →
    s'.curCore = s.curCore → s'.curSeq = s.curSeq →
    ∃ t : State, issue op body s = .next t ∧
      (∀ x : Fin 8, t.me.tok[x] =
        s'.me.tok[x] + (if x ∈ ringSigs s.curSeq.idx op.ring then 1 else 0) -
          (if x ∈ ringWaits s.curSeq.idx op.ring then 1 else 0)) ∧
      (∀ x : Fin 8, (t.me.q[x]).ents = ((s'.me.q[x]).ents).drop (popsOf x op.names)) ∧
      t.me.offered = s'.me.offered ++ (if late then [] else compSigs s.curSeq.idx op.comp)

/-- R43, R99: when its tokens and queues pass and no result is in flight for the guard, an instruction whose guard is false
performs its ring actions and stands past itself, with no other effect: it pops nothing and puts no result in flight. -/
def Claims.FalseGuard : Prop :=
  ∀ (op : Op) (body : State → Out) (s : State),
    s.me.tokenFail s.curSeq.idx op.ring true = none → s.me.queueFail op.names op.push = none →
    (s.curSeq.idx = 1 → s.me.loads.any (fun l => l.acq) = false) →
    op.guard.res.any s.mySeq.busy = false → (op.guard.never ∨ op.guard.holds s.mySeq = false) →
    (op.len = 2 → s.mySeq.splitsLoop = none) →
    ∃ t : State, issue op body s = .next t ∧ t.mySeq.pend = s.mySeq.pend ∧ t.me.q = s.me.q ∧ Past op.len s t ∧
      Frame id s t ∧ PredsKept s t ∧
      (∀ x : Fin 8, t.me.tok[x] =
        s.me.tok[x] + (if x ∈ ringSigs s.curSeq.idx op.ring then 1 else 0) -
          (if x ∈ ringWaits s.curSeq.idx op.ring then 1 else 0))

/-- R99: an instruction that lacks a token, the room for a signal, or a queue entry stalls: the sequencer and the core are
as before but for the record of the stall and of the causes it gives rise to, and nothing issues. -/
def Claims.StallChangesNothing : Prop :=
  ∀ (op : Op) (body : State → Out) (s : State),
    s.me.tokenFail s.curSeq.idx op.ring (!op.arr) ≠ none ∨ s.me.queueFail op.names op.push ≠ none →
    op.arr = false ∨ op.guard = .none →
    ∃ t : State, issue op body s = .next t ∧ t = { s with cores := t.cores } ∧ (∀ k, k ≠ s.curCore → t.core k = s.core k) ∧
      (∃ n, t.mySeq = { s.mySeq with stall := some n }) ∧
      t.me = { s.me with seqs := t.me.seqs, detected := t.me.detected } ∧
      ∀ j, j ≠ s.curSeq.idx → t.me.sq j = s.me.sq j

/-- R26, R43, R45 to R47, R99, R100, R123, R168: what operands read, what every issue does to tokens and queues, what a false guard
leaves, and what a stall changes. -/
def Obligations.IssueRules : Prop :=
  Claims.OperandReads ∧ Claims.IssueTokensAndPops ∧ Claims.FalseGuard ∧ Claims.StallChangesNothing

/-- R102: NOP and BRK, the words 0 and 1, have no effect a program can see beside their ring actions, and with a field D
or A are illegal; BRK asks for a debug stop of a running core exactly when breakpoints are enabled for its task's partition. -/
def Obligations.NopAndBreak : Prop :=
  ∀ (h : Hdr) (s : State), Goes (op1 h [] [] []) s →
    Does (.nop h) (op1 h [] [] []) id s ∧ Does (.brk h) (op1 h [] [] []) id s ∧
    (∀ t, exec (.nop h) s = .next t ∨ exec (.brk h) s = .next t → ∀ x : Fin 8, t.me.tok[x] =
      s.me.tok[x] + (if x ∈ ringSigs s.curSeq.idx h.ring then 1 else 0) -
        (if x ∈ ringWaits s.curSeq.idx h.ring then 1 else 0)) ∧
    (let z : Hdr := ⟨⟨false, false, false, false⟩, false, 0⟩
     ∀ (q : Seq) (w2 : Word32), decode q 0 w2 = .ok (.nop z) ∧ decode q 1 w2 = .ok (.brk z)) ∧
    (∀ (q : Seq) (w w2 : Word32), majOf w = 0 → w.toNat % 64 ≤ 1 → w.toNat / 64 % 4096 ≠ 0 →
      ∃ e : DecodeErr, decode q w w2 = .error e ∧ e.cause = 0x10) ∧
    (s.me.dbg = .running → ∀ t, exec (.brk h) s = .next t →
      (bvf (s.die (dieOf s.curCore)).dbgperm s.me.part.val 1 = 1 →
        t.me.dbg = .pending s.curSeq.idx ∨ t.me.dbg = .due s.curSeq.idx) ∧
      (bvf (s.die (dieOf s.curCore)).dbgperm s.me.part.val 1 = 0 → t.me.dbg = .running))

/-! ### Branches and loops -/

/-- The loops that a branch to an address leaves active (R108): those whose bodies hold it, out to the first that does
not. -/
def Jumped (s t : State) (a : BitVec 48) : Prop :=
  t.mySeq.pc = a ∧ t.mySeq.h = s.mySeq.h ∧
    ∃ l, s.mySeq.live = l ++ t.mySeq.live ∧ (∀ i ∈ t.mySeq.live, (s.mySeq.h[i]).holds a = true) ∧
      ∀ i, l.getLast? = some i → (s.mySeq.h[i]).holds a = false

/-- R58, R103, R104, R108: taken branches, with the links of BRL and JR. A JR whose target is not word aligned takes cause 0x12
instead, its report giving the target. The model's choice, log 42: what a taken BR or BRL costs in L, and the latency of BRL's
link. -/
def Obligations.Branches : Prop :=
  ∀ (h : Hdr) (off : BitVec 18) (d : Dest) (a : Sel) (s : State),
    (Goes (opBr h [] []) s → ∃ t : State, exec (.br h off) s = .next t ∧
      Jumped s t (s.mySeq.pc + 4 * off.signExtend 48) ∧ t.mySeq.pay = (if s.curSeq.idx = 1 then 0 else 1) ∧
      t.mySeq.pend = s.mySeq.pend ∧ t.mySeq.p = s.mySeq.p ∧ Frame id s t) ∧
    (Goes (opBr h [] [.sreg 31]) s → ∃ t : State, exec (.brl h off) s = .next t ∧
      Jumped s t (s.mySeq.pc + 4 * off.signExtend 48) ∧ t.mySeq.pay = 1 ∧
      InFlight 1 [.sreg 31 ((s.mySeq.pc + 4).setWidth 64)] compNone s t ∧ t.mySeq.p = s.mySeq.p ∧ Frame id s t) ∧
    (Goes (opBr h [a] (destRes d)) s → (s.val [a] 0).toNat % 4 = 0 → ∃ t : State, exec (.jr h d a) s = .next t ∧
      Jumped s t ((s.val [a] 0).setWidth 48) ∧ t.mySeq.pay = 1 ∧
      InFlight 1 (destWr d 0 ((s.mySeq.pc + 4).setWidth 64)) compNone s t ∧ t.mySeq.p = s.mySeq.p ∧ Frame id s t) ∧
    (Goes (opBr h [a] (destRes d)) s → (s.val [a] 0).toNat % 4 ≠ 0 →
      Traps (.jr h d a) (opBr h [a] (destRes d)) 0x12 0 ((s.val [a] 0).toNat % 2 ^ 48) s)

/-- R105, R107: LOOP sets up its loop when it is not active, its count is below 2^32 (at most 2^32 − 4, and no SWP loop
active, for an SWP loop), and every active loop's body contains its own. A count of zero skips the body; otherwise the loop
is the most recently started, and an SWP loop sets p4 and clears p5 to p7. -/
def Claims.LoopSetup : Prop :=
  ∀ (h : Hdr) (x : Fin 4) (swp : Bool) (n : LoopCount) (lid : BitVec 8) (len : BitVec 18) (c : Comp) (s : State),
    let op := { op2 h c (loopNames n) [] (if swp then [.pred 4, .pred 5, .pred 6, .pred 7] else []) with lock := true }
    let k := (match n with
      | .imm i => i.toNat
      | .sel a => (s.val [a] 0).toNat)
    let start := s.mySeq.pc + 8
    let stop := start + 4 * len.setWidth 48
    Goes op s → x ∉ s.mySeq.live → k < 2 ^ 32 → (swp = true → k ≤ 2 ^ 32 - 4 ∧ s.mySeq.swpLoop = none) →
    (∀ i ∈ s.mySeq.live, (s.mySeq.h[i]).start ≤ start ∧ stop ≤ (s.mySeq.h[i]).stop) →
    ∃ t : State, exec (.loop h x swp n lid len c) s = .next t ∧ t.mySeq.pend = s.mySeq.pend ∧ Frame id s t ∧
      t.mySeq.h = s.mySeq.h.set x ⟨BitVec.ofNat 32 k, lid, 0, start, stop, swp⟩ ∧
      t.mySeq.live = (if k = 0 then s.mySeq.live else x :: s.mySeq.live) ∧
      t.mySeq.pc = (if k = 0 then stop else start) ∧
      (∀ p : Fin 8, p.val < 4 ∨ k = 0 ∨ (swp = false ∧ s.mySeq.swpLoop = none) → t.mySeq.p[p] = s.mySeq.p[p]) ∧
      (swp = true → k ≠ 0 → ∀ p : Fin 8, 4 ≤ p.val → t.mySeq.p[p] = decide (p.val = 4))

/-- R105, R109: in each of the cases in which LOOP may not set up its loop it takes the loop fault, whose report names the
loop. The model's choice, log 42: the places of number and identity in the detail, and that the identity is the LOOP's own. -/
def Claims.LoopFault : Prop :=
  ∀ (h : Hdr) (x : Fin 4) (swp : Bool) (n : LoopCount) (lid : BitVec 8) (len : BitVec 18) (c : Comp) (s : State),
    let op := { op2 h c (loopNames n) [] (if swp then [.pred 4, .pred 5, .pred 6, .pred 7] else []) with lock := true }
    let k := (match n with
      | .imm i => i.toNat
      | .sel a => (s.val [a] 0).toNat)
    let start := s.mySeq.pc + 8
    let stop := start + 4 * len.setWidth 48
    Goes op s →
    (x ∈ s.mySeq.live ∨ 2 ^ 32 ≤ k ∨ (swp = true ∧ (2 ^ 32 - 4 < k ∨ s.mySeq.swpLoop ≠ none)) ∨
      ∃ i ∈ s.mySeq.live, ¬((s.mySeq.h[i]).start ≤ start ∧ stop ≤ (s.mySeq.h[i]).stop)) →
    Traps (.loop h x swp n lid len c) op 0x14 (x.val * 256 + lid.toNat) 0 s

/-- R106, R107: the end test of the most recently started loop, at the NOP that is its body's last word: the loop goes back
while its iterations last, an SWP loop's predicates follow the new iteration, and the last iteration of the only loop leaves
it; away from the ends of loops the program counter moves on. -/
def Claims.LoopEnd : Prop :=
  ∀ (h : Hdr) (s : State), Goes (op1 h [] [] []) s →
    (∀ i rest, s.mySeq.live = i :: rest → (s.mySeq.h[i]).stop = s.mySeq.pc + 4 →
      let l := s.mySeq.h[i]
      let total := if l.swp then l.count.toNat + 3 else l.count.toNat
      (l.iter.toNat + 1 < total → ∃ t : State, exec (.nop h) s = .next t ∧ t.mySeq.pc = l.start ∧
        t.mySeq.live = s.mySeq.live ∧ (t.mySeq.h[i]).iter = l.iter + 1 ∧
        (∀ j : Fin 4, j ≠ i → t.mySeq.h[j] = s.mySeq.h[j]) ∧
        (l.swp = true → ∀ k : Fin 4, t.mySeq.p[(⟨k.val + 4, by omega⟩ : Fin 8)] =
          decide (k.val ≤ (l.iter + 1).toNat ∧ (l.iter + 1).toNat < l.count.toNat + k.val))) ∧
      (total ≤ l.iter.toNat + 1 → rest = [] → ∃ t : State, exec (.nop h) s = .next t ∧ t.mySeq.pc = s.mySeq.pc + 4 ∧
        t.mySeq.live = [] ∧ (t.mySeq.h[i]).iter = l.iter + 1 ∧ t.mySeq.p = s.mySeq.p)) ∧
    ((∀ i ∈ s.mySeq.live, (s.mySeq.h[i]).stop ≠ s.mySeq.pc + 4) → ∃ t : State, exec (.nop h) s = .next t ∧
      t.mySeq.pc = s.mySeq.pc + 4 ∧ t.mySeq.h = s.mySeq.h ∧ t.mySeq.live = s.mySeq.live)

/-- R105 to R109: how LOOP sets up its loop, when it faults, and what the end of a body does. -/
def Obligations.Loops : Prop := Claims.LoopSetup ∧ Claims.LoopFault ∧ Claims.LoopEnd

/-! ### Special registers -/

/-- R61, R62, R139: MFSR reads the special registers that every sequencer may read, DRAINPOS in C and S, and C's own, into
s[S] and b0; a number that the sequencer may not read raises illegal operand, cause 0x11. The model's choice, log 8: the capacity
that LSCAP gives. -/
def Claims.SpecialRead : Prop :=
  ∀ (h : Hdr) (r : Fin 32) (s : State) (srn : BitVec 12) (v : Nat),
    let c := s.me
    let q := s.curSeq.idx
    let op := op1 h [] [] (destRes (.reg r))
    Goes op s →
    ((srn, v) ∈ [(0x000#12, c.seqid.toNat / 4 * 4 + q.val), (0x001#12, c.taskid), (0x002#12, c.gen.toNat),
        (0x010#12, c.rgnmax.toNat), (0x011#12, c.rgncnt.toNat), (0x012#12, c.retrylim.toNat), (0x020#12, lscap),
        (0x021#12, c.qwpart.toNat * 2 ^ 20 + c.share.toNat), (0x030#12, c.clkdivRead), (0x031#12, c.plevel),
        (0x070#12, s.qns / 16 % 2 ^ 64)] ∨
      (2 ≤ q.val ∧ (srn, v) = (0x060#12, c.drainpos.toNat)) ∨
      (q = 2 ∧ ((srn, v) ∈ [(0x040#12, c.vl.toNat), (0x041#12, c.abfttol.toNat), (0x042#12, c.histp.toNat),
          (0x043#12, (c.fmterr ||| c.fmtpend).toNat)] ∨
        (∃ i : Fin 8, srn.toNat = 0x048 + i.val ∧ v = (c.tshape[i]).toNat) ∨
        (∃ i : Fin 16, srn.toNat = 0x050 + i.val ∧ v = (c.fmt[i]).toNat))) →
      Produces (.mfsr h r srn) op 2 (destWr (.reg r) 0 (BitVec.ofNat 64 v)) s) ∧
    (srn.toNat ∉ [0x000, 0x001, 0x002, 0x010, 0x011, 0x012, 0x020, 0x021, 0x030, 0x031, 0x070] →
      ¬(2 ≤ q.val ∧ srn.toNat = 0x060) → ¬(q = 2 ∧ 0x040 ≤ srn.toNat ∧ srn.toNat ≤ 0x043) →
      ¬(q = 2 ∧ 0x048 ≤ srn.toNat ∧ srn.toNat < 0x060) →
      Traps (.mfsr h r srn) op 0x11 0 0 s)

/-- R61, R62, R139, R140: MTSR writes VL, ABFTTOL, HISTP, the format and tile-shape entries and, by ones, clears FMTERR in C (R84),
and CLKDIV in K, to take effect with its core's next change (R375); nothing else is written by it. A number it may not write
raises illegal operand, cause 0x11, and so does a value that its register refuses: VL (R166), HISTP (R235), tile shapes (R206),
format entries (R172). -/
def Claims.SpecialWrite : Prop :=
  ∀ (h : Hdr) (r : Fin 32) (s : State) (srn : BitVec 12),
    let op := op1 h [.reg r] [] []
    let x := s.val [.reg r] 0
    let q := s.curSeq.idx
    let wr (own : Core → Core) : Prop := Does (.mtsr h r srn) op own s
    Goes op s →
    (q = 2 → srn = 0x040 → 1 ≤ x.toNat % 128 → x.toNat % 128 ≤ 64 → wr fun c => { c with vl := x.setWidth 7 }) ∧
    (q = 2 → srn = 0x041 → wr fun c => { c with abfttol := x.setWidth 16 }) ∧
    (q = 2 → srn = 0x042 → 1 ≤ x.toNat % 512 → x.toNat % 512 ≤ 256 → wr fun c => { c with histp := x.setWidth 9 }) ∧
    (q = 2 → srn = 0x043 → wr fun c => { c with
      fmterr := c.fmterr &&& ~~~(x.setWidth 6), fmtpend := c.fmtpend &&& ~~~(x.setWidth 6) }) ∧
    (∀ i : Fin 8, q = 2 → srn.toNat = 0x048 + i.val → tshapeOk x.toNat = true → wr fun c => { c with
      tshape := c.tshape.set i (x.setWidth 32 &&& 0x00FFFFC0#32) }) ∧
    (∀ i : Fin 16, q = 2 → srn.toNat = 0x050 + i.val → fmtEntryOk x.toNat = true → wr fun c => { c with
      fmt := c.fmt.set i (x.setWidth 32 &&& 0x001FFFFF#32) }) ∧
    (q = 0 → srn = 0x030 → wr fun c => { c with clkdiv := x.setWidth 32 &&& 0x7777#32, clkpend := true }) ∧
    (¬(q = 0 ∧ srn = 0x030) → (q = 2 → srn.toNat ∉ [0x040, 0x041, 0x042, 0x043]) →
      ¬(q = 2 ∧ 0x048 ≤ srn.toNat ∧ srn.toNat < 0x060) → Traps (.mtsr h r srn) op 0x11 0 0 s) ∧
    (q = 2 → (srn = 0x040 ∧ (x.toNat % 128 = 0 ∨ 64 < x.toNat % 128)) ∨ (srn = 0x042 ∧ (x.toNat % 512 = 0 ∨ 256 < x.toNat % 512)) ∨
        (0x048 ≤ srn.toNat ∧ srn.toNat < 0x050 ∧ tshapeOk x.toNat = false) ∨
        (0x050 ≤ srn.toNat ∧ srn.toNat < 0x060 ∧ fmtEntryOk x.toNat = false) →
      Traps (.mtsr h r srn) op 0x11 0 0 s)

/-- R61, R62, R84, R139, R140, R166, R172, R206, R235, R375: MFSR and MTSR. The model's choice, log 8: the capacity that LSCAP
gives. -/
def Obligations.SpecialRegisters : Prop := Claims.SpecialRead ∧ Claims.SpecialWrite

/-! ### Local store -/

/-- R154, R155, R153: a load of private bytes puts in flight their little-endian value, extended as its size says, for the
destination and b2, due after 4 cycles, or 6 where a byte lies in banks 128 to 255; LDX asks for its fate's bank state. -/
def Claims.PrivateLoads : Prop :=
  ∀ (h : Hdr) (d : Dest) (a : Sel) (sz : Sz) (fate : Fate) (off : BitVec 24) (c : Comp) (s : State),
    let n := sz.bytes
    let v (x : Nat) : Word64 :=
      let m := leNat (s.me.mem.readN x n)
      if sz.signed then (BitVec.ofNat (8 * n) m).signExtend 64 else BitVec.ofNat 64 m
    let lat (x : Nat) : Nat := if x + n - 1 < 0x1000000 then 4 else 6
    s.me.portBusy = false →
    (∀ x, Goes (op1 h [a] [] (destRes d)) s → x = (s.val [a] 0).toNat → x % n = 0 → PrivateFull s s.curCore x n →
      Produces (.ld h d a sz) (op1 h [a] [] (destRes d)) (lat x) (destWr d 2 (v x)) s) ∧
    (∀ x, Goes (op2 h c [a] [] (destRes d)) s → x = (s.val [a] 0 + off.signExtend 64).toNat → x % n = 0 →
      PrivateFull s s.curCore x n →
      Yields (.ldx h d a sz fate off c) (op2 h c [a] [] (destRes d)) (lat x) (destWr d 2 (v x))
        (fun k => { k with breqs := k.breqs ++ fateReqs fate (x + n - 1) }) s)

/-- R149, R152 to R154, R156: of a scalar load or store, local or device, an address that is not aligned to its size traps with
cause 0x20; an aligned one that lies beyond local store and outside the window with cause 0x21; and a fate other than keep on a
window access with cause 0x11. The report gives the address. -/
def Claims.LocalAddressTraps : Prop :=
  ∀ (h : Hdr) (d : Dest) (v a : Sel) (sz : Sz) (fate : Fate) (scope : Scope) (acq rel : Bool) (off : BitVec 24) (c : Comp)
    (s : State),
    let out (x : Nat) : Prop := x % sz.bytes = 0 ∧ 0x2000000 ≤ x ∧
      (x < 0x40000000 ∨ 0x40000000 + 0x800000 * s.me.share.toNat ≤ x)
    let checked (i : Instr) (op : Op) (x : Nat) : Prop := Goes op s →
      (x % sz.bytes ≠ 0 → Traps i op 0x20 0 x s) ∧ (out x → Traps i op 0x21 0 x s)
    let aligned (i : Instr) (op : Op) (x : Nat) : Prop := Goes op s → x % sz.bytes ≠ 0 → Traps i op 0x20 0 x s
    (s.me.portBusy = false →
      checked (.ld h d a sz) (op1 h [a] [] (destRes d)) (s.val [a] 0).toNat ∧
      checked (.ldx h d a sz fate off c) (op2 h c [a] [] (destRes d)) (s.val [a] 0 + off.signExtend 64).toNat) ∧
    checked (.st h v a sz) (op1 h [v, a] [] []) (s.val [v, a] 1).toNat ∧
    checked (.stx h v a sz fate off c) (op2 h c [v, a] [] []) (s.val [v, a] 1 + off.signExtend 64).toNat ∧
    aligned (.ldd h d a sz scope acq off c) (op2 h c [a] [] (destRes d))
      ((s.val [a] 0 + off.signExtend 64).toNat % 2 ^ 48) ∧
    aligned (.std h v a sz scope rel off c) (op2 h c [v, a] [] []) ((s.val [v, a] 1 + off.signExtend 64).toNat % 2 ^ 48) ∧
    (∀ x t addr, fate ≠ .keep → x % sz.bytes = 0 → WindowFull s s.curCore x sz.bytes t addr →
      (s.me.portBusy = false → Goes (op2 h c [a] [] (destRes d)) s → x = (s.val [a] 0 + off.signExtend 64).toNat →
        Traps (.ldx h d a sz fate off c) (op2 h c [a] [] (destRes d)) 0x11 0 x s) ∧
      (Goes (op2 h c [v, a] [] []) s → x = (s.val [v, a] 1 + off.signExtend 64).toNat →
        Traps (.stx h v a sz fate off c) (op2 h c [v, a] [] []) 0x11 0 x s))

/-- R149, R152 to R156: loads from private store, and the traps of the addresses of loads and stores. -/
def Obligations.LocalLoads : Prop := Claims.PrivateLoads ∧ Claims.LocalAddressTraps

/-- R156, R157, R159: a store of private bytes is sent, to be performed in the next rc, or with an earlier store whose port
cycles still run (R158) and not before it, with its bytes in address order; its completion is in that rc. -/
def Claims.PrivateStores : Prop :=
  ∀ (h : Hdr) (v a : Sel) (q : Fin 8) (sz : Sz) (fate : Fate) (off : BitVec 24) (c : Comp) (s : State),
    let sent (i : Instr) (op : Op) (x n w : Nat) (fate : Fate) : Prop :=
      ∃ (t : State) (due : Due), exec i s = .next t ∧
        ((∀ y ∈ s.me.stores, ∀ m, y.due ≠ .after m) → due = .rc (s.rc + 1)) ∧
        (∀ y ∈ s.me.stores, ∀ m, y.due = .after m → ∃ m', due = .after m' ∧ m ≤ m') ∧
        t.mySeq.pend = s.mySeq.pend ++ [⟨s.me.nextId, due, [], op.comp⟩] ∧ Past op.len s t ∧
        PredsKept s t ∧ Frame (fun k => { k with
          stores := k.stores ++ [⟨due, bytesAt x n w, (fateReqs fate (x + n - 1)).head?⟩] }) s t
    (∀ x, Goes (op1 h [v, a] [] []) s → x = (s.val [v, a] 1).toNat → x % sz.bytes = 0 → PrivateFull s s.curCore x sz.bytes →
      sent (.st h v a sz) (op1 h [v, a] [] []) x sz.bytes (s.val [v, a] 0).toNat .keep) ∧
    (∀ x, Goes (op2 h c [v, a] [] []) s → x = (s.val [v, a] 1 + off.signExtend 64).toNat → x % sz.bytes = 0 →
      PrivateFull s s.curCore x sz.bytes →
      sent (.stx h v a sz fate off c) (op2 h c [v, a] [] []) x sz.bytes (s.val [v, a] 0).toNat fate) ∧
    (∀ x, Goes (op2 h c [.pop q, a] [] []) s → x = (s.val [.pop q, a] 1 + off.signExtend 64).toNat → x % 8 = 0 →
      PrivateFull s s.curCore x 256 →
      sent (.stq h q a fate off c) (op2 h c [.pop q, a] [] []) x 256 (s.me.vector [.pop q, a] 0).toNat fate)

/-- R159: when the rc performs private stores, each byte of local store reads as the last byte that a store due by now wrote
there, in the order of the stores, and otherwise as before; stores that are not due stay. -/
def Claims.StoresPerformed : Prop :=
  ∀ (s : State), MemOk s → s.agenda = [] → s.phase = 19 →
    ∃ t : State, step s = .next t ∧ ∀ k,
      (t.core k).stores = (s.core k).stores.filter (fun x => !(s.core k).isDue s.rc x.due) ∧
      ∀ a, (t.core k).mem.read a =
        match ((((s.core k).stores.filter fun x => (s.core k).isDue s.rc x.due).flatMap PStore.bytes).reverse.find?
          fun b => b.1 == a) with
        | some b => b.2
        | none => (s.core k).mem.read a

/-- R156, R157, R159: stores to private store, sent and performed. -/
def Obligations.LocalStores : Prop := Claims.PrivateStores ∧ Claims.StoresPerformed

/-- R157, R158: LDQ and GATHER reserve the tail of their queue and put in flight, for that place, 256 private bytes from an
address, or the elements that an index block names, with zeros above them; SCATTER sends the elements of a popped entry, in element
order, to be performed after its last port cycle and not before an earlier store. -/
def Obligations.QueueMoves : Prop :=
  ∀ (h : Hdr) (q : Fin 8) (a b : Sel) (fate : Fate) (esz : Esz) (off : BitVec 24) (c : Comp) (s : State),
    let e := eszBytes esz
    let n := eszCount esz
    let reserved (names : List Sel) (t : State) : Prop :=
      (t.me.q[q]).ents = ((s.me.q[q]).ents ++ [QEnt.reserved]).drop (popsOf q names)
    let place := (s.me.q[q]).popped + (s.me.q[q]).ents.length
    (∀ x, Goes { op2 h c [a] [] [] with push := some q } s → s.me.portBusy = false →
      x = (s.val [a] 0 + off.signExtend 64).toNat → x % 8 = 0 → PrivateFull s s.curCore x 256 →
      ∃ t : State, exec (.ldq h q a fate off c) s = .next t ∧ reserved [a] t ∧ Past 2 s t ∧ PredsKept s t ∧
        InFlight (if x + 255 < 0x1000000 then 4 else 6)
          [.entry q place (BitVec.ofNat 2048 (leNat (s.me.mem.readN x 256)))] c s t ∧
        Frame (fun k => { k with breqs := k.breqs ++ fateReqs fate (x + 255) }) s t) ∧
    (∀ base blk, Goes { op2 h c [a, b] [] [] with push := some q } s → s.me.portBusy = false →
      base = (s.val [a, b] 0 + off.signExtend 64).toNat → blk = (s.val [a, b] 1).toNat → base % e = 0 →
      base < 0x40000000 → blk % 8 = 0 → PrivateFull s s.curCore blk 256 →
      let addr (i : Nat) : Nat := base + e * leNat (s.me.mem.readN (blk + 2 * i) 2)
      (∀ i, i < n → PrivateFull s s.curCore (addr i) e) →
      ∃ t : State, exec (.gather h q a b fate esz off c) s = .next t ∧ reserved [a, b] t ∧ Past 2 s t ∧ PredsKept s t ∧
        (∃ v, InFlight ((if ∃ i, i < n ∧ 0x1000000 ≤ addr i + e - 1 then 6 else 4) + n / 16) [.entry q place v] c s t ∧
          (∀ i, i < n → elemOf v (8 * e) i = leNat (s.me.mem.readN (addr i) e)) ∧
          ∀ i, n * e ≤ i → i < 256 → elemOf v 8 i = 0) ∧
        Frame (fun k => { k with
          portFree := (k.clk .control).cyc + n / 16
          breqs := k.breqs ++ fateReqs fate (addr (n - 1) + e - 1) }) s t) ∧
    (∀ base, Goes (op2 h c [.pop q, a, b] [] []) s → base = (s.val [.pop q, a, b] 1 + off.signExtend 64).toNat →
      base % e = 0 → base < 0x40000000 →
      let names : List Sel := [.pop q, a, b]
      let addr (i : Nat) : Nat := base + e * elemOf (s.me.vector names 2) 16 i
      (∀ i, i < n → PrivateFull s s.curCore (addr i) e) →
      ∃ t : State, exec (.scatter h q a b fate esz off c) s = .next t ∧ Past 2 s t ∧ PredsKept s t ∧
        ∃ m, (s.me.clk .control).cyc + n / 16 - 1 ≤ m ∧ (∀ y ∈ s.me.stores, ∀ j, y.due = .after j → j ≤ m) ∧
          (m = (s.me.clk .control).cyc + n / 16 - 1 ∨ ∃ y ∈ s.me.stores, y.due = .after m) ∧
          t.mySeq.pend = s.mySeq.pend ++ [⟨s.me.nextId, .after m, [], c⟩] ∧ Frame (fun k => { k with
          stores := k.stores ++ [⟨.after m, (List.range n).flatMap fun i =>
            bytesAt (addr i) e (elemOf (s.me.vector names 0) (8 * e) i),
            (fateReqs fate (addr (n - 1) + e - 1)).head?⟩] }) s t)

/-! ### Loads and stores that leave the core -/

/-- R151, R154: a scalar load of window bytes is sent, to return later, to the core and byte that the window names. -/
def Claims.WindowLoads : Prop :=
  ∀ (h : Hdr) (d : Dest) (a : Sel) (sz : Sz) (off : BitVec 24) (c : Comp) (s : State) (t : CoreId) (addr : Nat),
    let n := sz.bytes
    let sent (i : Instr) (op : Op) : Prop :=
      ∃ (u : State) (l : DLoad), exec i s = .next u ∧ u.me.loads = s.me.loads ++ [l] ∧
        u.mySeq.pend = s.mySeq.pend ++ [⟨s.me.nextId, .onReturn, destWr d 2 0, op.comp⟩] ∧
        l.id = s.me.nextId ∧ l.pieces = [⟨.win t, addr, 0, n, none⟩] ∧ l.sz = some sz ∧ l.dest = some d ∧ l.q = none ∧
        l.todo = [] ∧ s.rc < l.at_ ∧ Past op.len s u ∧ Quiet s u
    s.me.portBusy = false →
    (∀ x, Goes (op1 h [a] [] (destRes d)) s → x = (s.val [a] 0).toNat → x % n = 0 → WindowFull s s.curCore x n t addr →
      sent (.ld h d a sz) (op1 h [a] [] (destRes d))) ∧
    (∀ x, Goes (op2 h c [a] [] (destRes d)) s → x = (s.val [a] 0 + off.signExtend 64).toNat → x % n = 0 →
      WindowFull s s.curCore x n t addr → sent (.ldx h d a sz .keep off c) (op2 h c [a] [] (destRes d)))

/-- R154, R157, R259: a device load whose address is translated is sent, to return later; an acquire waits first for its
floor (R302). LDDQ takes its first line at issue, and all four where one entry of the TLB covers them; the lines it does not
take at issue are left in order. -/
def Claims.DeviceLoads : Prop :=
  ∀ (h : Hdr) (d : Dest) (q : Fin 8) (a : Sel) (sz : Sz) (scope : Scope) (acq : Bool) (off : BitVec 24) (c : Comp)
    (s : State) (va pa : Nat),
    let ok (align : Nat) : Prop :=
      va = (s.val [a] 0 + off.signExtend 64).toNat % 2 ^ 48 ∧ va % align = 0 ∧
        (acq = true → s.coreFloor s.curCore scope = true) ∧ s.me.frec.outst = false ∧
        Translated s va .load scope pa ∧ s.farHeld s.curCore pa = false
    (Goes (op2 h c [a] [] (destRes d)) s → ok sz.bytes →
      ∃ (u : State) (l : DLoad), exec (.ldd h d a sz scope acq off c) s = .next u ∧ u.me.loads = s.me.loads ++ [l] ∧
        u.mySeq.pend = s.mySeq.pend ++ [⟨s.me.nextId, .onReturn, destWr d 2 0, c⟩] ∧
        l.id = s.me.nextId ∧ l.scope = scope ∧ l.acq = acq ∧ l.sz = some sz ∧ l.dest = some d ∧ l.q = none ∧
        (l.pieces.map fun p => (p.home, p.addr, p.off, p.len)) = [(homeOf pa, pa, 0, sz.bytes)] ∧ l.todo = [] ∧
        s.rc < l.at_ ∧ Past 2 s u ∧ Quiet s u) ∧
    (Goes { op2 h c [a] [] [] with push := some q } s → ok 64 →
      ∃ (u : State) (l : DLoad), exec (.lddq h q a scope acq off c) s = .next u ∧ u.me.loads = s.me.loads ++ [l] ∧
        u.mySeq.pend = s.mySeq.pend ++ [⟨s.me.nextId, .onReturn, [], c⟩] ∧
        (u.me.q[q]).ents = ((s.me.q[q]).ents ++ [QEnt.reserved]).drop (popsOf q [a]) ∧
        l.id = s.me.nextId ∧ l.scope = scope ∧ l.acq = acq ∧ l.dest = none ∧
        l.q = some (q, (s.me.q[q]).popped + (s.me.q[q]).ents.length) ∧
        (∃ p rest, l.pieces = p :: rest ∧ p.home = homeOf pa ∧ p.addr = pa) ∧
        (l.pieces.map fun p => (p.off, p.len)) ++ (l.todo.map fun x => (x.2, 64)) = [(0, 64), (64, 64), (128, 64), (192, 64)] ∧
        (∀ x ∈ l.todo, x.1 = (va + x.2) % 2 ^ 48) ∧
        (∀ e, s.me.tlb.find? (fun e => e.covers s.me.part va) = some e → va % e.size + 256 ≤ e.size → va + 256 ≤ 2 ^ 48 →
          (∀ i, i < 4 → scopeOk .load scope (pa + 64 * i) = true ∧ s.farHeld s.curCore (pa + 64 * i) = false) →
          l.todo = [] ∧ (l.pieces.map fun p => (p.home, p.addr)) =
            (List.range 4).map fun i => (homeOf (pa + 64 * i), pa + 64 * i)) ∧
        s.rc < l.at_ ∧ Past 2 s u ∧ Quiet s u)

/-- R151, R154, R157, R293: loads from the quad window and from device memory. -/
def Obligations.FarLoads : Prop := Claims.WindowLoads ∧ Claims.DeviceLoads

/-- R293, R154, R157, R162, R47: a load whose data returns, with no byte poisoned, no half-performed region (R296) and an empty
read set, is done. Each byte is that of the youngest line of the core's own commit buffer that holds it, else its home's, or
what the system range gave at issue. A scalar load writes the value, extended as its size says, to its destination and to b2;
LDDQ fills the entry it reserved. Each granule that memory gave a byte of joins the read set. The model's choice, log 44: what the
buffer forwards is what it holds when the data returns. -/
def Obligations.LoadReturns : Prop :=
  ∀ (k : CoreId) (s : State) (l : DLoad) (y : Pend),
    let c := s.core k
    c.loads = [l] → l.at_ ≤ s.rc → l.todo = [] → s.linkDown = false → c.pinned = false → s.poison = [] → c.reads = [] →
    l.seqr ≠ 2 → (∀ z ∈ c.cb, z.cur = true) →
    (∀ p ∈ l.pieces, (∀ b, p.early = some b → b.length = p.len) ∧
      (∀ g x, granOf p.home p.addr = some g → (s.gran g).claim = some x → ∀ z ∈ (s.core x.1).cb, z.cur = true) ∧
      ∀ t, p.home = .win t → ((s.core t).bank (p.addr / 131072)).state = .full) →
    (c.sq l.seqr).pend = [y] → y.id = l.id →
    let own (h : Home) (a : Nat) : Option CBLine := c.cb.reverse.find? fun z =>
      z.part == c.part && z.home == h && z.addr == a / 64 * 64 && z.atom.isNone && bvf z.mask (a % 64) 1 == 1
    let byte (p : Piece) (i : Nat) : BitVec 8 :=
      match p.early, own p.home (p.addr + i) with
      | some b, _ => b.getD i 0
      | none, some z => BitVec.ofNat 8 (bvf z.data (8 * ((p.addr + i) % 64)) 8)
      | none, none => s.homeByte p.home (p.addr + i)
    let bs := l.pieces.flatMap fun p => (List.range p.len).map (byte p)
    let returns (own' : State → Prop) : Prop :=
      ∃ t : State, exec (.deviceLoadReturn k l.id) s = .next t ∧ (t.core k).loads = [] ∧ ((t.core k).sq l.seqr).pend = [] ∧
        (t.core k).offered = c.offered ++ compSigs l.seqr y.comp ∧ (∀ j, j ≠ l.seqr → (t.core k).sq j = c.sq j) ∧
        (t.core k).cb = c.cb ∧ (t.core k).v = c.v ∧
        (∀ p ∈ l.pieces, ∀ g, granOf p.home p.addr = some g → (∃ i, i < p.len ∧ own p.home (p.addr + i) = none) →
          ∃ x ∈ (t.core k).reads, x.gran = g ∧ x.wts = (s.gran g).wts) ∧
        (∀ x ∈ (t.core k).reads, ∃ p ∈ l.pieces, granOf p.home p.addr = some x.gran) ∧ own' t
    (∀ (d : Dest) (sz : Sz), l.q = none → l.dest = some d → l.sz = some sz → bs.length = sz.bytes → y.writes = destWr d 2 0 →
      let v := if sz.signed then (BitVec.ofNat (8 * sz.bytes) (leNat bs)).signExtend 64 else BitVec.ofNat 64 (leNat bs)
      returns fun t => (t.core k).q = c.q ∧ ((t.core k).sq l.seqr).b = (c.sq l.seqr).b.set (2 : Fin 4) (v.setWidth 2048) ∧
        (∀ x : Fin 32, ((t.core k).sq l.seqr).s[x] = if d = .reg x ∧ x ≠ 0 then v else ((c.sq l.seqr).s)[x])) ∧
    (∀ (x : Fin 8) (place : Nat), l.q = some (x, place) → (c.q[x]).popped ≤ place →
      place < (c.q[x]).popped + (c.q[x]).ents.length →
      returns fun t => ((t.core k).q[x]).ents = (c.q[x]).ents.set (place - (c.q[x]).popped) (.filled (BitVec.ofNat 2048 (leNat bs))) ∧
        (∀ j : Fin 8, j ≠ x → (t.core k).q[j] = c.q[j]) ∧ ((t.core k).sq l.seqr).s = (c.sq l.seqr).s ∧
        ((t.core k).sq l.seqr).b = (c.sq l.seqr).b)

/-- R156, R160: a store that leaves the core goes into the commit buffer. Where lines of its region (in a debug step, of the step,
R393), home, address and scope without REL stand there, and it has no REL, its bytes are merged into them; otherwise it takes a
new line, of its bytes alone. Every other line and byte stays. Window stores have scope quad. One that needs a line where the
region's own fill the buffer takes cause 0x23, and one that finds it full of released lines stalls (R161). -/
def Obligations.BufferedStores : Prop :=
  ∀ (h : Hdr) (v a : Sel) (sz : Sz) (scope : Scope) (rel : Bool) (off : BitVec 24) (c : Comp) (s : State) (w : Word64),
    let n := sz.bytes
    let merging (home : Home) (pa : Nat) (scope : Scope) (rel : Bool) (l : CBLine) : Prop :=
      s.me.ownLine l = true ∧ l.home = home ∧ l.addr = pa / 64 * 64 ∧ l.scope = scope ∧ l.rel = false ∧ rel = false ∧ l.atom = none
    let holds (t : State) (home : Home) (pa : Nat) (scope : Scope) (rel : Bool) : Prop :=
      let within (i : Nat) : Prop := pa % 64 ≤ i ∧ i < pa % 64 + n
      let byte (i : Nat) : Nat := w.toNat / 256 ^ (i - pa % 64) % 256
      let written (l l' : CBLine) : Prop := l' = { l with mask := l'.mask, data := l'.data } ∧ ∀ i, i < 64 →
        (within i → bvf l'.mask i 1 = 1 ∧ bvf l'.data (8 * i) 8 = byte i) ∧
        (¬within i → bvf l'.mask i 1 = bvf l.mask i 1 ∧ bvf l'.data (8 * i) 8 = bvf l.data (8 * i) 8)
      let merges := merging home pa scope rel
      ((∃ l ∈ s.me.cb, merges l) →
        List.Forall₂ (fun l l' => (merges l → written l l') ∧ (¬merges l → l' = l)) s.me.cb t.me.cb) ∧
      ((∀ l ∈ s.me.cb, ¬merges l) → ∃ l, t.me.cb = s.me.cb ++ [l] ∧ l.cur = true ∧ l.home = home ∧ l.addr = pa / 64 * 64 ∧
        l.scope = scope ∧ l.rel = rel ∧ l.atom = none ∧ l.gen = s.me.gen ∧ l.id = s.me.nextId ∧ l.pinned = s.me.pinned ∧
        (∀ y, s.me.task = some y → l.part = y.part ∧ l.gang = y.gang ∧ l.task = y.idx) ∧
        ∀ i, i < 64 → (within i → bvf l.mask i 1 = 1 ∧ bvf l.data (8 * i) 8 = byte i) ∧ (¬within i → bvf l.mask i 1 = 0))
    (s.me.cb.length < 64 → w = s.val [v, a] 0 →
    (∀ va pa, Goes (op2 h c [v, a] [] []) s → va = (s.val [v, a] 1 + off.signExtend 64).toNat % 2 ^ 48 → va % n = 0 →
      Translated s va .store scope pa → pa % n = 0 →
      ∃ t : State, exec (.std h v a sz scope rel off c) s = .next t ∧ holds t (homeOf pa) pa scope rel ∧
        t.mySeq.pend = s.mySeq.pend ∧ Past 2 s t ∧ Quiet s t) ∧
    (∀ x k addr, Goes (op1 h [v, a] [] []) s → x = (s.val [v, a] 1).toNat → x % n = 0 →
      WindowFull s s.curCore x n k addr →
      ∃ t : State, exec (.st h v a sz) s = .next t ∧ holds t (.win k) addr .quad false ∧ t.mySeq.pend = s.mySeq.pend ∧
        Past 1 s t ∧ Quiet s t) ∧
    (∀ x k addr, Goes (op2 h c [v, a] [] []) s → x = (s.val [v, a] 1 + off.signExtend 64).toNat → x % n = 0 →
      WindowFull s s.curCore x n k addr →
      ∃ t : State, exec (.stx h v a sz .keep off c) s = .next t ∧ holds t (.win k) addr .quad false ∧
        t.mySeq.pend = s.mySeq.pend ∧ Past 2 s t ∧ Quiet s t)) ∧
    (∀ x k addr, Goes (op1 h [v, a] [] []) s → x = (s.val [v, a] 1).toNat → x % n = 0 → WindowFull s s.curCore x n k addr →
      s.me.cb.length = 64 → (∀ l ∈ s.me.cb, l.part = s.me.part ∧ ¬merging (.win k) addr .quad false l) →
      ((∀ l ∈ s.me.cb, l.cur = true) → Traps (.st h v a sz) (op1 h [v, a] [] []) 0x23 0 x s) ∧
      ((∀ l ∈ s.me.cb, l.cur = false) → exec (.st h v a sz) s = .next (s.stallWith 2)))

/-! ### Fences, atomics, arrivals -/

/-- R301: a fence passes when the private stores of its sequencer are performed and, beyond core scope, the floor of its
scope has reached the core's time; its only effects are its ring actions. Until then it stalls, charged to flag 26. -/
def Claims.Fences : Prop :=
  ∀ (h : Hdr) (s : State), Goes (op1 h [] [] []) s →
    let op := op1 h [] [] []
    let own := s.curSeq = .s → s.me.stores = []
    let at_ (i : Instr) (ok : Prop) : Prop :=
      (ok → Does i op id s) ∧ (¬ok → exec i s = .next (s.stallWith (0x10 + 26)))
    at_ (.xfenceCore h) own ∧
    at_ (.xfenceQuad h) (own ∧ s.coreFloor s.curCore .quad = true) ∧
    at_ (.xfenceDev h) (own ∧ s.coreFloor s.curCore .dev = true) ∧
    at_ (.xfenceSys h) (own ∧ s.coreFloor s.curCore .sys = true)

/-- R300: a core's floor at a scope is reached exactly when no released line of its partition with a timestamp up to the core's
time is still to be performed, of the homes that the scope counts; and so for any partition and time. The model's choice, log
44: a line counts once its region's commit has completed. -/
def Claims.FloorReached : Prop :=
  ∀ (s : State) (k : CoreId) (p : PartId) (time : Nat) (scope : Scope),
    let counted (p : PartId) (time : Nat) : Prop :=
      ∀ j, ∀ l ∈ (s.core j).cb, l.cur = false → l.part = p → l.ts ≤ time →
        match scope with
        | .core => True
        | .quad => ∀ t, l.home ≠ .win t
        | .dev => l.home = .sysr
        | .sys => False
    (s.coreFloor k scope = true ↔ counted (s.core k).part (s.core k).pts) ∧
    (s.floorReached p scope time = true ↔ counted p time)

/-- R300, R301: XFENCE, and the floors it waits for. The model's choice, log 44: the lines of a region that has its timestamp
and whose commit has not completed do not count in F. -/
def Obligations.FencesAndFloors : Prop := Claims.Fences ∧ Claims.FloorReached

/-- R304, R306, R307: an atomic whose address is translated, or named by the window for scope quad, takes a line of its own
in the commit buffer. The non-returning form, whose destination is s0, then goes on; any other arrives at the rendezvous of
its region, to get its value between commit A and commit B. -/
def Claims.Atomics : Prop :=
  ∀ (h : Hdr) (d : Dest) (a b x : Sel) (f : AtomF) (c : Comp) (s : State) (home : Home) (pa : Nat),
    let ret := d ≠ .reg 0
    let n := if f.dbl then 8 else 4
    let ok (names : List Sel) : Prop :=
      Goes { op2 h c names [] (destRes d) with arr := decide ret } s ∧ s.me.cb.length < 64 ∧ f.scope ≠ .core ∧
      (ret → f.acq = true → s.coreFloor s.curCore f.scope = true) ∧
      (if f.scope = .quad then ∃ k, home = .win k ∧ (s.val names 0).toNat % n = 0 ∧
          WindowFull s s.curCore (s.val names 0).toNat n k pa
        else home = homeOf pa ∧ (s.val names 0).toNat % 2 ^ 48 % n = 0 ∧
          Translated s ((s.val names 0).toNat % 2 ^ 48) .atomic f.scope pa)
    let does (i : Instr) (code : Fin 10) (names : List Sel) : Prop :=
      ∃ (t : State) (l : CBLine), exec i s = .next t ∧ t.me.cb = s.me.cb ++ [l] ∧ l.home = home ∧ l.addr = pa / 64 * 64 ∧ l.cur = true ∧
        l.scope = f.scope ∧ l.rel = f.rel ∧
        l.atom = some ⟨code, pa, f.dbl, s.val names 1, s.val names 2, decide ret⟩ ∧
        t.mySeq.pend = s.mySeq.pend ∧ Past 2 s t ∧ Quiet s t ∧
        (ret → t.mySeq.arrival = some ⟨.atom l.id d, 0, false, 0, h.ring, c⟩) ∧
        (¬ret → t.mySeq.arrival = s.mySeq.arrival)
    (ok [a, b] →
      does (.atomAdd h d a b f c) 0 [a, b] ∧ does (.atomAnd h d a b f c) 1 [a, b] ∧ does (.atomOr h d a b f c) 2 [a, b] ∧
      does (.atomXor h d a b f c) 3 [a, b] ∧ does (.atomMin h d a b f c) 4 [a, b] ∧ does (.atomMax h d a b f c) 5 [a, b] ∧
      does (.atomMinu h d a b f c) 6 [a, b] ∧ does (.atomMaxu h d a b f c) 7 [a, b] ∧
      does (.atomSwap h d a b f c) 8 [a, b]) ∧
    (ok [a, b, x] → does (.atomCas h d a b x f c) 9 [a, b, x])

/-- R305: the operations of atomics on the value current at the home, of 32 or 64 bits, by their codes. -/
def Claims.AtomicValues : Prop :=
  ∀ (w : Nat) (o b c : BitVec w), 0 < w →
    atomNew 0 w o.toNat b.toNat c.toNat = (o + b).toNat ∧ atomNew 1 w o.toNat b.toNat c.toNat = (o &&& b).toNat ∧
    atomNew 2 w o.toNat b.toNat c.toNat = (o ||| b).toNat ∧ atomNew 3 w o.toNat b.toNat c.toNat = (o ^^^ b).toNat ∧
    atomNew 4 w o.toNat b.toNat c.toNat = (if o.sle b then o else b).toNat ∧
    atomNew 5 w o.toNat b.toNat c.toNat = (if b.sle o then o else b).toNat ∧
    atomNew 6 w o.toNat b.toNat c.toNat = (if o.ule b then o else b).toNat ∧
    atomNew 7 w o.toNat b.toNat c.toNat = (if b.ule o then o else b).toNat ∧
    atomNew 8 w o.toNat b.toNat c.toNat = b.toNat ∧
    atomNew 9 w o.toNat b.toNat c.toNat = (if o = c then b else o).toNat

/-- R304 to R307: the atomics and their operations. -/
def Obligations.AtomicOperations : Prop := Claims.Atomics ∧ Claims.AtomicValues

/-- R110 to R113, R340, R377: COMMIT, HALT, BAR, BARW and SWPT arrive at the rendezvous of their region with the tag, P bit
and drop mask they carry. Their waits act at issue and their signals only at completion. SWPT's table is that of the two
lines of K's I-cache at its address, as of an instruction fetch. -/
def Obligations.Arrivals : Prop :=
  ∀ (h : Hdr) (r : Ring) (p : Bool) (drop : BitVec 4) (tag : BitVec 8) (d : Dest) (a : Sel) (s : State),
    let arrives (i : Instr) (op : Op) (x : Arrival) (own : State → Prop) : Prop :=
      ∃ t : State, exec i s = .next t ∧ t.mySeq.arrival = some x ∧ t.mySeq.apc = s.mySeq.pc ∧ t.mySeq.pend = s.mySeq.pend ∧
        Past 1 s t ∧ t.me.offered = s.me.offered ∧ own t ∧
        ∀ y : Fin 8, t.me.tok[y] = s.me.tok[y] - (if y ∈ ringWaits s.curSeq.idx op.ring then 1 else 0)
    (Goes (opArrive r) s →
      arrives (.commit r p drop tag) (opArrive r) ⟨.commit, tag, p, drop, r, compNone⟩ (Frame id s) ∧
      arrives (.halt r p drop tag) (opArrive r) ⟨.halt, tag, p, drop, r, compNone⟩ (Frame id s)) ∧
    (∀ team m, team = (s.val [a] 0).toNat → team < 256 → s.me.members.find? (fun x => x.1 == team) = some (team, m) →
      (Goes { op1 h [a] [] [] with arr := true } s →
        arrives (.bar h a) (op1 h [a] [] []) ⟨.bar team false (.reg 0), 0, false, 0, h.ring, compNone⟩ (Frame id s)) ∧
      (Goes { op1 h [a] [] (destRes d) with arr := true } s →
        arrives (.barw h d a) (op1 h [a] [] []) ⟨.bar team true d, 0, false, 0, h.ring, compNone⟩ (Frame id s))) ∧
    (∀ va l0 l1, va = (s.val [a] 0).toNat % 2 ^ 48 → va % 128 = 0 → s.me.icLine 0 s.me.part va = some l0 →
      s.me.icLine 0 s.me.part (va + 64) = some l1 →
      let t := (List.range 16).map fun i => (if i < 8 then l0 else l1).data.toNat / 2 ^ (64 * (i % 8)) % 2 ^ 48
      (∀ x ∈ t, x % 4 = 0) → Goes { op1 h [a] [] [] with arr := true } s →
        arrives (.swpt h a) (op1 h [a] [] []) ⟨.swpt (t.map (BitVec.ofNat 48)), 0, false, 0, h.ring, compNone⟩ (Quiet s))

/-- R338, R339: GROUP.RANK and GROUP.SIZE return the task's rank and the count of a team it is a member of. In every
instruction that names a team, a number above 255 is an illegal operand, cause 0x11, and a team the task is not a member of
cause 0x70. -/
def Obligations.TeamNumbers : Prop :=
  ∀ (h : Hdr) (d : Dest) (a : Sel) (s : State),
    let n := (s.val [a] 0).toNat
    (∀ m, Goes (op1 h [a] [] (destRes d)) s → n < 256 → s.me.members.find? (fun x => x.1 == n) = some (n, m) →
      Produces (.groupRank h d a) (op1 h [a] [] (destRes d)) 2 (destWr d 0 (BitVec.ofNat 64 m.val)) s ∧
      Produces (.groupSize h d a) (op1 h [a] [] (destRes d)) 2 (destWr d 0 ((s.team n).count.setWidth 64)) s) ∧
    (∀ cause, (255 < n ∧ cause = 0x11) ∨ (n ≤ 255 ∧ (∀ m ∈ s.me.members, m.1 ≠ n) ∧ cause = 0x70) →
      (Goes (op1 h [a] [] (destRes d)) s →
        Traps (.groupRank h d a) (op1 h [a] [] (destRes d)) cause 0 0 s ∧
        Traps (.groupSize h d a) (op1 h [a] [] (destRes d)) cause 0 0 s) ∧
      (Goes { op1 h [a] [] [] with arr := true } s →
        Traps (.bar h a) { op1 h [a] [] [] with arr := true } cause 0 0 s) ∧
      (Goes { op1 h [a] [] (destRes d) with arr := true } s →
        Traps (.barw h d a) { op1 h [a] [] (destRes d) with arr := true } cause 0 0 s))

/-! ### Commands of K, L and S -/

/-- R193, R194, R191: BANK and VBANK ask for a supply state of their banks, decided at the end of the rc, and do not wait. A
BANK that runs past bank 255 takes the bank fault, cause 0x24. The model's choice, log 8: the part's capacity, by which each
of its 256 banks exists. -/
def Claims.BankRequests : Prop :=
  ∀ (h : Hdr) (a : Sel) (st : SupplyReq) (cnt : Fin 16) (mask : BitVec 4) (s : State),
    (Goes (op1 h [a] [] []) s →
      let f := (s.val [a] 0).toNat
      (f + cnt.val ≤ 255 → Does (.bank h a st cnt) (op1 h [a] [] [])
        (fun c => { c with breqs := c.breqs ++ (List.range (cnt.val + 1)).map fun i => (f + i, st) }) s) ∧
      (255 < f + cnt.val → Traps (.bank h a st cnt) (op1 h [a] [] []) 0x24
        (s.curSeq.idx.val * 2 ^ 28 + s.curCore.val * 2 ^ 24 + 2 * 2 ^ 20 + f % 256) 0 s)) ∧
    (Goes (op1 h [] [] []) s → Does (.vbank h st mask) (op1 h [] [] [])
      (fun c => { c with breqs := c.breqs ++ ((List.range 4).filter fun i => mask.getLsbD i).map fun i => (256 + i, st) }) s)

/-- R190, R187: a request for full of a bank in retention, with a place free (R197), wakes it for 48 rc, and of one that is
off for 200 rc with its bytes lost, and clears both pending flags; a request for retention of a full local bank moves it at once,
marks a waking one, and clears the pending off; a request for off only marks a bank that is not off. -/
def Claims.BankProcedure : Prop :=
  ∀ (c : Core) (rc k : Nat), k < 256 → c.wakesRunning < 16 → (c.banks.map Prod.fst).Pairwise (· < ·) → c.mem.wf = true →
    let b := c.bank k
    (b.state = .retention → ((c.request rc k .full none).bank k).state = .waking ∧
      ((c.request rc k .full none).bank k).wakeEnd = some (rc + 47)) ∧
    (b.state = .off → ((c.request rc k .full none).bank k).state = .waking ∧
      ((c.request rc k .full none).bank k).wakeEnd = some (rc + 199) ∧
      ∀ a, (c.request rc k .full none).mem.read a = if a / 131072 = k then 0 else c.mem.read a) ∧
    (b.state = .full → ((c.request rc k .retention none).bank k).state = .retention) ∧
    (b.state = .waking → ((c.request rc k .retention none).bank k).state = .waking ∧
      ((c.request rc k .retention none).bank k).pendRet = true) ∧
    (b.state ≠ .off → ((c.request rc k .off none).bank k).state = b.state ∧
      ((c.request rc k .off none).bank k).pendOff = true) ∧ (b.state = .off → c.request rc k .off none = c) ∧
    (let u := (c.request rc k .full none).bank k
     u.pendOff = false ∧ u.pendRet = false ∧ (b.state = .full ∨ b.state = .waking → u.state = b.state ∧ u.wakeEnd = b.wakeEnd)) ∧
    (let u := (c.request rc k .retention none).bank k
     u.pendOff = false ∧ (b.state = .retention ∨ b.state = .off → u.state = b.state)) ∧
    ∀ j, j ≠ k → ∀ r, (c.request rc k r none).bank j = c.bank j

/-- R191: the requests that one rc makes of a bank: with one for full among them those for retention are ignored, and those for off
come last. -/
def Claims.BankCombination : Prop :=
  ∀ (l : List (Nat × SupplyReq)) (k : Nat),
    let of (r : SupplyReq) : List (Nat × SupplyReq) := l.filter fun x => x == (k, r)
    (combine l).filter (fun x => x.1 == k) =
      (if (k, .full) ∈ l then of .full else of .retention) ++ of .off

/-- R191, R195, R187: at the end of an rc its requests act in the order of their combination; a bank that a completed commit moves
off is off, its pending flags cleared and its wake ended, and its bytes are lost. -/
def Claims.BankSettling : Prop :=
  ∀ (c : Core) (rc : Nat), (c.banks.map Prod.fst).Pairwise (· < ·) → c.mem.wf = true →
    (∀ e ∈ c.banks, e.2.pendRet = false ∧ e.2.moveAfter = none) →
    (∀ k r, k < 256 → c.breqs = [(k, r)] → c.goOff = [] →
      let u := c.settleBanks rc
      u.breqs = [] ∧ u.mem = (c.request rc k r none).mem ∧ ∀ j, u.bank j = (c.request rc k r none).bank j) ∧
    (c.breqs = [] → c.wakeq = [] → let u := c.settleBanks rc
      u.goOff = [] ∧ (∀ a, a / 131072 < 256 → u.mem.read a = if a / 131072 ∈ c.goOff then 0 else c.mem.read a) ∧
      ∀ k, (k ∈ c.goOff → (u.bank k).state = .off ∧ (u.bank k).pendOff = false ∧ (u.bank k).pendRet = false ∧
        (u.bank k).wakeEnd = none) ∧ (k ∉ c.goOff → u.bank k = c.bank k))

/-- R187, R190 to R195: requests for bank states, what they do, how those of one rc combine, and the moves to off of a commit. -/
def Obligations.Banks : Prop :=
  Claims.BankRequests ∧ Claims.BankProcedure ∧ Claims.BankCombination ∧ Claims.BankSettling

/-- R237: DWIN sets a drain window to a 64-byte-aligned base within private store, a row stride below 2^24 and a length. -/
def Claims.DrainWindow : Prop :=
  ∀ (h : Hdr) (x : Fin 4) (a b : Sel) (len : BitVec 24) (c : Comp) (s : State),
    let base := (s.val [a, b] 0).toNat
    let stride := (s.val [a, b] 1).toNat
    Goes (op2 h c [a, b] [] []) s →
    (stride < 2 ^ 24 → base % 64 = 0 → base + 64 * len.toNat ≤ s.me.privTop →
      Does (.dwin h x a b len c) (op2 h c [a, b] [] [])
        (fun k => { k with wins := k.wins.set x (some ⟨base, stride, 64 * len.toNat⟩) }) s) ∧
    (2 ^ 24 ≤ stride ∨ base % 64 ≠ 0 ∨ s.me.privTop < base + 64 * len.toNat →
      Traps (.dwin h x a b len c) (op2 h c [a, b] [] []) 0x11 0 0 s)

/-- R286: SYNCWAIT returns FLAGS and GEN once the sync word's GEN, as it stood at the start of the rc, has reached the value,
modulo 2^32, and stalls until then. -/
def Claims.SyncWait : Prop :=
  ∀ (h : Hdr) (d : Dest) (a b : Sel) (off : BitVec 24) (c : Comp) (s : State) (x : Nat),
    Goes (op2 h c [a, b] [] (destRes d)) s → s.me.portBusy = false →
    x = (s.val [a, b] 0 + off.signExtend 64).toNat → x % 32 = 0 → PrivateFull s s.curCore x 32 →
    let gen := leNat (s.me.mem.readN (x + 16) 4)
    let before := leNat (s.me.memThen.readN (x + 16) 4)
    let reached := (BitVec.ofNat 32 before - (s.val [a, b] 1).setWidth 32).msb = false
    (reached → Produces (.syncwait h d a b off c) (op2 h c [a, b] [] (destRes d)) (if x + 31 < 0x1000000 then 4 else 6)
      (destWr d 2 (BitVec.ofNat 64 ((s.me.mem.read (x + 20)).toNat * 2 ^ 32 + gen))) s) ∧
    (¬reached → ∃ t : State, exec (.syncwait h d a b off c) s = .next t ∧ t.mySeq.pend = s.mySeq.pend ∧ t.mySeq.pc = s.mySeq.pc ∧
      Frame id s t)

/-- R237, R286: DWIN and SYNCWAIT. -/
def Obligations.WindowsAndSyncWords : Prop := Claims.DrainWindow ∧ Claims.SyncWait

/-- R280, R274, R312: COPY and COPY.R, whose command passes the checks of R280, enqueue it on their channel, while its partition
has fewer than eight there, with its four registers as they stand at issue; a command to device memory or over a route is
deferred to its region's commit. -/
def Claims.CopyEnqueued : Prop :=
  ∀ (h : Hdr) (x : Fin 4) (r : Fin 32) (f : CopyF) (c : Comp) (routed : Bool) (s : State),
    let i : Instr := if routed then .copyR h x (.reg r) f c else .copy h x (.reg r) f c
    let m := s.me.copyCmd (s.die (dieOf s.curCore)).linkuse s.curCore s.curSeq.idx r.val routed f
    Goes (op2 h c [] ((List.range 4).map fun i => .sreg (Fin.ofNat 32 (r.val + i))) []) s →
    s.copyCheck s.curCore m = none → (s.me.queueOf x s.me.part).length < 8 →
    ∃ t : State, exec i s = .next t ∧ t.me.chans = s.me.chans.set x (s.me.chans[x] ++ [m]) ∧ t.mySeq.pend = s.mySeq.pend ∧
      Past 2 s t ∧ (∀ k, SameCore (s.core k) (t.core k)) ∧ m.cur = true ∧ m.cursor = 0 ∧ m.phase = .queued ∧
      (∀ j : Fin 4, m.regs[j] = s.mySeq.sreg (Fin.ofNat 32 (r.val + j.val))) ∧ m.gen = s.me.gen ∧
      m.scope = f.scope ∧ m.acq = f.acq ∧ m.rel = f.rel ∧
      m.deferred = ((s.mySeq.sreg (Fin.ofNat 32 (r.val + 2))).getLsbD 62 || routed) ∧
      ((∀ p : PartId, bvf (s.die (dieOf s.curCore)).tncfg[p] 63 1 = 0) → Quiet s t)

/-- R280, R288: the checks of COPY and COPY.R, in their order: fields outside their limits, a route index in COPY, a device
destination in COPY.R or a device side below device scope (0x11); an invalid route (0x51); a range of this core's store that is not
private (0x21); a sync word that is not aligned (0x20) or, in this core, not private (0x21); and ranges that overlap (0x11). A
command that passes them and finds its queue full takes cause 0x54 when every entry is the region's own and deferred, and stalls
otherwise. The model's choice, log 45: the checks come before the test of the queue's room. -/
def Claims.CopyChecks : Prop :=
  ∀ (h : Hdr) (x : Fin 4) (r : Fin 32) (f : CopyF) (c : Comp) (routed : Bool) (s : State),
    let i : Instr := if routed then .copyR h x (.reg r) f c else .copy h x (.reg r) f c
    let op := op2 h c [] ((List.range 4).map fun i => .sreg (Fin.ofNat 32 (r.val + i))) []
    let ret := (s.die (dieOf s.curCore)).linkuse
    let reg (j : Nat) : Nat := (s.mySeq.sreg (Fin.ofNat 32 (r.val + j))).toNat
    let sd : Bool := decide (2 ^ 63 ≤ reg 2)
    let dd : Bool := decide (reg 2 / 2 ^ 62 % 2 = 1)
    let len := reg 2 % 2 ^ 32
    let src := if sd then reg 0 % 2 ^ 48 else reg 0
    let dst := if dd then reg 1 % 2 ^ 48 else reg 1
    let sync := reg 3 % 2 ^ 32
    let out (a n : Nat) : Prop := s.me.privTop < a + n
    let fields := reg 2 / 2 ^ 32 % 2 ^ 30 ≠ 0 ∨ len = 0 ∨ reg 3 / 2 ^ 37 % 2 ^ 26 ≠ 0 ∨
      (routed = false ∧ reg 3 / 2 ^ 32 % 32 ≠ 0) ∨ (routed = true ∧ dd = true) ∨
      ((sd = true ∨ dd = true) ∧ (f.scope = .core ∨ f.scope = .quad))
    let noRoute := routed = true ∧ routeEject ret s.curCore s.me.rte[(Fin.ofNat 32 (reg 3 / 2 ^ 32) : Fin 32)] = none
    let srcOut := sd = false ∧ out src len
    let dstOut := dd = false ∧ routed = false ∧ out dst len
    let unaligned := 2 ^ 63 ≤ reg 3 ∧ sync % 32 ≠ 0
    let syncOut := 2 ^ 63 ≤ reg 3 ∧ routed = false ∧ out sync 32
    let overlap := routed = false ∧ sd = dd ∧
      ((sd = false ∧ src < dst + len ∧ dst < src + len) ∨
        (sd = true ∧ ((dst + 2 ^ 48 - src) % 2 ^ 48 < len ∨ (src + 2 ^ 48 - dst) % 2 ^ 48 < len)))
    let refused := fields ∨ noRoute ∨ srcOut ∨ dstOut ∨ unaligned ∨ syncOut ∨ overlap
    let queue := s.me.queueOf x s.me.part
    let traps (cause addr : Nat) : Prop := Traps i op cause 0 addr s
    Goes op s →
    (fields → traps 0x11 0) ∧
    (¬fields → (noRoute → traps 0x51 0) ∧
      (¬noRoute → (srcOut → traps 0x21 src) ∧
        (¬srcOut → (dstOut → traps 0x21 dst) ∧
          (¬dstOut → (unaligned → traps 0x20 sync) ∧
            (¬unaligned → (syncOut → traps 0x21 sync) ∧ (¬syncOut → overlap → traps 0x11 0)))))) ∧
    (¬refused → s.copyCheck s.curCore (s.me.copyCmd ret s.curCore s.curSeq.idx r.val routed f) = none ∧
      (8 ≤ queue.length →
        ((∀ y ∈ queue, y.cur = true ∧ y.deferred = true) → traps 0x54 0) ∧
        ((∃ y ∈ queue, y.cur = false ∨ y.deferred = false) → exec i s = .next (s.stallWith 2))))

/-- R274, R280, R288, R312: COPY and COPY.R: their checks, and the command they enqueue. The model's choice, log 45: the checks come
before the test of the queue's room. -/
def Obligations.CopyIssue : Prop := Claims.CopyEnqueued ∧ Claims.CopyChecks

/-- R114, R32: YIELD.N of K right after a commit, with no loop active, no debug stop and a pre-emption pending, rolls the core
back to its cut (the sequencers stand at its program counters and loops, with their registers, empty latches and nothing in
flight; the region's lines, launches and copies are gone), puts K's program counter in the cut past the instruction, and begins a
save at node depth; otherwise it has no effect but its ring actions. -/
def Claims.YieldNode : Prop :=
  ∀ (h : Hdr) (s : State), Goes (op1 h [] [] []) s →
    let taken := s.me.preempt ≠ none ∧ s.me.stopped = false ∧ s.mySeq.fresh = true ∧ ∀ q : Fin 4, (s.me.sq q).live = []
    (¬taken → Does (.yieldN h) (op1 h [] [] []) id s) ∧
    (taken → ∀ y, s.me.task = some y → ∃ (t : State) (n : Nat), exec (.yieldN h) s = .next t ∧
      t.me.task = some { y with phase := .saving n 1 } ∧ s.rc < n ∧ t.me.preempt = none ∧
      t.me.cut = { s.me.cut with pcs := s.me.cut.pcs.set 0 (s.mySeq.pc + 4) } ∧ t.me.gen = s.me.gen ∧
      (∀ q : Fin 4, (t.me.sq q).pc = s.me.cut.pcs[q] ∧ (t.me.sq q).h = s.me.cut.loops[q] ∧ (t.me.sq q).live = s.me.cut.lives[q] ∧
        (t.me.sq q).s = (s.me.sq q).s ∧ (t.me.sq q).b = Vector.replicate 4 0 ∧ (t.me.sq q).pend = [] ∧
        (t.me.sq q).arrival = none) ∧
      t.me.tok = Vector.replicate 8 0 ∧ (∀ x : Fin 8, (t.me.q[x]).ents = []) ∧ t.me.v = s.me.v ∧ t.me.m = s.me.m ∧
      t.me.cb = s.me.cb.filter (fun l => !l.cur) ∧ t.me.lbuf = s.me.lbuf.filter (fun l => !l.cur) ∧
      (∀ x : Fin 4, t.me.chans[x] = (s.me.chans[x]).filter fun m => !m.cur) ∧ ∀ a, t.me.mem.read a = s.me.mem.read a)

/-- R328, R327: LAUNCH reads a launch record through translation and buffers it for its region's commit, when the launch
buffer has room and the record keeps the limits of R327; one that does not takes cause 0x61. The model's choice, log 10: the
record is the bytes in memory at the rc of issue, read once. -/
def Claims.LaunchBuffered : Prop :=
  ∀ (h : Hdr) (a : Sel) (c : Comp) (s : State) (va pa : Nat) (y : TaskSt),
    Goes (op2 h c [a] [] []) s → va = (s.val [a] 0).toNat % 2 ^ 48 → va % 64 = 0 → Translated s va .load .dev pa →
    s.me.lbuf.length < 4 → s.farHeld s.curCore pa = false → s.me.pinned = false → s.poison = [] → s.me.cb = [] → s.me.reads = [] →
    s.me.task = some y → (∀ x, (s.gran (.line (pa / 64))).claim = some x → ∀ y ∈ (s.core x.1).cb, y.cur = true) →
    let r := s.mem.readN pa 64
    (launchOk r = true → ∃ (t : State) (l : LaunchEnt), exec (.launch h a c) s = .next t ∧ t.me.lbuf = s.me.lbuf ++ [l] ∧
      l.rec_ = launchOf y.part r ∧ l.gang = y.gang ∧ l.task = y.idx ∧ l.gen = s.me.gen ∧ l.cur = true ∧ l.id = s.me.nextId ∧
      t.mySeq.pend = s.mySeq.pend ∧ Past 2 s t ∧ Quiet s t) ∧
    (launchOk r = false → ∃ u : State, exec (.launch h a c) s = .next ((u.noted (op2 h c [a] [] [])).trapHere 0x61 0 va) ∧
      Quiet s u)

/-- R271, R118: PREF completes with no effect a program can see, whatever its address comes to and whatever holds Feldspar.
PREFI names the lines from the one of its address on, for its target; each whose translation stands in the TLB, whose line the
I-cache lacks, and whose request nothing holds is asked for at its home at once, and its completion waits for its lines. An
address that is not word aligned takes cause 0x12. -/
def Claims.Prefetches : Prop :=
  ∀ (h : Hdr) (x : Fin 4) (a : Sel) (scope : Scope) (nl : Fin 16) (off : BitVec 24) (c : Comp) (s : State),
    Goes (op2 h c [a] [] []) s →
    let va := (s.val [a] 0 + off.signExtend 64).toNat % 2 ^ 48
    let lines := (List.range (nl.val + 1)).map fun i => (va / 64 * 64 + 64 * i) % 2 ^ 48
    (∃ t : State, exec (.pref h a scope off c) s = .next t ∧ t.mySeq.pend = s.mySeq.pend ∧ Past 2 s t ∧ Quiet s t) ∧
    (va % 4 = 0 → (∀ f ∈ s.me.fills, f.prefi ≠ some s.me.nextId) →
      ∃ t : State, exec (.prefi h x a nl off c) s = .next t ∧ Past 2 s t ∧ Quiet s t ∧
        t.mySeq.pend = s.mySeq.pend ++ [⟨s.me.nextId, .onReturn, [], c⟩] ∧
        (∀ f ∈ t.me.fills, f.prefi = some s.me.nextId → f.tgt = x ∧ f.part = s.me.part ∧ f.line ∈ lines) ∧
        ∀ y ∈ lines, ∀ pa, Translated s y .fetch .dev pa → s.me.icLine x s.me.part y = none → s.farHeld s.curCore pa = false →
          s.me.tlb.length ≤ 64 → (∀ e ∈ s.me.tlb, ∀ e' ∈ s.me.tlb,
            e.covers s.me.part y = true → e'.covers s.me.part y = true → e = e') →
          ∃ f ∈ t.me.fills, f.prefi = some s.me.nextId ∧ f.tgt = x ∧ f.line = y ∧ f.pa = some pa ∧ s.rc < f.at_) ∧
    (va % 4 ≠ 0 → Traps (.prefi h x a nl off c) (op2 h c [a] [] []) 0x12 0 va s)

/-- R114, R118, R271, R328: YIELD.N, LAUNCH, PREF and PREFI. -/
def Obligations.NodesLaunchesPrefetches : Prop := Claims.YieldNode ∧ Claims.LaunchBuffered ∧ Claims.Prefetches

/-- R210 to R214: TLD and TLDW start the load of a tile that has no load in flight and no reader: its fill count rises and the
load is listed with the bytes its TSHAPE gives, its fate and its source. TLD's source is the bytes from value(A) + off on, of
which it places the first 256 at once; TLDW's is its shape record, with value(A) added to BASE, and its first bytes come later. A
misaligned TLD or record takes cause 0x20, and a record that is out of its limits cause 0x31, with the place of its first invalid
field. -/
def Claims.TileLoadIssue : Prop :=
  ∀ (h : Hdr) (t : Fin 8) (a b : Sel) (fate : Fate) (off : BitVec 24) (row0 col0 : BitVec 12) (c : Comp) (s : State),
    let sh := s.me.tshape[t]
    let len := 8 * (bvf sh 6 6 + 1)
    let n := bvf sh 12 8 * len
    let cyc := (s.me.clk .control).cyc
    let tld : Instr := .tld h t a fate off c
    let tldw : Instr := .tldw h t a b fate row0 col0 c
    let byte (k : Core) (i : Nat) : Nat := bvf (k.tiles[t]).data (8 * i) 8
    let idle := (s.me.tiles[t]).fills = 0 ∧ (s.me.tiles[t]).reads = 0 ∧ s.me.portBusy = false ∧
      (∀ l ∈ s.me.tloads, l.tile ≠ t)
    let started (i : Instr) (src : TileLoad → Prop) (own : State → Prop) : Prop :=
      ∃ (u : State) (l : TileLoad), exec i s = .next u ∧ u.me.tloads = s.me.tloads ++ [l] ∧ l.tile = t ∧ l.n = n ∧
        l.fate = fate ∧ l.comp = c ∧ src l ∧ (u.me.tiles[t]).fills = 1 ∧ (∀ x : Fin 8, x ≠ t → u.me.tiles[x] = s.me.tiles[x]) ∧
        u.mySeq.pend = s.mySeq.pend ∧ Past 2 s u ∧ own u ∧
        (∀ j, (u.me.sq j).s = (s.me.sq j).s ∧ (u.me.sq j).b = (s.me.sq j).b) ∧ u.me.acc = s.me.acc ∧ u.me.v = s.me.v ∧
        u.me.mem = s.me.mem
    (∀ x, Goes (op2 h c [a] [] []) s → idle → x = (s.val [a] 0 + off.signExtend 64).toNat →
      (x % 8 ≠ 0 → Traps tld (op2 h c [a] [] []) 0x20 0 x s) ∧
      (x % 8 = 0 → n ≤ 16384 → PrivateFull s s.curCore x n → started tld
        (fun l => l.base = x ∧ l.shape = none ∧ l.pos = min 256 n ∧ l.nextCyc = cyc + 1)
        fun u => ∀ i, i < 16384 → byte u.me i = if i < min 256 n then (s.me.mem.read (x + i)).toNat else byte s.me i)) ∧
    (∀ x, Goes (op2 h c [a, b] [] []) s → idle → x = (s.val [a, b] 1).toNat →
      (x % 32 ≠ 0 → Traps tldw (op2 h c [a, b] [] []) 0x20 0 x s) ∧
      (x % 32 = 0 → PrivateFull s s.curCore x 32 →
        let f (i n : Nat) : Nat := leNat (s.me.mem.readN (x + i) n)
        let add := (s.val [a, b] 0).toNat
        (∀ i, shapeRec (s.me.mem.readN x 32) add row0.toNat col0.toNat = .error i →
          Traps tldw (op2 h c [a, b] [] []) 0x31 (i * 2 ^ 24) x s) ∧
        (∀ r, shapeRec (s.me.mem.readN x 32) add row0.toNat col0.toNat = .ok r →
          r = ⟨(f 0 4 + add) % 2 ^ 64, f 4 4, f 8 2, f 10 2, f 12 2, f 14 2, f 16 2, f 18 1, f 19 1, f 20 1, f 21 1, f 22 1,
            f 23 1, f 24 1, f 25 1, f 26 2, f 28 2, row0.toNat, col0.toNat⟩ ∧
          started tldw (fun l => l.shape = some (r, len) ∧ l.pos = 0 ∧ l.nextCyc = cyc + 4)
            fun u => ∀ i, byte u.me i = byte s.me i)))

/-- R212: the limits of a shape record's fields, and the place of the first that is out of them. -/
def Claims.ShapeRecords : Prop :=
  ∀ (bs : List (BitVec 8)) (add row0 col0 : Nat), bs.length = 32 →
    let f (i n : Nat) : Nat := leNat ((bs.drop i).take n)
    let bad (i n lo hi : Nat) : Prop := ¬(lo ≤ f i n ∧ f i n ≤ hi)
    let limits : List (Nat × Nat × Nat × Nat) :=
      ([8, 10, 12, 14].map fun i => (i, 2, 1, 4096)) ++ [(16, 2, 1, 512), (18, 1, 1, 16), (19, 1, 1, 16)] ++
        ([20, 21, 22, 23].map fun i => (i, 1, 1, 8)) ++ [(24, 1, 0, 15), (25, 1, 0, 15), (30, 2, 0, 0)]
    ((∃ r, shapeRec bs add row0 col0 = .ok r) ↔ ∀ x ∈ limits, ¬bad x.1 x.2.1 x.2.2.1 x.2.2.2) ∧
    ∀ i, shapeRec bs add row0 col0 = .error i →
      ∃ x ∈ limits, x.1 = i ∧ bad x.1 x.2.1 x.2.2.1 x.2.2.2 ∧ ∀ y ∈ limits, y.1 < i → ¬bad y.1 y.2.1 y.2.2.1 y.2.2.2

/-- R213: byte i of a TLDW's tile, by its record: zero past the output or the kernel, padding outside the input, by the parity of
its flattened place, and the input's byte otherwise. -/
def Claims.WindowBytes : Prop :=
  ∀ (r : ShapeRec) (len i : Nat),
    let p := r.pbase + r.row0 + i / len
    let f := r.col0 + i % len
    let iy : Int := ((p / r.ow * r.sy : Nat) : Int) - r.pt + ((f / r.cb / r.kw * r.dy : Nat) : Int)
    let ix : Int := ((p % r.ow * r.sx : Nat) : Int) - r.pl + ((f / r.cb % r.kw * r.dx : Nat) : Int)
    let past := r.oh ≤ p / r.ow ∨ r.kh * r.kw ≤ f / r.cb
    let inside := 0 ≤ iy ∧ iy < r.hgt ∧ 0 ≤ ix ∧ ix < r.wid
    (past → r.byte len i = .inl 0) ∧
    (¬past → ¬inside → r.byte len i = .inl (BitVec.ofNat 8 (if f % 2 = 0 then r.padv else r.padv / 256))) ∧
    (¬past → inside → r.byte len i =
      .inr ((r.base + iy.toNat * r.pitch + ix.toNat * r.cb + f % r.cb) % 2 ^ 64))

/-- R207, R213, R214, R153: a port cycle of a tile load, none of whose bytes fails: the next 256 bytes of a TLD, or 64 of a
TLDW, are placed in the tile from the load's position on, and the position moves past them; the fate is requested after a TLD's
last byte. -/
def Claims.TilePortCycle : Prop :=
  ∀ (k : CoreId) (s : State) (l : TileLoad),
    let c := s.core k
    let t := s.tilePort k l
    let byte (x : Core) (i : Nat) : Nat := bvf (x.tiles[l.tile]).data (8 * i) 8
    let moved (m : Nat) (src : Nat → BitVec 8) : Prop :=
      (∃ l', (t.core k).tloads = [l'] ∧ l'.tile = l.tile ∧ l'.n = l.n ∧ l'.base = l.base ∧ l'.shape = l.shape ∧ l'.fate = l.fate ∧
        l'.pos = l.pos + m ∧ l'.nextCyc = l.nextCyc + 1) ∧
      (∀ i, i < 16384 → byte (t.core k) i = if l.pos ≤ i ∧ i < l.pos + m then (src (i - l.pos)).toNat else byte c i) ∧
      (∀ x : Fin 8, x ≠ l.tile → (t.core k).tiles[x] = c.tiles[x]) ∧ (t.core k).mem = c.mem ∧
      ∀ j, (t.core k).sq j = c.sq j
    c.tloads = [l] →
    (((c.clk .control).cyc < l.nextCyc ∨ l.n ≤ l.pos) → t = s) ∧
    (l.nextCyc ≤ (c.clk .control).cyc → l.pos < l.n → l.n ≤ 16384 →
      (l.shape = none → let m := min 256 (l.n - l.pos)
        PrivateFull s k (l.base + l.pos) m → moved m (fun i => c.mem.read (l.base + l.pos + i)) ∧
          (t.core k).breqs = c.breqs ++ (if l.pos + m = l.n then fateReqs l.fate (l.base + l.n - 1) else [])) ∧
      (∀ (r : ShapeRec) (len : Nat) (src : Nat → BitVec 8), l.shape = some (r, len) → let m := min 64 (l.n - l.pos)
        (∀ i, i < m → r.byte len (l.pos + i) = .inl (src i) ∨
          ∃ a, r.byte len (l.pos + i) = .inr a ∧ PrivateFull s k a 1 ∧ c.mem.read a = src i) → moved m src))

/-- R207, R210 to R214: how tile loads start, their shape records and windows, and the bytes that they place. -/
def Obligations.TileLoads : Prop :=
  Claims.TileLoadIssue ∧ Claims.ShapeRecords ∧ Claims.WindowBytes ∧ Claims.TilePortCycle

/-! ### Vector words -/

/-- R174, R168: the integer vector operations: each element in effect of the result is the exact result of the elements of
the operands, clamped on request and wrapped otherwise; lanes not in effect are not written, and SATD is raised exactly when
an element in effect is clamped. -/
def Obligations.VectorInteger : Prop :=
  ∀ (h : Hdr) (d : Dest) (a b x : Sel) (ty : VITy) (sat : Bool) (c : Comp) (s : State),
    let w := ty.width
    let l := s.me.lanes h
    let val (n : Nat) : Int := if ty.signed then (BitVec.ofNat w n).toInt else (n : Int)
    let sgn (n : Nat) : Int := (BitVec.ofNat w n).toInt
    let lo : Int := if ty.signed then -2 ^ (w - 1) else 0
    let hi : Int := if ty.signed then 2 ^ (w - 1) - 1 else 2 ^ w - 1
    let into (names : List Sel) (latch : Fin 4) (lat : Nat) (clamp : Bool) (f : Nat → Nat → Nat → Int) (i : Instr) : Prop :=
      let y (j : Nat) : Int := f (elemOf (s.me.vector names 0) w j) (elemOf (s.me.vector names 1) w j)
        (elemOf (s.me.vector names 2) w j)
      ∃ (v : VWord) (o : Bool), Produces i (opV 2 h c names d) lat (vecWr d latch (laneBits l) v (FFlags.ofSatd o)) s ∧
        (∀ j, j < 2048 / w → laneOn l w j = true →
          elemOf v w j = (BitVec.ofInt w (if clamp then max lo (min hi (y j)) else y j)).toNat) ∧
        (o = true ↔ clamp = true ∧ ∃ j, j < 2048 / w ∧ laneOn l w j = true ∧ (y j < lo ∨ hi < y j))
    let ok (names : List Sel) : Prop := Goes (opV 2 h c names d) s ∧ s.me.drainHolds (vregsOf names d) = false
    (ok [a, b] →
      into [a, b] 0 2 sat (fun p q _ => val p + val q) (.vadd h d a b ty sat c) ∧
      into [a, b] 0 2 sat (fun p q _ => val p - val q) (.vsub h d a b ty sat c) ∧
      into [a, b] 1 4 sat (fun p q _ => val p * val q) (.vmul h d a b ty sat c) ∧
      into [a, b] 1 4 false (fun p q _ => val p * val q / 2 ^ w) (.vmulh h d a b ty c) ∧
      into [a, b] 0 2 false (fun p q _ => min (val p) (val q)) (.vmin h d a b ty c) ∧
      into [a, b] 0 2 false (fun p q _ => max (val p) (val q)) (.vmax h d a b ty c) ∧
      into [a, b] 0 2 false (fun p q _ => ((p &&& q : Nat) : Int)) (.vand h d a b ty c) ∧
      into [a, b] 0 2 false (fun p q _ => ((p ||| q : Nat) : Int)) (.vor h d a b ty c) ∧
      into [a, b] 0 2 false (fun p q _ => ((p ^^^ q : Nat) : Int)) (.vxor h d a b ty c) ∧
      into [a, b] 0 2 false (fun p q _ => (p : Int) * 2 ^ (q % w)) (.vshl h d a b ty c) ∧
      into [a, b] 0 2 false (fun p q _ => (p : Int) / 2 ^ (q % w)) (.vshr h d a b ty c) ∧
      into [a, b] 0 2 false (fun p q _ => sgn p / 2 ^ (q % w)) (.vsra h d a b ty c)) ∧
    (ok [a] →
      into [a] 0 2 sat (fun p _ _ => |val p|) (.vabs h d a ty sat c) ∧
      into [a] 0 2 sat (fun p _ _ => -val p) (.vneg h d a ty sat c)) ∧
    (ok [a, b, x] → into [a, b, x] 1 4 sat (fun p q r => val p * val q + val r) (.vmad h d a b x ty sat c))

/-- R175, R176, R168: the float vector operations: each element in effect is the operation's pattern, rounded once, and the
flags of the elements in effect are raised together. -/
def Claims.VectorFloat : Prop :=
  ∀ (h : Hdr) (d : Dest) (a b x : Sel) (ty : VFTy) (rm : RMode) (c : Comp) (s : State),
    let w := fmtWidth ty.fmt
    let l := s.me.lanes h
    let into (names : List Sel) (lat : Nat) (f : Nat → Nat → Nat → Flagged Nat) (i : Instr) : Prop :=
      let y (j : Nat) : Flagged Nat := f (elemOf (s.me.vector names 0) w j) (elemOf (s.me.vector names 1) w j)
        (elemOf (s.me.vector names 2) w j)
      ∃ v : VWord, Produces i (opV 2 h c names d) lat (vecWr d 3 (laneBits l) v
          (((List.range (2048 / w)).filter fun j => laneOn l w j).foldl (fun o j => o.or (y j).2) FFlags.none)) s ∧
        ∀ j, j < 2048 / w → laneOn l w j = true → elemOf v w j = (y j).1 % 2 ^ w
    let ok (names : List Sel) : Prop := Goes (opV 2 h c names d) s ∧ s.me.drainHolds (vregsOf names d) = false
    let rnd (v : FVal × Bool) : Flagged Nat :=
      ((roundF ty.fmt rm false v.1).1, (roundF ty.fmt rm false v.1).2.or (FFlags.ofInv v.2))
    let dec (p : Nat) : FVal := decodeF ty.fmt p
    (ok [a, b] →
      into [a, b] 4 (fun p q _ => rnd (addF rm (dec p) (dec q))) (.vfadd h d a b ty rm c) ∧
      into [a, b] 4 (fun p q _ => rnd (addF rm (dec p) (negF (dec q)))) (.vfsub h d a b ty rm c) ∧
      into [a, b] 4 (fun p q _ => rnd (mulF (dec p) (dec q))) (.vfmul h d a b ty rm c) ∧
      into [a, b] 4 (fun p q _ => (minmaxF ty.fmt false p q, FFlags.none)) (.vfmin h d a b ty rm c) ∧
      into [a, b] 4 (fun p q _ => (minmaxF ty.fmt true p q, FFlags.none)) (.vfmax h d a b ty rm c)) ∧
    (ok [a, b, x] →
      into [a, b, x] 4 (fun p q r => rnd (fmaF rm (dec p) (dec q) (dec r))) (.vfma h d a b x ty rm c) ∧
      into [a, b, x] 4 (fun p q r => rnd (fmaF rm (dec p) (dec q) (negF (dec r)))) (.vfms h d a b x ty rm c)) ∧
    (ok [a] →
      into [a] 4 (fun p _ _ => fsignP ty.fmt false p) (.vfabs h d a ty rm c) ∧
      into [a] 4 (fun p _ _ => fsignP ty.fmt true p) (.vfneg h d a ty rm c) ∧
      into [a] 12 (fun p _ _ => frcpP ty.fmt rm p) (.vfrcp h d a ty rm c) ∧
      into [a] 12 (fun p _ _ => frsqP ty.fmt rm p) (.vfrsq h d a ty rm c))

/-- The pattern is a real number's rounding, of a sign: at least that of every finite value of the sign that the number reaches in
magnitude, and at most that of every one that reaches the number. Between them these are all the finite values, so they leave one
pattern. Overflow is the one flag. -/
def Claims.Rounds (f : Fmt) (mode : RMode) (neg : Bool) (below above : Nat → Int → Prop) (r : Flagged Nat) : Prop :=
  let mag (x : Nat) : Nat := x % 2 ^ (fmtWidth f - 1)
  r.1 / 2 ^ (fmtWidth f - 1) = neg.toNat ∧ r.2 = { FFlags.none with ovf := r.2.ovf } ∧
    ∀ (m : Nat) (e : Int), 0 < m → let v := roundF f mode false (.fin neg m e)
      (below m e → mag v.1 ≤ mag r.1 ∧ (v.2.ovf = true → r.2.ovf = true)) ∧
      (above m e → mag r.1 ≤ mag v.1 ∧ (r.2.ovf = true → v.2.ovf = true))

/-- R81, R175, R176: the results that are no rounded sum or product. The smaller and the larger of two patterns that are no NaN are
by their signed magnitudes, −0 below +0; of a NaN and a number the number, of two NaNs the canonical one. A reciprocal, or that of a
square root, is the rounding of the real one; of a zero it is the infinity of its sign, with DZ, of an infinity the zero of its
sign; a NaN, and the root of a negative number, give the canonical NaN with INV. -/
def Claims.MinMaxReciprocal : Prop :=
  ∀ (f : Fmt) (mode : RMode) (x y : Nat), f ∈ [Fmt.fp16, .bf16, .fp32] → x < 2 ^ fmtWidth f → y < 2 ^ fmtWidth f →
    let top := 2 ^ (fmtWidth f - 1)
    let nan (p : Nat) : Prop := decodeF f p = .nan
    let key (p : Nat) : Int := if p < top then (p : Int) else -1 - ((p - top : Nat) : Int)
    let inv : Flagged Nat := (canonNaN f, FFlags.ofInv true)
    (¬nan x → ¬nan y → minmaxF f false x y = (if key x ≤ key y then x else y) ∧
      minmaxF f true x y = (if key x ≤ key y then y else x)) ∧
    (∀ larger, (nan x → ¬nan y → minmaxF f larger x y = y) ∧ (¬nan x → nan y → minmaxF f larger x y = x) ∧
      (nan x → nan y → minmaxF f larger x y = canonNaN f)) ∧
    (nan x → frcpP f mode x = inv ∧ frsqP f mode x = inv) ∧
    (∀ neg, decodeF f x = .inf neg → frcpP f mode x = (signPat f neg, FFlags.none) ∧
      frsqP f mode x = if neg then inv else (0, FFlags.none)) ∧
    (∀ neg e, decodeF f x = .fin neg 0 e → let r : Flagged Nat := (signPat f neg + infPat f, { FFlags.none with dz := true })
      frcpP f mode x = r ∧ frsqP f mode x = r) ∧
    ∀ neg m e, decodeF f x = .fin neg m e → m ≠ 0 →
      (let to1 (p : Nat) (d : Int) : Nat := p * m * 2 ^ (d + e).toNat
       let one (d : Int) : Nat := 2 ^ (-(d + e)).toNat
       Claims.Rounds f mode neg (fun p d => to1 p d ≤ one d) (fun p d => one d ≤ to1 p d) (frcpP f mode x)) ∧
      (neg = true → frsqP f mode x = inv) ∧
      (let to1 (p : Nat) (d : Int) : Nat := p * p * m * 2 ^ (2 * d + e).toNat
       let one (d : Int) : Nat := 2 ^ (-(2 * d + e)).toNat
       neg = false → Claims.Rounds f mode false (fun p d => to1 p d ≤ one d) (fun p d => one d ≤ to1 p d) (frsqP f mode x))

/-- R81: sums and products before their rounding are exact. The sum of two finite values of opposite sign that is zero is +0, or −0
in RDN; that of two zeros of one sign keeps it. -/
def Claims.ExactSums : Prop :=
  ∀ (mode : RMode) (x y : Bool) (m n : Nat) (e d : Int),
    let int (neg : Bool) (m : Nat) (e base : Int) : Int := (if neg then -1 else 1) * (m : Int) * 2 ^ (e - base).toNat
    mulF (.fin x m e) (.fin y n d) = (.fin (x != y) (m * n) (e + d), false) ∧
    ∃ (z : Bool) (p : Nat) (g : Int), addF mode (.fin x m e) (.fin y n d) = (.fin z p g, false) ∧
      (∀ base : Int, base ≤ e → base ≤ d → base ≤ g → int z p g base = int x m e base + int y n d base) ∧
      (p = 0 → z = if x = y then x else decide (mode = .rdn))

/-- R85, R86: a finite value that a floating-point format represents rounds to its own pattern in every mode, with no
flag. -/
def Claims.RoundingExact : Prop :=
  ∀ (f : Fmt) (mode : RMode) (sat : Bool) (x : Nat), f ∈ [Fmt.e4m3, .e5m2, .fp16, .bf16, .fp32] → x < 2 ^ fmtWidth f →
    (∃ n m e, decodeF f x = .fin n m e) → roundF f mode sat (decodeF f x) = (x, FFlags.none)

/-- R81 to R86, R175, R176: the float vector instructions, their results and their rounding. -/
def Obligations.VectorFloats : Prop :=
  Claims.VectorFloat ∧ Claims.MinMaxReciprocal ∧ Claims.ExactSums ∧ Claims.RoundingExact

/-- R179, R180, R183, R184, R146: the moves of whole lanes, to a register, a scalar register or the tail of a queue. -/
def Claims.VectorMoves : Prop :=
  ∀ (h : Hdr) (d : Dest) (a b : Sel) (ms : Fin 8) (ns : Bool) (n : Fin 64) (q : Fin 8) (imm : BitVec 12) (c : Comp)
    (s : State), s.curSeq = .c →
    let l := s.me.lanes h
    let into (op : Op) (latch : Fin 4) (lat : Nat) (f : Nat → Nat) (i : Instr) : Prop :=
      ∃ v : VWord, Produces i op lat (vecWr d latch (laneBits l) v FFlags.none) s ∧
        ∀ j, j < 64 → laneOn l 32 j = true → elemOf v 32 j = f j
    let ok (op : Op) : Prop := Goes op s ∧ s.me.drainHolds op.vregs = false
    let lane (names : List Sel) (i j : Nat) : Nat := elemOf (s.me.vector names i) 32 j
    let o2 := opV 2 h c [a, b] d
    let o1 := opV 2 h c [a] d
    (ok o2 →
      into o2 0 2 (fun j => lane [a, b] (if (s.me.mask ms).getLsbD j != ns then 0 else 1) j)
        (.vsel h d a b ms ns c) ∧
      into o2 0 3 (fun j => lane [a, b] 0 (lane [a, b] 1 j % 64)) (.vperm h d a b c)) ∧
    (ok o1 →
      into o1 0 3 (fun j => lane [a] 0 ((j + n.val) % 64)) (.vrot h d a n c) ∧
      into o1 0 3 (fun _ => lane [a] 0 n.val) (.vbcast h d a n c) ∧
      into o1 0 3 (fun j => if j < n.val then 0 else lane [a] 0 (j - n.val)) (.vshup h d a n c) ∧
      into o1 0 3 (fun j => if j + n.val < 64 then lane [a] 0 (j + n.val) else 0) (.vshdn h d a n c)) ∧
    (ok (opV 1 h compNone [a] d) → into (opV 1 h compNone [a] d) 2 2 (lane [a] 0) (.vmov h d a)) ∧
    (ok (opV 1 h compNone [] d) →
      into (opV 1 h compNone [] d) 2 2 (fun _ => (imm.signExtend 32).toNat) (.vli h d imm)) ∧
    (ok { opV 1 h compNone [a] d with scalars := [a], vregs := vregsOf [] d } →
      into { opV 1 h compNone [a] d with scalars := [a], vregs := vregsOf [] d } 2 2 (fun _ => (s.val [a] 0).toNat % 2 ^ 32)
        (.vbcs h d a)) ∧
    (ok { opV 1 h compNone [a] d with vregs := vregsOf [a] .latch } →
      Produces (.vmvs h d a) { opV 1 h compNone [a] d with vregs := vregsOf [a] .latch } 2
        (if l.getLsbD 0 then destWr d 2 ((s.me.vector [a] 0).setWidth 64) else [.flags 0]) s) ∧
    (ok { opV 1 h compNone [a] .latch with push := some q } →
      ∃ (t : State) (v : VWord), exec (.vpush h q a) s = .next t ∧
        InFlight 2 [.entry q ((s.me.q[q]).popped + (s.me.q[q]).ents.length) v] compNone s t ∧
        (t.me.q[q]).ents = ((s.me.q[q]).ents ++ [QEnt.reserved]).drop (popsOf q [a]) ∧
        (∀ j, j < 64 → elemOf v 32 j = if laneOn l 32 j then lane [a] 0 j else 0) ∧
        Past 1 s t ∧ Frame id s t ∧ PredsKept s t)

/-- R177, R178: VCMP puts in flight, for the lanes in effect, the lanes of whose elements every one meets the condition, and
for another mask their negation, with INV when an element in effect raises it; mask logic acts on all 64 lanes, m0 reading as
ones. -/
def Claims.VectorMasks : Prop :=
  ∀ (h : Hdr) (pt pf xd xa xb : Fin 8) (na nb : Bool) (a b : Sel) (cond : VCond) (ty : VTy) (c : Comp) (s : State),
    let l := s.me.lanes h
    let w := vtyWidth ty
    let el (j e : Nat) : Bool × Bool := cmpElem cond ty (elemOf (s.me.vector [a, b] 0) w (32 / w * j + e))
      (elemOf (s.me.vector [a, b] 1) w (32 / w * j + e))
    let rd (p : Fin 8) (n : Bool) : BitVec 64 :=
      let x := if p = 0 then BitVec.allOnes 64 else s.me.m[p]
      if n then ~~~x else x
    (Goes (opV 2 h c [a, b] .latch) s → s.me.drainHolds (vregsOf [a, b] .latch) = false →
      ∃ (v : BitVec 64) (inv : Bool), Produces (.vcmp h pt pf a b cond ty c) (opV 2 h c [a, b] .latch) 2
          ([.mask pt l v] ++ (if pf = pt then [] else [.mask pf l (~~~v)]) ++
            if inv then [.flags (FFlags.ofInv true).bits] else []) s ∧
        (∀ j, j < 64 → (v.getLsbD j = true ↔ ∀ e, e < 32 / w → (el j e).1 = true)) ∧
        (inv = true ↔ ∃ j e, j < 64 ∧ e < 32 / w ∧ l.getLsbD j = true ∧ (el j e).2 = true)) ∧
    (Goes (op1 h [] [] []) s →
      let into (i : Instr) (v : BitVec 64) : Prop := Produces i (op1 h [] [] []) 1 [.mask xd (BitVec.allOnes 64) v] s
      into (.mand h xd xa xb na nb) (rd xa na &&& rd xb nb) ∧ into (.mor h xd xa xb na nb) (rd xa na ||| rd xb nb) ∧
      into (.mxor h xd xa xb na nb) (rd xa na ^^^ rd xb nb) ∧ into (.mmov h xd xa na) (rd xa na))

/-- R178 to R180, R183, R184: vector moves, lane moves and masks. -/
def Obligations.VectorMovesAndMasks : Prop := Claims.VectorMoves ∧ Claims.VectorMasks

/-- R181, R182, R93: conversions element by element, with zeros above a narrowed result; integer reductions into lane 0 of
the sum, the largest and the smallest of the elements in effect, of 32 bits; float reductions by the tree of R93, whose first level
has the elements in effect and, for the others, −0, −∞ or +∞, and whose flags are those of all its sums. -/
def Obligations.VectorConvertReduce : Prop :=
  ∀ (h : Hdr) (d : Dest) (a : Sel) (src dst : Fmt) (rm : RMode) (sat : Bool) (ti : VITy) (tf : VFTy) (c : Comp) (s : State),
    let l := s.me.lanes h
    let v := s.me.vector [a] 0
    let op := opV 2 h c [a] d
    Goes op s → s.me.drainHolds op.vregs = false →
    (let wt := fmtWidth dst
      let wm := max (fmtWidth src) wt
      let e := 2048 / wm
      let y (j : Nat) : Flagged Nat := convertFmt src dst rm sat (elemOf v (fmtWidth src) j)
      ∃ (bits r : VWord), Produces (.vcvt h d a src dst rm sat c) op 3 (vecWr d 3 bits r
          (((List.range e).filter fun j => laneOn l wm j).foldl (fun o j => o.or (y j).2) FFlags.none)) s ∧
        (∀ j, j < e → elemOf bits wt j = (if laneOn l wm j then 2 ^ wt - 1 else 0) ∧
          (laneOn l wm j = true → elemOf r wt j = (y j).1 % 2 ^ wt)) ∧
        ∀ i, e * wt / 32 ≤ i → i < 64 → elemOf bits 32 i = (if l.getLsbD i then 2 ^ 32 - 1 else 0) ∧ elemOf r 32 i = 0) ∧
    (let w := ti.width
      let val (j : Nat) : Int := if ti.signed then (BitVec.ofNat w (elemOf v w j)).toInt else (elemOf v w j : Int)
      let on (j : Nat) : Prop := j < 2048 / w ∧ laneOn l w j = true
      let lo : Int := if ti.signed then -2 ^ (w - 1) else 0
      let hi : Int := if ti.signed then 2 ^ (w - 1) - 1 else 2 ^ w - 1
      let into (i : Instr) (r : Int) : Prop :=
        Produces i op 8 (vecWr d 0 (laneBits 1) (BitVec.ofNat 2048 (BitVec.ofInt 32 r).toNat) FFlags.none) s
      into (.vrsum h d a (.i ti) c) (((List.range (2048 / w)).filter fun j => laneOn l w j).map val).sum ∧
      (∃ r, into (.vrmax h d a (.i ti) c) r ∧ (∀ j, on j → val j ≤ r) ∧ ((∃ j, on j ∧ val j = r) ∨ r = lo)) ∧
      (∃ r, into (.vrmin h d a (.i ti) c) r ∧ (∀ j, on j → r ≤ val j) ∧ ((∃ j, on j ∧ val j = r) ∨ r = hi))) ∧
    (let f := tf.fmt
     let w := fmtWidth f
     let levels := if w = 32 then 6 else 7
     let inf : Nat := match tf with
       | .fp32 => 0x7F800000
       | .fp16 => 0x7C00
       | .bf16 => 0x7F80
     let into (i : Instr) (ident : Nat) (both : Nat → Nat → Flagged Nat) : Prop :=
       ∃ (node : Nat → Nat → Nat) (fl : FFlags),
         (∀ j, j < 2 ^ levels → node 0 j = if laneOn l w j then elemOf v w j else ident) ∧
         (∀ n j, n < levels → j < 2 ^ (levels - 1 - n) → node (n + 1) j = (both (node n (2 * j)) (node n (2 * j + 1))).1) ∧
         (let any (p : FFlags → Bool) : Prop :=
            ∃ n j, n < levels ∧ j < 2 ^ (levels - 1 - n) ∧ p (both (node n (2 * j)) (node n (2 * j + 1))).2 = true
          fl = { FFlags.none with inv := fl.inv, ovf := fl.ovf } ∧ (fl.inv = true ↔ any FFlags.inv) ∧ (fl.ovf = true ↔ any FFlags.ovf)) ∧
         Produces i op 12 (vecWr d 3 (laneBits 1) (BitVec.ofNat 2048 (node levels 0)) fl) s
     into (.vrsum h d a (.f tf) c) (2 ^ (w - 1)) (fun x y =>
       let r := addF .rne (decodeF f x) (decodeF f y)
       ((roundF f .rne false r.1).1, (roundF f .rne false r.1).2.or (FFlags.ofInv r.2))) ∧
     into (.vrmax h d a (.f tf) c) (2 ^ (w - 1) + inf) (fun x y => (minmaxF f true x y, FFlags.none)) ∧
     into (.vrmin h d a (.f tf) c) inf (fun x y => (minmaxF f false x y, FFlags.none)))

/-! ### The matrix array -/

/-- R216 to R219, R227: MMA is accepted with its operands, its entry, and with DR a drain whose program, window and v
registers are those of its issue; the accumulator takes the tag and the row count. DRAIN starts a drain alone. An entry that
R217 refuses takes cause 0x11, an operand that does not match cause 0x30 with its reason. -/
def Obligations.MatrixIssue : Prop :=
  ∀ (h : Hdr) (acc : Fin 4) (z : Bool) (ta tb : Fin 8) (m1 : Fin 64) (f : DrainF) (c : Comp) (s : State),
    let k := s.me
    let e := k.fmtEntry f
    let m := m1.val + 1
    let op := { op2 h c [] [] [] with vregs := k.drainVregs f }
    let detail (r : Nat) (t : Fin 8) : Nat := r * 2 ^ 28 + acc.val * 2 ^ 26 + t.val * 2 ^ 23
    let drained (d : DrainSt) : Prop :=
      d.acc = acc ∧ d.prog = f.dprog ∧ d.win = k.wins[f.win] ∧ d.entry = e ∧ d.scope = f.scope ∧ d.acq = f.acq ∧
        d.rel = f.rel ∧ d.comp = c ∧ d.running = false ∧ d.finished = false ∧
        ∀ r ∈ dldpRegs (k.drainWords f.dprog), (r.val, k.v[r]) ∈ d.params
    let same (t : State) : Prop :=
      Past 2 s t ∧ t.mySeq.pend = s.mySeq.pend ∧ (∀ j, (t.me.sq j).s = (k.sq j).s ∧ (t.me.sq j).b = (k.sq j).b) ∧
        t.me.v = k.v ∧ t.me.m = k.m ∧ (∀ j : Fin 8, (t.me.tiles[j]).data = (k.tiles[j]).data) ∧
        ∀ j : Fin 4, (t.me.acc[j]).elem = (k.acc[j]).elem ∧ (j ≠ acc → t.me.acc[j] = k.acc[j])
    Goes op s → k.drainHolds op.vregs = false → k.drainFull = false →
    ((∀ t ∈ tb :: mmaATiles e ta m, (k.tiles[t]).fills = 0) → k.draining acc = false →
      (k.mmas.filter fun x => x.stage != .streamed && x.stage != .final).length < 2 →
      (entryOk e = false → Traps (.mma h acc z ta tb m1 f c) op 0x11 0 0 s) ∧
      (entryOk e = true → ∀ r t, operandReason k e ta tb m = some (r, t) →
        Traps (.mma h acc z ta tb m1 f c) op 0x30 (detail r t) 0 s) ∧
      (entryOk e = true → operandReason k e ta tb m = none → z = false → (k.acc[acc]).tag ≠ .empty →
        (k.acc[acc]).tag ≠ tagOf e → Traps (.mma h acc z ta tb m1 f c) op 0x30 (detail 8 ta) 0 s) ∧
      (entryOk e = true → operandReason k e ta tb m = none →
        z = true ∨ (k.acc[acc]).tag = .empty ∨ (k.acc[acc]).tag = tagOf e →
        ∃ (t : State) (x : MmaSt), exec (.mma h acc z ta tb m1 f c) s = .next t ∧ t.me.mmas = k.mmas ++ [x] ∧ x.acc = acc ∧ x.z = z ∧
          x.ta = ta ∧ x.tb = tb ∧ x.m = m ∧ x.entry = e ∧ (t.me.acc[acc]).tag = tagOf e ∧
          (t.me.acc[acc]).rc = (if z then m else max (k.acc[acc]).rc m) ∧ same t ∧
          (f.dr = false → t.me.drains.length = k.drains.length ∧ x.comp = c) ∧
          (f.dr = true → ∃ d : DrainSt, t.me.drains = k.drains ++ [d] ∧ drained d ∧ x.comp = compNone))) ∧
    (entryOk e = false → Traps (.drain h acc f c) op 0x11 0 0 s) ∧
    (entryOk e = true → (k.acc[acc]).tag ≠ .empty → (k.acc[acc]).tag ≠ tagOf e →
      Traps (.drain h acc f c) op 0x30 (detail 8 0) 0 s) ∧
    (entryOk e = true → (k.acc[acc]).tag = .empty ∨ (k.acc[acc]).tag = tagOf e →
      ∃ (t : State) (d : DrainSt), exec (.drain h acc f c) s = .next t ∧ t.me.drains = k.drains ++ [d] ∧ drained d ∧ t.me.acc = k.acc ∧
        t.me.mmas = k.mmas ∧ same t)

/-! ### Tasks -/

/-- R313 to R318, R23, R125: a staged record replaces the one before it; a record that fails a check of R318 is discarded with
its status; a new task's context is that of its image at cut 0, with the registers of its block, and loads before it runs. The
model's choice, log 26: the checks, the image and the register block are read in the rc of the dispatch. -/
def Claims.NewTasks : Prop :=
  ∀ (k : CoreId) (s : State),
    let c := s.core k
    (∀ r : BitVec 512, exec (.slotStage k r) s = .next (s.setCore k { c with staged := some (bindOf r) })) ∧
    (∀ y, c.task = some y → exec (.dispatch k) s = .next s) ∧
    (∀ b code, c.staged = some b → s.canDispatch k = true → s.bindCode k b = some code → b.part < 16 → b.table = false →
      b.kind ≠ 4 →
      exec (.dispatch k) s =
        .next ((s.setCore k { c with staged := none }).status (dieOf k) code b.part b.gang b.task 0 b.tag 0)) ∧
    (∀ (b : Bind) (x : Image) (r : List (BitVec 8)), c.staged = some b → s.canDispatch k = true → b.kind = 1 →
      s.bindCode k b = none →
      s.loadImage (dieOf k) b.pid b.image.toNat (lscap - 0x200000 * b.share) = .ok x → x.routes = [] →
      (s.memberships b.key).length ≤ 4 → s.vread (dieOf k) b.pid 2 b.regs.toNat 1024 = some r →
      ∃ (t : State) (y : TaskSt) (n : Nat), exec (.dispatch k) s = .next t ∧ (t.core k).task = some y ∧ y.part = b.pid ∧
        y.gang = b.gang ∧ y.idx = BitVec.ofNat 4 b.task ∧ y.tag = b.tag ∧ y.phase = .loading n ∧ s.rc < n ∧
        (t.core k).staged = none ∧ (t.core k).gen = 0 ∧ (t.core k).rgncnt = 0 ∧
        (t.core k).rgnmax = BitVec.ofNat 24 (max 0x400 b.rgnlimit) ∧ (t.core k).retrylim = BitVec.ofNat 4 b.retry ∧
        (t.core k).share = BitVec.ofNat 5 b.share ∧ (t.core k).mid = none ∧ (t.core k).members = s.memberships b.key ∧
        ∀ q : Fin 4, let u := (t.core k).sq q
          u.pc = BitVec.ofNat 48 (x.entries.getD q.val 0) ∧ (t.core k).cut.pcs[q] = u.pc ∧ u.live = [] ∧ u.pend = [] ∧
            u.arrival = none ∧ u.p = Vector.replicate 8 false ∧ u.b = Vector.replicate 4 0 ∧
            ∀ i : Fin 32, u.s[i] = if i = 0 then 0 else BitVec.ofNat 64 (leNat ((r.drop (256 * q.val + 8 * i.val)).take 8)))

/-- R114, R203, R207, R314, R317, R318, R330, R332, R364: a record that takes up a saved context. A restore (KIND 2) and a migration
(KIND 4) return the sequencers' counters, registers, predicates and loops, the cut and generation, PTS, the special registers, the
masks, the accumulators and the windows, with empty latches and nothing in flight, and take the v registers of the banks that are
not off and the tiles from the save area, which is used up. A node-boundary resume (KIND 3) returns the counters of the cut, K's s1
to s8, the generation and PTS, with the other registers from its register block and all else as at cut 0, and its record stands on
as the last node record. The model's choice, log 26: the checks and the memory are read in the rc of the dispatch. -/
def Claims.ReturningTasks : Prop :=
  ∀ (k : CoreId) (s : State) (b : Bind) (x : Image) (y : Saved),
    let c := s.core k
    let d := dieOf k
    let o := y.ctx
    let taken (t : State) : Prop := let u := t.core k
      (∃ (z : TaskSt) (n : Nat), u.task = some z ∧ z.part = b.pid ∧ z.gang = b.gang ∧ z.idx = BitVec.ofNat 4 b.task ∧ z.tag = b.tag ∧
        z.phase = .loading n ∧ s.rc < n) ∧
      u.staged = none ∧ u.rgncnt = 0 ∧ u.rgnmax = BitVec.ofNat 24 (max 0x400 b.rgnlimit) ∧ u.retrylim = BitVec.ofNat 4 b.retry ∧
      u.retrycnt = 0 ∧ u.share = BitVec.ofNat 5 b.share ∧ u.members = s.memberships b.key ∧ u.gen = o.gen ∧ u.pts = o.pts ∧
      u.seqid = o.seqid ∧ bvf u.touched d.val 1 = 1 ∧
      ∀ q, (u.sq q).b = Vector.replicate 4 0 ∧ (u.sq q).pend = [] ∧ (u.sq q).arrival = none
    c.staged = some b → s.canDispatch k = true → s.bindCode k b = none →
    s.loadImage d b.pid b.image.toNat (lscap - 0x200000 * b.share) = .ok x → x.routes = [] →
    (s.memberships b.key).length ≤ 4 → s.savedFor b = some y → s.saved = [y] →
    (∀ r, b.kind = 3 → s.vread d b.pid 2 b.regs.toNat 1024 = some r →
      ∃ t : State, exec (.dispatch k) s = .next t ∧ taken t ∧ t.saved = [{ y with depth := 0 }] ∧ let u := t.core k
        u.cut.pcs = o.cut.pcs ∧ u.cut.tag = o.cut.tag ∧ u.cut.gen = o.gen ∧ u.mid = none ∧ u.v = Vector.replicate 32 0 ∧
        u.m = Vector.replicate 8 0 ∧ u.acc = Core.reset.acc ∧ u.tiles = Core.reset.tiles ∧ u.tshape = Core.reset.tshape ∧
        ∀ q : Fin 4, (u.sq q).pc = o.cut.pcs[q] ∧ (u.sq q).live = [] ∧ (u.sq q).p = Vector.replicate 8 false ∧
          ∀ i : Fin 32, ((u.sq q).s)[i] = if i = 0 then 0 else if q = 0 ∧ i.val ≤ 8 then ((o.sq 0).s)[i] else
            BitVec.ofNat 64 (leNat ((r.drop (256 * q.val + 8 * i.val)).take 8))) ∧
    (b.kind = 2 ∨ b.kind = 4 →
      ∃ t : State, exec (.dispatch k) s = .next t ∧ taken t ∧ t.saved = [] ∧ let u := t.core k
        u.cut = o.cut ∧ (o.mid = none → u.mid = none) ∧ u.m = o.m ∧ u.vl = o.vl ∧ u.fmt = o.fmt ∧ u.tshape = o.tshape ∧
        u.abfttol = o.abfttol ∧ u.histp = o.histp ∧ u.fmterr = o.fmterr ∧ u.drainpos = o.drainpos ∧ u.clkdiv = o.clkdiv ∧
        u.wins = o.wins ∧
        (∀ a : Fin 4, (u.acc[a]).elem = (o.acc[a]).elem ∧ (u.acc[a]).tag = (o.acc[a]).tag ∧ (u.acc[a]).rc = (o.acc[a]).rc) ∧
        (∀ q : Fin 4, (u.sq q).pc = (o.sq q).pc ∧ (u.sq q).s = (o.sq q).s ∧ (u.sq q).p = (o.sq q).p ∧ (u.sq q).h = (o.sq q).h ∧
          (u.sq q).live = (o.sq q).live) ∧
        (∀ (i : Fin 8) (bs : List (BitVec 8)), s.vread d b.pid 2 (b.save.toNat + (0x24000 + 16384 * i.val)) 16384 = some bs →
          (u.tiles[i]).data = BitVec.ofNat 131072 (leNat bs)) ∧
        ∀ (r : Fin 32) (map bs : List (BitVec 8)), s.vread d b.pid 2 (b.save.toNat + 0x400) 65 = some map →
          s.vread d b.pid 2 (b.save.toNat + (0x2000 + 256 * r.val)) 256 = some bs →
          leNat map / 4 ^ (256 + r.val / 8) % 4 < 2 → u.v[r] = BitVec.ofNat 2048 (leNat bs))

/-- R23, R114, R125, R203, R207, R313 to R318, R330, R332, R364: the staging of records, their checks, and the contexts that new
tasks, restores, resumes and migrations begin with. The model's choice, log 26: the checks, the image, the register block and
the save area are read in the rc of the dispatch. -/
def Obligations.Dispatching : Prop := Claims.NewTasks ∧ Claims.ReturningTasks

/-- R317, R38, R40, R330, R360: a context that has loaded runs, with a region count of zero; one that has saved its last byte,
or whose migration path has, leaves a free core and a saved context; a migrating context is staged on its spare. The model's
choice, logs 22 and 23: a saved context stands whole beside its save area, and a context restored into a wait begins with that
wait. -/
def Claims.ContextMoves : Prop :=
  ∀ (k : CoreId) (s : State) (y : TaskSt),
    let c := s.core k
    (c.task = some y → ∀ n, y.phase = .loading n → n ≤ s.rc →
      ∃ t : State, exec (.contextLoadComplete k) s = .next t ∧ t.cores = s.cores.set k { c with
        task := some { y with phase := .running }, begun := c.mid.isSome, rgncnt := 0, preempt := c.preempt.map fun _ => 0 }) ∧
    (c.task = some y → ∀ n, y.phase = .loading n → s.rc < n → exec (.contextLoadComplete k) s = .next s) ∧
    (c.task = some y → ∀ n depth, y.phase = .saving n depth → n ≤ s.rc → c.copiesDone y = true → y.cancelled = none →
      ∃ (t : State) (x : Saved), exec (.saveComplete k) s = .next t ∧ (t.core k).task = none ∧ x ∈ t.saved ∧
        x.part = y.part ∧ x.gang = y.gang ∧ x.idx = y.idx ∧ x.save = y.save ∧ x.depth = depth ∧ x.migrating = false ∧
        x.ctx = c ∧ ∀ j, j ≠ k → t.core j = s.core j) ∧
    (c.task = some y → ∀ n, y.phase = .migrating n → n ≤ s.rc → c.copiesDone y = true → y.cancelled = none →
      ∃ (t : State) (x : Saved), exec (.migrationPathComplete k) s = .next t ∧ (t.core k).task = none ∧ x ∈ t.saved ∧
        x.part = y.part ∧ x.gang = y.gang ∧ x.idx = y.idx ∧ x.save = y.save ∧ x.depth = 2 ∧ x.migrating = true ∧
        x.ctx = c ∧ ∀ j, j ≠ k → t.core j = s.core j) ∧
    (∀ x, s.saved = [x] → s.unstaged x = true → s.spare x = some k → ∃ b : Bind,
      exec (.migrationStage x.part x.gang (Fin.ofNat 16 x.idx.toNat)) s = .next (s.setCore k { c with staged := some b }) ∧
        b.kind = 4 ∧ b.part = x.part.val ∧ b.gang = x.gang ∧ b.task = x.idx.toNat ∧ b.save = x.save ∧ b.image = x.image)

/-- R316, R317, R329, R40, R22, R353: the slot registers. A pre-emption request is noted, unless a cancel came in its rc; one
noted for a Held task begins a save at the end of the rc. A cancel of a running task waits for its rendezvous and drops a
request of its rc; one of a Held task aborts it; a staged record is removed; a resume with no request pending sets a held task
running, with its limits from PARTLIM. What a slot reads gives the task's state, whether a record is staged and a request
pending, and the partition. -/
def Claims.SlotRegisters : Prop :=
  ∀ (k : CoreId) (s : State) (y : TaskSt),
    let c := s.core k
    let lim := (s.die (dieOf k)).partlim[y.part]
    let noted := s.setCore k { c with
      preempt := some (c.preempt.getD 0), preAt := if c.preempt.isSome then c.preAt else s.rc + 1 }
    ((s.die (dieOf k)).lost = false → c.task = some y → y.phase = .running →
      (c.cancelAt ≠ s.rc + 1 → exec (.slotPreempt k) s = .next noted) ∧
      (c.cancelAt = s.rc + 1 → exec (.slotPreempt k) s = .next s) ∧
      (c.mid = none → exec (.slotCancela k) s = .next (s.setCore k { c with
        task := some { y with cancelled := some (y.cancelled.getD 2) }
        cancelAt := s.rc + 1
        preempt := if c.preAt = s.rc + 1 then none else c.preempt }))) ∧
    ((s.die (dieOf k)).lost = false → c.task = some y → y.phase = .held →
      (c.cancelAt ≠ s.rc + 1 → exec (.slotPreempt k) s = .next noted) ∧
      (c.preempt ≠ none → let t := s.settle k
        ∃ n, s.rc < n ∧ (t.core k).preempt = none ∧ (t.core k).task = some { y with phase := .saving n 2 } ∧
          (t.core k).cut = c.cut) ∧
      (∃ t : State, exec (.slotCancela k) s = .next t ∧ (t.core k).task = none ∧ (t.core k).members = []) ∧
      (c.preempt = none → exec (.slotResume k) s = .next (s.setCore k { c with
        task := some { y with phase := .running, cause := 0 }
        rgncnt := 0
        rgnmax := BitVec.ofNat 24 (max 0x400 (bvf lim 0 24))
        retrylim := BitVec.ofNat 4 (max 1 (bvf lim 24 4))
        report := none }))) ∧
    (c.task = some y → y.phase = .running → exec (.slotResume k) s = .next s) ∧
    (let v := s.slotRead k
     (c.task = none → bvf v 20 4 = 0 ∧ bvf v 12 4 = 0) ∧
     (c.task = some y → bvf v 12 4 = y.part.val ∧ (y.phase = .held → bvf v 20 4 = 2) ∧
       (y.phase = .running → bvf v 20 4 = if c.begun then 1 else 5) ∧
       (∀ n, y.phase = .loading n → bvf v 20 4 = 5) ∧ (∀ n d, y.phase = .saving n d → bvf v 20 4 = 3) ∧
       ∀ n, y.phase = .migrating n → bvf v 20 4 = 4) ∧
     bvf v 19 1 = c.staged.isSome.toNat ∧ bvf v 18 1 = c.preempt.isSome.toNat ∧ bvf v 0 12 = 0 ∧ bvf v 16 2 = 0 ∧ bvf v 24 8 = 0) ∧
    (∀ b, c.staged = some b → b.kind = 1 →
      ∃ t : State, exec (.slotCancels k) s = .next t ∧ t.cores = s.cores.set k { c with staged := none })

/-- R22, R38, R316, R317, R330, R360: how contexts load, save and move, and the slot registers. -/
def Obligations.ContextsAndSlots : Prop := Claims.ContextMoves ∧ Claims.SlotRegisters

/-! ### Regions -/

/-- R29 to R31, R84, R111, R112, R195, R295: a commit that is ready advances the generation and records the cut at the counters past
the arrivals; its flags are kept, and its arrivals are over. Outside a debug step it releases all the region's effects: each line
takes the region's timestamp and its tag, to be performed from this rc on, and its copies and launch records are the region's no
more. The moves to off that the region left pending, and those of C's drop mask, are to be made, and the signals of the arrivals of
COMMIT and SWPT to be raised. A HALT leaves the core free, with its released effects. -/
def Claims.CommitCompletes : Prop :=
  ∀ (k : CoreId) (s : State) (x : Fin 4 × Arrival) (rest : List (Fin 4 × Arrival)) (y : TaskSt),
    let c := s.core k
    let released (u : Core) : Prop :=
      (∃ ts, (∀ n, 0 < n → c.ts = .done n → ts = n) ∧ (c.ts = .idle → ts = c.pts) ∧
        (u.cb.map fun l => { l with at_ := 0 }) =
          c.cb.map fun l => if l.cur then { l with cur := false, ts := ts, tag := x.2.tag, at_ := 0 } else { l with at_ := 0 }) ∧
      (∀ l ∈ u.cb, l ∈ c.cb ∨ s.rc ≤ l.at_) ∧
      (u.lbuf = c.lbuf.map fun l => { l with cur := false }) ∧
      (∀ z : Fin 4, (u.chans[z].map fun m => (m.id, m.cur, m.regs)) = (c.chans[z]).map fun m => (m.id, false, m.regs))
    let ending (u : Core) : Prop :=
      (c.stepBase = none → released u) ∧
      (∀ n, n ∈ u.goOff ↔ (∃ b, (n, b) ∈ c.banks ∧ b.pendOff = true) ∨
        ∃ a, (c.sq 2).arrival = some a ∧ 256 ≤ n ∧ n < 260 ∧ bvf a.drop (n - 256) 1 = 1) ∧
      u.raise = c.raise ++ c.arrivals.flatMap fun a => match a.2.kind with
        | .commit => ringSigs a.1 a.2.ring
        | .swpt _ => ringSigs a.1 a.2.ring
        | _ => []
    c.ready = true → c.task = some y → y.phase = .running → c.held = false → c.preempt = none → c.explicit = x :: rest →
    ((∀ a ∈ c.arrivals, a.2.kind ≠ .halt) →
      ∃ t : State, exec (.commitComplete k) s = .next t ∧ let u := t.core k
        u.gen = c.gen + 1 ∧ u.cut.gen = c.gen + 1 ∧ u.cut.tag = x.2.tag ∧ u.cut.p = x.2.p ∧ u.task = c.task ∧
        u.fmterr = c.fmterr ||| c.fmtpend ∧ u.fmtpend = 0 ∧ u.retrycnt = 0 ∧ u.drainpos = 0 ∧ u.reads = [] ∧
        u.rgncnt = (if x.2.p then 0 else c.rgncnt) ∧ ending u ∧ u.stepBase = none ∧
        (∀ q : Fin 4, (u.sq q).arrival = none ∧ (u.sq q).s = (c.sq q).s ∧ (u.sq q).p = (c.sq q).p ∧ (u.sq q).h = (c.sq q).h ∧
          u.cut.pcs[q] = (u.sq q).pc) ∧
        (c.switches = false → ∀ q : Fin 4, (u.sq q).pc = (c.sq q).pc ∧ (u.sq q).live = (c.sq q).live) ∧
        (∀ (q : Fin 4) (l : List (BitVec 48)), (∀ j : Fin 4, j ≠ q → ∀ a, (c.sq j).arrival = some a → a.kind = .commit) →
          (c.sq q).arrival.map Arrival.kind = some (.swpt l) → ∀ j : Fin 4,
            (u.sq j).pc = l.getD (4 * c.level.toNat + j.val) 0 ∧ (u.sq j).live = []) ∧
        ∀ j, j ≠ k → t.core j = s.core j) ∧
    ((∃ a ∈ c.arrivals, a.2.kind = .halt) →
      ∃ (t : State) (f : Finishing), exec (.commitComplete k) s = .next t ∧ (t.core k).task = none ∧
        (t.core k).finishing = c.finishing ++ [f] ∧ f.part = y.part ∧ f.gang = y.gang ∧ f.idx = y.idx ∧ f.tag = y.tag ∧
        ending (t.core k))

/-- R306, R340, R345: the value of an atomic is written in the rc after it reaches the core, with commit B 22 rc after it;
commit B advances the generation at unchanged counters, raises the signals of the arrival's first word and offers those of its
second; a BAR whose release carried status 1
or 2 traps at the new cut with cause 0x71 or 0x72. -/
def Claims.CommitB : Prop :=
  ∀ (k : CoreId) (s : State) (m : Mid) (y : TaskSt),
    let c := s.core k
    c.mid = some m → c.task = some y → y.phase = .running →
    (∀ (w : AtomWait) (v : Word64) (n : Nat), m.wait = .inl w → m.doneAt = none → w.returned = some (v, n) → n ≤ s.rc →
      exec (.atomValueReturn k) s = .next (s.setCore k
        { c.modSeq m.seqr fun q => { q with pend := q.pend ++ [⟨c.nextId, .rc (s.rc + 1), destWr w.d 2 v, compNone⟩] } with
          nextId := c.nextId + 1, mid := some { m with doneAt := some (s.rc + 22) } })) ∧
    (∀ n, m.doneAt = some n → n ≤ s.rc → c.held = false → c.preempt = none → c.rolled = false →
      (m.trap = none → ∃ t : State, exec (.commitBComplete k) s = .next t ∧ let u := t.core k
        u.gen = c.gen + 1 ∧ u.cut.gen = c.gen + 1 ∧ u.cut.pcs = c.cut.pcs ∧ u.cut.tag = c.cut.tag ∧ u.cut.p = m.p ∧
        u.mid = none ∧ u.task = c.task ∧ u.raise = c.raise ++ ringSigs m.seqr m.ring ∧ u.offered = c.offered ++ compSigs m.seqr m.comp ∧
        u.retrycnt = 0 ∧ (∀ w st v, m.wait = .inr w → w.released = some (st, v) → u.pts = max c.pts v) ∧
        ∀ q, (u.sq q).s = (c.sq q).s ∧ (u.sq q).pc = (c.sq q).pc) ∧
      (∀ w st v, m.wait = .inr w → w.released = some (st, v) → w.status = false → st = 1 ∨ st = 2 →
        ∃ t : State, exec (.commitBComplete k) s = .next t ∧
          (t.core k).task = some { y with phase := .held, cause := BitVec.ofNat 8 (0x70 + st) } ∧
          (t.core k).gen = c.gen + 1 ∧ (t.core k).cut.gen = c.gen + 1))

/-- R29 to R31, R84, R111, R112, R195, R295, R306, R340, R345: the commit of a region, what it releases, and commit B of an
atomic or a barrier. -/
def Obligations.Commits : Prop := Claims.CommitCompletes ∧ Claims.CommitB

/-- R34, R38, R40, R101: a region whose count reaches its limit takes cause 0x05; a pre-emption pending as long rolls back
and saves; a completion signal raises its counter when it has room there and no other was granted in the rc. -/
def Obligations.RegionEvents : Prop :=
  ∀ (k : CoreId) (x : Fin 8) (s : State) (y : TaskSt),
    let c := s.core k
    (c.task = some y → y.phase = .running → c.rolled = false → c.allArrived = false → c.detected = [] → c.mid = none →
      (c.rgnmax.toNat ≤ c.rgncnt.toNat → c.preempt = none → ∃ t : State, exec (.regionWatchdog k) s = .next t ∧
        (t.core k).task = some { y with phase := .held, cause := 5 } ∧ (t.core k).cut = c.cut ∧ (t.core k).gen = c.gen ∧
        ∀ q : Fin 4, ((t.core k).sq q).pc = c.cut.pcs[q]) ∧
      (c.rgncnt.toNat < c.rgnmax.toNat → exec (.regionWatchdog k) s = .next s) ∧
      (c.rgncnt.toNat < c.rgnmax.toNat → ∀ n, c.preempt = some n → c.rgnmax.toNat ≤ n →
        ∃ (t : State) (e : Nat), exec (.preemptionOverdue k) s = .next t ∧ s.rc < e ∧
          (t.core k).task = some { y with phase := .saving e 2 } ∧ (t.core k).preempt = none ∧
          (t.core k).cut = c.cut ∧ ∀ q : Fin 4, ((t.core k).sq q).pc = c.cut.pcs[q])) ∧
    (x ∈ c.offered → c.signalled[x] = false → c.sigRoom [] x = true → exec (.completionSignal k x) s = .next (s.setCore k
      { c with offered := c.offered.erase x, tok := c.tok.set x (c.tok[x] + 1), signalled := c.signalled.set x true })) ∧
    (c.signalled[x] = true → exec (.completionSignal k x) s = .next s)

/-- R130, R169, R47, R144, R168: a result that is due is written to its destinations: s0, p0 and m0 keep their values, a
vector or mask write leaves the lanes not in effect, an entry of a queue is filled at its place; its flight ends and its
signals are offered. -/
def Obligations.ResultDelivery : Prop :=
  ∀ (k : CoreId) (q : Fin 4) (s : State) (y : Pend),
    let c := s.core k
    (c.sq q).pend = [y] → c.dueNow s.rc y = true →
    ∃ t : State, exec (.resultDue k q y.id) s = .next t ∧ let u := t.core k
      (u.sq q).pend = [] ∧ u.offered = c.offered ++ compSigs q y.comp ∧ (if q = 2 then u.lastVec else u.lastResult) = s.rc ∧
      (∀ j, j ≠ q → u.sq j = c.sq j) ∧ (∀ j, j ≠ k → t.core j = s.core j) ∧ t.mem = s.mem ∧
      (∀ (r : Fin 32) (b : Fin 4) (v : Word64), y.writes = destWr (.reg r) b v →
        (u.sq q).s = (if r = 0 then (c.sq q).s else (c.sq q).s.set r v) ∧ (u.sq q).b = (c.sq q).b.set b (v.setWidth 2048) ∧
        (u.sq q).p = (c.sq q).p ∧ u.v = c.v ∧ u.m = c.m ∧ u.q = c.q) ∧
      (∀ (b : Fin 4) (v : Word64), y.writes = destWr .latch b v → (u.sq q).s = (c.sq q).s ∧
        (u.sq q).b = (c.sq q).b.set b (v.setWidth 2048)) ∧
      (∀ p v, y.writes = [.pred p v] → (u.sq q).p = (if p = 0 then (c.sq q).p else (c.sq q).p.set p v) ∧
        (u.sq q).s = (c.sq q).s ∧ (u.sq q).b = (c.sq q).b) ∧
      (∀ (r : Fin 32) (b : Fin 4) (bits v : VWord) (f : FFlags), y.writes = vecWr (.reg r) b bits v f →
        (∀ i : Fin 2048, (u.v[r]).getLsbD i = if bits.getLsbD i then v.getLsbD i else (c.v[r]).getLsbD i) ∧
        (∀ j : Fin 32, j ≠ r → u.v[j] = c.v[j]) ∧ ((u.sq q).b[b]) = v &&& bits ∧ u.fmtpend = c.fmtpend ||| f.bits ∧
        u.fmterr = c.fmterr ∧ (u.sq q).s = (c.sq q).s) ∧
      (∀ (m : Fin 8) (l v : BitVec 64), y.writes = [.mask m l v] →
        u.m = (if m = 0 then c.m else c.m.set m ((v &&& l) ||| (c.m[m] &&& ~~~l)))) ∧
      (∀ (x : Fin 8) (place : Nat) (v : VWord), y.writes = [.entry x place v] → (c.q[x]).popped ≤ place →
        place < (c.q[x]).popped + (c.q[x]).ents.length →
        (u.q[x]).ents = (c.q[x]).ents.set (place - (c.q[x]).popped) (.filled v) ∧ ∀ j : Fin 8, j ≠ x → u.q[j] = c.q[j])

/-- R34, R36, R32, R355: taking a trap: the report is kept, the core goes back to its cut with empty latches, queues and
counters, the task is Held with the cause, and every region-made line, copy and launch is discarded. Every other core is as it
was, but that the waits of the core's dropped work are gone from its banks. A core that has rolled back in this rc takes none. -/
def Obligations.TakingATrap : Prop :=
  ∀ (k : CoreId) (s : State) (r : Rep) (y : TaskSt),
    let c := s.core k
    c.task = some y →
    (c.rolled = true → s.takeTrap k r = s) ∧
    (c.rolled = false → let u := (s.takeTrap k r).core k
      u.task = some { y with phase := .held, cause := BitVec.ofNat 8 r.cause } ∧ u.report = some (c.record k r) ∧ u.trapped = [c.record k r] ∧
      u.rolled = true ∧ u.cut = c.cut ∧ u.gen = c.gen ∧ u.v = c.v ∧ u.m = c.m ∧ u.tok = Vector.replicate 8 0 ∧
      (∀ x : Fin 8, (u.q[x]).ents = []) ∧ u.fmterr = c.fmterr ∧ u.fmtpend = 0 ∧ u.stores = [] ∧ u.loads = [] ∧
      u.cb = c.cb.filter (fun l => !l.cur) ∧ u.lbuf = c.lbuf.filter (fun l => !l.cur) ∧
      (∀ x : Fin 4, u.chans[x] = (c.chans[x]).filter fun m => !m.cur) ∧
      (∀ q : Fin 4, (u.sq q).pc = c.cut.pcs[q] ∧ (u.sq q).h = c.cut.loops[q] ∧ (u.sq q).live = c.cut.lives[q] ∧
        (u.sq q).s = (c.sq q).s ∧ (u.sq q).b = Vector.replicate 4 0 ∧ (u.sq q).pend = [] ∧ (u.sq q).arrival = none) ∧
      (∀ a, u.mem.read a = c.mem.read a) ∧
      ∀ j, j ≠ k → let d := (s.takeTrap k r).core j
        d = { s.core j with banks := d.banks } ∧
        ∀ b, ∃ w, (d.bank b) = { (s.core j).bank b with waiters := w } ∧ ∀ z ∈ w, z ∈ ((s.core j).bank b).waiters)

/-! ### Banks, tiles, the matrix array and drains -/

/-- R187, R197, R204, R214: a wake that has ended leaves a full bank; the census counts the banks of every core of a die that
is not retired; a tile whose load has placed its bytes is ready in its cycle. The model's choice, log 8: the capacity of the
census's cores. -/
def Obligations.BanksAndTiles : Prop :=
  ∀ (k : CoreId) (b : Fin 260) (d : Fin 2) (x : Fin 8) (s : State),
    let c := s.core k
    (∀ n, (c.bank b.val).wakeEnd = some n → n < s.rc → c.wakeq = [] → ∃ t : State, exec (.wakeEnd k b) s = .next t ∧
      ((t.core k).bank b.val).state = .full ∧ ((t.core k).bank b.val).wakeEnd = none ∧
      ((t.core k).bank b.val).waiters = (c.bank b.val).waiters ∧ (t.core k).mem = c.mem ∧ (t.core k).v = c.v ∧
      ∀ j, j ≠ b.val → (t.core k).bank j = c.bank j) ∧
    (∀ n, (c.bank b.val).wakeEnd = some n → s.rc ≤ n → exec (.wakeEnd k b) s = .next s) ∧
    (∃ t : State, exec (.bankCensus d) s = .next t ∧ t.cores = s.cores ∧ t.mem = s.mem ∧
      ∀ (j : CoreId) (f r : Nat), (j, f, r) ∈ (t.die d).census ↔ dieOf j = d ∧ (s.core j).retired = false ∧
        f = ((List.range 260).filter fun n => ((s.core j).bank n).state == .full || ((s.core j).bank n).state == .waking).length ∧
        r = ((List.range 260).filter fun n => ((s.core j).bank n).state == .retention).length) ∧
    (∀ l, c.tloads = [l] → l.tile = x → l.n ≤ l.pos → l.ready ≤ (c.clk .control).cyc →
      exec (.tileReady k x) s = .next (s.setCore k { c with
        tiles := c.tiles.set x { c.tiles[x] with fills := (c.tiles[x]).fills - 1 }
        tloads := []
        offered := c.offered ++ compSigs 1 l.comp
        lastResult := s.rc }))

/-- R215, R216, R220, R90, R91: the stages of an MMA that has the array: 24 cycles of B load, the A stream, and 98 cycles to
its results. An INT32 result is the old element plus the exact dot product of its rows, modulo 2^32, an FP32 one the old
element with each group of eight products added and rounded; rows past M stay. -/
def Claims.MatrixStages : Prop :=
  ∀ (k : CoreId) (s : State) (x : MmaSt),
    let c := s.core k
    let u := (c.clk .matrix).cyc
    let e := x.entry
    c.mmas = [x] → x.at_ ≤ u →
    (x.stage = .waitB → exec (.mmaBLoadStart k x.id) s = .next (s.setCore k { c with
      mmas := [{ x with stage := .loadB, at_ := u + 24 }] })) ∧
    (x.stage = .loadB → exec (.mmaBLoadEnd k x.id) s = .next (s.setCore k { c with
      mmas := [{ x with stage := .waitA, at_ := u }]
      tiles := c.tiles.set x.tb { c.tiles[x.tb] with reads := (c.tiles[x.tb]).reads - 1 }
      slots := c.slots.set (slotIx x.slot) (c.tiles[x.tb]).data })) ∧
    (x.stage = .waitA → exec (.mmaAStreamStart k x.id) s = .next (s.setCore k { c with
      mmas := [{ x with stage := .streamA, at_ := u + passT e }] })) ∧
    (x.stage = .streamA → ∃ t : State, exec (.mmaAStreamEnd k x.id) s = .next t ∧
      (t.core k).mmas = [{ x with
        stage := .streamed
        at_ := x.at_ + 98
        adata := (c.tiles[x.ta + 1]).data ++ (c.tiles[x.ta]).data
        bdata := c.slots[slotIx x.slot] }] ∧
      ((t.core k).tiles[x.ta]).reads = (c.tiles[x.ta]).reads - 1 ∧ (t.core k).acc = c.acc) ∧
    (x.stage = .streamed → x.m ≤ 64 → ∃ t : State, exec (.mmaResultsFinal k x.id) s = .next t ∧
      (t.core k).mmas = [{ x with stage := .final, at_ := x.at_ + 1 }] ∧ (t.core k).lastVec = s.rc ∧
      (t.core k).offered = c.offered ++ compSigs 2 x.comp ∧ (∀ a : Fin 4, a ≠ x.acc → (t.core k).acc[a] = c.acc[a]) ∧
      let old (i j : Nat) : Nat := if x.z then 0 else elemOf (c.acc[x.acc]).elem 32 (96 * i + j)
      let new (i j : Nat) : Nat := elemOf ((t.core k).acc[x.acc]).elem 32 (96 * i + j)
      (∀ i j, x.m ≤ i → i < 64 → j < 96 → new i j = old i j) ∧
      (tagOf e = .int32 → ∀ i j, i < x.m → j < 96 →
        let a (n : Nat) : Int := (readFmt (entFmt e 0) (x.aRow i / 2 ^ (fmtWidth (entFmt e 0) * n) % 2 ^ fmtWidth (entFmt e 0))).1.toInt
        let b (n : Nat) : Int := (readFmt (entFmt e 4) (x.bRow j / 2 ^ (fmtWidth (entFmt e 4) * n) % 2 ^ fmtWidth (entFmt e 4))).1.toInt
        new i j = (((old i j : Int) + ((List.range (passK e)).map fun n => a n * b n).sum) % 2 ^ 32).toNat) ∧
      (tagOf e ≠ .int32 → ∀ i j, i < x.m → j < 96 →
        let sc : Bool := bvf e 16 2 == 1
        new i j = (floatPass (old i j) 8 (floatRow (entFmt e 0) sc (x.aRow i)).1 (floatRow (entFmt e 4) sc (x.bRow j)).1
          FFlags.none).1 % 2 ^ 32)) ∧
    (x.stage = .final → exec (.mmaResultsFinal k x.id) s = .next (s.setCore k { c with
      mmas := [], eng := c.eng.set 0 (c.eng[(0 : Fin 8)] + 1), lastVec := s.rc }))

/-- R220: what an MMA adds to its accumulator's checksums, when its results are final. With sA the sum of the rows of A below M and
sB that of all rows of B, exact, CR[j] takes the pass of sA and B[j], CC[i], for i below M, that of A[i] and sB, and the corner that
of sA and sB: for INT32 the dot product modulo 2^32, for FP32 the groups of eight of a cell. CC of the rows from M on stays. -/
def Claims.Checksums : Prop :=
  ∀ (k : CoreId) (s : State) (x : MmaSt),
    let c := s.core k
    let e := x.entry
    let old := c.acc[x.acc]
    let was (n : Nat) : Nat := if x.z then 0 else n
    c.mmas = [x] → x.at_ ≤ (c.clk .matrix).cyc → x.stage = .streamed → x.m ≤ 64 →
    ∃ t : State, exec (.mmaResultsFinal k x.id) s = .next t ∧ let new := (t.core k).acc[x.acc]
      let row (j v : Nat) : Prop := elemOf new.cr 32 j = v % 2 ^ 32
      let column (i v : Nat) : Prop := elemOf new.cc 32 i = v % 2 ^ 32
      (∀ i, x.m ≤ i → i < 64 → column i (was (elemOf old.cc 32 i))) ∧
      (tagOf e = .int32 →
        let a (i n : Nat) : Int := (readFmt (entFmt e 0) (x.aRow i / 2 ^ (fmtWidth (entFmt e 0) * n) % 2 ^ fmtWidth (entFmt e 0))).1.toInt
        let b (j n : Nat) : Int := (readFmt (entFmt e 4) (x.bRow j / 2 ^ (fmtWidth (entFmt e 4) * n) % 2 ^ fmtWidth (entFmt e 4))).1.toInt
        let sa (n : Nat) : Int := ((List.range x.m).map fun i => a i n).sum
        let sb (n : Nat) : Int := ((List.range 96).map fun j => b j n).sum
        let pass (n : Nat) (p q : Nat → Int) : Nat :=
          ((((was n : Nat) : Int) + ((List.range (passK e)).map fun i => p i * q i).sum) % 2 ^ 32).toNat
        (∀ j, j < 96 → row j (pass (elemOf old.cr 32 j) sa (b j))) ∧
        (∀ i, i < x.m → column i (pass (elemOf old.cc 32 i) (a i) sb)) ∧ new.corner.toNat = pass old.corner.toNat sa sb) ∧
      (tagOf e ≠ .int32 →
        let a (i : Nat) : List FVal := (floatRow (entFmt e 0) (bvf e 16 2 == 1) (x.aRow i)).1
        let b (j : Nat) : List FVal := (floatRow (entFmt e 4) (bvf e 16 2 == 1) (x.bRow j)).1
        let sum (l : List FVal) : FVal := match l with
          | [] => .fin false 0 0
          | v :: l => l.foldl (fun p q => (addF .rne p q).1) v
        let sums (n : Nat) (f : Nat → List FVal) : List FVal :=
          (List.range 64).map fun i => sum ((List.range n).map fun j => (f j).getD i .nan)
        let pass (n : Nat) (p q : List FVal) : Nat := (floatPass (was n) 8 p q FFlags.none).1
        (∀ j, j < 96 → row j (pass (elemOf old.cr 32 j) (sums x.m a) (b j))) ∧
        (∀ i, i < x.m → column i (pass (elemOf old.cc 32 i) (a i) (sums 96 b))) ∧
        new.corner.toNat = pass old.corner.toNat (sums x.m a) (sums 96 b) % 2 ^ 32)

/-- R221, R352, R35: a check is of the accumulator as its last element left it. A clean one clears the written-since-drain
flag, unless an MMA has set it since; a mismatch is a detected error, which within RETRYLIM replays the region from its cut
with the retry counter advanced, in place of a trap of the same rc. The model's reading, log 32: the detected error wins
whichever of the two comes first in the rc. -/
def Claims.ChecksFinal : Prop :=
  ∀ (k : CoreId) (a : Fin 4) (s : State) (x : CheckSt),
    let c := s.core k
    c.checks = [x] → x.acc = a → x.final ≤ (c.clk .matrix).cyc →
    (x.of_.mismatch c.abfttol.toNat = false → exec (.abftCheckFinal k a) s = .next (s.setCore k { c with
      checks := []
      lastVec := if c.rolled then c.lastVec else s.rc
      acc := if x.keep then c.acc else c.acc.set a { c.acc[a] with dirty := false } })) ∧
    (x.of_.mismatch c.abfttol.toNat = true → c.retrycnt.toNat + 1 ≤ c.retrylim.toNat →
      ∃ t : State, exec (.abftCheckFinal k a) s = .next t ∧ (t.core k).retrycnt = c.retrycnt + 1 ∧
        (t.core k).task = (if c.trapped = [] then c.task else c.task.map fun y => { y with phase := .running, cause := 0 }) ∧
        (t.core k).trapped = [] ∧ (t.core k).rolled = true ∧ (t.core k).gen = c.gen ∧ (t.core k).cut = c.cut ∧
        (∀ q : Fin 4, ((t.core k).sq q).pc = c.cut.pcs[q]) ∧ (x.byDrain = true → bvf (t.core k).drainpos 63 1 = 1))

/-- R210, R215 to R217, R220, R221: the stages of an MMA, its checksums, and its checks. -/
def Obligations.MatrixEngine : Prop := Claims.MatrixStages ∧ Claims.Checksums ∧ Claims.ChecksFinal

/-- R239, R227, R228, R241: a waiting drain starts on a free path at an edge of its clock, with the row count captured; an
undecodable program is a trap of cause 0x13 instead. -/
def Claims.DrainStarts : Prop :=
  ∀ (k : CoreId) (s : State) (d : DrainSt) (y : TaskSt),
    let c := s.core k
    c.drains = [d] → d.running = false → (c.clk .matrix).edge = true → c.mmas = [] →
    (∀ os, decodeProg (c.drainWords d.prog) = some os → (∀ o ∈ os, o.isLut = false) →
      ∃ (t : State) (e : DrainSt), exec (.drainStart k) s = .next t ∧ (t.core k).drains = [e] ∧ e.running = true ∧
        e.waiting = false ∧ e.first = (c.clk .matrix).cyc ∧ e.rows = (c.acc[d.acc]).rc ∧ e.words = c.drainWords d.prog ∧ e.histH = c.histp.toNat ∧
        e.done = d.done ∧ e.params = d.params ∧ e.win = d.win ∧ (t.core k).acc = c.acc ∧ (t.core k).mem = c.mem) ∧
    (decodeProg (c.drainWords d.prog) = none → c.task = some y → c.rolled = false →
      ∃ t : State, exec (.drainStart k) s = .next t ∧ (t.core k).drains = [] ∧
        (t.core k).task = some { y with phase := .held, cause := 0x13 } ∧ (t.core k).drainpos =
          BitVec.ofNat 64 (2 ^ 63 + d.acc.val * 2 ^ 61 + d.prog.val * 2 ^ 55 + d.winNo.val * 2 ^ 53 + 3 * 2 ^ 50))

/-- R226, R228, R229, R230: an element begins with its accumulator's element in d0 and zeros in d1 to d7. A word writes dD
alone, and raises its own flags: arithmetic on INT32, wrapping, or on FP32, rounded once under RNE; a move; and the four loads
of parameters. -/
def Claims.DrainArithmetic : Prop :=
  ∀ (env : DEnv) (i j : Nat) (sc : Flagged Nat) (r : DRun) (d a b : Fin 8),
    let start := env.start i j
    let x := r.regs[a]
    let y := r.regs[b]
    let z := r.regs[d]
    let int (n : Nat) : Int := (BitVec.ofNat 32 n).toInt
    let dec (n : Nat) : FVal := decodeF .fp32 n
    let puts (o : DOp) (v : Flagged Nat) : Prop := let u := o.run env i j sc r
      u.regs = r.regs.set d v.1 ∧ u.stores = r.stores ∧ u.flags = r.flags.or v.2
    let whole (o : DArith) (v : Int) : Prop := puts (.arith o false d a b) ((BitVec.ofInt 32 v).toNat, FFlags.none)
    let rounded (o : DArith) (v : FVal × Bool) : Prop := let p := roundF .fp32 .rne false v.1
      puts (.arith o true d a b) (p.1, p.2.or (FFlags.ofInv v.2))
    start.regs = (Vector.replicate 8 0).set 0 (elemOf env.elem 32 (96 * i + j)) ∧ start.stores = [] ∧ start.flags = FFlags.none ∧
    ((∀ n : Fin 8, r.regs[n] < 2 ^ 32) →
      DOp.nop.run env i j sc r = r ∧ puts (.mov d a) (x, FFlags.none) ∧
      whole .add (int x + int y) ∧ whole .mul (int x * int y) ∧ whole .fma (int x * int y + int z) ∧
      whole .max (max (int x) (int y)) ∧ whole .min (min (int x) (int y)) ∧
      rounded .add (addF .rne (dec x) (dec y)) ∧ rounded .mul (mulF (dec x) (dec y)) ∧
      rounded .fma (let p := mulF (dec x) (dec y)
        let q := addF .rne p.1 (dec z)
        (q.1, p.2 || q.2)) ∧
      puts (.arith .max true d a b) (minmaxF .fp32 true x y, FFlags.none) ∧
      puts (.arith .min true d a b) (minmaxF .fp32 false x y, FFlags.none) ∧
      (∀ n v, alGet env.params (n + j / 64) 0 = v → puts (.ldpCol d n) (elemOf v 32 (j % 64), FFlags.none)) ∧
      (∀ n v, alGet env.params n 0 = v → puts (.ldpRow d n) (elemOf v 32 i, FFlags.none)) ∧
      ∀ n, n < 2 ^ 16 → puts (.ldpH d n) ((roundF .fp32 .rne false (decodeF .fp16 n)).1, FFlags.none) ∧
        puts (.ldpI d n) ((BitVec.ofInt 32 (BitVec.ofNat 16 n).toInt).toNat, FFlags.none))

/-- R231, R232: the words that change precision. DCVT converts the low bits of dA (T2 is no destination, R79); DSHR writes the
integer that its mode gives for dA over 2^k; DSAT clamps to the format's width, with SATD where it does; DBSC writes the
rounding of dA over the scale in dB, and for a NaN of either the canonical NaN with INV, and SCLBAD for the scale's. -/
def Claims.DrainPrecision : Prop :=
  ∀ (env : DEnv) (i j : Nat) (sc : Flagged Nat) (r : DRun) (d a b : Fin 8),
    let x := r.regs[a]
    let y := r.regs[b]
    let v : Int := (BitVec.ofNat 32 x).toInt
    let puts (o : DOp) (v : Flagged Nat) : Prop := let u := o.run env i j sc r
      u.regs = r.regs.set d v.1 ∧ u.stores = r.stores ∧ u.flags = r.flags.or v.2
    (∀ n : Fin 8, r.regs[n] < 2 ^ 32) →
    (∀ src dst rm sat, dst ≠ .t2 → let p := convertFmt src dst rm sat (x % 2 ^ fmtWidth src)
      puts (.cvt d a src dst rm sat) (p.1 % 2 ^ fmtWidth dst, p.2)) ∧
    (∀ (k : Nat) (rm : RMode), ∃ q : Int, puts (.shr d a k rm) ((BitVec.ofInt 32 q).toNat, FFlags.none) ∧
      let off := 2 * (v - 2 ^ k * q)
      match rm with
      | .rne => |off| ≤ 2 ^ k ∧ (|off| = 2 ^ k → q % 2 = 0)
      | .rtz => 2 ^ k * |q| ≤ |v| ∧ |v| < 2 ^ k * (|q| + 1) ∧ 0 ≤ v * q
      | .rdn => 2 ^ k * q ≤ v ∧ v < 2 ^ k * (q + 1)
      | .rup => 2 ^ k * (q - 1) < v ∧ v ≤ 2 ^ k * q
      | .rna => |off| ≤ 2 ^ k ∧ (|off| = 2 ^ k → |v| < 2 ^ k * |q|)) ∧
    (∀ n, 0 < n → n ≤ 32 → let q := max (-2 ^ (n - 1)) (min (2 ^ (n - 1) - 1) v)
      puts (.sat d a n) ((BitVec.ofInt 32 q).toNat, FFlags.ofSatd (decide (v ≠ q)))) ∧
    ∃ q, puts (.bsc d a b) q ∧
      (decodeScale (y % 2 ^ 16) = .nan → q = (0x7FC00000, { FFlags.none with inv := true, sclbad := true })) ∧
      ∀ p g, decodeScale (y % 2 ^ 16) = .fin false p g →
        (decodeF .fp32 x = .nan → q = (0x7FC00000, FFlags.ofInv true)) ∧
        (∀ n, decodeF .fp32 x = .inf n → q = (x, FFlags.none)) ∧
        (∀ n e, decodeF .fp32 x = .fin n 0 e → q = (x, FFlags.none)) ∧
        ∀ n m e, decodeF .fp32 x = .fin n m e → m ≠ 0 →
          let times (u : Nat) (h : Int) : Nat := u * p * 2 ^ (h + g - e).toNat
          let whole (h : Int) : Nat := m * 2 ^ (e - h - g).toNat
          Claims.Rounds .fp32 .rne n (fun u h => times u h ≤ whole h) (fun u h => whole h ≤ times u h) q

/-- R233: DLUT. With u the rounded (dA − X0) × INVSTEP, a NaN gives the canonical NaN and INV; otherwise u is held to 0 to 61, k is
its whole part but at most 60, f the exact rest, and the result y[k] + f × (y[k+1] − y[k]), each step rounded. -/
def Claims.DrainLookup : Prop :=
  ∀ (env : DEnv) (i j n : Nat) (sc : Flagged Nat) (r : DRun) (d a : Fin 8) (tab : VWord),
    (∀ n : Fin 8, r.regs[n] < 2 ^ 32) → alGet env.tables n 0 = tab →
    let dec (n : Nat) : FVal := decodeF .fp32 n
    let rnd (v : FVal × Bool) : Flagged Nat := let p := roundF .fp32 .rne false v.1
      (p.1, p.2.or (FFlags.ofInv v.2))
    let whole (k : Nat) : FVal := .fin false k 0
    let far := addF .rne (dec r.regs[a]) (negF (dec (elemOf tab 32 0)))
    let steps := mulF far.1 (dec (elemOf tab 32 1))
    let u := rnd (steps.1, far.2 || steps.2)
    let y (k : Nat) : Nat := elemOf tab 32 (2 + k)
    let puts (v : Flagged Nat) : Prop := let t := (DOp.lut d a n).run env i j sc r
      t.regs = r.regs.set d v.1 ∧ t.stores = r.stores ∧ t.flags = r.flags.or v.2
    (dec u.1 = .nan → puts (0x7FC00000, FFlags.ofInv true)) ∧
    (dec u.1 ≠ .nan → ∃ (held : FVal) (k : Nat),
      held = (if ltF (whole 0) (dec u.1) then (if ltF (whole 61) (dec u.1) then whole 61 else dec u.1) else whole 0) ∧
      k ≤ 60 ∧ ltF held (whole k) = false ∧ (k < 60 → ltF held (whole (k + 1)) = true) ∧
      let rise := rnd (addF .rne (dec (y (k + 1))) (negF (dec (y k))))
      let part := rnd (mulF (addF .rne held (negF (whole k))).1 (dec rise.1))
      let sum := rnd (addF .rne (dec (y k)) (dec part.1))
      puts (sum.1, ((u.2.or rise.2).or part.2).or sum.2))

/-- R234, R96: DHIST writes its block's scale, which is that of the 32 values that the block's elements hold in its dA when they
come to it. A value that is not finite makes the scale NaN with SCLBAD; values that are all zero make it one; otherwise, of the
n exponents of the values that are not zero, the k-th smallest is taken, k the percentile of n but at least one, with the
smallest quarter that the significands of that exponent do not exceed. -/
def Claims.HistogramScale : Prop :=
  (∀ (env : DEnv) (i j : Nat) (r : DRun) (d a : Fin 8) (pre post : List DOp),
    let os := pre ++ .hist d a :: post
    let scale := blockScale os env i j
    let held (c : Nat) : Nat :=
      (pre.foldl (fun r o => o.run env i (j / 32 * 32 + c) (0, FFlags.none) r) (env.start i (j / 32 * 32 + c))).regs[a]
    (∀ o ∈ pre, o.isHist = false) → scale = histScale env.hist env.emax ((List.range 32).map held) ∧
      let u := (DOp.hist d a).run env i j scale r
      u.regs = r.regs.set d (scale.1 % 2 ^ 32) ∧ u.stores = r.stores ∧ u.flags = r.flags.or scale.2) ∧
  ∀ (h : Nat) (emax : Int) (xs : List Nat),
    let r := histScale h emax xs
    let exOf (x : Nat) : Option Int := match decodeF .fp32 x with
      | .fin _ m d => if m = 0 then none else some (d + (Nat.log2 m : Int))
      | .nan => none
      | .inf _ => none
    let finite (x : Nat) : Prop := ∃ n m d, decodeF .fp32 x = .fin n m d
    let es := xs.filterMap exOf
    ((∃ x ∈ xs, ¬finite x) → r = (0x03FC, FFlags.ofSclbad true)) ∧
    ((∀ x ∈ xs, finite x) → es = [] → r = (0x01FC, FFlags.none)) ∧
    ((∀ x ∈ xs, finite x) → ∀ (e : Int) (q : Nat), e ∈ es →
      let k := max 1 ((h * es.length + 255) / 256)
      let exceeds (x quarters : Nat) : Prop :=
        ∃ n m d, decodeF .fp32 x = .fin n m d ∧ exOf x = some e ∧ quarters * 2 ^ Nat.log2 m < 4 * m
      (es.filter fun y => decide (y < e)).length < k → k ≤ (es.filter fun y => decide (y ≤ e)).length →
      4 ≤ q → q ≤ 8 → (∀ x ∈ xs, ¬exceeds x q) → (4 < q → ∃ x ∈ xs, exceeds x (q - 1)) →
      let at_ := (if q = 8 then e + 1 else e) - emax + 127
      r = if at_ < 0 then (0, FFlags.none) else if 254 < at_ then (0x03FB, { FFlags.none with ovf := true })
        else (at_.toNat * 4 + (if q = 8 then 0 else q - 4), FFlags.none))

/-- R236, R237: the stores of an element are listed in program order. DSTW's offset in its window is a row's stride for each row
and the element's width for each column; E8M2 stores the first column of each block alone, in the last eight bytes of the row.
-/
def Claims.DrainPlaces : Prop :=
  ∀ (env : DEnv) (i j n : Nat) (sc : Flagged Nat) (r : DRun) (a q : Fin 8) (f : Fmt) (w : WinSt),
    let lists (o : DOp) (x : DStore) : Prop := o.run env i j sc r = { r with stores := r.stores ++ [x] }
    lists (.stv a n) (.stv n r.regs[a]) ∧ lists (.stq a q) (.stq q r.regs[a]) ∧ lists (.stw a f) (.stw f r.regs[a]) ∧
    (f ≠ .e8m2 → dstwOff w f i j = some ((i * w.stride + j * (fmtWidth f / 8) : Nat) : Int)) ∧
    (f = .e8m2 → (j % 32 = 0 → dstwOff w f i j = some ((i * w.stride + w.stride : Nat) - 8 + 2 * ((j / 32 : Nat) : Int))) ∧
      (j % 32 ≠ 0 → dstwOff w f i j = none))

/-- R226, R236 to R238: the element at a running drain's cursor, when it is due, is run through the program, and its one
store is performed: a word of the drain window, a lane of a vector register, or a lane of a queue entry, reserved at its first lane
and filled after its last; the cursor moves on, and the drain of the last element is finished. -/
def Claims.DrainElements : Prop :=
  ∀ (k : CoreId) (s : State) (d : DrainSt),
    let c := s.core k
    let e := d.done
    let i := e / 96
    let j := e % 96
    let r := runElem (progOf d.words) (c.drainEnv d) i j
    c.drains = [d] → d.running = true → d.finished = false → d.skip = 0 → d.restart = false → e < 96 * d.rows →
    s.elemDue k d = true → c.mem.wf = true →
    (∀ (f : Fmt) (v : Nat) (w : WinSt) (o : Nat), r.stores = [.stw f v] → d.win = some w → dstwOff w f i j = some (o : Int) →
      let n := fmtWidth f / 8
      0 < n → o + n ≤ w.len → (∀ b, (w.base + o) / 131072 ≤ b → b ≤ (w.base + o + n - 1) / 131072 → (c.bank b).state = .full) →
      ∃ (t : State) (g : DrainSt), exec (.drainElement k) s = .next t ∧ (t.core k).drains = [g] ∧ g.done = e + 1 ∧
        g.finished = decide (e + 1 = 96 * d.rows) ∧ (t.core k).v = c.v ∧
        (t.core k).fmtpend = c.fmtpend ||| r.flags.bits ∧
        ∀ a, (t.core k).mem.read a = if w.base + o ≤ a ∧ a < w.base + o + n then
          BitVec.ofNat 8 (v % 2 ^ fmtWidth f / 256 ^ (a - (w.base + o))) else c.mem.read a) ∧
    (∀ n v : Nat, r.stores = [.stv n v] → n + e / 64 < 32 → (c.bank (256 + (n + e / 64) / 8)).state = .full →
      ∃ (t : State) (g : DrainSt), exec (.drainElement k) s = .next t ∧ (t.core k).drains = [g] ∧ g.done = e + 1 ∧
        (t.core k).mem = c.mem ∧ ∀ (x : Fin 32) (l : Nat), l < 64 → elemOf ((t.core k).v[x]) 32 l =
          if x.val = n + e / 64 ∧ l = e % 64 then v % 2 ^ 32 else elemOf (c.v[x]) 32 l) ∧
    (∀ (q : Fin 8) (v place : Nat), r.stores = [.stq q v] → let old := c.q[q]
      (e % 64 = 0 → old.room = true ∧ place = old.popped + old.ents.length) → (e % 64 ≠ 0 → d.qplace = some place) →
      ∃ (t : State) (g : DrainSt), exec (.drainElement k) s = .next t ∧ (t.core k).drains = [g] ∧ g.done = e + 1 ∧
        (t.core k).mem = c.mem ∧ (t.core k).v = c.v ∧ (∀ x : Fin 8, x ≠ q → (t.core k).q[x] = c.q[x]) ∧
        let lane (l : Nat) : Nat := if l = e % 64 then v % 2 ^ 32 else if e % 64 = 0 then 0 else elemOf d.qfill 32 l
        let last := e % 64 = 63 ∨ e + 1 = 96 * d.rows
        (¬last → ((t.core k).q[q]).ents = old.ents ++ (if e % 64 = 0 then [QEnt.reserved] else []) ∧ g.qplace = some place ∧
          ∀ l, l < 64 → elemOf g.qfill 32 l = lane l) ∧
        (last → old.popped ≤ place → place < old.popped + old.ents.length →
          ∃ w, ((t.core k).q[q]).ents = old.ents.set (place - old.popped) (.filled w) ∧ ∀ l, l < 64 → elemOf w 32 l = lane l))

/-- R96, R219, R226 to R239: the start of a drain, its words, and its elements. -/
def Obligations.Drains : Prop :=
  Claims.DrainStarts ∧ Claims.DrainArithmetic ∧ Claims.DrainPrecision ∧ Claims.DrainLookup ∧ Claims.HistogramScale ∧
    Claims.DrainPlaces ∧ Claims.DrainElements

/-! ### Translation and shoot-downs -/

/-- R255 to R258, R254: a walk, whose levels A to D are 0 to 3. It begins at the partition's root, if that is enabled. At each
level its entry is the eight bytes of the table at the address's index there. An entry that is not valid ends it as not valid;
reserved bits, a leaf at level A or none at D, and a next table that is not aligned, as table invalid; so does a leaf whose page
is not aligned, or has a byte that is not populated or lies in no valid range of the partition, or whose die is lost (R363). A
leaf that does not permit the access ends it as a permission fault, and any other gives the translation of its page. The model's
choice, log 46: an entry on a poisoned line, or in the system range, is read as it stands. -/
def Claims.WalkEntries : Prop :=
  ∀ (s : State) (d : Fin 2) (p : PartId) (va : Nat) (kind : AccKind) (old : Bool),
    let root := (s.die d).ptroot[p]
    let index (lvl : Nat) : Nat := if lvl = 0 then va / 2 ^ 39 % 512 else if lvl = 1 then va / 2 ^ 30 % 512
      else if lvl = 2 then va / 2 ^ 21 % 512 else va / 2 ^ 16 % 32
    (bvf root 0 1 = 0 → s.walkPT d p va kind old = .error ⟨0, 0⟩) ∧
    (bvf root 0 1 = 1 → s.walkPT d p va kind old = s.walkFrom d p va kind old (bvf root 12 28 * 4096) 4 0) ∧
    ∀ t lvl n, lvl + n = 3 →
      let e := BitVec.ofNat 64 (leNat (s.mem.readN (t + 8 * index lvl) 8))
      let walk := s.walkFrom d p va kind old t (n + 1) lvl
      let leaf := bvf e 1 1 = 1
      let pa := bvf e 8 32 * 256
      let size := if lvl = 1 then 2 ^ 30 else if lvl = 2 then 2 ^ 21 else 2 ^ 16
      let reserved := bvf e 40 24 ≠ 0 ∨ bvf e 6 2 ≠ 0 ∨ (¬leaf ∧ bvf e 2 4 ≠ 0)
      let aligned := pa % (if leaf then size else if lvl = 2 then 256 else 4096) = 0
      let owned (a : Nat) : Prop := (a < 2 ^ 38 → a % 2 ^ 36 < 48000000000) ∧ ∃ r ∈ s.allotRanges d p, r.1 ≤ a ∧ a ≤ r.2
      let lost := pa < 2 ^ 38 ∧ (s.die (hbmDie pa)).gone old = true
      let may := permits kind (bvf e 2 1 == 1) (bvf e 3 1 == 1) (bvf e 4 1 == 1) = true
      (bvf e 0 1 = 0 → walk = .error ⟨0, lvl⟩) ∧
      (bvf e 0 1 = 1 →
        (reserved ∨ (leaf ∧ lvl = 0) ∨ (¬leaf ∧ lvl = 3) ∨ ¬aligned → walk = .error ⟨2, lvl⟩) ∧
        (¬reserved → aligned → ¬leaf → lvl < 3 → walk = s.walkFrom d p va kind old pa n (lvl + 1)) ∧
        (¬reserved → aligned → leaf → 0 < lvl →
          ((∃ a, pa ≤ a ∧ a < pa + size ∧ ¬owned a) ∨ lost → walk = .error ⟨2, lvl⟩) ∧
          ((∀ a, pa ≤ a → a < pa + size → owned a) → ¬lost →
            (may → walk = .ok ⟨p, va / size * size, size, pa, bvf e 2 1 == 1, bvf e 3 1 == 1, bvf e 4 1 == 1, bvf e 5 1 == 1⟩) ∧
            (¬may → walk = .error ⟨1, lvl⟩))))

/-- R254, R255, R259, R271, R115: a walk that ends with a translation that its access may use enters it in its TLB as the most
recently used of at most 64, or 4 of a stream. One that fails, or whose page its scope may not reach, changes no TLB, and leaves
its fault for the access that waits for it. A PREF that waited for it then asks for its line, later where Feldspar is held. A
fill that ends puts the line's bytes into the target's I-cache. The model's reading, log 19: what waits while the link is down. -/
def Claims.WalksEnd : Prop :=
  ∀ (k : CoreId) (s : State),
    let c := s.core k
    (∀ w : Walk, c.walks = [w] → w.started = true → w.at_ ≤ s.rc → s.linkDown = false →
      let walked := s.walkPT (dieOf k) w.part (w.vpage * 65536) w.kind (c.walkOld w)
      let ended (tlb : List TlbEnt) (stlb : Vector (List TlbEnt) 4) (xres : List XRes) (own : State → Prop) : Prop :=
        ∃ t : State, exec (.tlbWalkComplete k w.id) s = .next t ∧ (t.core k).walks = [] ∧ (t.core k).tlb = tlb ∧
          (t.core k).stlb = stlb ∧ (t.core k).xres = xres ∧ (∀ q, (t.core k).sq q = c.sq q) ∧ t.mem = s.mem ∧ own t
      (∀ e, walked = .ok e → scopeOk w.kind w.scope e.pbase = true →
        let asked (t : State) : Prop := ∀ l ∈ w.lines, let pa := e.pbase + l.1 % e.size
          (s.farHeld k pa = true → ⟨w.part, pa, e.nomig⟩ ∈ (t.core k).prefs) ∧
            (c.task.isSome = true → l.2 = c.taskKey → pa < 2 ^ 38 → bvf (t.core k).touched (pa / 2 ^ 37) 1 = 1)
        (w.stream = none → ended ((e :: c.tlb.filter fun x => x != e).take 64) c.stlb c.xres asked) ∧
        ∀ x, w.stream = some x →
          ended c.tlb (c.stlb.set x ((e :: (c.stlb[x]).filter fun y => y != e).take 4)) c.xres asked) ∧
      (∀ f : XFault, walked = .error f ∨ (∃ e, walked = .ok e ∧ scopeOk w.kind w.scope e.pbase = false ∧ f.kind = 1 ∧
          f.level = levelOf e.size) → ended c.tlb c.stlb
        (if w.want = true ∧ (w.spec = true → c.spec ≠ none) then
          c.xres ++ [⟨w.vpage, w.part, w.kind, w.scope, w.stream, w.prefetch, w.spec, f⟩] else c.xres) fun _ => True)) ∧
    (∀ (f : Fill) (pa : Nat), c.fills = [f] → f.pa = some pa → f.at_ ≤ s.rc → s.linkDown = false → f.part = c.part → f.line % 64 = 0 →
      ∃ t : State, exec (.icacheFill k f.tgt f.line) s = .next t ∧ (t.core k).fills = [] ∧
        (∀ i, i < 16 → (t.core k).icWord f.tgt (f.line + 4 * i) = some (BitVec.ofNat 32 (leNat (s.mem.readN (pa + 4 * i) 4)))) ∧
        ∀ q, q ≠ f.tgt → (t.core k).ic[q] = c.ic[q])

/-- R254 to R258, R259, R271, R115: what the page tables give, and the ends of walks and fills. The model's choice, log 46: a table
entry on a poisoned line, or in the system range; its reading, log 19: what waits while the link is down. -/
def Obligations.WalksAndFills : Prop := Claims.WalkEntries ∧ Claims.WalksEnd

/-- R267 to R270: a shoot-down tells every core, each of which acknowledges within 64 rc; a GO while one is in progress sets ERR
alone. An acknowledging core has invalidated the entries that the command names, and rolls back a running region that has
used one of their pages; the migration counts of a die are halved. -/
def Obligations.ShootDowns : Prop :=
  ∀ (d : Fin 2) (p : PartId) (va : BitVec 32) (k : CoreId) (s : State),
    let go (i : Instr) (scope : Nat) (p va : Nat) : Prop :=
      let cmd := BitVec.ofNat 64 (scope * 2 ^ 61 + p * 2 ^ 48 + va * 2 ^ 16)
      (bvf (s.die d).sdstat 31 1 = 0 → ∃ (t : State) (l : List Shoot), exec i s = .next t ∧ t.shoots = s.shoots ++ l ∧
        (∀ y ∈ l, s.rc < y.at_ ∧ y.at_ ≤ s.rc + 64) ∧
        (l.map fun y => (y.die, y.core, y.cmd)) = (List.range 16).map (fun j => (d, Fin.ofNat 16 j, cmd)) ∧ (t.die d).sdcmd = cmd ∧
        bvf (t.die d).sdstat 31 1 = 1 ∧ bvf (t.die d).sdstat 0 16 = 0 ∧ t.cores = s.cores) ∧
      (bvf (s.die d).sdstat 31 1 = 1 → ∃ t : State, exec i s = .next t ∧ t.shoots = s.shoots ∧ t.cores = s.cores ∧
        bvf (t.die d).sdstat 29 1 = 1 ∧ bvf (t.die d).sdstat 31 1 = 1)
    go (.shootdownPage d p va) 0 p.val va.toNat ∧ go (.shootdownPartition d p) 1 p.val 0 ∧ go (.shootdownAll d) 2 0 0 ∧
    (∀ x : Shoot, s.shoots = [x] → x.die = d → x.core = k → x.at_ ≤ s.rc →
      let c := s.core k
      ∃ t : State, exec (.shootdownAck d k) s = .next t ∧ t.shoots = [] ∧
        (t.core k).tlb = c.tlb.filter (fun e => !e.shot x.cmd) ∧
        (∀ y : Fin 4, (t.core k).stlb[y] = (c.stlb[y]).filter fun e => !e.shot x.cmd) ∧
        bvf (t.die d).sdstat k.val 1 = 1 ∧ (t.core k).retrycnt = c.retrycnt ∧ (t.core k).task = c.task ∧
        (c.isRunning = true → (∃ g ∈ c.used, shotPage x.cmd c.part g.1 g.2 = true) →
          (t.core k).rolled = true ∧ ∀ q : Fin 4, ((t.core k).sq q).pc = c.cut.pcs[q]) ∧
        ((∀ g ∈ c.used, shotPage x.cmd c.part g.1 g.2 = false) → ∀ q, (t.core k).sq q = c.sq q)) ∧
    exec (.migrationCountHalve d) s = .next (s.modDie d fun x => { x with
      migcnt := x.migcnt.map fun m => { m with count := m.count / 2 } })

/-! ### Copies -/

/-- R283, R285, R289, R290, R284, R302: a piece with its source or its destination in device memory moves through the channel's
stream TLB. Where the entry does not permit it, or its scope may not reach the page, the copy fails with cause 0x50: a trap of
the issuing task while its region is current, otherwise a record of the partition's error log, after which the sync word, if
there is one, is told. A failed copy sets ERR in it and advances GEN, with COUNT as it was. An acquire waits for the floor of
the time it started at, a release for that of its region's. A routed piece whose target is not there fails the copy in the same
way, and is not written. -/
def Claims.CopyDevices : Prop :=
  ∀ (k : CoreId) (x : Fin 4) (s : State) (m : CopyCmd) (rest : List CopyCmd) (e : TlbEnt) (pa : Nat),
    let c := s.core k
    let n := min 64 (m.len - m.cursor)
    let fullAt (a n : Nat) : Prop :=
      0 < n ∧ ∀ b, a / 131072 ≤ b → b ≤ (a + n - 1) / 131072 → (c.bank b).state = .full
    let queued (t : State) (l : List CopyCmd) : Prop := (t.core k).chans[x] = l
    let turn := m.phase = .moving ∧ m.at_ ≤ s.rc ∧ c.changing = false ∧ (c.clk .control).edge = true ∧ (c.clk .copy).edge = true ∧
      m.routed = false ∧ m.route = none ∧ m.cursor < m.len ∧ m.keep = [] ∧ s.poison = [] ∧ s.routed = []
    let at_ (start : Nat) : Nat := (start + m.cursor) % 2 ^ 48
    let hits (start : Nat) : Prop := at_ start % 65536 + n ≤ 65536 ∧ pa = e.pbase + at_ start % e.size ∧
      (c.stlb[x]).find? (fun e => e.covers m.part (at_ start)) = some e
    let may (kind : AccKind) : Prop := permits kind e.r e.w e.x = true ∧ scopeOk kind m.scope pa = true
    let reach := (pa < 2 ^ 38 → (s.die (hbmDie pa)).gone m.old = false) ∧ s.farHeld k pa = false
    let moved (t : State) : Prop := ∃ h, queued t (h :: rest) ∧ h.cursor = m.cursor + n ∧ h.regs = m.regs ∧ s.rc < h.at_ ∧
      h.phase = if m.cursor + n < m.len then .moving else .releasing
    let fails (i : Instr) (m' : CopyCmd) (own : State → Prop) : Prop := ∃ t : State, exec i s = .next t ∧ own t ∧ SameCore c (t.core k) ∧
      queued t (if m.sync = none ∨ m.failed = true then rest else
        { m' with phase := .reporting, failed := true, stopAt := none } :: rest) ∧
      ((s.die (dieOf k)).mbout[m.part].length < 256 →
        (t.die (dieOf k)).elogseq[m.part] = (s.die (dieOf k)).elogseq[m.part] + 1)
    c.chans[x] = m :: rest → (∀ y ∈ rest, y.part = m.part ∧ y.id ≠ m.id) → MemOk s →
    (turn → m.sd = true → m.dd = false → hits m.src → may .load → reach → fullAt (m.dst + m.cursor) n →
      ∃ t : State, exec (.copyPiece k x) s = .next t ∧ moved t ∧ t.mem = s.mem ∧ ∀ a, (t.core k).mem.read a =
        if m.dst + m.cursor ≤ a ∧ a < m.dst + m.cursor + n then s.mem.read (pa + (a - (m.dst + m.cursor))) else c.mem.read a) ∧
    (turn → m.sd = false → m.dd = true → hits m.dst → may .store → reach → fullAt (m.src + m.cursor) n → s.writeHeld pa n = false →
      ∃ t : State, exec (.copyPiece k x) s = .next t ∧ moved t ∧ (t.core k).mem = c.mem ∧ ∀ a, t.mem.read a =
        if pa ≤ a ∧ a < pa + n then c.mem.read (m.src + m.cursor + (a - pa)) else s.mem.read a) ∧
    (turn → m.sd = true → hits m.src → ¬may .load →
      (m.cur = true → ∃ u : State, SameCore c (u.core k) ∧ exec (.copyPiece k x) s = .next (u.takeTrap k
        ⟨0x0D, 0x50, none, 0, (5 + x.val) * 2 ^ 28 + 1 * 2 ^ 26 + 1 * 2 ^ 24 + levelOf e.size * 2 ^ 22, 0, 0, 0, at_ m.src, m.cursor⟩)) ∧
      (m.cur = false → fails (.copyPiece k x) m fun _ => True)) ∧
    (m.phase = .acquire →
      (s.floorReached m.part m.scope m.floor = true →
        exec (.copyPiece k x) s = .next (s.setCore k { c with chans := c.chans.set x ({ m with phase := .moving } :: rest) })) ∧
      (s.floorReached m.part m.scope m.floor = false → exec (.copyPiece k x) s = .next s)) ∧
    (m.phase = .releasing → m.at_ ≤ s.rc → m.rel = true → let ok := s.floorReached m.part m.scope (m.pts.getD c.pts)
      (ok = true → exec (.copyFinish k x) s = .next (s.setCore k { c with
        chans := c.chans.set x ({ m with phase := .reporting, at_ := s.rc + 1 } :: rest) })) ∧
      (ok = false → exec (.copyFinish k x) s = .next s)) ∧
    (∀ a, m.phase = .reporting → m.at_ ≤ s.rc → m.sync = some a → m.routed = false → m.route = none → m.failed = true →
      fullAt a 32 → ∃ t : State, exec (.copyFinish k x) s = .next t ∧ queued t rest ∧ let u := (t.core k).mem
        leNat (u.readN a 16) = leNat (c.mem.readN a 16) ∧ u.read (a + 20) = c.mem.read (a + 20) ||| 2 ∧
        leNat (u.readN (a + 16) 4) = (leNat (c.mem.readN (a + 16) 4) + 1) % 2 ^ 32 ∧
        ∀ i, i < a + 16 ∨ a + 21 ≤ i → u.read i = c.mem.read i) ∧
    (∀ p : Routed, s.routed = [p] → p.src = k → p.chan = x → p.cmd = m.id → p.at_ ≤ s.rc → s.linkDown = false →
      s.targetOk m p.dst = false → m.cur = false →
      fails (.routedPieceArrival k x) { m with cursor := p.addr - m.dst } fun t =>
        t.routed = [] ∧ ∀ j, (t.core j).mem = (s.core j).mem)

/-- R281 to R285, R289: a channel whose commands are one partition's starts its next command, a deferred one only when its
region has committed; a piece of at most 64 bytes moves from its source to its destination; a routed piece is written where
its route ejects; and the copy's report counts its bytes in its sync word, whose GEN advances when the count meets the target.
The model's choice, log 10: a piece's source is read once, in the rc in which the piece moves. -/
def Claims.CopyRuns : Prop :=
  ∀ (k : CoreId) (x : Fin 4) (s : State) (m : CopyCmd) (rest : List CopyCmd),
    let c := s.core k
    let fullAt (o : CoreId) (a n : Nat) : Prop :=
      0 < n ∧ ∀ b, a / 131072 ≤ b → b ≤ (a + n - 1) / 131072 → ((s.core o).bank b).state = .full
    c.chans[x] = m :: rest → (∀ y ∈ rest, y.part = m.part ∧ y.id ≠ m.id) → MemOk s →
    (m.phase = .queued → m.deferred = false ∨ m.cur = false → (s.die (dieOf k)).rstphase = 0 → ∃ (t : State) (n : Nat), exec (.copyStart k x) s = .next t ∧
      s.rc ≤ n ∧ (t.core k).chans = c.chans.set x ({ m with
        phase := if m.acq then .acquire else .moving, floor := m.pts.getD c.pts, at_ := n } :: rest)) ∧
    (m.phase = .queued → m.deferred = true → m.cur = true → exec (.copyStart k x) s = .next s) ∧
    (m.phase = .moving → m.at_ ≤ s.rc → c.changing = false → (c.clk .control).edge = true → (c.clk .copy).edge = true →
      m.sd = false → m.dd = false → m.routed = false → m.route = none → m.cursor < m.len →
      let n := min 64 (m.len - m.cursor)
      fullAt k (m.src + m.cursor) n → fullAt k (m.dst + m.cursor) n →
      ∃ (t : State) (h : CopyCmd), exec (.copyPiece k x) s = .next t ∧ (t.core k).chans[x] = h :: rest ∧
        h.cursor = m.cursor + n ∧ h.phase = (if m.cursor + n < m.len then .moving else .releasing) ∧ h.regs = m.regs ∧
        s.rc < h.at_ ∧ ∀ a, (t.core k).mem.read a = if m.dst + m.cursor ≤ a ∧ a < m.dst + m.cursor + n then
          c.mem.read (m.src + m.cursor + (a - (m.dst + m.cursor))) else c.mem.read a) ∧
    (∀ p : Routed, s.routed = [p] → p.src = k → p.chan = x → p.cmd = m.id → p.at_ ≤ s.rc → s.linkDown = false →
      s.targetOk m p.dst = true →
      fullAt p.dst p.addr p.bytes.length →
      ∃ t : State, exec (.routedPieceArrival k x) s = .next t ∧ t.routed = [] ∧
        (t.core k).chans[x] = (if p.last then { m with phase := .releasing } else m) :: rest ∧
        ∀ a, (t.core p.dst).mem.read a = if p.addr ≤ a ∧ a < p.addr + p.bytes.length then
          p.bytes.getD (a - p.addr) 0 else (s.core p.dst).mem.read a) ∧
    (m.phase = .releasing → m.at_ ≤ s.rc → m.rel = false → exec (.copyFinish k x) s = .next (s.setCore k { c with
      chans := c.chans.set x ({ m with phase := .reporting, at_ := s.rc + 1 } :: rest) })) ∧
    (m.phase = .reporting → m.at_ ≤ s.rc → m.sync = none → ∃ t : State, exec (.copyFinish k x) s = .next t ∧ (t.core k).chans[x] = rest ∧
      (t.core k).mem = c.mem) ∧
    (∀ a, m.phase = .reporting → m.at_ ≤ s.rc → m.sync = some a → m.routed = false → m.route = none → m.failed = false →
      fullAt k a 32 →
      let target := leNat (c.mem.readN a 8)
      let count := (leNat (c.mem.readN (a + 8) 8) + m.len) % 2 ^ 64
      let gen := leNat (c.mem.readN (a + 16) 4)
      ∃ t : State, exec (.copyFinish k x) s = .next t ∧ (t.core k).chans[x] = rest ∧ let u := (t.core k).mem
        leNat (u.readN a 8) = target ∧ leNat (u.readN (a + 8) 8) = (if count = target then 0 else count) ∧
        leNat (u.readN (a + 16) 4) = (if count = target then (gen + 1) % 2 ^ 32 else gen) ∧
        u.read (a + 20) = (if target < count then c.mem.read (a + 20) ||| 1 else c.mem.read (a + 20)) ∧
        ∀ i, i < a ∨ a + 32 ≤ i → u.read i = c.mem.read i)

/-- R281 to R285, R289, R290, R302: how copies start, move, fail and report. The model's choice, log 10: a piece's source is
read once, in the rc in which the piece moves. -/
def Obligations.Copies : Prop := Claims.CopyRuns ∧ Claims.CopyDevices

/-! ### Timestamps, lines and teams -/

/-- R295: a region that has made a timed access, whose timed loads have returned and whose granules are free, claims those of its
lines and takes as timestamp the largest of its core's time plus one, the write times of its reads, and the lease ends of what it
writes plus one; PTS becomes it, and the leases of its reads are taken up to it. A region with no timed access keeps PTS and runs
no procedure. The model's reading, log 21: the procedure waits for the timed loads. -/
def Claims.TimestampProcedure : Prop :=
  ∀ (k : CoreId) (s : State),
    let c := s.core k
    (c.ts = .idle → c.timedRegion = false → exec (.timestampProcedure k) s = .next s) ∧
    (c.ts = .idle → c.timedRegion = true → c.timedLoads = false → (∀ l ∈ c.cb, l.cur = true) →
      (∀ g ∈ c.writeSet, (s.gran g).claim = none ∧ s.granHeld k g = false) →
      (∀ r ∈ c.reads, (s.gran r.gran).wts = r.wts ∧ (s.gran r.gran).claim = none ∧ s.granHeld k r.gran = false) →
      ∃ (t : State) (ts : Nat), exec (.timestampProcedure k) s = .next t ∧ (t.core k).ts = .done ts ∧ (t.core k).pts = ts ∧
        c.pts + 1 ≤ ts ∧ (∀ r ∈ c.reads, r.wts ≤ ts) ∧ (∀ g ∈ c.writeSet, (s.gran g).rts + 1 ≤ ts) ∧
        (ts = c.pts + 1 ∨ (∃ r ∈ c.reads, ts = r.wts) ∨ ∃ g ∈ c.writeSet, ts = (s.gran g).rts + 1) ∧
        (∀ g ∈ c.writeSet, (t.gran g).claim = some (k, c.pinned)) ∧
        (∀ r ∈ c.reads, r.lease < ts → (t.gran r.gran).rts = max (s.gran r.gran).rts ts) ∧
        (t.core k).cb = c.cb ∧ ∀ q, (t.core k).sq q = c.sq q)

/-- R163, R293, R295, R305, R196: a released line that may be performed is performed at its home, in device memory, a window share
or the system range: each byte it names is written, or an atomic's operation is performed on the value there, whose former value a
returning atomic records; and its granule, if its home is timed, takes its time as WTS and RTS. A line that falls into a bank that
is off writes nothing; one that falls into a bank in retention or waking waits. The model's choice, log 6: the system range is
memory. -/
def Claims.LinesPerformed : Prop :=
  ∀ (k : CoreId) (s : State) (l : CBLine),
    let c := s.core k
    let gran : Option Gran := match l.home with
      | .hbm => some (.line (l.addr / 64))
      | .win t => some (.win t (l.addr / 1024))
      | .sysr => none
    let read (u : State) (a : Nat) : BitVec 8 := match l.home with
      | .win t => (u.core t).mem.read a
      | _ => u.mem.read a
    let bank (st : Supply) : Prop := ∀ t, l.home = .win t → ((s.core t).bank (l.addr / 131072)).state = st
    let does (own : State → Prop) : Prop :=
      ∃ t : State, exec (.linePerformed k l.id) s = .next t ∧ (t.core k).cb = [] ∧ own t ∧
        (∀ g, gran = some g → t.gran g = ⟨l.ts, l.ts, none, some k, false⟩) ∧
        (∀ j, l.home ≠ .win j → (t.core j).mem = (s.core j).mem) ∧ ((∃ j, l.home = .win j) → t.mem = s.mem)
    c.cb = [l] → (s.lineReady k l = false → exec (.linePerformed k l.id) s = .next s) ∧
    (s.lineReady k l = true → l.pinned = false → MemOk s →
      (l.atom = none → bank .full → does fun t => ∀ a, read t a =
        if l.addr ≤ a ∧ a < l.addr + 64 ∧ bvf l.mask (a - l.addr) 1 = 1 then
          BitVec.ofNat 8 (bvf l.data (8 * (a - l.addr)) 8) else read s a) ∧
      (∀ r : AtomReq, l.atom = some r → bank .full → let n := if r.dbl then 8 else 4
        r.addr % n = 0 → l.addr = r.addr / 64 * 64 →
        (∀ i, i < 64 → (bvf l.mask i 1 = 1 ↔ r.addr % 64 ≤ i ∧ i < r.addr % 64 + n)) →
        let value (u : State) : Nat := leNat ((List.range n).map fun i => read u (r.addr + i))
        does fun t =>
          value t = atomNew r.op (8 * n) (value s) (r.b.toNat % 2 ^ (8 * n)) (r.c.toNat % 2 ^ (8 * n)) % 2 ^ (8 * n) ∧
          (∀ a, a < r.addr ∨ r.addr + n ≤ a → read t a = read s a) ∧
          (r.ret = true → (k, l.part, l.gen, BitVec.ofNat 64 (value s)) ∈ t.atomrecs)) ∧
      ((∃ j, l.home = .win j) → bank .off → does fun t => ∀ a, read t a = read s a) ∧
      (∀ st ∈ [Supply.retention, .waking], (∃ j, l.home = .win j) → bank st → ∃ t : State,
        exec (.linePerformed k l.id) s = .next t ∧ (t.core k).cb = [l] ∧ ∀ a, read t a = read s a))

/-- R298: the pin token of a partition goes to the core that has waited longest, of the requests of earlier rcs; a held one
stays. -/
def Claims.PinToken : Prop :=
  ∀ (p : PartId) (s : State) (e : Pin), s.pins = [e] → e.part = p →
    (∀ (n : Nat) (w : CoreId) (l : List (Nat × CoreId)), e.holder = none → e.queue = (n, w) :: l → n < s.rc →
      exec (.pinTokenGrant p) s = .next { s with pins := [⟨p, some w, l⟩] }) ∧
    (e.holder ≠ none ∨ e.queue = [] → exec (.pinTokenGrant p) s = .next s)

/-- R163, R196, R293, R295, R298, R305: the timestamp procedure, the performing of released lines, and the pin token. The model's
reading, log 21: the procedure waits for the timed loads; its choice, log 6: the system range is memory. -/
def Obligations.TimestampsAndLines : Prop := Claims.TimestampProcedure ∧ Claims.LinesPerformed ∧ Claims.PinToken

/-- R337, R340, R341, R343, R344: a core sends its arrival when the device floor has reached its time; a die combiner sends up
what it has gathered once its present members have arrived; the package combiner counts each arrival, and when every member
has arrived or departed the episode ends: EPOCH advances and each arrived member is released with the largest time. A release
is used in the rc it arrives. The model's choice, log 24: the EPOCH that an arrival carries, and when a die combiner sends up. -/
def Obligations.BarrierEvents : Prop :=
  ∀ (k : CoreId) (d : Fin 2) (s : State) (y : TaskSt) (m : Mid) (w : BarWait),
    let c := s.core k
    (c.task = some y → y.phase = .running → c.mid = some m → m.wait = .inr w → w.sent = false → w.released = none →
      s.coreFloor k .dev = true → ∃ (t : State) (rank : Nat), exec (.barrierArrivalSend k) s = .next t ∧
        t.msgs = s.msgs ++ [(s.rc + 16, .arrival ⟨rank, k, y.key⟩ w.team (s.team w.team).epoch c.pts)] ∧
        t.cores = s.cores.set k { c with mid := some { m with
          wait := .inr { w with sent := true, epoch := (s.team w.team).epoch } } }) ∧
    (∀ (n : Nat) (a : Arriver) (team : Nat) (epoch : BitVec 16) (pts : Nat), s.msgs = [(n, .arrival a team epoch pts)] →
      n ≤ s.rc → dieOf a.core = d → s.combs = [] →
      let g : DieComb := ⟨d, team, epoch, [a], pts, false⟩
      (s.combReady g = true → exec (.dieCombinerArrival d) s = .next { s with
        msgs := [(s.rc + s.upDelay d, .combined d team epoch pts [a])], combs := [{ g with sent := true }] }) ∧
      (s.combReady g = false → exec (.dieCombinerArrival d) s = .next { s with msgs := [], combs := [g] })) ∧
    (∀ (n team : Nat) (pts : Nat) (a : Arriver) (r : Fin 16), let x := s.team team
      s.msgs = [(n, .combined d team x.epoch pts [a])] → n ≤ s.rc → s.linkDown = false → x.en = true → x.broken = false →
      x.rankOf a.key = some r →
      ∃ t : State, exec (.packageCombinerArrival d) s = .next t ∧ let z := t.team team
        ((∃ j ∈ x.ranks, j ≠ r ∧ (x.mem[j]).arr = false ∧ (x.mem[j]).state ≠ 2) →
          z.epoch = x.epoch ∧ (z.mem[r]).arr = true ∧ z.maxPts = max x.maxPts pts ∧ z.broken = false ∧ t.msgs = []) ∧
        ((∀ j ∈ x.ranks, j ≠ r → (x.mem[j]).arr = true ∨ (x.mem[j]).state = 2) →
          z.epoch = x.epoch + 1 ∧ z.broken = false ∧ (∀ j : Fin 16, (z.mem[j]).arr = false) ∧
          ∀ j ∈ x.ranks, j = r ∨ (x.mem[j]).arr = true → ∃ (n : Nat) (core : CoreId), s.rc < n ∧
            (n, .release core (x.keyOf j) team (x.epoch + 1) 0 (max x.maxPts pts)) ∈ t.msgs)) ∧
    (∀ (n : Nat) (epoch : BitVec 16) (status v : Nat), s.msgs = [(n, .release k y.key w.team epoch status v)] → n ≤ s.rc → s.linkDown = false →
      s.holder y.key = some k → c.task = some y → y.phase = .running → c.mid = some m → m.wait = .inr w →
      w.released = none → m.doneAt = none → m.atOnce = false →
      ∃ t : State, exec (.barrierReleaseArrival k) s = .next t ∧ t.msgs = [] ∧
        (t.core k).mid = some { m with
          doneAt := some (s.rc + 22), wait := .inr { w with released := some (status, v), relEpoch := epoch } } ∧
        ((t.core k).sq m.seqr).pend = (c.sq m.seqr).pend ++ [⟨c.nextId, .rc (s.rc + 1),
          if w.status then destWr w.d 0 (BitVec.ofNat 64 (status + 65536 * epoch.toNat)) else [], compNone⟩])

/-- R335, R337, R342, R343: a token of return, absence or departure moves its member's state, and one of an abort breaks the
team; a timeout that has been counted ends its episode as broken; the writes of GRPCTL enable a valid team, refuse another,
disable one and re-arm one. The model's choice, log 24: a break always advances EPOCH, and a member that is not present keeps
its CORE. -/
def Obligations.TeamEvents : Prop :=
  ∀ (k : CoreId) (t : Fin 256) (s : State),
    let x := s.team t.val
    (∀ (n : Nat) (key : TaskKey) (ev : Fin 5) (m : Fin 16), s.msgs = [(n, .token k key ev.val)] → n ≤ s.rc → s.linkDown = false →
      s.teams = [(t.val, x)] → x.en = true → x.rankOf key = some m →
      ∃ u : State, exec (.memberTokenArrival k ev) s = .next u ∧ let z := u.team t.val
        ((∀ j : Fin 16, (x.mem[j]).arr = false) →
          (ev = 0 → (z.mem[m]).state = 1 ∧ (z.mem[m]).core = k) ∧ (ev = 1 ∨ ev = 4 → (z.mem[m]).state = 0) ∧
          (ev = 2 → (z.mem[m]).state = 2) ∧
          (ev ≠ 3 → z.epoch = x.epoch ∧ z.broken = x.broken ∧ u.msgs = [] ∧ ∀ j : Fin 16, j ≠ m → z.mem[j] = x.mem[j])) ∧
        (ev = 3 → z.broken = true ∧ z.epoch = x.epoch + 1 ∧ (z.mem[m]).state = 2 ∧ ∀ j : Fin 16, (z.mem[j]).arr = false)) ∧
    (x.expired = true → ∃ u : State, exec (.episodeTimeout t) s = .next u ∧ let z := u.team t.val
      z.broken = true ∧ z.epoch = x.epoch + 1 ∧ (∀ j : Fin 16, (z.mem[j]).arr = false) ∧
      ∀ j ∈ x.ranks, (x.mem[j]).arr = true → ∃ n : Nat, s.rc < n ∧
        (n, .release (x.mem[j]).core (x.keyOf j) t.val (x.epoch + 1) 1 x.maxPts) ∈ u.msgs) ∧
    (x.expired = false → exec (.episodeTimeout t) s = .next s) ∧
    (∀ v, x.en = false → let f := x.fields v
      (s.teamOk f = true → ∃ u : State, exec (.grpctlEnable t v) s = .next u ∧ let z := u.team t.val
        z.en = true ∧ z.broken = false ∧ z.epoch = 0 ∧ z.count = f.count ∧ z.part = f.part ∧ z.timeout = f.timeout ∧
        ∀ m ∈ f.ranks, (z.mem[m]).arr = false ∧ match s.activeCore (f.keyOf m) with
          | some j => (z.mem[m]).state = 1 ∧ (z.mem[m]).core = j
          | none => (z.mem[m]).state = 0) ∧
      (s.teamOk f = false → exec (.grpctlEnable t v) s = .next (s.setTeam t.val f))) ∧
    (x.en = true → ∃ u : State, exec (.grpctlDisable t) s = .next u ∧ (u.team t.val).en = false ∧
      (u.team t.val).broken = true ∧ ∀ j, ∀ e ∈ (u.core j).members, e.1 ≠ t.val) ∧
    (x.broken = true → ∃ u : State, exec (.grpctlRearm t) s = .next u ∧ (u.team t.val).broken = false ∧
      (u.team t.val).epoch = x.epoch ∧ (u.team t.val).en = x.en ∧ u.cores = s.cores ∧
      ∀ j : Fin 16, ((u.team t.val).mem[j]).arr = false)

/-! ### Scheduling, time and power -/

/-- R321 to R325, R328, R405: a released launch record goes to its partition's queue; Quartz steps; the table's slots: an
entry it ignores sets ERR, and one that launches stages a record on each of its cores and moves NEXT on; a slot's end is told
to the firmware; an event message is stamped. The model's choice, log 29: NEXT after an entry that acts, and that a launch
stages its records in its own rc. -/
def Obligations.Scheduling : Prop :=
  ∀ (k : CoreId) (d : Fin 2) (i : Fin 256) (off : BitVec 40) (s : State),
    let c := s.core k
    let x := s.die d
    (∀ l : LaunchEnt, c.lbuf = [l] → l.cur = false → (s.die (dieOf k)).queueFull l.rec_.part = false →
      ∃ t : State, exec (.launchRecordPost k) s = .next t ∧ t.core k = { c with lbuf := [], worked := 11 :: c.worked } ∧
        (l.rec_, [l.home]) ∈ t.launchMem ∧
        (t.die (dieOf k)).launchq[l.rec_.part] = (s.die (dieOf k)).launchq[l.rec_.part] ++ [.inl l.rec_]) ∧
    (bvf (s.die s.authority).ttctl 63 1 = 1 ∨ bvf s.qstep 61 1 = 1 →
      exec (.qstepForward off) s = .next { s with qstep := bvSet s.qstep 60 1 1 } ∧
      exec (.qstepBackward off) s = .next { s with qstep := bvSet s.qstep 60 1 1 }) ∧
    (bvf (s.die s.authority).ttctl 63 1 = 0 → bvf s.qstep 61 1 = 0 →
      exec (.qstepForward off) s = .next { s with qns := s.qns + 16 * off.toNat } ∧
      exec (.qstepBackward off) s = .next { s with qhold := 16 * off.toNat, qstep := bvSet s.qstep 61 1 1 }) ∧
    (s.qhold = 0 → exec .qstepHoldEnd s = .next { s with qstep := bvSet s.qstep 61 1 0 }) ∧
    (s.ttRuns d = true → i.val < bvf x.ttctl 20 9 → s.ttBad d i = true → ∃ t : State, exec (.ttSlotStart d i) s = .next t ∧
      t.cores = s.cores ∧ bvf (t.die d).ttstat 31 1 = 1 ∧
      bvf (t.die d).ttstat 0 9 = s.ttNext d (i.val + 1)) ∧
    (∀ r : List (BitVec 8), let p : PartId := Fin.ofNat 16 (bvf x.tteA[i] 40 4)
      s.ttRuns d = true → i.val < bvf x.ttctl 20 9 → s.ttBad d i = false → (∀ g ∈ x.ttgangs, g.1 ≠ p) →
      bvf x.tteB[i] 0 48 % 64 = 0 → s.vread d p 2 (bvf x.tteB[i] 0 48) 64 = some r → launchOk r = true →
      ∃ t : State, exec (.ttSlotStart d i) s = .next t ∧ bvf (t.die d).ttstat 0 9 = s.ttNext d (i.val + 1) ∧
        ∀ (n : Nat) (j : CoreId), (ttCores x.tteA[i])[n]? = some j → ∃ b : Bind, (t.core j).staged = some b ∧ b.kind = 1 ∧
          b.part = p.val ∧ b.gang = BitVec.ofNat 16 (bvf x.partstat[p] 32 16) ∧ b.task = n ∧
          b.gsize = (ttCores x.tteA[i]).length ∧ b.tag = (launchOf p r).tag ∧ b.image = (launchOf p r).image ∧ b.table = true) ∧
    (∀ n, x.slotEnds = [(i.val, n)] → n ≤ s.qtime / 1000 → exec (.ttSlotEnd d i) s =
      .next (s.modDie d fun x => { x with slotEnds := [], irqs := x.irqs ++ [(1, i.val, s.qtime)] })) ∧
    (∀ n, let stamped (m : PtpMode) (p : PtpPlace) : Prop :=
        exec (.ptpEventMessage d ⟨n, m⟩) s = .next (s.modDie d fun x => { x with ptp := x.ptp ++ [⟨n, p, s.qtime⟩] })
      stamped .receive .received ∧ stamped .oneStep .frame ∧ stamped .twoStep .descriptor)

/-- R370 to R372: one level is granted to every core of a die: with no cap active level 3 under BOOSTEN, or NOM; otherwise the
least of NOM and of the level of each active cap. A pending level and pending divisors take effect in the first rc in which
nothing crosses and every domain has an edge; each divisor is then the larger of the level's floor and of CLKDIV's field plus
one. The model's choice, log 11: every domain has an edge in the rc after the change. -/
def Obligations.PowerLevels : Prop :=
  ∀ (k : CoreId) (d : Fin 2) (s : State),
    (∃ t : State, exec (.powerGrant d) s = .next t ∧ ∃ g : Nat, let r := (t.die d).pwrcap
      (bvf r 15 1 = 0 → bvf r 11 1 = 0 → g = if bvf r 7 1 = 1 then 3 else bvf r 0 2) ∧
      (bvf r 15 1 = 1 ∨ bvf r 11 1 = 1 → g = min (bvf r 0 2)
        (min (if bvf r 15 1 = 1 then bvf r 12 2 else 3) (if bvf r 11 1 = 1 then bvf r 8 2 else 3))) ∧
      bvf r 0 2 = bvf (s.die d).pwrcap 0 2 ∧
      (∀ j, dieOf j = d → (t.core j).level = (s.core j).level ∧
        ((t.core j).grant.map Prod.fst).getD (t.core j).level = BitVec.ofNat 2 g) ∧
      (∀ j, dieOf j ≠ d → t.core j = s.core j) ∧ t.mem = s.mem) ∧
    (let c := s.core k
     c.changing = true → s.crossing k = false → (∀ i : Fin 4, (c.clocks[i]).edge = true) →
      ∃ t : State, exec (.quiescePoint k) s = .next t ∧ (t.core k).changing = false ∧
        (t.core k).level = (c.grant.map Prod.fst).getD c.level ∧
        (∀ i : Fin 4, ((t.core k).clocks[i]).next = s.rc + 1 ∧ ((t.core k).clocks[i]).cyc = (c.clocks[i]).cyc ∧
          let l := (t.core k).level.toNat
          let floor := if i = 2 then 2 ^ (3 - l) else if l = 3 then 1 else 2 ^ (2 - l)
          ((t.core k).clocks[i]).div = max floor (bvf c.clkdiv (4 * i.val) 3 + 1)) ∧
        (∀ q, (t.core k).sq q = c.sq q) ∧ ∀ j, j ≠ k → t.core j = s.core j)

/-! ### Errors, resets and the loss of a die -/

/-- R348 to R352, R358, R359: an error of a running core's operation is counted and replays its region from the cut, and
beyond RETRYLIM retires the core, whose task migrates; one in a lane that takes no effect is nothing (R185); a poisoned line is
noted; an error corrected in place changes no core; a retirement request retires the cores it names. -/
def Obligations.DetectedErrors : Prop :=
  ∀ (k : CoreId) (d : Fin 2) (mask : BitVec 8) (o : OpRef) (n : Nat) (s : State) (y : TaskSt),
    let c := s.core k
    (c.task = some y → y.phase = .running → c.rolled = false → c.trapped = [] → s.rc ≤ o.at_ + 20 →
      (c.retrycnt.toNat + 1 ≤ c.retrylim.toNat → ∃ t : State, exec (.detectorReport k (.operation o)) s = .next t ∧
        (t.core k).retrycnt = c.retrycnt + 1 ∧ (t.core k).task = some y ∧ (t.core k).rolled = true ∧
        (t.core k).cut = c.cut ∧ (t.core k).gen = c.gen ∧ ∀ j : Fin 4, ((t.core k).sq j).pc = c.cut.pcs[j]) ∧
      (c.retrylim.toNat < c.retrycnt.toNat + 1 → ∃ (t : State) (e : Nat),
        exec (.detectorReport k (.operation o)) s = .next t ∧ (t.core k).retired = true ∧ s.rc < e ∧
        (t.core k).task = some { y with phase := .migrating e } ∧ (t.core k).tlb = [] ∧ (t.core k).preempt = none)) ∧
    (∀ (issued : Nat) (lane : Fin 64), (∀ e ∈ c.notes.ops, e.1 = o.pc → e.2.1 = issued → e.2.2.getLsbD lane.val = false) →
      exec (.detectorReport k (.residue o issued lane)) s = .next s) ∧
    (exec (.detectorReport k (.hbmLine n)) s =
      .next { s with poison := if n ∈ s.poison then s.poison else s.poison ++ [n] }) ∧
    (∀ (p : PartId) (a : Nat), ∃ t : State, exec (.detectorReport k (.single p a)) s = .next t ∧ t.cores = s.cores) ∧
    (∃ t : State, exec (.coreretRetreq d mask) s = .next t ∧
      (∀ j, dieOf j = d → bvf mask (j.val % 8) 1 = 1 → (t.core j).retired = true ∧
        ((s.core j).retired = false → ∀ z, (s.core j).task = some z →
          ∃ e, (t.core j).task = some { z with phase := .migrating e })) ∧
      ∀ j, dieOf j ≠ d ∨ bvf mask (j.val % 8) 1 = 0 → (t.core j).retired = (s.core j).retired ∧ SameCore (s.core j) (t.core j))

/-- R362, R363, R367: a lane that is lost leaves the link to retrain within 2 µs, and the last one splits the dies; a
heartbeat is noted by both dies; a die claims at its time unless its partner has, die 1 withdraws from a tie, and the die that
holds its claim has won: its partner's contexts are Held with cause 0x81. -/
def Obligations.LinksAndSplits : Prop :=
  ∀ (d : Fin 2) (lane : Fin 4) (s : State),
    let o : Fin 2 := d + 1
    let x := s.die d
    (∃ t : State, exec (.laneRetire d lane) s = .next t ∧ bvf (t.die d).flstat (4 + lane.val) 1 = 0 ∧
      bvf (t.die o).flstat lane.val 1 = 0 ∧ t.cores = s.cores ∧ t.mem = s.mem ∧
      (bvf (bvSet x.flstat (4 + lane.val) 1 0) 4 4 ≠ 0 →
        ∃ n, (t.die d).retrain = some n ∧ s.qtime ≤ n ∧ n ≤ s.qtime + 2000) ∧
      (bvf (bvSet x.flstat (4 + lane.val) 1 0) 4 4 = 0 → ∀ e, (s.die e).lost = false → (s.die e).claimedAt = none →
        (t.die e).claimAt.isSome = true)) ∧
    (∀ n, x.retrain = some n → n ≤ s.qtime → bvf x.flstat 8 16 < 0xFFFF → ∃ t : State,
      exec (.laneRetrainComplete d) s = .next t ∧ (t.die d).retrain = none ∧
      bvf (t.die d).flstat 8 16 = bvf x.flstat 8 16 + 1 ∧ t.cores = s.cores) ∧
    (s.fwRuns d = true → bvf x.flstat 4 4 ≠ 0 → exec (.heartbeat d) s = .next ((s.modDie d fun x => { x with
      hbSent := s.qtime }).modDie o fun x => { x with hbSeen := s.qtime })) ∧
    (s.fwRuns d = true → bvf x.flstat 0 4 ≠ 0 → (s.die o).lost = false → x.hbSeen + 100000 ≤ s.qtime →
      ∃ t : State, exec (.heartbeatTimeout d) s = .next t ∧ (t.die o).lost = true) ∧
    (∀ n, x.claimAt = some n → n ≤ s.qtime → x.lost = false →
      ((s.die o).pinLow = false → exec (.splitClaim d) s = .next (s.modDie d fun x => { x with
        claimAt := none, pinLow := true, claimedAt := some s.qtime })) ∧
      ((s.die o).pinLow = true → exec (.splitClaim d) s = .next (s.modDie d fun x => { x with claimAt := none }))) ∧
    (∀ n, x.claimedAt = some n → n + 4000 ≤ s.qtime → (s.die 0).pinLow = true →
      (d = 1 → exec (.splitClaimCheck d) s = .next (s.modDie d fun x => { x with pinLow := false, claimedAt := none })) ∧
      (d = 0 → exec (.splitClaimCheck d) s = .next s)) ∧
    (∀ n, x.claimedAt = some n → n + 8000 ≤ s.qtime → x.pinLow = true → (s.die o).lost = false →
      ∃ t : State, exec (.splitWon d) s = .next t ∧ (t.die o).lost = true ∧ bvf (t.die d).flstat 30 1 = 1 ∧
        bvf (t.die d).flstat 31 1 = 1 ∧ ∀ k y, dieOf k = o → (s.core k).task = some y →
          (t.core k).task = some { y with phase := .held, cause := 0x81, cancelled := none })

/-- R12, R363 to R366, R409: when a die is lost, no context of it runs on, and a context of the survivor that has not touched it is
left alone; a reset takes the die, waits for its transactions, or with FORCE does not, and leaves its cores at their reset values
until it is released to boot. The model's reading, log 34: the fence returns every register of the die; its choice, log 7: the
reset values that the maps do not give. -/
def Obligations.DieLossAndReset : Prop :=
  ∀ (d : Fin 2) (s : State),
    let o : Fin 2 := d + 1
    ((s.die d).lost = false → ∃ t : State, exec (.dieLost d) s = .next t ∧ (t.die d).lost = true ∧
      bvf (t.die o).flstat 30 1 = 1 ∧ (∀ k, dieOf k = d → (t.core k).task = none ∧ (t.core k).cb = []) ∧
      (∀ k, dieOf k = o → bvf (s.core k).touched d.val 1 = 1 → (t.core k).task = none) ∧
      ∀ k, dieOf k = o → bvf (s.core k).touched d.val 1 = 0 →
        (t.core k).task = (s.core k).task ∧ ∀ q, (t.core k).sq q = (s.core k).sq q) ∧
    ((s.die d).rstphase = 0 → (s.die d).lost = false →
      (∃ t : State, exec (.dieResetGo d) s = .next t ∧ (t.die d).rstphase = 2 ∧ (t.die d).lost = true ∧
        (t.die d).rstQdl = s.qtime + 1000 * bvf (s.die d).rstctl 0 20 ∧ ∀ k, dieOf k = d → (t.core k).task = none) ∧
      ∃ t : State, exec (.dieResetForce d) s = .next t ∧ (t.die d).rstphase = 5 ∧ (t.die d).lost = true ∧
        ∀ k, dieOf k = d → t.core k = Core.reset) ∧
    ((s.die d).rstphase = 2 → s.feldsparBusy = false → ∃ t : State, exec (.dieResetQuiet d) s = .next t ∧
      (t.die d).rstphase = 5 ∧ ∀ k, dieOf k = d → t.core k = Core.reset) ∧
    ((s.die d).rstphase = 2 → s.feldsparBusy = true → exec (.dieResetQuiet d) s = .next s) ∧
    ((s.die d).rstphase = 2 → (s.die d).rstQdl ≤ s.qtime → ∃ t : State, exec (.qdeadline d) s = .next t ∧
      (t.die d).rstphase = 5 ∧ ∀ k, dieOf k = d → t.core k = Core.reset) ∧
    ((s.die d).rstphase = 5 → bvf (s.die d).bootstat 28 3 ≠ 2 → ∃ (t : State) (n : Nat),
      exec (.dieResetRelease d) s = .next t ∧ (t.die d).bootDue = some n ∧ s.rc < n ∧ bvf (t.die d).bootstat 28 3 = 2 ∧
        (t.die d).bootwin = (s.die o).bootwin ∧ t.cores = s.cores)

/-! ### Observation -/

/-- R386 to R389: the shadow trigger latches every counter of a die at its time; a trigger sets TRIGD and the end of POST, at
which the ring freezes until it is resumed; a class summary starts the counts of its window again. The model's choice, log 36:
a resume acts whether or not the ring is frozen. -/
def Obligations.Recorders : Prop :=
  ∀ (k : CoreId) (d : Fin 2) (p : PartId) (s : State),
    let x := s.die d
    (bvf s.shctl 30 1 = 0 → ∃ t : State, exec .shctlGo s = .next t ∧ bvf t.shctl 30 1 = 1 ∧
      ∀ e, (t.die e).sharmed = !(s.die e).lost) ∧
    (bvf s.shctl 30 1 = 1 → exec .shctlGo s = .next s) ∧
    (x.sharmed = true → s.shtime.toNat ≤ s.qtime → ∃ t : State, exec (.shadowLatch d) s = .next t ∧
      (t.die d).sharmed = false ∧ (t.die d).shlat = BitVec.ofNat 64 s.qtime ∧
      (∀ j, dieOf j = d → ∀ i : Fin 8, bvf (t.core j).cntshd[i] 0 49 = bvf (s.core j).cntval[i] 0 49 ∧
        bvf (t.core j).cntshd[i] 59 5 = bvf (s.core j).cntcfg[i] 24 5) ∧ ∀ j, dieOf j ≠ d → t.core j = s.core j) ∧
    (∃ t : State, exec (.tansyClassSummary k) s = .next t ∧ (∀ u : Fin 12, ((t.core k).units[u]).counts = [] ∧
      ((t.core k).units[u]).cls = ((s.core k).units[u]).cls) ∧ ∀ q, (t.core k).sq q = (s.core k).sq q) ∧
    (x.tnroom[p] ≠ 0 → ∃ t : State, exec (.tansyLostRecord d p) s = .next t ∧ (t.die d).tnroom[p] = 0 ∧
      t.cores = s.cores) ∧
    (bvf x.tnstat[p] 62 1 = 0 → bvf x.tnstat[p] 63 1 = 0 → ∃ t : State, exec (.incidentTrigger d p) s = .next t ∧
      bvf (t.die d).tnstat[p] 62 1 = 1 ∧ (t.die d).tnfreeze[p] = some (s.qtime + 1000 * bvf x.tntrig[p] 16 16) ∧
      bvf (t.die d).tnpos[p] 32 32 = bvf x.tnpos[p] 0 32 ∧ t.cores = s.cores) ∧
    (∀ n, x.tnfreeze[p] = some n → n ≤ s.qtime → exec (.tansyPostExpiry d p) s = .next (s.modDie d fun x => { x with
      tnfreeze := x.tnfreeze.set p none, tnstat := x.tnstat.set p (bvSet x.tnstat[p] 63 1 1) })) ∧
    (exec (.tansyResume d p) s = .next (s.modDie d fun x => { x with
      tnstat := x.tnstat.set p 0, tnfreeze := x.tnfreeze.set p none }))

/-- R390 to R394: a stop that is asked for takes effect at once outside loops, and in a loop when its end test has passed; RUN
ends it, with the end of its rc, and a step under way with it, whose reads are the region's again; a step lets the stepped
sequencer try its head, and for C gives the vector and matrix domains one cycle. The port acts only where its partition's
permission is set. A dump holds a stopped or held context, with what is not visible yet beside it; the firmware takes it without
a permission, which is noted for the port. -/
def Obligations.DebugPort : Prop :=
  ∀ (k : CoreId) (s : State) (y : TaskSt),
    let c := s.core k
    let perm := bvf (s.die (dieOf k)).dbgperm y.part.val 1
    c.task = some y →
    (perm = 1 → y.phase = .running → c.dbg = .running →
      exec (.stopreq k) s = .next (s.setCore k { c with dbg := .pending 0 })) ∧
    (perm ≠ 1 → exec (.stopreq k) s = .next s ∧ exec (.run k) s = .next s ∧ exec (.step k) s = .next s) ∧
    (∀ q, y.phase = .running → c.allArrived = false → c.ready = false → c.dbg = .due q ∨ (c.dbg = .pending q ∧ (c.sq q).live = []) →
      exec (.debugStop k) s = .next (s.setCore k { c with dbg := .stopped q, stopped := true, spec := none })) ∧
    (∀ q, c.dbg = .pending q → (c.sq q).live ≠ [] → exec (.debugStop k) s = .next s) ∧
    (perm = 1 → c.stopped = true → c.stepOff = false → exec (.run k) s = .next (s.setCore k { c with
      dbg := .running
      stepBase := none
      reads := (match c.stepBase with
        | some b => b.reads
        | none => []) ++ c.reads })) ∧
    (perm = 1 → c.stopped = true → bvf c.dbgctl 27 1 = 1 → c.stepping = false → c.dbg ≠ .running →
      let base : Core := { c with dbg := .stepping false, stepBase := some ⟨c.nextId, c.reads⟩, reads := [] }
      (bvf c.dbgctl 24 2 ≠ 2 → exec (.step k) s = .next (s.setCore k base)) ∧
      (bvf c.dbgctl 24 2 = 2 → exec (.step k) s = .next (s.setCore k { base with
        clocks := Vector.ofFn fun i : Fin 4 => if i = 1 ∨ i = 2 then { c.clocks[i] with cyc := (c.clocks[i]).cyc + 1, edge := true }
          else c.clocks[i] }))) ∧
    (c.stopped = true ∨ y.phase = .held → ∃ (t : State) (x : Dump), exec (.dump k) s = .next t ∧ x ∈ t.dump ∧ x.core = k ∧
      x.ctx.cb = c.cb.filter (fun l => !l.cur) ∧ x.lines = c.cb.filter CBLine.cur ∧
      x.ctx.lbuf = c.lbuf.filter (fun l => !l.cur) ∧ x.launches = c.lbuf.filter LaunchEnt.cur ∧ x.ctx.seqs = c.seqs ∧
      x.ctx.v = c.v ∧ x.ctx.mem = c.mem ∧ x.ctx.gen = c.gen ∧ x.ctx.cut = c.cut ∧ (x.port = true ↔ perm = 1) ∧
      t.cores = s.cores)

/-! ### The host -/

/-- R399, R400, R402: the one message that waits, of a version other than the agreed one, of an unknown type or with a header
field out of limits, is consumed and answered by a message 0x86: in the outbound ring when it has room and nothing waits, with
the interrupt, and behind what waits otherwise; while a claim holds the slot's line the write waits there (log 44). The message
that the doorbell announces is taken in that step. -/
def Claims.Rejects : Prop :=
  ∀ (d : Fin 2) (p : PartId) (s : State) (m : List (BitVec 8)) (reason : Nat),
    let x := s.die d
    let cfg := x.mbcfg[p]
    let r := x.mbptr[p]
    let f (i : Nat) : Nat := leNat ((m.drop i).take 1)
    let len : Nat := (bvf r 16 16 + 65536 - bvf r 0 16) % 65536
    let seq := (m.drop 4).take 4
    let slot : Nat := bvf cfg 12 28 * 4096 + 64 * 2 ^ (bvf cfg 56 4 + 4) + 64 * (bvf r 16 16 % 2 ^ (bvf cfg 52 4 + 4))
    let msg : List (BitVec 8) := [0x86, x.mbver[p], BitVec.ofNat 8 p.val, 0] ++ leBytes 4 (bvf r 16 16) ++ seq ++
      leBytes 1 reason ++ List.replicate 51 0
    let rejected (t : State) : Prop :=
      t.cores = s.cores ∧ bvf (t.die d).mbptr[p] 32 16 = (bvf r 32 16 + 1) % 65536 ∧
      bvf (t.die d).mbptr[p] 48 16 = bvf r 48 16 ∧ bvf (t.die d).mbptr[p] 0 16 = bvf r 0 16 ∧
      (x.mbout[p] = [] ∧ len < 2 ^ (bvf cfg 52 4 + 4) →
        (s.writeHeld slot 64 = false → t.mem.readN slot 64 = msg) ∧ (s.writeHeld slot 64 = true → (slot, msg, true) ∈ t.heldw) ∧
        bvf (t.die d).mbptr[p] 16 16 = (bvf r 16 16 + 1) % 65536 ∧ (t.die d).msix[p] = x.msix[p] + 1 ∧ (t.die d).mbout[p] = []) ∧
      (¬(x.mbout[p] = [] ∧ len < 2 ^ (bvf cfg 52 4 + 4)) →
        t.mem = s.mem ∧ bvf (t.die d).mbptr[p] 16 16 = bvf r 16 16 ∧
        (t.die d).mbout[p] = x.mbout[p] ++ [[0x86] ++ seq ++ leBytes 1 reason])
    s.mem.wf = true → x.mbver[p] ≠ 0 → s.inMsg d p = some m → s.inCount d p = 1 →
    (reason = 2 ∧ f 1 ≠ (x.mbver[p]).toNat ∨ reason = 1 ∧ f 1 = (x.mbver[p]).toNat ∧ 5 < f 0 ∨
      reason = 3 ∧ f 1 = (x.mbver[p]).toNat ∧ f 0 ≤ 5 ∧ (f 2 ≠ p.val ∨ f 3 ≠ 0)) →
    (∃ t : State, exec (.mailboxLaunch d p) s = .next t ∧ rejected t) ∧
    (s.fwRuns d = true → ∃ t : State, exec (.mailboxDoorbell d p (BitVec.ofNat 16 (bvf r 48 16))) s = .next t ∧ rejected t)

/-- R398 to R402: an ITAIL write moves the tail unless it would pass the ring; HELLO fixes the version that both sides have; a
launch message's record goes to the mirror areas, on its way to the queue; a message that is rejected, for its version (reason
2), its type (1) or a field of its header out of limits (3), is consumed and answered by a message 0x86 with its SEQ and the
reason. The model's choices: the mirrors' state (log 37), and that the version is looked at before the type and the type before
the header (log 46). -/
def Obligations.Mailboxes : Prop :=
  Claims.Rejects ∧
  ∀ (d : Fin 2) (p : PartId) (x : BitVec 16) (s : State),
    let r := (s.die d).mbptr[p]
    let n := (x.toNat + 65536 - bvf r 32 16) % 65536
    let size := 2 ^ (bvf (s.die d).mbcfg[p] 56 4 + 4)
    let moved := s.modDie d fun y => { y with mbptr := y.mbptr.set p (bvSet r 48 16 x.toNat) }
    (n ≤ size → (∀ m, moved.inMsg d p = some m → moved.msgBad d p m = none) →
      exec (.mailboxDoorbell d p x) s = .next moved) ∧
    (size < n → (∀ m, s.inMsg d p = some m → s.msgBad d p m = none) → exec (.mailboxDoorbell d p x) s = .next s) ∧
    ((bvf r 16 16 + 65536 - bvf r 0 16) % 65536 < (x.toNat + 65536 - bvf r 0 16) % 65536 →
      exec (.mailboxOheadWrite d p x) s = .next s) ∧
    ((x.toNat + 65536 - bvf r 0 16) % 65536 ≤ (bvf r 16 16 + 65536 - bvf r 0 16) % 65536 → (s.die d).mbout[p] = [] →
      exec (.mailboxOheadWrite d p x) s =
        .next (s.modDie d fun y => { y with mbptr := y.mbptr.set p (bvSet r 0 16 x.toNat) })) ∧
    (∀ m : List (BitVec 8), s.inMsg d p = some m → s.msgBad d p m = none →
      let f (i k : Nat) : Nat := leNat ((m.drop i).take k)
      let taken (t : State) : Prop := bvf (t.die d).mbptr[p] 32 16 = (bvf r 32 16 + 1) % 65536
      (f 0 1 = 0 → ∃ t : State, exec (.hello d p) s = .next t ∧ taken t ∧ t.cores = s.cores ∧
        (t.die d).mbver[p] = (if f 8 1 ≤ 1 ∧ 1 ≤ f 9 1 then 1 else 0)) ∧
      (∀ a : List (BitVec 8), f 0 1 = 1 → (s.die d).queueFull p = false → f 8 8 % 64 = 0 →
        s.vread d p 2 (f 8 8) 64 = some a → bvf (s.die d).partcfg[p] 63 1 = 1 →
        (launchOk a = true → ∃ (t : State) (n : Nat), exec (.mailboxLaunch d p) s = .next t ∧ taken t ∧ t.cores = s.cores ∧
          s.rc < n ∧ (t.die d).mirrors = (s.die d).mirrors ++ [(n, launchOf p a)] ∧ (t.die d).launchq = (s.die d).launchq) ∧
        (launchOk a = false → ∃ t : State, exec (.mailboxLaunch d p) s = .next t ∧ taken t ∧ t.cores = s.cores ∧
          (t.die d).mirrors = (s.die d).mirrors ∧ (t.die d).launchq = (s.die d).launchq)) ∧
      (f 0 1 = 5 → bvf (s.die d).tnstat[p] 63 1 = 0 → ∃ t : State, exec (.trigger d p) s = .next t ∧ taken t ∧
        bvf (t.die d).tnstat[p] 62 1 = 1 ∧ t.cores = s.cores))

/-- R265, R329, R381, R386: a reply to a fault request of the running context lets a halted L go on, or with ABORT takes cause
0x40; a cancel reaches every task of its gang; a partition writes a counter that is its own, and a read is answered with a message
0x85 that holds the counter's configuration and value when it is its own, and zeros when it is another's. -/
def Obligations.PartitionRequests : Prop :=
  ∀ (d : Fin 2) (p : PartId) (s : State) (m : List (BitVec 8)),
    let f (i k : Nat) : Nat := leNat ((m.drop i).take k)
    s.inMsg d p = some m → s.msgBad d p m = none →
    (∀ (k : CoreId) (y : TaskSt), f 0 1 = 2 → f 10 1 < 16 → f 11 1 < 2 → s.holder y.key = some k →
      (s.core k).task = some y → y.phase = .running → y.part = p → y.gang.toNat = f 8 2 → y.idx.toNat = f 10 1 →
      (s.core k).frec.outst = true → (s.core k).frec.gen.toNat = f 12 4 →
      (s.core k).frec.detail.toNat % 65536 = f 16 2 →
      (f 11 1 = 0 → ∃ t : State, exec (.faultReply d p) s = .next t ∧ (t.core k).halted = none ∧
        (t.core k).frec.replied = true ∧ (t.core k).frec.verdict = false ∧ (t.core k).task = some y) ∧
      (∀ h, f 11 1 = 1 → (s.core k).halted = some h → h.va / 65536 = (s.core k).frec.va.toNat / 65536 →
        (s.core k).rolled = false → ∃ t : State, exec (.faultReply d p) s = .next t ∧
          (t.core k).task = some { y with phase := .held, cause := 0x40 })) ∧
    (f 0 1 = 3 → ∃ t : State, exec (.cancel d p) s = .next t ∧
      (∀ k b, (s.core k).staged = some b → b.part = p.val → b.gang = BitVec.ofNat 16 (f 8 2) → (t.core k).staged = none) ∧
      ∀ k y, (s.die (dieOf k)).lost = false → (s.core k).task = some y → y.part = p → y.gang = BitVec.ofNat 16 (f 8 2) →
        (t.core k).task = none ∨ ∃ z, (t.core k).task = some z ∧ z.cancelled.isSome = true) ∧
    (∀ (k : CoreId) (i : Fin 8), f 0 1 = 4 → f 8 1 = k.val → f 9 1 = i.val → f 10 1 = 0 → dieOf k = d →
      let answer (cfg val : Nat) : Prop :=
        exec (.counterAccess d p) s = .next ((s.consume d p).postOut d p 0x85
          (leBytes 1 k.val ++ leBytes 1 i.val ++ leBytes 6 0 ++ leBytes 8 cfg ++ leBytes 8 val))
      (bvf (s.core k).cntcfg[i] 24 5 = p.val → answer ((s.core k).cntcfg[i]).toNat ((s.core k).cntval[i]).toNat) ∧
      (bvf (s.core k).cntcfg[i] 24 5 ≠ p.val → answer 0 0)) ∧
    (∀ (k : CoreId) (i : Fin 8), f 0 1 = 4 → f 8 1 = k.val → f 9 1 = i.val → f 10 1 = 1 → dieOf k = d →
      (bvf (s.core k).cntcfg[i] 24 5 = p.val → cntOk (f 16 8) = true → ∃ t : State,
        exec (.counterAccess d p) s = .next t ∧ bvf (t.core k).cntval[i] 0 48 = f 24 8 % 2 ^ 48 ∧
        bvf (t.core k).cntcfg[i] 0 20 = f 16 8 % 2 ^ 20 ∧ bvf (t.core k).cntcfg[i] 24 5 = p.val ∧
        ∀ j : Fin 8, j ≠ i → (t.core k).cntval[j] = (s.core k).cntval[j]) ∧
      (bvf (s.core k).cntcfg[i] 24 5 ≠ p.val → ∃ t : State, exec (.counterAccess d p) s = .next t ∧ t.cores = s.cores))

/-- R12, R404 to R408, R397, R299: power-on reset leaves the reset state; a die verifies the image of die 0, runs it when it
passes and fails with its first failing check otherwise, or after 10 s; accesses from outside the cores read and write the
bytes they name and no others. The model's choice: what a power-on reset keeps of the outside (log 34), that a read's bytes
are held in a field (log 37), that the system range is memory (log 6), and that a write waits while a claim holds its line (44). -/
def Obligations.BootAndAccesses : Prop :=
  ∀ (d : Fin 2) (p : PartId) (off : BitVec 36) (pa : BitVec 40) (n : Fin 65) (data : BitVec 512) (s : State),
    let x := s.die d
    let o : Fin 2 := d + 1
    (exec .powerOnReset s = .next { State.reset with rc := s.rc + 1, inputs := s.inputs, free := s.free, watch := s.watch }) ∧
    (bvf x.bootstat 28 3 = 1 → x.rstphase = 0 → ∃ (t : State) (e : Nat), exec .bootGo s = .next t ∧
      (t.die d).bootDue = some e ∧ s.rc < e ∧ bvf (t.die d).bootstat 28 3 = 2 ∧
      (t.die d).bootwin = (s.die 0).bootwin ∧ t.cores = s.cores) ∧
    (∀ e, x.bootDue = some e → e ≤ s.rc → bvf x.bootstat 28 3 = 2 → bvf (s.die o).bootstat 28 3 < 3 →
      ∃ t : State, exec (.bootVerifyComplete d) s = .next t ∧ (t.die d).bootDue = none ∧
        (bootErr d x.bootwin = 0 → bvf (t.die d).bootstat 28 3 = 3 ∧ bvf (t.die d).bootstat 24 4 = 0 ∧ (t.die d).lost = false) ∧
        (bootErr d x.bootwin ≠ 0 → bvf (t.die d).bootstat 28 3 = 4 ∧ bvf (t.die d).bootstat 24 4 = bootErr d x.bootwin)) ∧
    (bvf x.bootstat 28 3 = 1 → x.rstphase = 0 → 10000000000 ≤ s.qtime → ∃ t : State, exec (.bootTimeout d) s = .next t ∧
      bvf (t.die d).bootstat 28 3 = 4 ∧ bvf (t.die d).bootstat 24 4 = 6) ∧
    (bvf x.bootstat 28 3 = 1 → s.qtime < 10000000000 → exec (.bootTimeout d) s = .next s) ∧
    (MemOk s → ∀ lo hi, s.allotRanges d p = [(lo, hi)] → off.toNat + n.val ≤ hi + 1 - lo → off.toNat + n.val ≤ 2 ^ 36 → 0 < n.val →
      (s.writeHeld (lo + off.toNat) n.val = false → ∃ t : State,
        exec (.hostBar2Access d p off true n data) s = .next t ∧ t.cores = s.cores ∧
        ∀ a, t.mem.read a = if lo + off.toNat ≤ a ∧ a < lo + off.toNat + n.val then
          BitVec.ofNat 8 (data.toNat / 256 ^ (a - (lo + off.toNat))) else s.mem.read a) ∧
      exec (.hostBar2Access d p off false n data) s = .next { s with bar2 := s.mem.readN (lo + off.toNat) n.val }) ∧
    (MemOk s → (s.writeHeld pa.toNat n.val = false → ∃ t : State,
        exec (.applicationCoreAccess pa true n data) s = .next t ∧ t.cores = s.cores ∧
        ∀ a, t.mem.read a = if pa.toNat ≤ a ∧ a < pa.toNat + n.val then
          BitVec.ofNat 8 (data.toNat / 256 ^ (a - pa.toNat)) else s.mem.read a) ∧
      (s.writeHeld pa.toNat n.val = true → 0 < n.val → pa.toNat % 64 + n.val ≤ 64 →
        exec (.applicationCoreAccess pa true n data) s =
          .next { s with heldw := s.heldw ++ [(pa.toNat, (leBytes 64 data.toNat).take n.val, false)] }) ∧
      exec (.applicationCoreAccess pa false n data) s = .next { s with bar2 := s.mem.readN pa.toNat n.val })

/-- R11, R267, R270, R322, R335, R370, R381, R390, R393, R397, R398, R404: writes of the management and debug registers that give no
command (GO, STOPREQ, RUN, STEP, and changes of EN and BROKEN have rows of their own) keep the bits their maps make writable, with
the smallest and largest values the maps give, and change nothing else; a 1 clears a bit that its map clears by one; a register of
a core takes a write from its own die alone; MBPTR takes its doorbell and then its OHEAD; and a BAR0 window passes a write on to the
register it holds. The model's choices: a write takes effect in the rc of its input, and the oldest launch, candidate and
interrupt are taken by writes of their own (log 28); SLEW (log 13); the disciplining port, and the list of what PF0 reaches (log
37). -/
def Obligations.RegisterWrites : Prop :=
  ∀ (d port : Fin 2) (p : PartId) (k : CoreId) (i : Fin 4) (j : Fin 8) (e t : Fin 256) (m : Fin 16) (v : BitVec 64)
    (a : BitVec 22) (off : BitVec 12) (reg : MReg) (on : Bool) (s : State),
    let c := s.core k
    let w (r : MReg) (u : State) : Prop := exec (.registerWrite d r v) s = .next u
    let wr (r : MReg) (f : Die → Die) : Prop := w r (s.modDie d f)
    let own (r : MReg) (f : Core → Core) : Prop := w r (if dieOf k = d then s.setCore k (f c) else s)
    let lower : BitVec 32 := v.setWidth 32
    wr (.ptroot p) (fun x => { x with ptroot := x.ptroot.set p (v &&& 0x000000FFFFFFF001) }) ∧
    (bvf v 63 1 = 0 → wr .sdcmd (fun x => { x with sdcmd := v &&& 0x600FFFFFFFFF0000 })) ∧
    wr .sdstat (fun x => if bvf v 29 1 = 1 then { x with sdstat := bvSet x.sdstat 29 1 0 } else x) ∧
    wr .linkret (fun x => { x with linkret := lower &&& 0x00FFFFFF }) ∧
    wr .cohctl (fun x => { x with cohctl := BitVec.ofNat 32 (max 1 (v.toNat % 65536)) }) ∧
    wr (.partcfg p) (fun x => { x with partcfg := x.partcfg.set p (v &&& 0xC00000FFFFFFFFFF) }) ∧
    wr (.partlim p) (fun x => { x with partlim := x.partlim.set p (bvSet (v &&& 0x0000001F0FFFFFFF) 24 4 (max 1 (bvf v 24 4))) }) ∧
    wr (.allot p j) (fun x => { x with allot := x.allot.set (Fin.ofNat 128 (p.val * 8 + j.val)) (v &&& 0x8000FFFFFFFFFFFF) }) ∧
    wr (.partstat p) (fun x => { x with partstat := x.partstat.set p (v &&& 0x0000FFFFFFFFFFFF) }) ∧
    wr .ttctl (fun x => { x with
      ttctl := bvSet (v &&& 0x800FFFFF1FFFFFFF) 32 20 (min 1000000 (max 1 (bvf v 32 20)))
      ttrun := x.ttrun && bvf v 63 1 == 1 }) ∧
    wr .ttstat (fun x => if bvf v 31 1 = 1 then { x with ttstat := bvSet x.ttstat 31 1 0 } else x) ∧
    wr (.tteA e) (fun x => { x with tteA := x.tteA.set e (v &&& 0x0FFFFFFFFFFFFFFF) }) ∧
    wr (.tteB e) (fun x => { x with tteB := x.tteB.set e (v &&& 0x0000FFFFFFFFFFFF) }) ∧
    wr (.elogcfg p) (fun x => { x with elogcfg := x.elogcfg.set p (v &&& 0x8F0000FFFFFFF000) }) ∧
    (bvf v 63 1 = 0 → wr .rstctl (fun x => { x with rstctl := BitVec.ofNat 64 (max 1 (v.toNat % 2 ^ 20)) })) ∧
    wr .pwrcap (fun x => { x with
      pwrcap := bvSet (bvSet x.pwrcap 7 1 (bvf v 7 1)) 0 2 (if bvf v 0 2 = 3 then 2 else bvf v 0 2) }) ∧
    wr (.cntbase p) (fun x => { x with cntbase := x.cntbase.set p (v &&& 0x800000FFFFFFF800) }) ∧
    wr (.tncfg p) (fun x => { x with tncfg := x.tncfg.set p (v &&& 0x8FF000FFFFFFF000) }) ∧
    wr (.tntrig p) (fun x => { x with tntrig := x.tntrig.set p (lower &&& 0xFFFF001E) }) ∧
    wr .dbgperm (fun x => { x with dbgperm := lower &&& 0xFFFF }) ∧
    ((s.die d).mbout[p] = [] → wr (.mbcfg p) (fun x => { x with mbcfg := x.mbcfg.set p (v &&& 0x8FF000FFFFFFF000) })) ∧
    wr (.bootwin a) (fun x => { x with bootwin := x.bootwin.writeN a.toNat ((leBytes 8 v.toNat).take (4194304 - a.toNat)) }) ∧
    wr (.launchTake p) (fun x => { x with launchq := x.launchq.set p (x.launchq[p]).tail }) ∧
    (∃ u : State, w .migthresh u ∧ u.cores = s.cores ∧
      (u.die d).migthresh = bvSet (lower &&& 0x0001FFFF) 0 16 (max 1 (v.toNat % 65536))) ∧
    own (.cntalloc k) (fun c => { c with cntalloc := lower &&& 0xFF }) ∧
    own (.cntcfg k j) (fun c => if cntOk v.toNat then { c with
      cntcfg := c.cntcfg.set j (bvSet (lower &&& 0xC00FFFFF) 24 5 (bvf c.cntcfg[j] 24 5)) } else c) ∧
    own (.cntval k j) (fun c => { c with
      cntval := c.cntval.set j (BitVec.ofNat 64 (v.toNat % 2 ^ 48 +
        (if bvf v 48 1 = 1 ∧ j ∉ c.ovfs then 0 else bvf c.cntval[j] 48 1) * 2 ^ 48))
      cntset := c.cntset ++ [j] }) ∧
    (bvf v 29 3 = 0 →
      let r := bvSet (bvSet c.dbgctl 28 1 (bvf v 28 1)) 24 2 (bvf v 24 2)
      (c.stopped = false ∨ bvf c.dbgctl 27 1 = 0 ∨ bvf v 27 1 = 1 →
        own (.dbgctl k) (fun c => { c with stepOff := false, dbgctl := bvSet r 27 1 (bvf v 27 1) })) ∧
      (c.stopped = true → bvf c.dbgctl 27 1 = 1 → bvf v 27 1 = 0 →
        own (.dbgctl k) (fun c => { c with stepOff := true, dbgctl := r }))) ∧
    own (.dbgbp k i) (fun c => { c with dbgbp := c.dbgbp.set i (v &&& 0xF0FFFFFFFFFFFFFF) }) ∧
    (bvf v 63 1 = 0 → w .qstep (if d = 0 ∧ bvf v 60 1 = 1 then { s with qstep := bvSet s.qstep 60 1 0 } else s)) ∧
    w .shtime (if d = 0 then { s with shtime := v } else s) ∧
    (let x := s.team t.val
     (x.en = true → (bvf v 62 2 = 2 → w (.grpctl t) (s.setTeam t.val x)) ∧ w (.grpmem t m) s) ∧
     (x.en = false →
      (bvf v 62 2 = 0 → w (.grpctl t) (s.setTeam t.val { x with
        part := BitVec.ofNat 4 (bvf v 52 4), timeout := BitVec.ofNat 20 (bvf v 12 20), count := BitVec.ofNat 5 (bvf v 0 5) })) ∧
      w (.grpmem t m) (s.setTeam t.val { x with mem := x.mem.set m { x.mem[m] with
        v := bvf v 31 1 == 1, task := BitVec.ofNat 4 (bvf v 20 4), gang := BitVec.ofNat 16 (bvf v 4 16) } }))) ∧
    (∀ u, exec (.mailboxDoorbell d p (BitVec.ofNat 16 (bvf v 48 16))) s = .next u →
      exec (.registerWrite d (.mbptr p) v) s = exec (.mailboxOheadWrite d p (BitVec.ofNat 16 (bvf v 0 16))) u) ∧
    wr .migTake (fun x => { x with migcand := x.migcand.tail }) ∧ wr .irqTake (fun x => { x with irqs := x.irqs.tail }) ∧
    w .slew { s with slew := max (-500) (min 500 v.toInt) } ∧ w (.discipline port) { s with ptpPort := some port } ∧
    wr (.permit reg on) (fun x => { x with
      permits := if on then x.permits ++ [reg] else x.permits.filter fun y => decide (y ≠ reg) }) ∧
    (let same (r r' : MReg) : Prop := exec (.registerWrite d r v) s = exec (.registerWrite d r' v) s
     (off = 0 → same (.vfBar0 p off) (.mbcfg p)) ∧ (off = 8 → same (.vfBar0 p off) (.mbptr p)) ∧
     (off ≠ 0 → off ≠ 8 → w (.vfBar0 p off) s) ∧ same (.pfBar0 (.bootwin a)) (.bootwin a) ∧
     (reg ∈ (s.die d).permits → same (.pfBar0 reg) reg) ∧
     (reg ∉ (s.die d).permits → (∀ y, reg ≠ .bootwin y) → w (.pfBar0 reg) s))

/-! ### Decoding -/

/-- R55: major 0. The minor selects the instruction, with fields D and A zero; every other word of the major is an illegal
instruction, cause 0x10. The ring bits and the guard are those of R41. -/
def Obligations.MajorZero : Prop :=
  ∀ (q : Seq) (top : BitVec 8) (ops : BitVec 18) (w2 : Word32),
    let w : Word32 := top ++ (0#6 ++ ops)
    let h : Hdr := ⟨⟨top.getLsbD 7, top.getLsbD 6, top.getLsbD 5, top.getLsbD 4⟩, top.getLsbD 3, Fin.ofNat 8 top.toNat⟩
    let minor := ops.toNat % 64
    (ops.toNat / 64 = 0 →
      (minor = 0 → decode q w w2 = .ok (.nop h)) ∧ (minor = 1 → decode q w w2 = .ok (.brk h)) ∧
      (minor = 4 → decode q w w2 = .ok (.xfenceCore h)) ∧ (minor = 5 → decode q w w2 = .ok (.xfenceQuad h)) ∧
      (minor = 6 → decode q w w2 = .ok (.xfenceDev h)) ∧ (minor = 7 → decode q w w2 = .ok (.xfenceSys h))) ∧
    (ops.toNat / 64 ≠ 0 ∨ minor ∉ [0, 1, 4, 5, 6, 7] → ∃ e : DecodeErr, decode q w w2 = .error e ∧ e.cause = 0x10)

/-- Words that the spec writes out, and the selectors of R45, decode to the instructions they stand for, in the sequencer
that holds them. -/
def Obligations.WordsDecode : Prop :=
  let z : Hdr := ⟨⟨false, false, false, false⟩, false, 0⟩
  let n : Comp := ⟨false, false⟩
  decode .s 0x100C4121 0 = .ok (.sub { z with ring := ⟨false, false, false, true⟩ } (.reg 4) (.reg 4) (.latch 1)) ∧
  decode .l 0x930851A2 0 = .ok (.add ⟨⟨true, false, false, true⟩, false, 3⟩ (.reg 5) (.reg 6) (.latch 2)) ∧
  decode .k 0x002A0083 0 = .ok (.mul z .latch (.reg 2) (.reg 3)) ∧
  decode .k 0x00345140 0x04F89ABC = .ok (.lih z (.reg 5) (.reg 5) 0x389ABC n) ∧
  decode .c 0x0044A1C0 0x007FFFFB = .ok (.cmplti z 1 2 (.reg 7) 0x3FFFFB n) ∧
  decode .s 0x0A4FFFFD 0 = .ok (.br ⟨⟨false, false, false, false⟩, true, 2⟩ 0x3FFFD) ∧
  decode .c 0x00041317 0 = .ok (.commit ⟨false, false, false, false⟩ true 3 0x17) ∧
  decode .l 0x006442A0 0x08000040 = .ok (.ldx z (.reg 4) (.reg 10) .w .drop 0x40 n) ∧
  decode .k 0x008491B0 0x0EFFFFF8 = .ok (.std z (.reg 9) (.reg 6) .d .sys true 0xFFFFF8 n) ∧
  decode .s 0x008C4209 0x09290000 = .ok (.atomCas z (.reg 4) (.reg 8) (.reg 9) (.reg 10) ⟨.quad, false, false, false⟩ n) ∧
  decode .c 0x026010A8 0x00140000 = .ok (.vadd { z with gp := 2 } (.reg 1) (.reg 2) (.pop 0) .int32 true n) ∧
  decode .c 0x007880C0 0x07900000 = .ok (.vcvt z (.reg 8) (.reg 3) .fp16 .fp32 .rne false n) ∧
  decode .c 0x0092281F 0x01F15C00 = .ok (.mma z 2 false 2 4 31 ⟨7, true, true, 1, false, true, .quad, 3⟩ n) ∧
  decode .k 0x00B850C0 0 = .ok (.groupRank z (.reg 5) (.reg 3)) ∧
  (∀ (q : Seq) (v : Fin 64), let r := decode q (BitVec.ofNat 32 (2 * 2 ^ 18 + 4096 + v.val * 64 + 2)) 0
    if v.val < 32 then r = .ok (.add z (.reg 1) (.reg (Fin.ofNat 32 v.val)) (.reg 2))
    else if v.val < 36 then r = .ok (.add z (.reg 1) (.latch (Fin.ofNat 4 v.val)) (.reg 2))
    else if (40 ≤ v.val ∧ v.val < 46 ∧ q = .c) ∨ (46 ≤ v.val ∧ v.val < 48 ∧ q = .s) then
      r = .ok (.add z (.reg 1) (.pop (Fin.ofNat 8 v.val)) (.reg 2))
    else if (48 ≤ v.val ∧ v.val < 54 ∧ q = .c) ∨ (54 ≤ v.val ∧ v.val < 56 ∧ q = .s) then
      r = .ok (.add z (.reg 1) (.peek (Fin.ofNat 8 v.val)) (.reg 2))
    else r = .error .operand)

/-- The encoder and the decoder agree (R41 to R69): the words of every instruction that is well formed in a sequencer decode
to it there, with every operand at every value that the encoding admits, and its length is that of its major (R49). -/
def Obligations.EncodingsDecode : Prop :=
  ∀ (q : Seq) (i : Instr), i.wf q = true →
    (∃ w : Word32, encode i = [w] ∧ twoWord q (majOf w) = false ∧ ∀ w2 : Word32, decode q w w2 = .ok i) ∨
    ∃ w w2 : Word32, encode i = [w, w2] ∧ twoWord q (majOf w) = true ∧ decode q w w2 = .ok i

/-- What decodes is well formed, and no bit of its words is passed over (R13, R44): the encoder gives them back. -/
def Obligations.DecodedWordsAreTheirs : Prop :=
  ∀ (q : Seq) (w w2 : Word32) (i : Instr), decode q w w2 = .ok i →
    i.wf q = true ∧ encode i = if twoWord q (majOf w) then [w, w2] else [w]

/-! ### The whole machine -/

/-- R12, R98, R99, R115: a step at a sequencer's turn to issue runs the instruction that its words decode to. When the
sequencer may issue, nothing holds it, and the words at its program counter are in its I-cache, the step is that instruction's
meaning in a state that differs from the one before in where the turn stands and in the order of use of I-cache lines; the
step adds the class of the unit, with the token of a task's first issue, and for L's branches and compares the speculation of
R119. A step at another action is that action's meaning, and with none left it enters the next phase. The model's choice: the
order of actions in an rc (log 1), and how the speculation is carried out (log 20). -/
def Obligations.StepRunsDecoded : Prop :=
  ∀ (s : State) (rest : List Action),
    (∀ (k : CoreId) (q : Seq) (w w2 : Word32) (i : Instr), let c := s.core k
      let x := c.sq q.idx
      s.agenda = .issue k q :: rest → c.mayIssue q = true → x.arrival = none → c.mid = none → x.pay = 0 →
      (c.pinned = true → s.holdsPin k = true) → (q = .l → c.halted = none ∧ c.spec = none) →
      c.icWord q.idx x.pc.toNat = some w → (twoWord q (majOf w) = true → c.icWord q.idx (x.pc + 4).toNat = some w2) →
      decode q w (if twoWord q (majOf w) then w2 else 0) = .ok i →
      ∃ ic : Vector (Vector (List ICLine) 64) 4,
        step s = andThen
          (exec i { s with agenda := rest, curCore := k, curSeq := q, cores := s.cores.set k { c with ic := ic } })
          fun t => (t.specAfter k q i).attempted k q.idx) ∧
    (∀ i : Instr, s.agenda = .ev i :: rest → step s = exec i { s with agenda := rest }) ∧
    (s.agenda = [] → step s = .next s.enter)

/-- R12, R406: what power-on reset leaves: no core runs a task, the registers stand at the values of their maps, and each die
waits for its boot image; every memory has its canonical form. The model's choice, log 7: the values that the maps do not
give. -/
def Obligations.ResetState : Prop :=
  let s := State.reset
  (∀ k : CoreId, let c := s.core k
    c.task = none ∧ c.staged = none ∧ c.retired = false ∧ c.failed = false ∧ c.seqid = 0 ∧ c.gen = 0 ∧ c.clkdiv = 0 ∧
      c.level = 2 ∧ c.vl = 64 ∧ c.abfttol = 0x100 ∧ c.histp = 0x100 ∧ c.fmterr = 0 ∧ c.drainpos = 0 ∧ c.rgnmax = 0x10000 ∧
      c.rgncnt = 0 ∧ c.retrylim = 3 ∧ c.share = 0 ∧ c.qwpart = 0 ∧ (∀ i : Fin 8, c.tshape[i] = 0x002401C0) ∧
      (∀ i : Fin 16, c.fmt[i] = 0x00002402) ∧ c.cntalloc = 0 ∧ (∀ i : Fin 8, c.cntval[i] = 0)) ∧
  (∀ d : Fin 2, let x := s.die d
    bvf x.bootstat 28 3 = 1 ∧ bvf x.bootstat 24 4 = 0 ∧ x.flstat = 0xFF ∧ x.rstctl = 0x3E8 ∧ x.cohctl = 0x40 ∧
      x.migthresh = 0x00010400 ∧ x.linkret = 0 ∧ x.pwrcap = 0x00003302 ∧ x.dbgperm = 0 ∧ x.ttstat = 0 ∧
      x.ttctl = 0x000F424000000000 ∧ (∀ p : PartId, x.ptroot[p] = 0 ∧ x.partcfg[p] = 0x104104 ∧
        x.partlim[p] = 0x03010000 ∧ x.elogcfg[p] = 0 ∧ x.mbcfg[p] = 0 ∧ x.mbver[p] = 1 ∧ x.tncfg[p] = 0x0020000000000000 ∧
        x.tntrig[p] = 6)) ∧
  s.qstep = 0 ∧ s.shctl = 0 ∧ MemOk s

/-- Every step keeps the canonical form of every memory: device memory, every core's local store, those of saved contexts
and of a dump, and the boot windows. -/
def Obligations.MemoriesKept : Prop := ∀ s t : State, MemOk s → step s = .next t → MemOk t
end

