-- ==== Sys2Proof/Laws/Issue.lean ====
section
/-! SUPPORT. What an issue does, said once: when the checks pass, `issue` runs the body and retires the instruction, and
retiring changes nothing but what `Frame` leaves open. -/

namespace Sys2Proof.Machine

/-- When an instruction's head passes the checks, `issue` answers what its body answers. -/
theorem issue_goes {op : Op} {body : State → Out} {s : State} (g : Goes op s) :
    issue op body s = match body s with
      | .done s' n late => .next (s'.retire op true n late)
      | .stall cls s' => .next (s'.stallWith cls)
      | .trap cause detail addr s' => .next ((s'.noted op).trapHere cause detail addr)
      | .yield s' => .next s' := by
  have hl : ¬(s.curSeq.idx = 1 ∧ s.me.loads.any (fun l => l.acq) = true) := by
    rintro ⟨h1, h2⟩
    rw [g.acquire h1] at h2
    exact absurd h2 (by simp)
  have hk := g.known
  have hh := g.holds
  have hf := g.free
  simp only [State.mySeq] at hk hh hf
  have hfin : ∀ s' n late, s.finish s' op true n late = s'.retire op true n late := by
    intro s' n late
    unfold State.finish
    by_cases h : op.len = 2
    · simp [h, g.fits h]
    · simp [h]
  unfold issue
  simp only [g.sometimes, hk, hh, hf, hl, g.banks, hfin, Bool.not_false, Bool.not_true, Bool.or_true, Bool.and_true,
    Bool.false_eq_true, if_false, g.tokens, g.queues]
  all_goals (cases body s <;> rfl)

/-! ### The end of an issue -/

@[simp] theorem modCore_curCore (s : State) (k : CoreId) (f : Core → Core) : (s.modCore k f).curCore = s.curCore := rfl
@[simp] theorem modCore_curSeq (s : State) (k : CoreId) (f : Core → Core) : (s.modCore k f).curSeq = s.curSeq := rfl
@[simp] theorem modMe_curCore (s : State) (f : Core → Core) : (s.modMe f).curCore = s.curCore := rfl
@[simp] theorem modMe_curSeq (s : State) (f : Core → Core) : (s.modMe f).curSeq = s.curSeq := rfl
@[simp] theorem modCore_core_same (s : State) (k : CoreId) (f : Core → Core) : (s.modCore k f).core k = f (s.core k) := by
  simp [State.modCore, State.setCore, State.core]
theorem modCore_core_other (s : State) {k j : CoreId} (f : Core → Core) (h : j ≠ k) :
    (s.modCore k f).core j = s.core j := by
  have : k.val ≠ j.val := fun e => h (Fin.ext e.symm)
  simp [State.modCore, State.setCore, State.core, this]
@[simp] theorem modMe_me (s : State) (f : Core → Core) : (s.modMe f).me = f s.me := by
  simp [State.modMe, State.me]
theorem modMe_outside (s : State) (f : Core → Core) : s.modMe f = { s with cores := (s.modMe f).cores } := rfl
@[simp] theorem modSeq_sq_same (c : Core) (q : Fin 4) (f : SeqSt → SeqSt) : (c.modSeq q f).sq q = f (c.sq q) := by
  simp [Core.modSeq, Core.sq]
theorem modSeq_sq_other (c : Core) {q j : Fin 4} (f : SeqSt → SeqSt) (h : j ≠ q) : (c.modSeq q f).sq j = c.sq j := by
  have : q.val ≠ j.val := fun e => h (Fin.ext e.symm)
  simp [Core.modSeq, Core.sq, this]
@[simp] theorem modSeq_modSeq (c : Core) (q : Fin 4) (f g : SeqSt → SeqSt) :
    (c.modSeq q f).modSeq q g = c.modSeq q fun x => g (f x) := by
  simp [Core.modSeq, Core.sq]

/-- A frame followed by one that leaves the core's registers alone. -/
theorem Frame.trans {own : Core → Core} {s t u : State} (h : Frame own s t) (g : Frame id t u) : Frame own s u := by
  have hk : t.curCore = s.curCore := by rw [h.outside]
  have hq : t.curSeq = s.curSeq := by rw [h.outside]
  constructor
  · rw [g.outside]
    conv_lhs => rw [h.outside]
  · intro k hn
    rw [g.others k (by rwa [hk]), h.others k hn]
  · rw [g.core, id, h.core]
  · intro b
    rw [g.banks, h.banks]
  · intro j hn
    rw [g.seqs j (by rwa [hq]), h.seqs j hn]
  · rw [g.scalars, h.scalars]
  · rw [g.latches, h.latches]
  · intro a
    rw [g.memory, h.memory]
  · intro k a
    rw [g.stores, ← h.stores]
    simp

/-- A change of the current core that touches only what a frame leaves open is framed. -/
theorem frame_modMe {own f : Core → Core} {s : State}
    (core : f s.me = { own s.me with
      seqs := (f s.me).seqs, tok := (f s.me).tok, waited := (f s.me).waited, signalled := (f s.me).signalled,
      q := (f s.me).q, offered := (f s.me).offered, nextId := (f s.me).nextId, banks := (f s.me).banks,
      cntval := (f s.me).cntval, ovfs := (f s.me).ovfs, dbg := (f s.me).dbg, notes := (f s.me).notes })
    (banks : ∀ b, ((f s.me).bank b).state = (s.me.bank b).state)
    (seqs : ∀ j, j ≠ s.curSeq.idx → (f s.me).sq j = s.me.sq j)
    (scalars : ((f s.me).sq s.curSeq.idx).s = s.mySeq.s) (latches : ((f s.me).sq s.curSeq.idx).b = s.mySeq.b) :
    Frame own s (s.modMe f) := by
  constructor
  · rfl
  · intro k hn
    exact modCore_core_other s f hn
  · rw [modMe_me]; exact core
  · intro b; rw [modMe_me]; exact banks b
  · intro j hj; rw [modMe_me]; exact seqs j hj
  · simpa [State.mySeq] using scalars
  · simpa [State.mySeq] using latches
  · intro a; rfl
  · intro k a
    by_cases hk : k = s.curCore
    · subst hk
      rw [if_pos rfl]
      have : (s.modMe f).core s.curCore = f s.me := modCore_core_same s s.curCore f
      rw [this, core]
      rfl
    · rw [if_neg hk, show (s.modMe f).core k = s.core k from modCore_core_other s f hk]

/-- `d` differs from `c` only in what the end of an issue of sequencer `q` writes. -/
structure Light (q : Fin 4) (c d : Core) : Prop where
  core : d = { c with
    seqs := d.seqs, tok := d.tok, waited := d.waited, signalled := d.signalled, q := d.q, offered := d.offered,
    nextId := d.nextId, banks := d.banks, cntval := d.cntval, ovfs := d.ovfs, dbg := d.dbg, notes := d.notes }
  banks : ∀ b, (d.bank b).state = (c.bank b).state
  seqs : ∀ j, j ≠ q → d.sq j = c.sq j
  scalars : (d.sq q).s = (c.sq q).s
  latches : (d.sq q).b = (c.sq q).b
  preds : ∀ p : Fin 8, p.val < 4 ∨ (c.sq q).swpLoop = none → (d.sq q).p[p] = (c.sq q).p[p]

theorem Light.refl (q : Fin 4) (c : Core) : Light q c c :=
  ⟨rfl, fun _ => rfl, fun _ _ => rfl, rfl, rfl, fun _ _ => rfl⟩

theorem Light.trans {q : Fin 4} {c d e : Core} (h : Light q c d) (g : Light q d e)
    (hs : (d.sq q).swpLoop = (c.sq q).swpLoop) : Light q c e := by
  refine ⟨?_, fun b => (g.banks b).trans (h.banks b), fun j hj => (g.seqs j hj).trans (h.seqs j hj),
    g.scalars.trans h.scalars, g.latches.trans h.latches, fun p hp => (g.preds p (by rwa [hs])).trans (h.preds p hp)⟩
  have h1 := h.core
  have h2 := g.core
  generalize hd : d = d' at *
  rw [h2, h1]

/-- A change that leaves the sequencers and banks alone. -/
theorem Light.of_core {q : Fin 4} {c d : Core} (h : d = { c with
    tok := d.tok, waited := d.waited, signalled := d.signalled, q := d.q, offered := d.offered, nextId := d.nextId,
    cntval := d.cntval, ovfs := d.ovfs, dbg := d.dbg, notes := d.notes }) : Light q c d := by
  have hs : d.seqs = c.seqs := by rw [h]
  have hb : d.banks = c.banks := by rw [h]
  refine ⟨?_, ?_, ?_, ?_, ?_, ?_⟩
  · rw [hs, hb]; exact h
  · intro b; simp [Core.bank, hb]
  · intro j _; simp [Core.sq, hs]
  · simp [Core.sq, hs]
  · simp [Core.sq, hs]
  · intro p _; simp [Core.sq, hs]

theorem sq_of_seqs {c d : Core} (h : d.seqs = c.seqs) (q : Fin 4) : d.sq q = c.sq q := by simp [Core.sq, h]

theorem countFor_core (c : Core) (own : Option PartId) (ev u a : Nat) (x : Bool) :
    c.countFor own ev u a x = { c with cntval := (c.countFor own ev u a x).cntval, ovfs := (c.countFor own ev u a x).ovfs } := by
  unfold Core.countFor
  extract_lets hit
  split <;> rfl

theorem alGet_map {α : Type} (f : α → α) (l : List (Nat × α)) (k : Nat) (d : α) :
    alGet (l.map fun b => (b.1, f b.2)) k d = if l.any (fun b => b.1 == k) then f (alGet l k d) else d := by
  induction l with
  | nil => rfl
  | cons b l ih =>
    obtain ⟨x, v⟩ := b
    simp only [List.map_cons, alGet, List.any_cons]
    by_cases h : x = k
    · simp [h]
    · have hx : (x == k) = false := by simpa using h
      rw [if_neg h, if_neg h, ih]
      simp only [hx, Bool.false_or]

theorem alGet_none {α : Type} (l : List (Nat × α)) (k : Nat) (d : α) (h : l.any (fun b => b.1 == k) = false) :
    alGet l k d = d := by
  induction l with
  | nil => rfl
  | cons b l ih =>
    obtain ⟨x, v⟩ := b
    simp only [List.any_cons, Bool.or_eq_false_iff] at h
    simp only [alGet]
    rw [if_neg (by simpa using h.1), ih h.2]

/-- Leaving a wake's list does not change a bank's state. -/
theorem unwait_bank (c : Core) (w : Waiter) (b : Nat) : ((c.unwait w).bank b).state = (c.bank b).state := by
  unfold Core.unwait
  split
  · simp only [Core.bank]
    rw [alGet_map (fun b : BankSt => { b with waiters := b.waiters.filter fun x => x != w })]
    split
    · rfl
    · rename_i h
      rw [alGet_none _ _ _ (Bool.not_eq_true _ ▸ h)]
  · rfl

theorem unwait_core (c : Core) (w : Waiter) : c.unwait w = { c with banks := (c.unwait w).banks } := by
  unfold Core.unwait
  split <;> rfl

theorem light_unwait (q : Fin 4) (c : Core) (w : Waiter) : Light q c (c.unwait w) := by
  have h := unwait_core c w
  have hs : (c.unwait w).seqs = c.seqs := by rw [h]
  refine ⟨?_, unwait_bank c w, ?_, ?_, ?_, ?_⟩
  · rw [hs]; exact h.trans (by rw [h])
  · intro j _; exact sq_of_seqs hs j
  · rw [sq_of_seqs hs]
  · rw [sq_of_seqs hs]
  · intro p _; rw [sq_of_seqs hs]

/-- The stage predicates of a sequencer without an SWP loop stand still; p0 to p3 always do. -/
theorem stage_p (x : SeqSt) (p : Fin 8) (h : p.val < 4 ∨ x.swpLoop = none) : x.stage.p[p] = x.p[p] := by
  unfold SeqSt.stage
  rcases h with h | h
  · cases x.swpLoop with
    | none => rfl
    | some i => simp [Nat.not_le.mpr h]
  · rw [h]

@[simp] theorem stage_s (x : SeqSt) : x.stage.s = x.s := by unfold SeqSt.stage; split <;> rfl
@[simp] theorem stage_b (x : SeqSt) : x.stage.b = x.b := by unfold SeqSt.stage; split <;> rfl
@[simp] theorem stage_pend (x : SeqSt) : x.stage.pend = x.pend := by unfold SeqSt.stage; split <;> rfl
@[simp] theorem stage_pc (x : SeqSt) : x.stage.pc = x.pc := by unfold SeqSt.stage; split <;> rfl
@[simp] theorem stage_h (x : SeqSt) : x.stage.h = x.h := by unfold SeqSt.stage; split <;> rfl
@[simp] theorem stage_live (x : SeqSt) : x.stage.live = x.live := by unfold SeqSt.stage; split <;> rfl

/-- The end tests change no loop but for its iteration number, and keep or drop loops of the active list. -/
theorem endTests_swp (lw : BitVec 48) : ∀ (l : List (Fin 4)) (h : Vector LoopSt 4),
    (∀ i : Fin 4, ((endTests lw h l).1[i]).swp = (h[i]).swp) ∧ (endTests lw h l).2.1 ⊆ l := by
  intro l
  induction l with
  | nil => intro h; exact ⟨fun _ => rfl, fun _ hx => hx⟩
  | cons i rest ih =>
    intro h
    unfold endTests
    dsimp only
    have hset : ∀ j : Fin 4, ((h.set i { h[i] with iter := h[i].iter + 1 })[j]).swp = (h[j]).swp := by
      intro j
      by_cases hj : i.val = j.val
      · have : i = j := Fin.ext hj
        subst this
        simp
      · simp [hj]
    split
    · split
      · exact ⟨hset, fun _ hx => hx⟩
      · refine ⟨fun j => ?_, fun x hx => List.mem_cons_of_mem _ ((ih _).2 hx)⟩
        exact ((ih _).1 j).trans (hset j)
    · refine ⟨(ih h).1, ?_⟩
      intro x hx
      rcases List.mem_cons.mp hx with rfl | hx
      · exact List.mem_cons_self
      · exact List.mem_cons_of_mem _ ((ih h).2 hx)

/-- Without an SWP loop there is none after the end tests. -/
theorem advance_swpLoop (x : SeqSt) (n : Nat) (hx : x.swpLoop = none) (y : SeqSt)
    (hh : y.h = (endTests (x.pc + BitVec.ofNat 48 (4 * (n - 1))) x.h x.live).1)
    (hl : y.live = (endTests (x.pc + BitVec.ofNat 48 (4 * (n - 1))) x.h x.live).2.1) : y.swpLoop = none := by
  unfold SeqSt.swpLoop at *
  rw [List.find?_eq_none] at *
  intro i hi
  rw [hl] at hi
  have e := endTests_swp (x.pc + BitVec.ofNat 48 (4 * (n - 1))) x.live x.h
  rw [hh, e.1 i]
  exact hx i (e.2 hi)

/-- The program counter past an instruction: registers and latches stand, and predicates but for the stages of an SWP
loop. -/
theorem advance_p (x : SeqSt) (n : Nat) (p : Fin 8) (h : p.val < 4 ∨ x.swpLoop = none) : (x.advance n).p[p] = x.p[p] := by
  unfold SeqSt.advance
  dsimp only
  rw [stage_p]
  rcases h with h | h
  · exact .inl h
  · exact .inr (advance_swpLoop x n h _ rfl rfl)

@[simp] theorem advance_s (x : SeqSt) (n : Nat) : (x.advance n).s = x.s := by simp [SeqSt.advance]
@[simp] theorem advance_b (x : SeqSt) (n : Nat) : (x.advance n).b = x.b := by simp [SeqSt.advance]
@[simp] theorem advance_pend (x : SeqSt) (n : Nat) : (x.advance n).pend = x.pend := by simp [SeqSt.advance]

/-- Where an issued instruction leaves its sequencer. -/
theorem advance_live (x y : SeqSt) (n : Nat) (h : y.pc = x.pc ∧ y.h = x.h ∧ y.live = x.live) :
    (y.advance n).pc = (x.advance n).pc ∧ (y.advance n).h = (x.advance n).h ∧ (y.advance n).live = (x.advance n).live := by
  obtain ⟨h1, h2, h3⟩ := h
  simp [SeqSt.advance, h1, h2, h3]

theorem light_doTokens (q' : Fin 4) (c : Core) (q : Fin 4) (r : Ring) (b : Bool) : Light q' c (c.doTokens q r b) :=
  Light.of_core rfl
theorem light_doPops (q : Fin 4) (c : Core) (l : List Sel) : Light q c (c.doPops l) := Light.of_core rfl
theorem light_offer (q' : Fin 4) (c : Core) (q : Fin 4) (x : Comp) : Light q' c (c.offer q x) := Light.of_core rfl
theorem light_count (q : Fin 4) (c : Core) (ev u a : Nat) (x : Bool) : Light q c (c.count ev u a x) :=
  Light.of_core (by
    have h := countFor_core c c.owner ev u a x
    unfold Core.count
    generalize c.countFor c.owner ev u a x = d at h
    rw [h])
theorem light_dbg (q : Fin 4) (c : Core) (d : DbgSt) : Light q c { c with dbg := d } := Light.of_core rfl
theorem light_askStop (q' : Fin 4) (c : Core) (q : Fin 4) : Light q' c (c.askStop q) := by
  unfold Core.askStop
  split
  · exact light_dbg _ _ _
  · exact Light.refl _ _
@[simp] theorem doTokens_seqs (c : Core) (q : Fin 4) (r : Ring) (b : Bool) : (c.doTokens q r b).seqs = c.seqs := rfl
@[simp] theorem doPops_seqs (c : Core) (l : List Sel) : (c.doPops l).seqs = c.seqs := rfl
@[simp] theorem offer_seqs (c : Core) (q : Fin 4) (x : Comp) : (c.offer q x).seqs = c.seqs := rfl
@[simp] theorem unwait_seqs (c : Core) (w : Waiter) : (c.unwait w).seqs = c.seqs := by rw [unwait_core]
@[simp] theorem count_seqs (c : Core) (ev u a : Nat) (x : Bool) : (c.count ev u a x).seqs = c.seqs := by
  unfold Core.count; rw [countFor_core]
@[simp] theorem askStop_seqs (c : Core) (q : Fin 4) : (c.askStop q).seqs = c.seqs := by
  unfold Core.askStop; split <;> rfl

/-- `Light.trans` past a change that leaves the sequencers alone. -/
theorem Light.step {q : Fin 4} {c d e : Core} (h : Light q c d) (g : Light q d e) (hd : d.seqs = c.seqs) : Light q c e :=
  h.trans g (by rw [sq_of_seqs hd])

/-- A change of the sequencer itself that keeps its registers, latches and, without an SWP loop, its predicates. -/
theorem light_modSeq (q : Fin 4) (c : Core) (f : SeqSt → SeqSt) (hs : (f (c.sq q)).s = (c.sq q).s)
    (hb : (f (c.sq q)).b = (c.sq q).b)
    (hp : ∀ p : Fin 8, p.val < 4 ∨ (c.sq q).swpLoop = none → (f (c.sq q)).p[p] = (c.sq q).p[p]) :
    Light q c (c.modSeq q f) :=
  ⟨rfl, fun _ => rfl, fun _ hj => modSeq_sq_other c f hj, by simpa using hs, by simpa using hb, by simpa using hp⟩

theorem Next.apply_s (n : Next) (len : Nat) (x : SeqSt) : (n.apply len x).s = x.s := by
  cases n <;> simp [Next.apply, SeqSt.jump]
theorem Next.apply_b (n : Next) (len : Nat) (x : SeqSt) : (n.apply len x).b = x.b := by
  cases n <;> simp [Next.apply, SeqSt.jump]
theorem Next.apply_pend (n : Next) (len : Nat) (x : SeqSt) : (n.apply len x).pend = x.pend := by
  cases n <;> simp [Next.apply, SeqSt.jump]
theorem Next.apply_p (n : Next) (len : Nat) (x : SeqSt) (p : Fin 8) (h : p.val < 4 ∨ x.swpLoop = none) :
    (n.apply len x).p[p] = x.p[p] := by
  cases n with
  | seq => exact advance_p _ _ p h
  | jump t n => rfl
  | loop t => rfl
  | arrive a => exact advance_p { x with stall := none, fresh := false } _ p h

theorem light_noteIssue (q' : Fin 4) (c : Core) (rc : Nat) (q : Fin 4) (op : Op) (goes staged : Bool) :
    Light q' c (c.noteIssue rc q op goes staged) := Light.of_core rfl
@[simp] theorem noteIssue_seqs (c : Core) (rc : Nat) (q : Fin 4) (op : Op) (goes staged : Bool) :
    (c.noteIssue rc q op goes staged).seqs = c.seqs := rfl

/-- The part of the end of an issue before the sequencer moves. -/
theorem light_leave (q : Fin 4) (c : Core) (k : CoreId) (rc : Nat) (op : Op) (pops arrives late staged : Bool) :
    Light q c (c.leave k rc q op pops arrives late staged) ∧ (c.leave k rc q op pops arrives late staged).seqs = c.seqs := by
  unfold Core.leave
  have h1 := light_doTokens q c q op.ring (!arrives)
  generalize hd1 : c.doTokens q op.ring (!arrives) = c1 at h1
  have e1 : c1.seqs = c.seqs := by rw [← hd1, doTokens_seqs]
  have h2 : Light q c (if pops = true then c1.doPops op.names else c1) ∧
      (if pops = true then c1.doPops op.names else c1).seqs = c.seqs := by
    split
    · exact ⟨h1.step (light_doPops _ _ _) e1, e1⟩
    · exact ⟨h1, e1⟩
  dsimp only
  generalize (if pops = true then c1.doPops op.names else c1) = c2 at h2
  have h3 : Light q c (if (late || arrives) = true then c2 else c2.offer q op.comp) ∧
      (if (late || arrives) = true then c2 else c2.offer q op.comp).seqs = c.seqs := by
    split
    · exact h2
    · exact ⟨h2.1.step (light_offer _ _ _ _) h2.2, h2.2⟩
  generalize (if (late || arrives) = true then c2 else c2.offer q op.comp) = c3 at h3
  refine ⟨((h3.1.step (light_unwait _ _ _) h3.2).step (light_count _ _ _ _ _ _) ?_).step (light_noteIssue _ _ _ _ _ _ _) ?_, ?_⟩
  · rw [unwait_seqs]; exact h3.2
  · rw [count_seqs, unwait_seqs]; exact h3.2
  · rw [noteIssue_seqs, count_seqs, unwait_seqs]; exact h3.2

/-- The part of the end of an issue after the sequencer has moved. -/
theorem light_watch (q : Fin 4) (c : Core) (on : Bool) (old : SeqSt) :
    Light q c (c.watch q on old) ∧ (c.watch q on old).seqs = c.seqs := by
  unfold Core.watch
  extract_lets tested c1
  have h1 : Light q c c1 ∧ c1.seqs = c.seqs := by
    simp only [c1]
    split
    · exact ⟨light_askStop _ _ _, askStop_seqs _ _⟩
    · exact ⟨Light.refl _ _, rfl⟩
  clear_value c1
  split
  · exact ⟨h1.1.step (light_dbg _ _ _) h1.2, h1.2⟩
  · exact h1

/-- THE END OF AN ISSUE changes nothing but what `Light` leaves open, and leaves the sequencer where `Next` says. -/
theorem retire_light (s : State) (op : Op) (n : Next) (late : Bool) :
    ∃ g : Core → Core, s.retire op true n late = s.modMe g ∧ Light s.curSeq.idx s.me (g s.me) ∧
      (g s.me).sq s.curSeq.idx = n.apply op.len s.mySeq := by
  refine ⟨_, rfl, ?_⟩
  have hmy : s.mySeq = s.me.sq s.curSeq.idx := rfl
  rw [hmy]
  generalize s.curSeq.idx = q
  generalize s.me = c
  have h1 := light_leave q c s.curCore s.rc op true n.arrives late (n.stages op.len (c.sq q))
  generalize c.leave s.curCore s.rc q op true n.arrives late (n.stages op.len (c.sq q)) = c1 at h1
  have h2 := light_modSeq q c1 (n.apply op.len) (n.apply_s _ _) (n.apply_b _ _) (n.apply_p _ _)
  have h3 := light_watch q (c1.modSeq q (n.apply op.len)) (bvf (s.die (dieOf s.curCore)).dbgperm c.part.val 1 == 1) (c.sq q)
  have e1 : c1.sq q = c.sq q := sq_of_seqs h1.2 q
  refine ⟨?_, ?_⟩
  · have h12 := h1.1.step h2 h1.2
    refine ⟨?_, fun b => ?_, fun j hj => ?_, ?_, ?_, fun p hp => ?_⟩
    · have a := h12.core
      have b := h3.1.core
      generalize (c1.modSeq q (n.apply op.len)).watch q _ _ = d at b
      rw [b, a]
    · rw [h3.1.banks, h12.banks]
    · rw [h3.1.seqs j hj, h12.seqs j hj]
    · rw [h3.1.scalars, h12.scalars]
    · rw [h3.1.latches, h12.latches]
    · rw [sq_of_seqs h3.2]; exact h12.preds p hp
  · rw [sq_of_seqs h3.2, modSeq_sq_same, e1]

/-- A change of the current core that `Light` allows is framed. -/
theorem frame_of_light {own : Core → Core} {s : State} {f : Core → Core}
    (h : Light s.curSeq.idx (own s.me) (f s.me)) (hq : (own s.me).seqs = s.me.seqs) (hb : (own s.me).banks = s.me.banks) :
    Frame own s (s.modMe f) := by
  have e : ∀ j, (own s.me).sq j = s.me.sq j := sq_of_seqs hq
  refine frame_modMe h.core (fun b => ?_) (fun j hj => ?_) ?_ ?_
  · rw [h.banks]; simp [Core.bank, hb]
  · rw [h.seqs j hj, e]
  · rw [h.scalars, e]; rfl
  · rw [h.latches, e]; rfl

/-- Such a change keeps the predicates. -/
theorem preds_of_light {own : Core → Core} {s : State} {f : Core → Core}
    (h : Light s.curSeq.idx (own s.me) (f s.me)) (hq : (own s.me).seqs = s.me.seqs) : PredsKept s (s.modMe f) := by
  intro p hp
  have e : ∀ j, (own s.me).sq j = s.me.sq j := sq_of_seqs hq
  have := h.preds p (by rwa [e])
  rw [e] at this
  simpa [State.mySeq] using this

/-- Kept predicates followed by kept predicates. -/
theorem PredsKept.trans {s t u : State} (h : PredsKept s t) (g : PredsKept t u)
    (hs : t.mySeq.swpLoop = s.mySeq.swpLoop) : PredsKept s u :=
  fun p hp => (g p (by rwa [hs])).trans (h p hp)

/-- An instruction whose body is done in the state itself, and stands past itself. -/
theorem retire_seq (s : State) (op : Op) (late : Bool) :
    Frame id s (s.retire op true .seq late) ∧ PredsKept s (s.retire op true .seq late) ∧
      (s.retire op true .seq late).mySeq.pend = s.mySeq.pend ∧ Past op.len s (s.retire op true .seq late) := by
  obtain ⟨g, hg, hl, hs⟩ := retire_light s op .seq late
  rw [hg]
  refine ⟨frame_of_light hl rfl rfl, preds_of_light (own := id) hl rfl, ?_, ?_⟩
  · have : (s.modMe g).mySeq = (g s.me).sq s.curSeq.idx := by simp [State.mySeq]
    rw [this, hs, Next.apply_pend]
  · have : (s.modMe g).mySeq = (g s.me).sq s.curSeq.idx := by simp [State.mySeq]
    unfold Past
    rw [this, hs]
    exact advance_live _ _ _ ⟨rfl, rfl, rfl⟩

/-- A result put in flight: the current core's results and numbering, and nothing else. -/
theorem produce_spec (s : State) (lat : Nat) (ws : List Wr) (comp : Comp) :
    Frame id s (s.produce lat ws comp) ∧ PredsKept s (s.produce lat ws comp) ∧ InFlight lat ws comp s (s.produce lat ws comp) ∧
      (s.produce lat ws comp).mySeq.pc = s.mySeq.pc ∧ (s.produce lat ws comp).mySeq.h = s.mySeq.h ∧
      (s.produce lat ws comp).mySeq.live = s.mySeq.live := by
  have hl : Light s.curSeq.idx (id s.me) (((fun c : Core =>
      { c.modSeq s.curSeq.idx fun q => { q with pend := q.pend ++
          [⟨c.nextId, .cycle (seqDom s.curSeq) ((c.clk (seqDom s.curSeq)).cyc + lat), ws, comp⟩] } with
        nextId := c.nextId + 1 }) : Core → Core) s.me) := by
    refine ⟨rfl, fun _ => rfl, fun j hj => ?_, ?_, ?_, fun p hp => ?_⟩
    · have hv : s.curSeq.idx.val ≠ j.val := fun e => hj (Fin.ext e.symm)
      simp [Core.sq, Core.modSeq, hv]
    · simp [Core.sq, Core.modSeq]
    · simp [Core.sq, Core.modSeq]
    · simp [Core.sq, Core.modSeq]
  unfold State.produce
  refine ⟨frame_of_light hl rfl rfl, preds_of_light (own := id) hl rfl, ?_, ?_, ?_, ?_⟩
  all_goals simp [InFlight, State.mySeq, Core.sq, Core.modSeq]

/-- The frame, the result and the place of an instruction that puts one result in flight. -/
theorem produces_of {i : Instr} {op : Op} {lat : Nat} {ws : List Wr} {s : State}
    (h : exec i s = .next ((s.produce lat ws op.comp).retire op true .seq true)) : Produces i op lat ws s := by
  refine ⟨_, h, ?_⟩
  obtain ⟨f1, p1, hp, h1, h2, h3⟩ := produce_spec s lat ws op.comp
  obtain ⟨f2, p2, hp2, hpast⟩ := retire_seq (s.produce lat ws op.comp) op true
  refine ⟨?_, ?_, f1.trans f2, p1.trans p2 (by simp [SeqSt.swpLoop, h2, h3])⟩
  · unfold InFlight at *; rw [hp2, hp]
  · obtain ⟨a, b, c⟩ := hpast
    obtain ⟨a', b', c'⟩ := advance_live s.mySeq _ op.len ⟨h1, h2, h3⟩
    exact ⟨a.trans a', b.trans b', c.trans c'⟩

end Sys2Proof.Machine
end

