-- ==== Sys2Proof/Laws/Mem.lean ====
section
/-! SUPPORT. Memories: every operation keeps the canonical form, and a read after a write. -/

namespace Sys2Proof.Machine

theorem Mem.wfFrom_le {m : Mem} {lo lo' : Nat} (h : m.wfFrom lo = true) (hl : lo' ≤ lo) : m.wfFrom lo' = true := by
  cases m with
  | nil => rfl
  | cons c m =>
    obtain ⟨a, b⟩ := c
    simp only [Mem.wfFrom, Bool.and_eq_true, decide_eq_true_eq] at h ⊢
    exact ⟨⟨by omega, h.1.2⟩, h.2⟩

/-- An address below the first one listed reads as zero. -/
theorem Mem.read_below {m : Mem} {lo x : Nat} (h : m.wfFrom lo = true) (hx : x < lo) : m.read x = 0 := by
  cases m with
  | nil => rfl
  | cons c m =>
    obtain ⟨a, b⟩ := c
    simp only [Mem.wfFrom, Bool.and_eq_true, decide_eq_true_eq] at h
    have h1 : a ≠ x := by omega
    have h2 : x < a := by omega
    simp [Mem.read, h1, h2]

theorem Mem.wfFrom_write {m : Mem} {lo : Nat} (x : Nat) (v : BitVec 8) (h : m.wfFrom lo = true) (hx : lo ≤ x) :
    (m.write x v).wfFrom lo = true := by
  induction m generalizing lo with
  | nil =>
    unfold Mem.write
    split
    · rfl
    · rename_i hv
      simp only [Mem.wfFrom, Bool.and_eq_true, decide_eq_true_eq, bne_iff_ne, ne_eq, and_true]
      exact ⟨hx, hv⟩
  | cons c m ih =>
    obtain ⟨a, b⟩ := c
    have h' := h
    simp only [Mem.wfFrom, Bool.and_eq_true, decide_eq_true_eq] at h'
    obtain ⟨⟨h1, h2⟩, h3⟩ := h'
    unfold Mem.write
    split
    · split
      · exact h
      · rename_i hv
        simp only [Mem.wfFrom, Bool.and_eq_true, decide_eq_true_eq, bne_iff_ne, ne_eq]
        exact ⟨⟨hx, hv⟩, ⟨by omega, by simpa using h2⟩, h3⟩
    · split
      · split
        · exact Mem.wfFrom_le h3 (by omega)
        · rename_i hv
          simp only [Mem.wfFrom, Bool.and_eq_true, decide_eq_true_eq, bne_iff_ne, ne_eq]
          exact ⟨⟨h1, hv⟩, h3⟩
      · simp only [Mem.wfFrom, Bool.and_eq_true, decide_eq_true_eq]
        exact ⟨⟨h1, h2⟩, ih h3 (by omega)⟩

/-- A write keeps the canonical form. -/
theorem Mem.wf_write {m : Mem} (x : Nat) (v : BitVec 8) (h : m.wf = true) : (m.write x v).wf = true :=
  Mem.wfFrom_write x v h (Nat.zero_le x)

/-- A run of bytes written keeps the canonical form. -/
theorem Mem.wf_writeN {m : Mem} (x : Nat) (bs : List (BitVec 8)) (h : m.wf = true) : (m.writeN x bs).wf = true := by
  induction bs generalizing m x with
  | nil => exact h
  | cons b bs ih => exact ih (x + 1) (Mem.wf_write x b h)

/-- A number written keeps the canonical form. -/
theorem Mem.wf_writeLE {m : Mem} (x n v : Nat) (h : m.wf = true) : (m.writeLE x n v).wf = true := Mem.wf_writeN x _ h

theorem Mem.wfFrom_filter {m : Mem} {lo : Nat} (p : Host.Cell → Bool) (h : m.wfFrom lo = true) :
    Mem.wfFrom lo (m.filter p) = true := by
  induction m generalizing lo with
  | nil => rfl
  | cons c m ih =>
    obtain ⟨a, b⟩ := c
    simp only [Mem.wfFrom, Bool.and_eq_true, decide_eq_true_eq] at h
    cases hp : p (a, b)
    · rw [List.filter_cons_of_neg (by simp [hp])]
      exact ih (Mem.wfFrom_le h.2 (by omega))
    · rw [List.filter_cons_of_pos hp]
      simp only [Mem.wfFrom, Bool.and_eq_true, decide_eq_true_eq]
      exact ⟨h.1, ih h.2⟩

/-- A range cleared keeps the canonical form. -/
theorem Mem.wf_clear {m : Mem} (lo n : Nat) (h : m.wf = true) : (m.clear lo n).wf = true := Mem.wfFrom_filter _ h

/-- Bytes written one by one keep the canonical form. -/
theorem Mem.wf_writes {m : Mem} (bs : List (Nat × BitVec 8)) (h : m.wf = true) :
    (bs.foldl (fun (m : Mem) b => m.write b.1 b.2) m).wf = true := by
  induction bs generalizing m with
  | nil => exact h
  | cons b bs ih => exact ih (Mem.wf_write b.1 b.2 h)

theorem Mem.read_write_from {m : Mem} {lo : Nat} (x y : Nat) (v : BitVec 8) (h : m.wfFrom lo = true) :
    (m.write x v).read y = if y = x then v else m.read y := by
  induction m generalizing lo with
  | nil =>
    unfold Mem.write
    split
    · rename_i hv
      simp [Mem.read, hv]
    · by_cases hy : x = y
      · simp [Mem.read, hy]
      · simp [Mem.read, hy, Ne.symm hy]
  | cons c m ih =>
    obtain ⟨a, b⟩ := c
    simp only [Mem.wfFrom, Bool.and_eq_true, decide_eq_true_eq] at h
    obtain ⟨⟨h1, h2⟩, h3⟩ := h
    unfold Mem.write
    split
    · rename_i hxa
      split
      · rename_i hv
        split
        · rename_i hy
          subst hy
          have h4 : a ≠ y := by omega
          simp [Mem.read, h4, hxa, hv]
        · rfl
      · by_cases hy : y = x
        · subst hy; simp [Mem.read]
        · by_cases hlt : y < x
          · have h4 : a ≠ y := by omega
            have h5 : y < a := by omega
            simp [Mem.read, hy, Ne.symm hy, hlt, h4, h5]
          · simp [Mem.read, hy, Ne.symm hy, hlt]
    · rename_i hxa
      split
      · rename_i hxe
        subst hxe
        split
        · rename_i hv
          by_cases hy : y = x
          · subst hy
            simp [hv, Mem.read_below h3 (Nat.lt_succ_self y)]
          · by_cases hlt : y < x
            · simp [Mem.read, hy, Ne.symm hy, hlt, Mem.read_below h3 (show y < x + 1 by omega)]
            · simp [Mem.read, hy, Ne.symm hy, hlt]
        · by_cases hy : y = x
          · subst hy; simp [Mem.read]
          · simp [Mem.read, hy, Ne.symm hy]
      · rename_i hxe
        by_cases hay : a = y
        · subst hay
          have h4 : a ≠ x := Ne.symm hxe
          simp [Mem.read, h4]
        · by_cases hlt : y < a
          · have h4 : y ≠ x := by omega
            simp [Mem.read, hay, hlt, h4]
          · simp [Mem.read, hay, hlt, ih h3]

/-- A read after a write: the byte written at its address, every other byte as before. -/
theorem Mem.read_write {m : Mem} (x y : Nat) (v : BitVec 8) (h : m.wf = true) :
    (m.write x v).read y = if y = x then v else m.read y := Mem.read_write_from x y v h

/-- A read outside a run of bytes that is written. -/
theorem Mem.read_writeN_out {m : Mem} (x y : Nat) (bs : List (BitVec 8)) (h : m.wf = true)
    (hy : y < x ∨ x + bs.length ≤ y) : (m.writeN x bs).read y = m.read y := by
  induction bs generalizing m x with
  | nil => rfl
  | cons b bs ih =>
    simp only [List.length_cons] at hy
    rw [Mem.writeN, ih (x + 1) (Mem.wf_write x b h) (by omega), Mem.read_write x y b h, if_neg (by omega)]

/-- A read within a run of bytes that is written. -/
theorem Mem.read_writeN_in {m : Mem} (x i : Nat) (bs : List (BitVec 8)) (h : m.wf = true) (hi : i < bs.length) :
    (m.writeN x bs).read (x + i) = bs[i] := by
  induction bs generalizing m x i with
  | nil => simp at hi
  | cons b bs ih =>
    cases i with
    | zero =>
      show ((m.write x b).writeN (x + 1) bs).read x = b
      rw [Mem.read_writeN_out (x + 1) x bs (Mem.wf_write x b h) (by omega), Mem.read_write x x b h, if_pos rfl]
    | succ i =>
      have hi' : i < bs.length := by simpa using hi
      have := ih (m := m.write x b) (x + 1) i (Mem.wf_write x b h) hi'
      rw [Mem.writeN, show x + (i + 1) = x + 1 + i by omega, this]
      simp

end Sys2Proof.Machine
end

