-- ==== Sys2Proof/Laws/State.lean ====
section
/-! SUPPORT. What each update of the state leaves as it was, field by field, and what an update is read back as. -/

namespace Sys2Proof.Machine

/-! ### A core replaced -/

@[simp] theorem State.setCore_rc (s : State) (k : CoreId) (c : Core) : (s.setCore k c).rc = s.rc := rfl
@[simp] theorem State.setCore_phase (s : State) (k : CoreId) (c : Core) : (s.setCore k c).phase = s.phase := rfl
@[simp] theorem State.setCore_agenda (s : State) (k : CoreId) (c : Core) : (s.setCore k c).agenda = s.agenda := rfl
@[simp] theorem State.setCore_inputs (s : State) (k : CoreId) (c : Core) : (s.setCore k c).inputs = s.inputs := rfl
@[simp] theorem State.setCore_curCore (s : State) (k : CoreId) (c : Core) : (s.setCore k c).curCore = s.curCore := rfl
@[simp] theorem State.setCore_curSeq (s : State) (k : CoreId) (c : Core) : (s.setCore k c).curSeq = s.curSeq := rfl
@[simp] theorem State.setCore_free (s : State) (k : CoreId) (c : Core) : (s.setCore k c).free = s.free := rfl
@[simp] theorem State.setCore_watch (s : State) (k : CoreId) (c : Core) : (s.setCore k c).watch = s.watch := rfl
@[simp] theorem State.setCore_dies (s : State) (k : CoreId) (c : Core) : (s.setCore k c).dies = s.dies := rfl
@[simp] theorem State.setCore_mem (s : State) (k : CoreId) (c : Core) : (s.setCore k c).mem = s.mem := rfl
@[simp] theorem State.setCore_poison (s : State) (k : CoreId) (c : Core) : (s.setCore k c).poison = s.poison := rfl
@[simp] theorem State.setCore_grans (s : State) (k : CoreId) (c : Core) : (s.setCore k c).grans = s.grans := rfl
@[simp] theorem State.setCore_pins (s : State) (k : CoreId) (c : Core) : (s.setCore k c).pins = s.pins := rfl
@[simp] theorem State.setCore_shoots (s : State) (k : CoreId) (c : Core) : (s.setCore k c).shoots = s.shoots := rfl
@[simp] theorem State.setCore_sdwait (s : State) (k : CoreId) (c : Core) : (s.setCore k c).sdwait = s.sdwait := rfl
@[simp] theorem State.setCore_routed (s : State) (k : CoreId) (c : Core) : (s.setCore k c).routed = s.routed := rfl
@[simp] theorem State.setCore_teams (s : State) (k : CoreId) (c : Core) : (s.setCore k c).teams = s.teams := rfl
@[simp] theorem State.setCore_combs (s : State) (k : CoreId) (c : Core) : (s.setCore k c).combs = s.combs := rfl
@[simp] theorem State.setCore_msgs (s : State) (k : CoreId) (c : Core) : (s.setCore k c).msgs = s.msgs := rfl
@[simp] theorem State.setCore_atomrecs (s : State) (k : CoreId) (c : Core) : (s.setCore k c).atomrecs = s.atomrecs := rfl
@[simp] theorem State.setCore_heldw (s : State) (k : CoreId) (c : Core) : (s.setCore k c).heldw = s.heldw := rfl
@[simp] theorem State.setCore_saved (s : State) (k : CoreId) (c : Core) : (s.setCore k c).saved = s.saved := rfl
@[simp] theorem State.setCore_launchMem (s : State) (k : CoreId) (c : Core) : (s.setCore k c).launchMem = s.launchMem := rfl
@[simp] theorem State.setCore_qns (s : State) (k : CoreId) (c : Core) : (s.setCore k c).qns = s.qns := rfl
@[simp] theorem State.setCore_qhold (s : State) (k : CoreId) (c : Core) : (s.setCore k c).qhold = s.qhold := rfl
@[simp] theorem State.setCore_qlast (s : State) (k : CoreId) (c : Core) : (s.setCore k c).qlast = s.qlast := rfl
@[simp] theorem State.setCore_slew (s : State) (k : CoreId) (c : Core) : (s.setCore k c).slew = s.slew := rfl
@[simp] theorem State.setCore_qfrac (s : State) (k : CoreId) (c : Core) : (s.setCore k c).qfrac = s.qfrac := rfl
@[simp] theorem State.setCore_qstep (s : State) (k : CoreId) (c : Core) : (s.setCore k c).qstep = s.qstep := rfl
@[simp] theorem State.setCore_ptpPort (s : State) (k : CoreId) (c : Core) : (s.setCore k c).ptpPort = s.ptpPort := rfl
@[simp] theorem State.setCore_shtime (s : State) (k : CoreId) (c : Core) : (s.setCore k c).shtime = s.shtime := rfl
@[simp] theorem State.setCore_shctl (s : State) (k : CoreId) (c : Core) : (s.setCore k c).shctl = s.shctl := rfl
@[simp] theorem State.setCore_dump (s : State) (k : CoreId) (c : Core) : (s.setCore k c).dump = s.dump := rfl
@[simp] theorem State.setCore_bar2 (s : State) (k : CoreId) (c : Core) : (s.setCore k c).bar2 = s.bar2 := rfl

/-! ### A core changed -/

@[simp] theorem State.modCore_rc (s : State) (k : CoreId) (f : Core → Core) : (s.modCore k f).rc = s.rc := rfl
@[simp] theorem State.modCore_phase (s : State) (k : CoreId) (f : Core → Core) : (s.modCore k f).phase = s.phase := rfl
@[simp] theorem State.modCore_agenda (s : State) (k : CoreId) (f : Core → Core) : (s.modCore k f).agenda = s.agenda := rfl
@[simp] theorem State.modCore_inputs (s : State) (k : CoreId) (f : Core → Core) : (s.modCore k f).inputs = s.inputs := rfl
@[simp] theorem State.modCore_curCore (s : State) (k : CoreId) (f : Core → Core) : (s.modCore k f).curCore = s.curCore := rfl
@[simp] theorem State.modCore_curSeq (s : State) (k : CoreId) (f : Core → Core) : (s.modCore k f).curSeq = s.curSeq := rfl
@[simp] theorem State.modCore_free (s : State) (k : CoreId) (f : Core → Core) : (s.modCore k f).free = s.free := rfl
@[simp] theorem State.modCore_watch (s : State) (k : CoreId) (f : Core → Core) : (s.modCore k f).watch = s.watch := rfl
@[simp] theorem State.modCore_dies (s : State) (k : CoreId) (f : Core → Core) : (s.modCore k f).dies = s.dies := rfl
@[simp] theorem State.modCore_mem (s : State) (k : CoreId) (f : Core → Core) : (s.modCore k f).mem = s.mem := rfl
@[simp] theorem State.modCore_poison (s : State) (k : CoreId) (f : Core → Core) : (s.modCore k f).poison = s.poison := rfl
@[simp] theorem State.modCore_grans (s : State) (k : CoreId) (f : Core → Core) : (s.modCore k f).grans = s.grans := rfl
@[simp] theorem State.modCore_pins (s : State) (k : CoreId) (f : Core → Core) : (s.modCore k f).pins = s.pins := rfl
@[simp] theorem State.modCore_shoots (s : State) (k : CoreId) (f : Core → Core) : (s.modCore k f).shoots = s.shoots := rfl
@[simp] theorem State.modCore_sdwait (s : State) (k : CoreId) (f : Core → Core) : (s.modCore k f).sdwait = s.sdwait := rfl
@[simp] theorem State.modCore_routed (s : State) (k : CoreId) (f : Core → Core) : (s.modCore k f).routed = s.routed := rfl
@[simp] theorem State.modCore_teams (s : State) (k : CoreId) (f : Core → Core) : (s.modCore k f).teams = s.teams := rfl
@[simp] theorem State.modCore_combs (s : State) (k : CoreId) (f : Core → Core) : (s.modCore k f).combs = s.combs := rfl
@[simp] theorem State.modCore_msgs (s : State) (k : CoreId) (f : Core → Core) : (s.modCore k f).msgs = s.msgs := rfl
@[simp] theorem State.modCore_atomrecs (s : State) (k : CoreId) (f : Core → Core) : (s.modCore k f).atomrecs = s.atomrecs := rfl
@[simp] theorem State.modCore_heldw (s : State) (k : CoreId) (f : Core → Core) : (s.modCore k f).heldw = s.heldw := rfl
@[simp] theorem State.modCore_saved (s : State) (k : CoreId) (f : Core → Core) : (s.modCore k f).saved = s.saved := rfl
@[simp] theorem State.modCore_launchMem (s : State) (k : CoreId) (f : Core → Core) : (s.modCore k f).launchMem = s.launchMem := rfl
@[simp] theorem State.modCore_qns (s : State) (k : CoreId) (f : Core → Core) : (s.modCore k f).qns = s.qns := rfl
@[simp] theorem State.modCore_qhold (s : State) (k : CoreId) (f : Core → Core) : (s.modCore k f).qhold = s.qhold := rfl
@[simp] theorem State.modCore_qlast (s : State) (k : CoreId) (f : Core → Core) : (s.modCore k f).qlast = s.qlast := rfl
@[simp] theorem State.modCore_slew (s : State) (k : CoreId) (f : Core → Core) : (s.modCore k f).slew = s.slew := rfl
@[simp] theorem State.modCore_qfrac (s : State) (k : CoreId) (f : Core → Core) : (s.modCore k f).qfrac = s.qfrac := rfl
@[simp] theorem State.modCore_qstep (s : State) (k : CoreId) (f : Core → Core) : (s.modCore k f).qstep = s.qstep := rfl
@[simp] theorem State.modCore_ptpPort (s : State) (k : CoreId) (f : Core → Core) : (s.modCore k f).ptpPort = s.ptpPort := rfl
@[simp] theorem State.modCore_shtime (s : State) (k : CoreId) (f : Core → Core) : (s.modCore k f).shtime = s.shtime := rfl
@[simp] theorem State.modCore_shctl (s : State) (k : CoreId) (f : Core → Core) : (s.modCore k f).shctl = s.shctl := rfl
@[simp] theorem State.modCore_dump (s : State) (k : CoreId) (f : Core → Core) : (s.modCore k f).dump = s.dump := rfl
@[simp] theorem State.modCore_bar2 (s : State) (k : CoreId) (f : Core → Core) : (s.modCore k f).bar2 = s.bar2 := rfl

/-! ### The current core changed -/

@[simp] theorem State.modMe_rc (s : State) (f : Core → Core) : (s.modMe f).rc = s.rc := rfl
@[simp] theorem State.modMe_phase (s : State) (f : Core → Core) : (s.modMe f).phase = s.phase := rfl
@[simp] theorem State.modMe_agenda (s : State) (f : Core → Core) : (s.modMe f).agenda = s.agenda := rfl
@[simp] theorem State.modMe_inputs (s : State) (f : Core → Core) : (s.modMe f).inputs = s.inputs := rfl
@[simp] theorem State.modMe_curCore (s : State) (f : Core → Core) : (s.modMe f).curCore = s.curCore := rfl
@[simp] theorem State.modMe_curSeq (s : State) (f : Core → Core) : (s.modMe f).curSeq = s.curSeq := rfl
@[simp] theorem State.modMe_free (s : State) (f : Core → Core) : (s.modMe f).free = s.free := rfl
@[simp] theorem State.modMe_watch (s : State) (f : Core → Core) : (s.modMe f).watch = s.watch := rfl
@[simp] theorem State.modMe_dies (s : State) (f : Core → Core) : (s.modMe f).dies = s.dies := rfl
@[simp] theorem State.modMe_mem (s : State) (f : Core → Core) : (s.modMe f).mem = s.mem := rfl
@[simp] theorem State.modMe_poison (s : State) (f : Core → Core) : (s.modMe f).poison = s.poison := rfl
@[simp] theorem State.modMe_grans (s : State) (f : Core → Core) : (s.modMe f).grans = s.grans := rfl
@[simp] theorem State.modMe_pins (s : State) (f : Core → Core) : (s.modMe f).pins = s.pins := rfl
@[simp] theorem State.modMe_shoots (s : State) (f : Core → Core) : (s.modMe f).shoots = s.shoots := rfl
@[simp] theorem State.modMe_sdwait (s : State) (f : Core → Core) : (s.modMe f).sdwait = s.sdwait := rfl
@[simp] theorem State.modMe_routed (s : State) (f : Core → Core) : (s.modMe f).routed = s.routed := rfl
@[simp] theorem State.modMe_teams (s : State) (f : Core → Core) : (s.modMe f).teams = s.teams := rfl
@[simp] theorem State.modMe_combs (s : State) (f : Core → Core) : (s.modMe f).combs = s.combs := rfl
@[simp] theorem State.modMe_msgs (s : State) (f : Core → Core) : (s.modMe f).msgs = s.msgs := rfl
@[simp] theorem State.modMe_atomrecs (s : State) (f : Core → Core) : (s.modMe f).atomrecs = s.atomrecs := rfl
@[simp] theorem State.modMe_heldw (s : State) (f : Core → Core) : (s.modMe f).heldw = s.heldw := rfl
@[simp] theorem State.modMe_saved (s : State) (f : Core → Core) : (s.modMe f).saved = s.saved := rfl
@[simp] theorem State.modMe_launchMem (s : State) (f : Core → Core) : (s.modMe f).launchMem = s.launchMem := rfl
@[simp] theorem State.modMe_qns (s : State) (f : Core → Core) : (s.modMe f).qns = s.qns := rfl
@[simp] theorem State.modMe_qhold (s : State) (f : Core → Core) : (s.modMe f).qhold = s.qhold := rfl
@[simp] theorem State.modMe_qlast (s : State) (f : Core → Core) : (s.modMe f).qlast = s.qlast := rfl
@[simp] theorem State.modMe_slew (s : State) (f : Core → Core) : (s.modMe f).slew = s.slew := rfl
@[simp] theorem State.modMe_qfrac (s : State) (f : Core → Core) : (s.modMe f).qfrac = s.qfrac := rfl
@[simp] theorem State.modMe_qstep (s : State) (f : Core → Core) : (s.modMe f).qstep = s.qstep := rfl
@[simp] theorem State.modMe_ptpPort (s : State) (f : Core → Core) : (s.modMe f).ptpPort = s.ptpPort := rfl
@[simp] theorem State.modMe_shtime (s : State) (f : Core → Core) : (s.modMe f).shtime = s.shtime := rfl
@[simp] theorem State.modMe_shctl (s : State) (f : Core → Core) : (s.modMe f).shctl = s.shctl := rfl
@[simp] theorem State.modMe_dump (s : State) (f : Core → Core) : (s.modMe f).dump = s.dump := rfl
@[simp] theorem State.modMe_bar2 (s : State) (f : Core → Core) : (s.modMe f).bar2 = s.bar2 := rfl

/-! ### A die changed -/

@[simp] theorem State.modDie_rc (s : State) (d : Fin 2) (f : Die → Die) : (s.modDie d f).rc = s.rc := rfl
@[simp] theorem State.modDie_phase (s : State) (d : Fin 2) (f : Die → Die) : (s.modDie d f).phase = s.phase := rfl
@[simp] theorem State.modDie_agenda (s : State) (d : Fin 2) (f : Die → Die) : (s.modDie d f).agenda = s.agenda := rfl
@[simp] theorem State.modDie_inputs (s : State) (d : Fin 2) (f : Die → Die) : (s.modDie d f).inputs = s.inputs := rfl
@[simp] theorem State.modDie_curCore (s : State) (d : Fin 2) (f : Die → Die) : (s.modDie d f).curCore = s.curCore := rfl
@[simp] theorem State.modDie_curSeq (s : State) (d : Fin 2) (f : Die → Die) : (s.modDie d f).curSeq = s.curSeq := rfl
@[simp] theorem State.modDie_free (s : State) (d : Fin 2) (f : Die → Die) : (s.modDie d f).free = s.free := rfl
@[simp] theorem State.modDie_watch (s : State) (d : Fin 2) (f : Die → Die) : (s.modDie d f).watch = s.watch := rfl
@[simp] theorem State.modDie_cores (s : State) (d : Fin 2) (f : Die → Die) : (s.modDie d f).cores = s.cores := rfl
@[simp] theorem State.modDie_mem (s : State) (d : Fin 2) (f : Die → Die) : (s.modDie d f).mem = s.mem := rfl
@[simp] theorem State.modDie_poison (s : State) (d : Fin 2) (f : Die → Die) : (s.modDie d f).poison = s.poison := rfl
@[simp] theorem State.modDie_grans (s : State) (d : Fin 2) (f : Die → Die) : (s.modDie d f).grans = s.grans := rfl
@[simp] theorem State.modDie_pins (s : State) (d : Fin 2) (f : Die → Die) : (s.modDie d f).pins = s.pins := rfl
@[simp] theorem State.modDie_shoots (s : State) (d : Fin 2) (f : Die → Die) : (s.modDie d f).shoots = s.shoots := rfl
@[simp] theorem State.modDie_sdwait (s : State) (d : Fin 2) (f : Die → Die) : (s.modDie d f).sdwait = s.sdwait := rfl
@[simp] theorem State.modDie_routed (s : State) (d : Fin 2) (f : Die → Die) : (s.modDie d f).routed = s.routed := rfl
@[simp] theorem State.modDie_teams (s : State) (d : Fin 2) (f : Die → Die) : (s.modDie d f).teams = s.teams := rfl
@[simp] theorem State.modDie_combs (s : State) (d : Fin 2) (f : Die → Die) : (s.modDie d f).combs = s.combs := rfl
@[simp] theorem State.modDie_msgs (s : State) (d : Fin 2) (f : Die → Die) : (s.modDie d f).msgs = s.msgs := rfl
@[simp] theorem State.modDie_atomrecs (s : State) (d : Fin 2) (f : Die → Die) : (s.modDie d f).atomrecs = s.atomrecs := rfl
@[simp] theorem State.modDie_heldw (s : State) (d : Fin 2) (f : Die → Die) : (s.modDie d f).heldw = s.heldw := rfl
@[simp] theorem State.modDie_saved (s : State) (d : Fin 2) (f : Die → Die) : (s.modDie d f).saved = s.saved := rfl
@[simp] theorem State.modDie_launchMem (s : State) (d : Fin 2) (f : Die → Die) : (s.modDie d f).launchMem = s.launchMem := rfl
@[simp] theorem State.modDie_qns (s : State) (d : Fin 2) (f : Die → Die) : (s.modDie d f).qns = s.qns := rfl
@[simp] theorem State.modDie_qhold (s : State) (d : Fin 2) (f : Die → Die) : (s.modDie d f).qhold = s.qhold := rfl
@[simp] theorem State.modDie_qlast (s : State) (d : Fin 2) (f : Die → Die) : (s.modDie d f).qlast = s.qlast := rfl
@[simp] theorem State.modDie_slew (s : State) (d : Fin 2) (f : Die → Die) : (s.modDie d f).slew = s.slew := rfl
@[simp] theorem State.modDie_qfrac (s : State) (d : Fin 2) (f : Die → Die) : (s.modDie d f).qfrac = s.qfrac := rfl
@[simp] theorem State.modDie_qstep (s : State) (d : Fin 2) (f : Die → Die) : (s.modDie d f).qstep = s.qstep := rfl
@[simp] theorem State.modDie_ptpPort (s : State) (d : Fin 2) (f : Die → Die) : (s.modDie d f).ptpPort = s.ptpPort := rfl
@[simp] theorem State.modDie_shtime (s : State) (d : Fin 2) (f : Die → Die) : (s.modDie d f).shtime = s.shtime := rfl
@[simp] theorem State.modDie_shctl (s : State) (d : Fin 2) (f : Die → Die) : (s.modDie d f).shctl = s.shctl := rfl
@[simp] theorem State.modDie_dump (s : State) (d : Fin 2) (f : Die → Die) : (s.modDie d f).dump = s.dump := rfl
@[simp] theorem State.modDie_bar2 (s : State) (d : Fin 2) (f : Die → Die) : (s.modDie d f).bar2 = s.bar2 := rfl

/-! ### A team replaced -/

@[simp] theorem State.setTeam_rc (s : State) (t : Nat) (x : Team) : (s.setTeam t x).rc = s.rc := rfl
@[simp] theorem State.setTeam_phase (s : State) (t : Nat) (x : Team) : (s.setTeam t x).phase = s.phase := rfl
@[simp] theorem State.setTeam_agenda (s : State) (t : Nat) (x : Team) : (s.setTeam t x).agenda = s.agenda := rfl
@[simp] theorem State.setTeam_inputs (s : State) (t : Nat) (x : Team) : (s.setTeam t x).inputs = s.inputs := rfl
@[simp] theorem State.setTeam_curCore (s : State) (t : Nat) (x : Team) : (s.setTeam t x).curCore = s.curCore := rfl
@[simp] theorem State.setTeam_curSeq (s : State) (t : Nat) (x : Team) : (s.setTeam t x).curSeq = s.curSeq := rfl
@[simp] theorem State.setTeam_free (s : State) (t : Nat) (x : Team) : (s.setTeam t x).free = s.free := rfl
@[simp] theorem State.setTeam_watch (s : State) (t : Nat) (x : Team) : (s.setTeam t x).watch = s.watch := rfl
@[simp] theorem State.setTeam_cores (s : State) (t : Nat) (x : Team) : (s.setTeam t x).cores = s.cores := rfl
@[simp] theorem State.setTeam_dies (s : State) (t : Nat) (x : Team) : (s.setTeam t x).dies = s.dies := rfl
@[simp] theorem State.setTeam_mem (s : State) (t : Nat) (x : Team) : (s.setTeam t x).mem = s.mem := rfl
@[simp] theorem State.setTeam_poison (s : State) (t : Nat) (x : Team) : (s.setTeam t x).poison = s.poison := rfl
@[simp] theorem State.setTeam_grans (s : State) (t : Nat) (x : Team) : (s.setTeam t x).grans = s.grans := rfl
@[simp] theorem State.setTeam_pins (s : State) (t : Nat) (x : Team) : (s.setTeam t x).pins = s.pins := rfl
@[simp] theorem State.setTeam_shoots (s : State) (t : Nat) (x : Team) : (s.setTeam t x).shoots = s.shoots := rfl
@[simp] theorem State.setTeam_sdwait (s : State) (t : Nat) (x : Team) : (s.setTeam t x).sdwait = s.sdwait := rfl
@[simp] theorem State.setTeam_routed (s : State) (t : Nat) (x : Team) : (s.setTeam t x).routed = s.routed := rfl
@[simp] theorem State.setTeam_combs (s : State) (t : Nat) (x : Team) : (s.setTeam t x).combs = s.combs := rfl
@[simp] theorem State.setTeam_msgs (s : State) (t : Nat) (x : Team) : (s.setTeam t x).msgs = s.msgs := rfl
@[simp] theorem State.setTeam_atomrecs (s : State) (t : Nat) (x : Team) : (s.setTeam t x).atomrecs = s.atomrecs := rfl
@[simp] theorem State.setTeam_heldw (s : State) (t : Nat) (x : Team) : (s.setTeam t x).heldw = s.heldw := rfl
@[simp] theorem State.setTeam_saved (s : State) (t : Nat) (x : Team) : (s.setTeam t x).saved = s.saved := rfl
@[simp] theorem State.setTeam_launchMem (s : State) (t : Nat) (x : Team) : (s.setTeam t x).launchMem = s.launchMem := rfl
@[simp] theorem State.setTeam_qns (s : State) (t : Nat) (x : Team) : (s.setTeam t x).qns = s.qns := rfl
@[simp] theorem State.setTeam_qhold (s : State) (t : Nat) (x : Team) : (s.setTeam t x).qhold = s.qhold := rfl
@[simp] theorem State.setTeam_qlast (s : State) (t : Nat) (x : Team) : (s.setTeam t x).qlast = s.qlast := rfl
@[simp] theorem State.setTeam_slew (s : State) (t : Nat) (x : Team) : (s.setTeam t x).slew = s.slew := rfl
@[simp] theorem State.setTeam_qfrac (s : State) (t : Nat) (x : Team) : (s.setTeam t x).qfrac = s.qfrac := rfl
@[simp] theorem State.setTeam_qstep (s : State) (t : Nat) (x : Team) : (s.setTeam t x).qstep = s.qstep := rfl
@[simp] theorem State.setTeam_ptpPort (s : State) (t : Nat) (x : Team) : (s.setTeam t x).ptpPort = s.ptpPort := rfl
@[simp] theorem State.setTeam_shtime (s : State) (t : Nat) (x : Team) : (s.setTeam t x).shtime = s.shtime := rfl
@[simp] theorem State.setTeam_shctl (s : State) (t : Nat) (x : Team) : (s.setTeam t x).shctl = s.shctl := rfl
@[simp] theorem State.setTeam_dump (s : State) (t : Nat) (x : Team) : (s.setTeam t x).dump = s.dump := rfl
@[simp] theorem State.setTeam_bar2 (s : State) (t : Nat) (x : Team) : (s.setTeam t x).bar2 = s.bar2 := rfl

/-! ### A message sent -/

@[simp] theorem State.send_rc (s : State) (n : Nat) (m : Msg) : (s.send n m).rc = s.rc := rfl
@[simp] theorem State.send_phase (s : State) (n : Nat) (m : Msg) : (s.send n m).phase = s.phase := rfl
@[simp] theorem State.send_agenda (s : State) (n : Nat) (m : Msg) : (s.send n m).agenda = s.agenda := rfl
@[simp] theorem State.send_inputs (s : State) (n : Nat) (m : Msg) : (s.send n m).inputs = s.inputs := rfl
@[simp] theorem State.send_curCore (s : State) (n : Nat) (m : Msg) : (s.send n m).curCore = s.curCore := rfl
@[simp] theorem State.send_curSeq (s : State) (n : Nat) (m : Msg) : (s.send n m).curSeq = s.curSeq := rfl
@[simp] theorem State.send_free (s : State) (n : Nat) (m : Msg) : (s.send n m).free = s.free := rfl
@[simp] theorem State.send_watch (s : State) (n : Nat) (m : Msg) : (s.send n m).watch = s.watch := rfl
@[simp] theorem State.send_cores (s : State) (n : Nat) (m : Msg) : (s.send n m).cores = s.cores := rfl
@[simp] theorem State.send_dies (s : State) (n : Nat) (m : Msg) : (s.send n m).dies = s.dies := rfl
@[simp] theorem State.send_mem (s : State) (n : Nat) (m : Msg) : (s.send n m).mem = s.mem := rfl
@[simp] theorem State.send_poison (s : State) (n : Nat) (m : Msg) : (s.send n m).poison = s.poison := rfl
@[simp] theorem State.send_grans (s : State) (n : Nat) (m : Msg) : (s.send n m).grans = s.grans := rfl
@[simp] theorem State.send_pins (s : State) (n : Nat) (m : Msg) : (s.send n m).pins = s.pins := rfl
@[simp] theorem State.send_shoots (s : State) (n : Nat) (m : Msg) : (s.send n m).shoots = s.shoots := rfl
@[simp] theorem State.send_sdwait (s : State) (n : Nat) (m : Msg) : (s.send n m).sdwait = s.sdwait := rfl
@[simp] theorem State.send_routed (s : State) (n : Nat) (m : Msg) : (s.send n m).routed = s.routed := rfl
@[simp] theorem State.send_teams (s : State) (n : Nat) (m : Msg) : (s.send n m).teams = s.teams := rfl
@[simp] theorem State.send_combs (s : State) (n : Nat) (m : Msg) : (s.send n m).combs = s.combs := rfl
@[simp] theorem State.send_atomrecs (s : State) (n : Nat) (m : Msg) : (s.send n m).atomrecs = s.atomrecs := rfl
@[simp] theorem State.send_heldw (s : State) (n : Nat) (m : Msg) : (s.send n m).heldw = s.heldw := rfl
@[simp] theorem State.send_saved (s : State) (n : Nat) (m : Msg) : (s.send n m).saved = s.saved := rfl
@[simp] theorem State.send_launchMem (s : State) (n : Nat) (m : Msg) : (s.send n m).launchMem = s.launchMem := rfl
@[simp] theorem State.send_qns (s : State) (n : Nat) (m : Msg) : (s.send n m).qns = s.qns := rfl
@[simp] theorem State.send_qhold (s : State) (n : Nat) (m : Msg) : (s.send n m).qhold = s.qhold := rfl
@[simp] theorem State.send_qlast (s : State) (n : Nat) (m : Msg) : (s.send n m).qlast = s.qlast := rfl
@[simp] theorem State.send_slew (s : State) (n : Nat) (m : Msg) : (s.send n m).slew = s.slew := rfl
@[simp] theorem State.send_qfrac (s : State) (n : Nat) (m : Msg) : (s.send n m).qfrac = s.qfrac := rfl
@[simp] theorem State.send_qstep (s : State) (n : Nat) (m : Msg) : (s.send n m).qstep = s.qstep := rfl
@[simp] theorem State.send_ptpPort (s : State) (n : Nat) (m : Msg) : (s.send n m).ptpPort = s.ptpPort := rfl
@[simp] theorem State.send_shtime (s : State) (n : Nat) (m : Msg) : (s.send n m).shtime = s.shtime := rfl
@[simp] theorem State.send_shctl (s : State) (n : Nat) (m : Msg) : (s.send n m).shctl = s.shctl := rfl
@[simp] theorem State.send_dump (s : State) (n : Nat) (m : Msg) : (s.send n m).dump = s.dump := rfl
@[simp] theorem State.send_bar2 (s : State) (n : Nat) (m : Msg) : (s.send n m).bar2 = s.bar2 := rfl

/-! ### A sequencer changed -/

@[simp] theorem Core.modSeq_spec (c : Core) (q : Fin 4) (f : SeqSt → SeqSt) : (c.modSeq q f).spec = c.spec := rfl
@[simp] theorem Core.modSeq_ic (c : Core) (q : Fin 4) (f : SeqSt → SeqSt) : (c.modSeq q f).ic = c.ic := rfl
@[simp] theorem Core.modSeq_fills (c : Core) (q : Fin 4) (f : SeqSt → SeqSt) : (c.modSeq q f).fills = c.fills := rfl
@[simp] theorem Core.modSeq_tok (c : Core) (q : Fin 4) (f : SeqSt → SeqSt) : (c.modSeq q f).tok = c.tok := rfl
@[simp] theorem Core.modSeq_tok0 (c : Core) (q : Fin 4) (f : SeqSt → SeqSt) : (c.modSeq q f).tok0 = c.tok0 := rfl
@[simp] theorem Core.modSeq_waited (c : Core) (q : Fin 4) (f : SeqSt → SeqSt) : (c.modSeq q f).waited = c.waited := rfl
@[simp] theorem Core.modSeq_signalled (c : Core) (q : Fin 4) (f : SeqSt → SeqSt) : (c.modSeq q f).signalled = c.signalled := rfl
@[simp] theorem Core.modSeq_assume (c : Core) (q : Fin 4) (f : SeqSt → SeqSt) : (c.modSeq q f).assume = c.assume := rfl
@[simp] theorem Core.modSeq_offered (c : Core) (q : Fin 4) (f : SeqSt → SeqSt) : (c.modSeq q f).offered = c.offered := rfl
@[simp] theorem Core.modSeq_raise (c : Core) (q : Fin 4) (f : SeqSt → SeqSt) : (c.modSeq q f).raise = c.raise := rfl
@[simp] theorem Core.modSeq_detected (c : Core) (q : Fin 4) (f : SeqSt → SeqSt) : (c.modSeq q f).detected = c.detected := rfl
@[simp] theorem Core.modSeq_q (c : Core) (q : Fin 4) (f : SeqSt → SeqSt) : (c.modSeq q f).q = c.q := rfl
@[simp] theorem Core.modSeq_v (c : Core) (q : Fin 4) (f : SeqSt → SeqSt) : (c.modSeq q f).v = c.v := rfl
@[simp] theorem Core.modSeq_m (c : Core) (q : Fin 4) (f : SeqSt → SeqSt) : (c.modSeq q f).m = c.m := rfl
@[simp] theorem Core.modSeq_nextId (c : Core) (q : Fin 4) (f : SeqSt → SeqSt) : (c.modSeq q f).nextId = c.nextId := rfl
@[simp] theorem Core.modSeq_seqid (c : Core) (q : Fin 4) (f : SeqSt → SeqSt) : (c.modSeq q f).seqid = c.seqid := rfl
@[simp] theorem Core.modSeq_gen (c : Core) (q : Fin 4) (f : SeqSt → SeqSt) : (c.modSeq q f).gen = c.gen := rfl
@[simp] theorem Core.modSeq_rgnmax (c : Core) (q : Fin 4) (f : SeqSt → SeqSt) : (c.modSeq q f).rgnmax = c.rgnmax := rfl
@[simp] theorem Core.modSeq_rgncnt (c : Core) (q : Fin 4) (f : SeqSt → SeqSt) : (c.modSeq q f).rgncnt = c.rgncnt := rfl
@[simp] theorem Core.modSeq_retrylim (c : Core) (q : Fin 4) (f : SeqSt → SeqSt) : (c.modSeq q f).retrylim = c.retrylim := rfl
@[simp] theorem Core.modSeq_retrycnt (c : Core) (q : Fin 4) (f : SeqSt → SeqSt) : (c.modSeq q f).retrycnt = c.retrycnt := rfl
@[simp] theorem Core.modSeq_cohcnt (c : Core) (q : Fin 4) (f : SeqSt → SeqSt) : (c.modSeq q f).cohcnt = c.cohcnt := rfl
@[simp] theorem Core.modSeq_pinned (c : Core) (q : Fin 4) (f : SeqSt → SeqSt) : (c.modSeq q f).pinned = c.pinned := rfl
@[simp] theorem Core.modSeq_share (c : Core) (q : Fin 4) (f : SeqSt → SeqSt) : (c.modSeq q f).share = c.share := rfl
@[simp] theorem Core.modSeq_qwpart (c : Core) (q : Fin 4) (f : SeqSt → SeqSt) : (c.modSeq q f).qwpart = c.qwpart := rfl
@[simp] theorem Core.modSeq_clkdiv (c : Core) (q : Fin 4) (f : SeqSt → SeqSt) : (c.modSeq q f).clkdiv = c.clkdiv := rfl
@[simp] theorem Core.modSeq_clkpend (c : Core) (q : Fin 4) (f : SeqSt → SeqSt) : (c.modSeq q f).clkpend = c.clkpend := rfl
@[simp] theorem Core.modSeq_level (c : Core) (q : Fin 4) (f : SeqSt → SeqSt) : (c.modSeq q f).level = c.level := rfl
@[simp] theorem Core.modSeq_src (c : Core) (q : Fin 4) (f : SeqSt → SeqSt) : (c.modSeq q f).src = c.src := rfl
@[simp] theorem Core.modSeq_grant (c : Core) (q : Fin 4) (f : SeqSt → SeqSt) : (c.modSeq q f).grant = c.grant := rfl
@[simp] theorem Core.modSeq_clocks (c : Core) (q : Fin 4) (f : SeqSt → SeqSt) : (c.modSeq q f).clocks = c.clocks := rfl
@[simp] theorem Core.modSeq_vl (c : Core) (q : Fin 4) (f : SeqSt → SeqSt) : (c.modSeq q f).vl = c.vl := rfl
@[simp] theorem Core.modSeq_abfttol (c : Core) (q : Fin 4) (f : SeqSt → SeqSt) : (c.modSeq q f).abfttol = c.abfttol := rfl
@[simp] theorem Core.modSeq_histp (c : Core) (q : Fin 4) (f : SeqSt → SeqSt) : (c.modSeq q f).histp = c.histp := rfl
@[simp] theorem Core.modSeq_fmterr (c : Core) (q : Fin 4) (f : SeqSt → SeqSt) : (c.modSeq q f).fmterr = c.fmterr := rfl
@[simp] theorem Core.modSeq_fmtpend (c : Core) (q : Fin 4) (f : SeqSt → SeqSt) : (c.modSeq q f).fmtpend = c.fmtpend := rfl
@[simp] theorem Core.modSeq_tshape (c : Core) (q : Fin 4) (f : SeqSt → SeqSt) : (c.modSeq q f).tshape = c.tshape := rfl
@[simp] theorem Core.modSeq_fmt (c : Core) (q : Fin 4) (f : SeqSt → SeqSt) : (c.modSeq q f).fmt = c.fmt := rfl
@[simp] theorem Core.modSeq_drainpos (c : Core) (q : Fin 4) (f : SeqSt → SeqSt) : (c.modSeq q f).drainpos = c.drainpos := rfl
@[simp] theorem Core.modSeq_mem (c : Core) (q : Fin 4) (f : SeqSt → SeqSt) : (c.modSeq q f).mem = c.mem := rfl
@[simp] theorem Core.modSeq_oldBytes (c : Core) (q : Fin 4) (f : SeqSt → SeqSt) : (c.modSeq q f).oldBytes = c.oldBytes := rfl
@[simp] theorem Core.modSeq_stores (c : Core) (q : Fin 4) (f : SeqSt → SeqSt) : (c.modSeq q f).stores = c.stores := rfl
@[simp] theorem Core.modSeq_banks (c : Core) (q : Fin 4) (f : SeqSt → SeqSt) : (c.modSeq q f).banks = c.banks := rfl
@[simp] theorem Core.modSeq_breqs (c : Core) (q : Fin 4) (f : SeqSt → SeqSt) : (c.modSeq q f).breqs = c.breqs := rfl
@[simp] theorem Core.modSeq_wakeq (c : Core) (q : Fin 4) (f : SeqSt → SeqSt) : (c.modSeq q f).wakeq = c.wakeq := rfl
@[simp] theorem Core.modSeq_goOff (c : Core) (q : Fin 4) (f : SeqSt → SeqSt) : (c.modSeq q f).goOff = c.goOff := rfl
@[simp] theorem Core.modSeq_tiles (c : Core) (q : Fin 4) (f : SeqSt → SeqSt) : (c.modSeq q f).tiles = c.tiles := rfl
@[simp] theorem Core.modSeq_tloads (c : Core) (q : Fin 4) (f : SeqSt → SeqSt) : (c.modSeq q f).tloads = c.tloads := rfl
@[simp] theorem Core.modSeq_portFree (c : Core) (q : Fin 4) (f : SeqSt → SeqSt) : (c.modSeq q f).portFree = c.portFree := rfl
@[simp] theorem Core.modSeq_acc (c : Core) (q : Fin 4) (f : SeqSt → SeqSt) : (c.modSeq q f).acc = c.acc := rfl
@[simp] theorem Core.modSeq_mmas (c : Core) (q : Fin 4) (f : SeqSt → SeqSt) : (c.modSeq q f).mmas = c.mmas := rfl
@[simp] theorem Core.modSeq_slots (c : Core) (q : Fin 4) (f : SeqSt → SeqSt) : (c.modSeq q f).slots = c.slots := rfl
@[simp] theorem Core.modSeq_lastB (c : Core) (q : Fin 4) (f : SeqSt → SeqSt) : (c.modSeq q f).lastB = c.lastB := rfl
@[simp] theorem Core.modSeq_checks (c : Core) (q : Fin 4) (f : SeqSt → SeqSt) : (c.modSeq q f).checks = c.checks := rfl
@[simp] theorem Core.modSeq_drains (c : Core) (q : Fin 4) (f : SeqSt → SeqSt) : (c.modSeq q f).drains = c.drains := rfl
@[simp] theorem Core.modSeq_wins (c : Core) (q : Fin 4) (f : SeqSt → SeqSt) : (c.modSeq q f).wins = c.wins := rfl
@[simp] theorem Core.modSeq_dmem (c : Core) (q : Fin 4) (f : SeqSt → SeqSt) : (c.modSeq q f).dmem = c.dmem := rfl
@[simp] theorem Core.modSeq_chans (c : Core) (q : Fin 4) (f : SeqSt → SeqSt) : (c.modSeq q f).chans = c.chans := rfl
@[simp] theorem Core.modSeq_rte (c : Core) (q : Fin 4) (f : SeqSt → SeqSt) : (c.modSeq q f).rte = c.rte := rfl
@[simp] theorem Core.modSeq_nrte (c : Core) (q : Fin 4) (f : SeqSt → SeqSt) : (c.modSeq q f).nrte = c.nrte := rfl
@[simp] theorem Core.modSeq_cb (c : Core) (q : Fin 4) (f : SeqSt → SeqSt) : (c.modSeq q f).cb = c.cb := rfl
@[simp] theorem Core.modSeq_loads (c : Core) (q : Fin 4) (f : SeqSt → SeqSt) : (c.modSeq q f).loads = c.loads := rfl
@[simp] theorem Core.modSeq_lbuf (c : Core) (q : Fin 4) (f : SeqSt → SeqSt) : (c.modSeq q f).lbuf = c.lbuf := rfl
@[simp] theorem Core.modSeq_tlb (c : Core) (q : Fin 4) (f : SeqSt → SeqSt) : (c.modSeq q f).tlb = c.tlb := rfl
@[simp] theorem Core.modSeq_stlb (c : Core) (q : Fin 4) (f : SeqSt → SeqSt) : (c.modSeq q f).stlb = c.stlb := rfl
@[simp] theorem Core.modSeq_walks (c : Core) (q : Fin 4) (f : SeqSt → SeqSt) : (c.modSeq q f).walks = c.walks := rfl
@[simp] theorem Core.modSeq_prefs (c : Core) (q : Fin 4) (f : SeqSt → SeqSt) : (c.modSeq q f).prefs = c.prefs := rfl
@[simp] theorem Core.modSeq_xres (c : Core) (q : Fin 4) (f : SeqSt → SeqSt) : (c.modSeq q f).xres = c.xres := rfl
@[simp] theorem Core.modSeq_faultno (c : Core) (q : Fin 4) (f : SeqSt → SeqSt) : (c.modSeq q f).faultno = c.faultno := rfl
@[simp] theorem Core.modSeq_halted (c : Core) (q : Fin 4) (f : SeqSt → SeqSt) : (c.modSeq q f).halted = c.halted := rfl
@[simp] theorem Core.modSeq_frec (c : Core) (q : Fin 4) (f : SeqSt → SeqSt) : (c.modSeq q f).frec = c.frec := rfl
@[simp] theorem Core.modSeq_touched (c : Core) (q : Fin 4) (f : SeqSt → SeqSt) : (c.modSeq q f).touched = c.touched := rfl
@[simp] theorem Core.modSeq_used (c : Core) (q : Fin 4) (f : SeqSt → SeqSt) : (c.modSeq q f).used = c.used := rfl
@[simp] theorem Core.modSeq_pts (c : Core) (q : Fin 4) (f : SeqSt → SeqSt) : (c.modSeq q f).pts = c.pts := rfl
@[simp] theorem Core.modSeq_reads (c : Core) (q : Fin 4) (f : SeqSt → SeqSt) : (c.modSeq q f).reads = c.reads := rfl
@[simp] theorem Core.modSeq_ts (c : Core) (q : Fin 4) (f : SeqSt → SeqSt) : (c.modSeq q f).ts = c.ts := rfl
@[simp] theorem Core.modSeq_cut (c : Core) (q : Fin 4) (f : SeqSt → SeqSt) : (c.modSeq q f).cut = c.cut := rfl
@[simp] theorem Core.modSeq_eng (c : Core) (q : Fin 4) (f : SeqSt → SeqSt) : (c.modSeq q f).eng = c.eng := rfl
@[simp] theorem Core.modSeq_lastResult (c : Core) (q : Fin 4) (f : SeqSt → SeqSt) : (c.modSeq q f).lastResult = c.lastResult := rfl
@[simp] theorem Core.modSeq_lastVec (c : Core) (q : Fin 4) (f : SeqSt → SeqSt) : (c.modSeq q f).lastVec = c.lastVec := rfl
@[simp] theorem Core.modSeq_ready (c : Core) (q : Fin 4) (f : SeqSt → SeqSt) : (c.modSeq q f).ready = c.ready := rfl
@[simp] theorem Core.modSeq_mid (c : Core) (q : Fin 4) (f : SeqSt → SeqSt) : (c.modSeq q f).mid = c.mid := rfl
@[simp] theorem Core.modSeq_members (c : Core) (q : Fin 4) (f : SeqSt → SeqSt) : (c.modSeq q f).members = c.members := rfl
@[simp] theorem Core.modSeq_task (c : Core) (q : Fin 4) (f : SeqSt → SeqSt) : (c.modSeq q f).task = c.task := rfl
@[simp] theorem Core.modSeq_staged (c : Core) (q : Fin 4) (f : SeqSt → SeqSt) : (c.modSeq q f).staged = c.staged := rfl
@[simp] theorem Core.modSeq_preempt (c : Core) (q : Fin 4) (f : SeqSt → SeqSt) : (c.modSeq q f).preempt = c.preempt := rfl
@[simp] theorem Core.modSeq_preAt (c : Core) (q : Fin 4) (f : SeqSt → SeqSt) : (c.modSeq q f).preAt = c.preAt := rfl
@[simp] theorem Core.modSeq_cancelAt (c : Core) (q : Fin 4) (f : SeqSt → SeqSt) : (c.modSeq q f).cancelAt = c.cancelAt := rfl
@[simp] theorem Core.modSeq_retired (c : Core) (q : Fin 4) (f : SeqSt → SeqSt) : (c.modSeq q f).retired = c.retired := rfl
@[simp] theorem Core.modSeq_failed (c : Core) (q : Fin 4) (f : SeqSt → SeqSt) : (c.modSeq q f).failed = c.failed := rfl
@[simp] theorem Core.modSeq_finishing (c : Core) (q : Fin 4) (f : SeqSt → SeqSt) : (c.modSeq q f).finishing = c.finishing := rfl
@[simp] theorem Core.modSeq_cntcfg (c : Core) (q : Fin 4) (f : SeqSt → SeqSt) : (c.modSeq q f).cntcfg = c.cntcfg := rfl
@[simp] theorem Core.modSeq_cntval (c : Core) (q : Fin 4) (f : SeqSt → SeqSt) : (c.modSeq q f).cntval = c.cntval := rfl
@[simp] theorem Core.modSeq_cntshd (c : Core) (q : Fin 4) (f : SeqSt → SeqSt) : (c.modSeq q f).cntshd = c.cntshd := rfl
@[simp] theorem Core.modSeq_cntalloc (c : Core) (q : Fin 4) (f : SeqSt → SeqSt) : (c.modSeq q f).cntalloc = c.cntalloc := rfl
@[simp] theorem Core.modSeq_cntpart (c : Core) (q : Fin 4) (f : SeqSt → SeqSt) : (c.modSeq q f).cntpart = c.cntpart := rfl
@[simp] theorem Core.modSeq_ovfs (c : Core) (q : Fin 4) (f : SeqSt → SeqSt) : (c.modSeq q f).ovfs = c.ovfs := rfl
@[simp] theorem Core.modSeq_cntset (c : Core) (q : Fin 4) (f : SeqSt → SeqSt) : (c.modSeq q f).cntset = c.cntset := rfl
@[simp] theorem Core.modSeq_dbgctl (c : Core) (q : Fin 4) (f : SeqSt → SeqSt) : (c.modSeq q f).dbgctl = c.dbgctl := rfl
@[simp] theorem Core.modSeq_dbgbp (c : Core) (q : Fin 4) (f : SeqSt → SeqSt) : (c.modSeq q f).dbgbp = c.dbgbp := rfl
@[simp] theorem Core.modSeq_stepOff (c : Core) (q : Fin 4) (f : SeqSt → SeqSt) : (c.modSeq q f).stepOff = c.stepOff := rfl
@[simp] theorem Core.modSeq_dbg (c : Core) (q : Fin 4) (f : SeqSt → SeqSt) : (c.modSeq q f).dbg = c.dbg := rfl
@[simp] theorem Core.modSeq_stopped (c : Core) (q : Fin 4) (f : SeqSt → SeqSt) : (c.modSeq q f).stopped = c.stopped := rfl
@[simp] theorem Core.modSeq_stepBase (c : Core) (q : Fin 4) (f : SeqSt → SeqSt) : (c.modSeq q f).stepBase = c.stepBase := rfl
@[simp] theorem Core.modSeq_worked (c : Core) (q : Fin 4) (f : SeqSt → SeqSt) : (c.modSeq q f).worked = c.worked := rfl
@[simp] theorem Core.modSeq_tried (c : Core) (q : Fin 4) (f : SeqSt → SeqSt) : (c.modSeq q f).tried = c.tried := rfl
@[simp] theorem Core.modSeq_confirmed (c : Core) (q : Fin 4) (f : SeqSt → SeqSt) : (c.modSeq q f).confirmed = c.confirmed := rfl
@[simp] theorem Core.modSeq_rolled (c : Core) (q : Fin 4) (f : SeqSt → SeqSt) : (c.modSeq q f).rolled = c.rolled := rfl
@[simp] theorem Core.modSeq_begun (c : Core) (q : Fin 4) (f : SeqSt → SeqSt) : (c.modSeq q f).begun = c.begun := rfl
@[simp] theorem Core.modSeq_units (c : Core) (q : Fin 4) (f : SeqSt → SeqSt) : (c.modSeq q f).units = c.units := rfl
@[simp] theorem Core.modSeq_parity (c : Core) (q : Fin 4) (f : SeqSt → SeqSt) : (c.modSeq q f).parity = c.parity := rfl
@[simp] theorem Core.modSeq_notes (c : Core) (q : Fin 4) (f : SeqSt → SeqSt) : (c.modSeq q f).notes = c.notes := rfl
@[simp] theorem Core.modSeq_report (c : Core) (q : Fin 4) (f : SeqSt → SeqSt) : (c.modSeq q f).report = c.report := rfl
@[simp] theorem Core.modSeq_trapped (c : Core) (q : Fin 4) (f : SeqSt → SeqSt) : (c.modSeq q f).trapped = c.trapped := rfl
@[simp] theorem Core.modSeq_lastTag (c : Core) (q : Fin 4) (f : SeqSt → SeqSt) : (c.modSeq q f).lastTag = c.lastTag := rfl
@[simp] theorem Core.modSeq_ran (c : Core) (q : Fin 4) (f : SeqSt → SeqSt) : (c.modSeq q f).ran = c.ran := rfl
@[simp] theorem Core.modSeq_lastRan (c : Core) (q : Fin 4) (f : SeqSt → SeqSt) : (c.modSeq q f).lastRan = c.lastRan := rfl
@[simp] theorem Core.modSeq_accPc (c : Core) (q : Fin 4) (f : SeqSt → SeqSt) : (c.modSeq q f).accPc = c.accPc := rfl

/-! ### Read back -/

@[simp] theorem State.core_setCore_same (s : State) (k : CoreId) (c : Core) : (s.setCore k c).core k = c := by
  simp [State.core, State.setCore]
theorem State.core_setCore_other (s : State) {k j : CoreId} (c : Core) (h : j ≠ k) : (s.setCore k c).core j = s.core j := by
  have hv : k.val ≠ j.val := fun e => h (Fin.ext e.symm)
  simp [State.core, State.setCore, hv]
@[simp] theorem State.die_setCore (s : State) (k : CoreId) (c : Core) (d : Fin 2) : (s.setCore k c).die d = s.die d := rfl
@[simp] theorem State.die_modCore (s : State) (k : CoreId) (f : Core → Core) (d : Fin 2) : (s.modCore k f).die d = s.die d := rfl
@[simp] theorem State.die_modDie_same (s : State) (d : Fin 2) (f : Die → Die) : (s.modDie d f).die d = f (s.die d) := by
  simp [State.die, State.modDie]
theorem State.die_modDie_other (s : State) {d e : Fin 2} (f : Die → Die) (h : e ≠ d) : (s.modDie d f).die e = s.die e := by
  have hv : d.val ≠ e.val := fun x => h (Fin.ext x.symm)
  simp [State.die, State.modDie, hv]
@[simp] theorem State.core_modDie (s : State) (d : Fin 2) (f : Die → Die) (k : CoreId) : (s.modDie d f).core k = s.core k := rfl
@[simp] theorem State.setCore_self (s : State) (k : CoreId) : s.setCore k (s.core k) = s := by
  simp [State.setCore, State.core]
@[simp] theorem State.setCore_setCore (s : State) (k : CoreId) (c d : Core) : (s.setCore k c).setCore k d = s.setCore k d := by
  simp [State.setCore]

end Sys2Proof.Machine
end

