-- ==== Sys2Proof/Laws/Report.lean ====
section
/-! SUPPORT. What records, messages, rollbacks and traps do: records and messages change no core, a rollback leaves the cut
and the context's identity, and a trap leaves its task Held with the cause. -/

namespace Sys2Proof.Machine

/-! ### Records and messages change no core -/

@[simp] theorem State.setGran_cores (s : State) (g : Gran) (x : GranSt) : (s.setGran g x).cores = s.cores := by
  unfold State.setGran; split <;> rfl

/-- A fold of steps that change no core changes none. -/
theorem State.foldl_cores {α : Type} (f : State → α → State) (hf : ∀ s x, (f s x).cores = s.cores) (l : List α) (s : State) :
    (l.foldl f s).cores = s.cores := by
  induction l generalizing s with
  | nil => rfl
  | cons x l ih => rw [List.foldl_cons, ih, hf]

theorem State.acceptWrite_cores (s : State) (ring : Bool) (pa : Nat) (bs : List (BitVec 8)) :
    (s.acceptWrite ring pa bs).cores = s.cores := by
  unfold State.acceptWrite
  dsimp only
  split
  · exact State.foldl_cores _ (fun s i => State.setGran_cores s _ _) _ _
  · rfl

@[simp] theorem State.writeAs_cores (s : State) (ring : Bool) (pa : Nat) (bs : List (BitVec 8)) :
    (s.writeAs ring pa bs).cores = s.cores := by
  unfold State.writeAs
  split
  · rfl
  · split
    · refine State.foldl_cores _ (fun s x => ?_) _ _
      split
      · rfl
      · exact State.acceptWrite_cores ..
    · exact State.acceptWrite_cores ..

@[simp] theorem State.untimedWrite_cores (s : State) (pa : Nat) (bs : List (BitVec 8)) :
    (s.untimedWrite pa bs).cores = s.cores := State.writeAs_cores ..

@[simp] theorem State.ringWrite_cores (s : State) (pa : Nat) (bs : List (BitVec 8)) :
    (s.ringWrite pa bs).cores = s.cores := State.writeAs_cores ..

theorem State.ite_cores (c : Prop) (i : Decidable c) {a b : State} {x : Vector Core 16} (ha : a.cores = x) (hb : b.cores = x) :
    (@ite State c i a b).cores = x := by
  split <;> assumption

@[simp] theorem State.tansy_cores (s : State) (d : Fin 2) (p : PartId) (type core unit : Nat) (gang : BitVec 16) (task gen : Nat)
    (body : List (BitVec 8)) : (s.tansy d p type core unit gang task gen body).cores = s.cores := by
  unfold State.tansy
  simp only []
  split
  · rfl
  · exact State.ite_cores _ _ rfl (State.ringWrite_cores ..)

@[simp] theorem State.trigger_cores (s : State) (d : Fin 2) (p : PartId) (source cause : Nat) (w : TrigAt) :
    (s.trigger d p source cause w).cores = s.cores := by
  unfold State.trigger
  dsimp only
  split
  · exact State.tansy_cores ..
  · rw [State.modDie_cores, State.tansy_cores]

@[simp] theorem State.elog_cores (s : State) (d : Fin 2) (p : PartId) (r : List (BitVec 8)) : (s.elog d p r).cores = s.cores := by
  unfold State.elog
  dsimp only
  rw [State.tansy_cores, State.modDie_cores]
  split
  · exact State.ringWrite_cores ..
  · rfl

@[simp] theorem State.logCore_cores (s : State) (k : CoreId) (r : Rep) : (s.logCore k r).cores = s.cores := State.elog_cores ..

@[simp] theorem State.ringOut_cores (s : State) (d : Fin 2) (p : PartId) (m : List (BitVec 8)) : (s.ringOut d p m).cores = s.cores := by
  unfold State.ringOut
  dsimp only
  rw [State.modDie_cores, State.ringWrite_cores]

@[simp] theorem State.postOut_cores (s : State) (d : Fin 2) (p : PartId) (type : Nat) (body : List (BitVec 8)) :
    (s.postOut d p type body).cores = s.cores := by
  unfold State.postOut
  dsimp only
  split
  · exact State.ringOut_cores ..
  · split
    · rfl
    · exact State.elog_cores ..

@[simp] theorem State.status_cores (s : State) (d : Fin 2) (code part : Nat) (gang : BitVec 16) (task cause : Nat)
    (tag : BitVec 16) (gen : Nat) : (s.status d code part gang task cause tag gen).cores = s.cores := State.postOut_cores ..

/-! ### Rollbacks and traps -/

@[simp] theorem State.dropClaims_cores (s : State) (k : CoreId) : (s.dropClaims k).cores = s.cores := rfl
@[simp] theorem State.dropPin_cores (s : State) (k : CoreId) : (s.dropPin k).cores = s.cores := rfl

/-- The waits withdrawn from the wakes of banks change nothing else of a core. -/
theorem State.dropWaits_core (s : State) (hit : Waiter → Bool) (j : CoreId) :
    (s.dropWaits hit).core j = { s.core j with banks := ((s.dropWaits hit).core j).banks } := by
  unfold State.dropWaits
  dsimp only
  split
  · simp only [State.core, Fin.getElem_fin, Vector.getElem_map]
  · rfl

/-- The value of an atomic fetched again changes only the wait of its core. -/
theorem State.refetch_core (s : State) (k j : CoreId) :
    (s.refetch k).core j = { s.core j with mid := ((s.refetch k).core j).mid } := by
  unfold State.refetch
  split
  · split
    · split
      · dsimp only [State.drawDelay]
        by_cases h : j = k
        · subst h
          unfold State.modCore
          rw [State.core_setCore_same]
          rfl
        · unfold State.modCore
          rw [State.core_setCore_other _ _ h]
          rfl
      · rfl
    · rfl
  · rfl

/-- A rollback (R32) leaves its core, but for the wakes it waited on, what it waits for between commit A and commit B, and
the accumulators of R223, as `Core.rollback` says, and every other core as it was but for its banks' wakes. -/
theorem State.rollback_core (s : State) (k : CoreId) (keep : Bool) :
    ∃ b m a, (s.rollback k keep).core k =
      { (s.core k).rollback k with banks := b, mid := m, acc := a, pinned := ((s.core k).rollback k).pinned && keep } := by
  unfold State.rollback
  dsimp only
  generalize hs1 : (if (s.core k).mmas.isEmpty = true then s else { s with free := s.free + 4 * accWords }) = s1
  generalize hc2 : ({ (s.core k).rollback k with acc := _, pinned := _ } : Core) = c2
  generalize (s.core k).ends k = hit
  have hm := State.refetch_core (((s1.setCore k c2).dropClaims k).dropWaits hit) k k
  have hb := State.dropWaits_core ((s1.setCore k c2).dropClaims k) hit k
  have h1 : ((s1.setCore k c2).dropClaims k).core k = c2 := State.core_setCore_same s1 k c2
  rw [h1] at hb
  rw [hb] at hm
  refine ⟨((((s1.setCore k c2).dropClaims k).dropWaits hit).core k).banks,
    ((((((s1.setCore k c2).dropClaims k).dropWaits hit).refetch k)).core k).mid, c2.acc, ?_⟩
  have h2 : ∀ x : State, (if keep = true then x else x.dropPin k).core k = x.core k := by
    intro x; split <;> rfl
  rw [h2, hm, ← hc2]

/-- TAKING A TRAP (R34, R36): the task is Held with the cause, at its cut, and issues nothing more in the rc; its report waits for
the end of the rc (R35). -/
theorem State.takeTrap_core {s : State} {k : CoreId} {r : Rep} {t : TaskSt} (h : (s.core k).task = some t)
    (hr : (s.core k).rolled = false) :
    ((s.takeTrap k r).core k).task = some { t with phase := .held, cause := BitVec.ofNat 8 r.cause } ∧
      ((s.takeTrap k r).core k).rolled = true ∧ ((s.takeTrap k r).core k).cut = (s.core k).cut ∧
      ((s.takeTrap k r).core k).gen = (s.core k).gen ∧ ((s.takeTrap k r).core k).trapped = [(s.core k).record k r] := by
  unfold State.takeTrap
  dsimp only
  rw [h]
  dsimp only
  rw [if_neg (by simp [hr]), State.modCore, State.core_setCore_same]
  obtain ⟨b, m, a, hb⟩ := State.rollback_core s k true
  rw [hb]
  exact ⟨rfl, rfl, rfl, rfl, rfl⟩

end Sys2Proof.Machine
end

