-- ==== Sys2Proof/Tests/Slice0.lean ====
section
/-! SUPPORT. Tests: the words of the spec's layouts and of its worked examples decode to the instructions they stand for,
one for every instruction of the table; ill-formed terms and words are refused; single steps with the spec's own values; and
for every statement with hypotheses a witness that meets those of each clause, at the ends of their ranges. -/

open Sys2Proof Sys2Proof.Machine

namespace Sys2Proof.Tests

-- one theorem at a time: each is a kernel evaluation
set_option Elab.async false

/-! ### Small states -/

/-- A first word's header with no ring action, under p0 (or m0). -/
def z : Hdr := ⟨⟨false, false, false, false⟩, false, 0⟩
/-- No signal of a second word. -/
def n : Comp := ⟨false, false⟩
/-- The reset state at an issue of a sequencer of core 0, which runs a task, with the core changed. -/
def on (q : Sys2Proof.Seq) (f : Core → Core) : State :=
  { State.reset with curSeq := q }.modCore 0 fun c => f { c with task := some placedTask }
/-- A register of a sequencer set. -/
def rg (q : Sys2Proof.Seq) (r : Fin 32) (v : Word64) (c : Core) : Core :=
  c.modSeq q.idx fun x => { x with s := x.s.set r v }
/-- A loop of a sequencer made its most recently started one. -/
def lp (q : Sys2Proof.Seq) (i : Fin 4) (h : LoopSt) (c : Core) : Core :=
  c.modSeq q.idx fun x => { x with h := x.h.set i h, live := i :: x.live }
/-- A queue's entries set. -/
def qs (q : Fin 8) (l : List QEnt) (c : Core) : Core := { c with q := c.q.set q ⟨0, l, 0⟩ }
/-- A page of 64 KiB at virtual 0, every access allowed, in the control TLB. -/
def page : TlbEnt := ⟨0, 0, 65536, 0x100000, true, true, true, false⟩
/-- The page entered. -/
def paged (c : Core) : Core := { c with tlb := [page] }

/-- The checks of `Goes`, in the order of its fields; those of L alone and of two words alone last. -/
def goesChecks (op : Op) (s : State) : List Bool :=
  [s.me.tokenFail s.curSeq.idx op.ring (!op.arr) == none, s.me.queueFail op.names op.push == none, !op.guard.never,
    !((s.curSeq.idx != 2 || op.lock) && op.guard.res.any s.mySeq.busy), op.guard.holds s.mySeq,
    !s.mySeq.interlocked s.curSeq.idx op, s.me.vbankState op.vregs == (none, none),
    if s.curSeq.idx = 1 then !s.me.loads.any (fun l => l.acq) else true, if op.len = 2 then s.mySeq.splitsLoop == none else true]

/-- An issue goes when each check does. -/
theorem goes_of_b {op : Op} {s : State} (h : (goesChecks op s).all id = true) : Goes op s :=
  have g (i : Fin 9) : (goesChecks op s)[i] = true := List.all_eq_true.mp h _ (List.getElem_mem _)
  { tokens := eq_of_beq (g 0)
    queues := eq_of_beq (g 1)
    acquire := fun e => by simpa [goesChecks, e] using g 7
    sometimes := by simpa [goesChecks] using g 2
    known := (Bool.not_eq_true' _).mp (g 3)
    holds := g 4
    free := by simpa [goesChecks] using g 5
    banks := eq_of_beq (g 6)
    fits := fun e => by simpa [goesChecks, e] using g 8 }

/-- `MemOk` from decidable parts. -/
theorem memOk_of {s : State} (h : s.mem.wf = true ∧ (∀ k : CoreId, (s.core k).mem.wf = true) ∧
    (∀ x ∈ s.saved, x.ctx.mem.wf = true) ∧ (∀ d : Fin 2, (s.die d).bootwin.wf = true) ∧
    (∀ x ∈ s.dump, x.ctx.mem.wf = true ∧ x.view.wf = true)) : MemOk s :=
  ⟨h.1, h.2.1, h.2.2.1, h.2.2.2.1, h.2.2.2.2⟩

/-! ### Decoding: the words of each row written out field by field from the layouts of R41 and R48 to R69, bit 31 first -/

/-- A sequencer, the two words and the instruction they stand for. -/
abbrev Row := Sys2Proof.Seq × Word32 × Word32 × Instr
/-- Whether the words decode to the instruction and it is well formed. -/
def Row.ok (r : Row) : Bool :=
  (match decode r.1 r.2.1 r.2.2.1 with
    | .ok i => decide (i = r.2.2.2)
    | .error _ => false) && r.2.2.2.wf r.1

theorem test_decode_misc : ([
  (.k, 0b0000_0_000_000000_000000_000000_000000, 0,
    .nop ⟨⟨false, false, false, false⟩, false, 0⟩),
  (.l, 0b0110_1_101_000000_000000_000000_000001, 0,
    .brk ⟨⟨false, true, true, false⟩, true, 5⟩),
  (.k, 0b0101_1_010_000000_000000_000000_000100, 0,
    .xfenceCore ⟨⟨false, true, false, true⟩, true, 2⟩),
  (.l, 0b0011_1_110_000000_000000_000000_000101, 0,
    .xfenceQuad ⟨⟨false, false, true, true⟩, true, 6⟩),
  (.c, 0b0001_0_011_000000_000000_000000_000110, 0,
    .xfenceDev ⟨⟨false, false, false, true⟩, false, 3⟩),
  (.s, 0b1010_0_111_000000_000000_000000_000111, 0,
    .xfenceSys ⟨⟨true, false, true, false⟩, false, 7⟩)] : List Row).all Row.ok = true := by decide +kernel

theorem test_decode_commit : ([
  (.c, 0b0110_0_000_000001_0000_0_1_1010_10010111, 0,
    .commit ⟨false, true, true, false⟩ true 10#4 0x97#8),
  (.s, 0b0001_0_000_000001_0000_1_0_0000_01100001, 0,
    .halt ⟨false, false, false, true⟩ false 0#4 0x61#8)] : List Row).all Row.ok = true := by decide +kernel

theorem test_decode_alu1 : ([
  (.k, 0b0000_0_100_000010_000101_000110_100010, 0,
    .add ⟨⟨false, false, false, false⟩, false, 4⟩ (.reg 5) (.reg 6) (.latch 2)),
  (.l, 0b0110_0_000_000011_100000_100011_001011, 0,
    .sub ⟨⟨false, true, true, false⟩, false, 0⟩ .latch (.latch 3) (.reg 11)),
  (.c, 0b0101_1_101_000100_010001_010101_011101, 0,
    .and ⟨⟨false, true, false, true⟩, true, 5⟩ (.reg 17) (.reg 21) (.reg 29)),
  (.s, 0b0011_1_010_000101_011110_001100_100010, 0,
    .or ⟨⟨false, false, true, true⟩, true, 2⟩ (.reg 30) (.reg 12) (.latch 2)),
  (.k, 0b0001_1_110_000110_001001_000110_001011, 0,
    .xor ⟨⟨false, false, false, true⟩, true, 6⟩ (.reg 9) (.reg 6) (.reg 11)),
  (.l, 0b1010_0_011_000111_000011_100011_011101, 0,
    .shl ⟨⟨true, false, true, false⟩, false, 3⟩ (.reg 3) (.latch 3) (.reg 29)),
  (.c, 0b0000_0_111_001000_000101_010101_100010, 0,
    .shr ⟨⟨false, false, false, false⟩, false, 7⟩ (.reg 5) (.reg 21) (.latch 2)),
  (.s, 0b0110_0_100_001001_100000_001100_001011, 0,
    .sra ⟨⟨false, true, true, false⟩, false, 4⟩ .latch (.reg 12) (.reg 11))] : List Row).all Row.ok = true := by decide +kernel

theorem test_decode_alu2 : ([
  (.k, 0b0101_0_000_001010_010001_000110_011101, 0,
    .mul ⟨⟨false, true, false, true⟩, false, 0⟩ (.reg 17) (.reg 6) (.reg 29)),
  (.c, 0b0011_1_101_000010_010010_101101_110000, 0,
    .add ⟨⟨false, false, true, true⟩, true, 5⟩ (.reg 18) (.pop 5) (.peek 0)),
  (.s, 0b0001_1_010_000011_010010_101110_110111, 0,
    .sub ⟨⟨false, false, false, true⟩, true, 2⟩ (.reg 18) (.pop 6) (.peek 7)),
  (.k, 0b1010_1_110_001011_010101_001010_100011, 0,
    .addi ⟨⟨true, false, true, false⟩, true, 6⟩ (.reg 21) (.reg 10) 0x23#6),
  (.l, 0b0000_0_011_001100_011010_101111110111, 0,
    .li ⟨⟨false, false, false, false⟩, false, 3⟩ (.reg 26) 0xbf7#12)] : List Row).all Row.ok = true := by decide +kernel

theorem test_decode_alux1 : ([
  (.k, 0b0110_0_111_001101_000101_010011_000000, 0b00_11_000000_1011010010100101111001,
    .addiLong ⟨⟨false, true, true, false⟩, false, 7⟩ (.reg 5) (.reg 19) 0x2d2979#22 ⟨true, true⟩),
  (.l, 0b0101_0_100_001101_100000_100001_000000, 0b00_01_000001_0101010101101010100101,
    .andi ⟨⟨false, true, false, true⟩, false, 4⟩ .latch (.latch 1) 0x155aa5#22 ⟨false, true⟩),
  (.c, 0b0011_0_000_001101_010001_000111_000000, 0b00_11_000010_1011001100110011001100,
    .ori ⟨⟨false, false, true, true⟩, false, 0⟩ (.reg 17) (.reg 7) 0x2ccccc#22 ⟨true, true⟩),
  (.s, 0b0001_1_101_001101_011110_011100_000000, 0b00_01_000011_1111110000000011110001,
    .xori ⟨⟨false, false, false, true⟩, true, 5⟩ (.reg 30) (.reg 28) 0x3f00f1#22 ⟨false, true⟩),
  (.s, 0b1010_1_010_001101_100000_010011_000000, 0b00_11_000100_0000000000000000_111111,
    .shli ⟨⟨true, false, true, false⟩, true, 2⟩ .latch (.reg 19) 63 ⟨true, true⟩),
  (.l, 0b0000_1_110_001101_010001_100001_000000, 0b00_01_000101_0000000000000000_100110,
    .shri ⟨⟨false, false, false, false⟩, true, 6⟩ (.reg 17) (.latch 1) 38 ⟨false, true⟩),
  (.k, 0b0110_0_011_001101_011110_000111_000000, 0b00_11_000110_0000000000000000_011001,
    .srai ⟨⟨false, true, true, false⟩, false, 3⟩ (.reg 30) (.reg 7) 25 ⟨true, true⟩),
  (.k, 0b0101_0_111_001101_000101_010011_000001, 0b00_01_000111_0000000000000000000000,
    .mulh ⟨⟨false, true, false, true⟩, false, 7⟩ (.reg 5) (.reg 19) (.reg 1) ⟨false, true⟩)] : List Row).all Row.ok = true := by decide +kernel

theorem test_decode_alux2 : ([
  (.l, 0b0011_0_100_001101_100000_100001_010010, 0b00_11_001000_0000000000000000000000,
    .mulhu ⟨⟨false, false, true, true⟩, false, 4⟩ .latch (.latch 1) (.reg 18) ⟨true, true⟩),
  (.c, 0b0001_0_000_001101_010001_000111_100010, 0b00_01_001001_0000000000000000000000,
    .min ⟨⟨false, false, false, true⟩, false, 0⟩ (.reg 17) (.reg 7) (.latch 2) ⟨false, true⟩),
  (.s, 0b1010_1_101_001101_011110_011000_011111, 0b00_11_001010_0000000000000000000000,
    .max ⟨⟨true, false, true, false⟩, true, 5⟩ (.reg 30) (.reg 24) (.reg 31) ⟨true, true⟩),
  (.k, 0b0000_1_010_001101_001001_001110_000101, 0b00_01_001011_0000000000000000000000,
    .minu ⟨⟨false, false, false, false⟩, true, 2⟩ (.reg 9) (.reg 14) (.reg 5) ⟨false, true⟩),
  (.l, 0b0110_1_110_001101_000011_000010_010110, 0b00_11_001100_0000000000000000000000,
    .maxu ⟨⟨false, true, true, false⟩, true, 6⟩ (.reg 3) (.reg 2) (.reg 22) ⟨true, true⟩),
  (.c, 0b0101_0_011_001101_000101_010011_000000, 0b00_01_001101_0000000000_010111_101000,
    .ext ⟨⟨false, true, false, true⟩, false, 3⟩ (.reg 5) (.reg 19) 40 23 ⟨false, true⟩),
  (.s, 0b0011_0_111_001101_100000_100001_000000, 0b00_11_001110_0000000000_111111_000000,
    .exts ⟨⟨false, false, true, true⟩, false, 7⟩ .latch (.latch 1) 0 63 ⟨true, true⟩),
  (.k, 0b0001_0_100_001101_010001_000111_100010, 0b00_01_001111_0000000000_001010_010101,
    .ins ⟨⟨false, false, false, true⟩, false, 4⟩ (.reg 17) (.reg 7) (.latch 2) 21 10 ⟨false, true⟩)] : List Row).all Row.ok = true := by decide +kernel

theorem test_decode_alux3 : ([
  (.l, 0b1010_0_000_001101_010001_010011_000000, 0b00_11_010000_0000000000000000000000,
    .clz ⟨⟨true, false, true, false⟩, false, 0⟩ (.reg 17) (.reg 19) ⟨true, true⟩),
  (.c, 0b0000_1_101_001101_011110_100001_000000, 0b00_01_010001_0000000000000000000000,
    .ctz ⟨⟨false, false, false, false⟩, true, 5⟩ (.reg 30) (.latch 1) ⟨false, true⟩),
  (.s, 0b0110_1_010_001101_001001_000111_000000, 0b00_11_010010_0000000000000000000000,
    .popc ⟨⟨false, true, true, false⟩, true, 2⟩ (.reg 9) (.reg 7) ⟨true, true⟩),
  (.k, 0b0101_1_110_001101_010100_001101_000000, 0b00_01_010011_1011010001010110011011,
    .lih ⟨⟨false, true, false, true⟩, true, 6⟩ (.reg 20) (.reg 13) 0x2d159b#22 ⟨false, true⟩)] : List Row).all Row.ok = true := by decide +kernel

theorem test_decode_cmp : ([
  (.k, 0b0011_0_011_001110_001_010_010011_100010, 0,
    .cmpeq ⟨⟨false, false, true, true⟩, false, 3⟩ 1 2 (.reg 19) (.latch 2)),
  (.l, 0b0001_0_111_001111_110_101_100001_011010, 0,
    .cmplt ⟨⟨false, false, false, true⟩, false, 7⟩ 6 5 (.latch 1) (.reg 26)),
  (.c, 0b1010_0_100_010000_011_111_000111_001001, 0,
    .cmpltu ⟨⟨true, false, true, false⟩, false, 4⟩ 3 7 (.reg 7) (.reg 9)),
  (.s, 0b0000_0_000_010001_100_010_010011_000000, 0b00_01_000000_1010101010101010101010,
    .cmpeqi ⟨⟨false, false, false, false⟩, false, 0⟩ 4 2 (.reg 19) 0x2aaaaa#22 ⟨false, true⟩),
  (.l, 0b0110_1_101_010001_110_101_100001_000000, 0b00_11_000001_1111111111111111111011,
    .cmplti ⟨⟨false, true, true, false⟩, true, 5⟩ 6 5 (.latch 1) 0x3ffffb#22 ⟨true, true⟩),
  (.k, 0b0101_1_010_010001_011_001_000111_000000, 0b00_01_000010_0100100011010001010110,
    .cmpltui ⟨⟨false, true, false, true⟩, true, 2⟩ 3 1 (.reg 7) 0x123456#22 ⟨false, true⟩)] : List Row).all Row.ok = true := by decide +kernel

theorem test_decode_pl : ([
  (.k, 0b0011_1_110_010010_000_011_000_001_010_1_0_0, 0,
    .pand ⟨⟨false, false, true, true⟩, true, 6⟩ 3 1 2 true false),
  (.l, 0b0001_0_011_010010_001_110_000_101_100_0_1_0, 0,
    .por ⟨⟨false, false, false, true⟩, false, 3⟩ 6 5 4 false true),
  (.s, 0b1010_0_111_010010_010_111_000_010_110_1_1_0, 0,
    .pxor ⟨⟨true, false, true, false⟩, false, 7⟩ 7 2 6 true true),
  (.c, 0b0000_0_100_010010_011_101_000_110_000_1_0_0, 0,
    .pmov ⟨⟨false, false, false, false⟩, false, 4⟩ 5 6 true)] : List Row).all Row.ok = true := by decide +kernel

theorem test_decode_mask : ([
  (.c, 0b0110_0_000_011011_000_011_000_001_010_1_0_0, 0,
    .mand ⟨⟨false, true, true, false⟩, false, 0⟩ 3 1 2 true false),
  (.c, 0b0101_1_101_011011_001_110_000_101_100_0_1_0, 0,
    .mor ⟨⟨false, true, false, true⟩, true, 5⟩ 6 5 4 false true),
  (.c, 0b0011_1_010_011011_010_111_000_010_110_1_1_0, 0,
    .mxor ⟨⟨false, false, true, true⟩, true, 2⟩ 7 2 6 true true),
  (.c, 0b0001_1_110_011011_011_101_000_110_000_1_0_0, 0,
    .mmov ⟨⟨false, false, false, true⟩, true, 6⟩ 5 6 true)] : List Row).all Row.ok = true := by decide +kernel

theorem test_decode_branch : ([
  (.k, 0b1010_0_011_010011_100111111000110011, 0,
    .br ⟨⟨true, false, true, false⟩, false, 3⟩ 0x27e33#18),
  (.s, 0b0000_0_111_010100_010101101001011010, 0,
    .brl ⟨⟨false, false, false, false⟩, false, 7⟩ 0x15a5a#18),
  (.c, 0b0110_0_100_010101_000111_101100_000000, 0,
    .jr ⟨⟨false, true, true, false⟩, false, 4⟩ (.reg 7) (.pop 4))] : List Row).all Row.ok = true := by decide +kernel

theorem test_decode_loop : ([
  (.l, 0b0101_0_000_010110_10_1_1_00_100111000011, 0b00_01_10110101_00_101010000000001111,
    .loop ⟨⟨false, true, false, true⟩, false, 0⟩ 2 true (.imm 0x9c3#12) 0xb5#8 0x2a00f#18 ⟨false, true⟩),
  (.s, 0b0011_1_101_010110_11_0_0_00_101110_000000, 0b00_11_00011111_00_000000000000000001,
    .loop ⟨⟨false, false, true, true⟩, true, 5⟩ 3 false (.sel (.pop 6)) 0x1f#8 1#18 ⟨true, true⟩)] : List Row).all Row.ok = true := by decide +kernel

theorem test_decode_special : ([
  (.k, 0b0001_1_010_010111_0_10011_000001110000, 0,
    .mfsr ⟨⟨false, false, false, true⟩, true, 2⟩ 19 0x070#12),
  (.c, 0b1010_1_110_010111_1_11100_000001011111, 0,
    .mtsr ⟨⟨true, false, true, false⟩, true, 6⟩ 28 0x05f#12)] : List Row).all Row.ok = true := by decide +kernel

theorem test_decode_load : ([
  (.l, 0b0000_0_011_011000_010110_100011_011_000, 0,
    .ld ⟨⟨false, false, false, false⟩, false, 3⟩ (.reg 22) (.latch 3) .hu),
  (.l, 0b0110_0_111_011001_100000_010001_110_000, 0b00_11_10_00_111111111111111111000000,
    .ldx ⟨⟨false, true, true, false⟩, false, 7⟩ .latch (.reg 17) .d .drop 0xffffc0#24 ⟨true, true⟩),
  (.l, 0b0101_0_100_100000_001011_011010_101_000, 0b00_01_11_1_0_011110101011110011011110,
    .ldd ⟨⟨false, true, false, true⟩, false, 4⟩ (.reg 11) (.reg 26) .wu .sys true 0x7abcde#24 ⟨false, true⟩)] : List Row).all Row.ok = true := by decide +kernel

theorem test_decode_store : ([
  (.s, 0b0011_0_000_011100_101110_001001_010_000, 0,
    .st ⟨⟨false, false, true, true⟩, false, 0⟩ (.pop 6) (.reg 9) .h),
  (.s, 0b0001_1_101_011101_001101_100010_100_000, 0b00_01_01_00_100000010010001101000101,
    .stx ⟨⟨false, false, false, true⟩, true, 5⟩ (.reg 13) (.latch 2) .w .retain 0x812345#24 ⟨false, true⟩),
  (.k, 0b1010_1_010_100001_011001_000110_000_000, 0b00_11_10_1_0_000100110101011110011011,
    .std ⟨⟨true, false, true, false⟩, true, 2⟩ (.reg 25) (.reg 6) .b .dev true 0x13579b#24 ⟨true, true⟩)] : List Row).all Row.ok = true := by decide +kernel

theorem test_decode_queue : ([
  (.l, 0b0000_1_110_011010_000_101_010010_000000, 0b00_01_01_00_000000000000000100000000,
    .ldq ⟨⟨false, false, false, false⟩, true, 6⟩ 5 (.reg 18) .retain 0x100#24 ⟨false, true⟩),
  (.l, 0b0110_0_011_100010_000_100_010101_000000, 0b00_11_10_1_0_111111111111111000000000,
    .lddq ⟨⟨false, true, true, false⟩, false, 3⟩ 4 (.reg 21) .dev true 0xfffe00#24 ⟨true, true⟩),
  (.s, 0b0101_0_111_011110_000_111_001100_000000, 0b00_01_10_00_000000000000000000100000,
    .stq ⟨⟨false, true, false, true⟩, false, 7⟩ 7 (.reg 12) .drop 0x20#24 ⟨false, true⟩),
  (.l, 0b0011_0_100_011011_000_010_001000_100001, 0b00_11_00_10_000000000000010101010101,
    .gather ⟨⟨false, false, true, true⟩, false, 4⟩ 2 (.reg 8) (.latch 1) .keep .e32 0x555#24 ⟨true, true⟩),
  (.s, 0b0001_0_000_011111_000_110_001000_110111, 0b00_01_10_01_101010101010101010101010,
    .scatter ⟨⟨false, false, false, true⟩, false, 0⟩ 6 (.reg 8) (.peek 7) .drop .e16 0xaaaaaa#24 ⟨false, true⟩)] : List Row).all Row.ok = true := by decide +kernel

theorem test_decode_atom1 : ([
  (.k, 0b1010_1_101_100011_000101_010011_000001, 0b00_11_0000_000000_01_0_0_0_0000000000000,
    .atomAdd ⟨⟨true, false, true, false⟩, true, 5⟩ (.reg 5) (.reg 19) (.reg 1) ⟨.quad, false, false, false⟩ ⟨true, true⟩),
  (.s, 0b0000_1_010_100011_100000_100001_010010, 0b00_01_0001_000000_10_1_0_0_0000000000000,
    .atomAnd ⟨⟨false, false, false, false⟩, true, 2⟩ .latch (.latch 1) (.reg 18) ⟨.dev, true, false, false⟩ ⟨false, true⟩),
  (.k, 0b0110_1_110_100011_010001_000111_100010, 0b00_11_0010_000000_11_0_1_0_0000000000000,
    .atomOr ⟨⟨false, true, true, false⟩, true, 6⟩ (.reg 17) (.reg 7) (.latch 2) ⟨.sys, false, true, false⟩ ⟨true, true⟩),
  (.s, 0b0101_0_011_100011_011110_011000_011111, 0b00_01_0011_000000_01_1_1_0_0000000000000,
    .atomXor ⟨⟨false, true, false, true⟩, false, 3⟩ (.reg 30) (.reg 24) (.reg 31) ⟨.quad, true, true, false⟩ ⟨false, true⟩),
  (.k, 0b0011_0_111_100011_001001_010011_000101, 0b00_11_0100_000000_10_0_0_1_0000000000000,
    .atomMin ⟨⟨false, false, true, true⟩, false, 7⟩ (.reg 9) (.reg 19) (.reg 5) ⟨.dev, false, false, true⟩ ⟨true, true⟩),
  (.s, 0b0001_0_100_100011_000011_100001_000001, 0b00_01_0101_000000_11_1_0_1_0000000000000,
    .atomMax ⟨⟨false, false, false, true⟩, false, 4⟩ (.reg 3) (.latch 1) (.reg 1) ⟨.sys, true, false, true⟩ ⟨false, true⟩),
  (.k, 0b1010_0_000_100011_000101_000111_010010, 0b00_11_0110_000000_01_0_1_1_0000000000000,
    .atomMinu ⟨⟨true, false, true, false⟩, false, 0⟩ (.reg 5) (.reg 7) (.reg 18) ⟨.quad, false, true, true⟩ ⟨true, true⟩),
  (.s, 0b0000_1_101_100011_100000_011000_100010, 0b00_01_0111_000000_10_1_1_1_0000000000000,
    .atomMaxu ⟨⟨false, false, false, false⟩, true, 5⟩ .latch (.reg 24) (.latch 2) ⟨.dev, true, true, true⟩ ⟨false, true⟩)] : List Row).all Row.ok = true := by decide +kernel

theorem test_decode_atom2 : ([
  (.k, 0b0110_1_010_100011_010001_010011_011111, 0b00_11_1000_000000_11_0_0_0_0000000000000,
    .atomSwap ⟨⟨false, true, true, false⟩, true, 2⟩ (.reg 17) (.reg 19) (.reg 31) ⟨.sys, false, false, false⟩ ⟨true, true⟩),
  (.s, 0b0101_1_110_100011_000000_001000_101111, 0b00_01_1001_110110_11_1_0_1_0000000000000,
    .atomCas ⟨⟨false, true, false, true⟩, true, 6⟩ (.reg 0) (.reg 8) (.pop 7) (.peek 6) ⟨.sys, true, false, true⟩ ⟨false, true⟩)] : List Row).all Row.ok = true := by decide +kernel

theorem test_decode_fetch : ([
  (.l, 0b0011_0_011_100100_000000_011011_000000, 0b00_11_11_00_100000000000000010000000,
    .pref ⟨⟨false, false, true, true⟩, false, 3⟩ (.reg 27) .sys 0x800080#24 ⟨true, true⟩),
  (.s, 0b0001_0_111_100101_10_0000_000100_000000, 0b00_01_1101_000000000000000100000000,
    .prefi ⟨⟨false, false, false, true⟩, false, 7⟩ 2 (.reg 4) 13 0x100#24 ⟨false, true⟩)] : List Row).all Row.ok = true := by decide +kernel

theorem test_decode_tile : ([
  (.l, 0b1010_0_100_100110_000_110_010100_000000, 0b00_11_10_00_000000000011000000000000,
    .tld ⟨⟨true, false, true, false⟩, false, 4⟩ 6 (.reg 20) .drop 0x3000#24 ⟨true, true⟩),
  (.l, 0b0000_0_000_100111_000_011_000000_001001, 0b00_01_01_00_101010111100_000100100011,
    .tldw ⟨⟨false, false, false, false⟩, false, 0⟩ 3 (.reg 0) (.reg 9) .retain 0xabc#12 0x123#12 ⟨false, true⟩)] : List Row).all Row.ok = true := by decide +kernel

theorem test_decode_ctl : ([
  (.k, 0b0110_1_101_101000_000000_011101_01_1101, 0,
    .bank ⟨⟨false, true, true, false⟩, true, 5⟩ (.reg 29) .retention 13),
  (.l, 0b0101_1_010_101001_001110_010110_100001, 0b00_01_00_00_111111111111000000000000,
    .syncwait ⟨⟨false, true, false, true⟩, true, 2⟩ (.reg 14) (.reg 22) (.latch 1) 0xfff000#24 ⟨false, true⟩),
  (.s, 0b0011_1_110_101010_11_0000_001100_000000, 0b00_11_01_1_0_0_00000000000000000000000,
    .copy ⟨⟨false, false, true, true⟩, true, 6⟩ 3 (.reg 12) ⟨.quad, true, false⟩ ⟨true, true⟩),
  (.k, 0b0001_0_011_101010_01_0000_011100_000000, 0b00_01_10_0_1_1_00000000000000000000000,
    .copyR ⟨⟨false, false, false, true⟩, false, 3⟩ 1 (.reg 28) ⟨.dev, false, true⟩ ⟨false, true⟩),
  (.s, 0b1010_0_111_101011_10_0000_000100_110110, 0b00_11_00_00_110000001111111111101110,
    .dwin ⟨⟨true, false, true, false⟩, false, 7⟩ 2 (.reg 4) (.peek 6) 0xc0ffee#24 ⟨true, true⟩),
  (.k, 0b0000_0_100_101100_000000_010111_000000, 0b00_01_0000000000000000000000000000,
    .launch ⟨⟨false, false, false, false⟩, false, 4⟩ (.reg 23) ⟨false, true⟩),
  (.k, 0b0110_0_000_101101_000000_000000_000000, 0,
    .yieldN ⟨⟨false, true, true, false⟩, false, 0⟩),
  (.k, 0b0101_1_101_101101_000000_010100_000001, 0,
    .swpt ⟨⟨false, true, false, true⟩, true, 5⟩ (.reg 20))] : List Row).all Row.ok = true := by decide +kernel

theorem test_decode_team : ([
  (.k, 0b0011_1_010_101110_001111_000011_000000, 0,
    .groupRank ⟨⟨false, false, true, true⟩, true, 2⟩ (.reg 15) (.reg 3)),
  (.k, 0b0001_1_110_101110_100000_010011_000001, 0,
    .groupSize ⟨⟨false, false, false, true⟩, true, 6⟩ .latch (.reg 19)),
  (.k, 0b1010_0_011_101111_000000_011111_000000, 0,
    .bar ⟨⟨true, false, true, false⟩, false, 3⟩ (.reg 31)),
  (.k, 0b0000_0_111_101111_000111_100011_000001, 0,
    .barw ⟨⟨false, false, false, false⟩, false, 7⟩ (.reg 7) (.latch 3))] : List Row).all Row.ok = true := by decide +kernel

theorem test_decode_vint1 : ([
  (.c, 0b0110_0_100_011000_000101_010011_000001, 0b00_11_000000_000_1_00_000000_0000000000,
    .vadd ⟨⟨false, true, true, false⟩, false, 4⟩ (.reg 5) (.reg 19) (.reg 1) .int8 true ⟨true, true⟩),
  (.c, 0b0101_0_000_011000_100000_100001_110101, 0b00_01_000001_001_0_00_000000_0000000000,
    .vsub ⟨⟨false, true, false, true⟩, false, 0⟩ .latch (.latch 1) (.peek 5) .int16 false ⟨false, true⟩),
  (.c, 0b0011_1_101_011000_010001_101000_100010, 0b00_11_000010_010_1_00_000000_0000000000,
    .vmul ⟨⟨false, false, true, true⟩, true, 5⟩ (.reg 17) (.pop 0) (.latch 2) .int32 true ⟨true, true⟩),
  (.c, 0b0001_1_010_011000_011110_011000_011111, 0b00_01_000011_011_0_00_000000_0000000000,
    .vmulh ⟨⟨false, false, false, true⟩, true, 2⟩ (.reg 30) (.reg 24) (.reg 31) .uint8 ⟨false, true⟩),
  (.c, 0b1010_1_110_011000_001001_010011_101101, 0b00_11_000100_100_0_00_000000_0000000000,
    .vmin ⟨⟨true, false, true, false⟩, true, 6⟩ (.reg 9) (.reg 19) (.pop 5) .uint16 ⟨true, true⟩),
  (.c, 0b0000_0_011_011000_000011_100001_000001, 0b00_01_000101_101_0_00_000000_0000000000,
    .vmax ⟨⟨false, false, false, false⟩, false, 3⟩ (.reg 3) (.latch 1) (.reg 1) .uint32 ⟨false, true⟩),
  (.c, 0b0110_0_111_011000_000101_101000_110101, 0b00_11_000110_000_0_00_000000_0000000000,
    .vand ⟨⟨false, true, true, false⟩, false, 7⟩ (.reg 5) (.pop 0) (.peek 5) .int8 ⟨true, true⟩),
  (.c, 0b0101_0_100_011000_100000_011000_100010, 0b00_01_000111_001_0_00_000000_0000000000,
    .vor ⟨⟨false, true, false, true⟩, false, 4⟩ .latch (.reg 24) (.latch 2) .int16 ⟨false, true⟩)] : List Row).all Row.ok = true := by decide +kernel

theorem test_decode_vint2 : ([
  (.c, 0b0011_0_000_011000_010001_010011_011111, 0b00_11_001000_010_0_00_000000_0000000000,
    .vxor ⟨⟨false, false, true, true⟩, false, 0⟩ (.reg 17) (.reg 19) (.reg 31) .int32 ⟨true, true⟩),
  (.c, 0b0001_1_101_011000_011110_100001_101101, 0b00_01_001001_011_0_00_000000_0000000000,
    .vshl ⟨⟨false, false, false, true⟩, true, 5⟩ (.reg 30) (.latch 1) (.pop 5) .uint8 ⟨false, true⟩),
  (.c, 0b1010_1_010_011000_001001_101000_000001, 0b00_11_001010_100_0_00_000000_0000000000,
    .vshr ⟨⟨true, false, true, false⟩, true, 2⟩ (.reg 9) (.pop 0) (.reg 1) .uint16 ⟨true, true⟩),
  (.c, 0b0000_1_110_011000_000011_011000_110101, 0b00_01_001011_101_0_00_000000_0000000000,
    .vsra ⟨⟨false, false, false, false⟩, true, 6⟩ (.reg 3) (.reg 24) (.peek 5) .uint32 ⟨false, true⟩),
  (.c, 0b0110_0_011_011000_011101_101010_000000, 0b00_11_001100_010_1_00_000000_0000000000,
    .vabs ⟨⟨false, true, true, false⟩, false, 3⟩ (.reg 29) (.pop 2) .int32 true ⟨true, true⟩),
  (.c, 0b0101_0_111_011000_011101_101010_000000, 0b00_01_001101_001_0_00_000000_0000000000,
    .vneg ⟨⟨false, true, false, true⟩, false, 7⟩ (.reg 29) (.pop 2) .int16 false ⟨false, true⟩),
  (.c, 0b0011_0_100_011000_000011_101010_110010, 0b00_11_001110_101_1_00_100011_0000000000,
    .vmad ⟨⟨false, false, true, true⟩, false, 4⟩ (.reg 3) (.pop 2) (.peek 2) (.latch 3) .uint32 true ⟨true, true⟩)] : List Row).all Row.ok = true := by decide +kernel

theorem test_decode_vfloat1 : ([
  (.c, 0b0001_0_000_011001_000101_010011_000001, 0b00_01_000000_000_000_000000_0000000000,
    .vfadd ⟨⟨false, false, false, true⟩, false, 0⟩ (.reg 5) (.reg 19) (.reg 1) .fp32 .rne ⟨false, true⟩),
  (.c, 0b1010_1_101_011001_100000_100001_110101, 0b00_11_000001_001_001_000000_0000000000,
    .vfsub ⟨⟨true, false, true, false⟩, true, 5⟩ .latch (.latch 1) (.peek 5) .fp16 .rtz ⟨true, true⟩),
  (.c, 0b0000_1_010_011001_010001_101000_100010, 0b00_01_000010_010_010_000000_0000000000,
    .vfmul ⟨⟨false, false, false, false⟩, true, 2⟩ (.reg 17) (.pop 0) (.latch 2) .bf16 .rdn ⟨false, true⟩),
  (.c, 0b0110_1_110_011001_011110_011000_011111, 0b00_11_000011_000_011_101100_0000000000,
    .vfma ⟨⟨false, true, true, false⟩, true, 6⟩ (.reg 30) (.reg 24) (.reg 31) (.pop 4) .fp32 .rup ⟨true, true⟩),
  (.c, 0b0101_0_011_011001_001001_010011_101101, 0b00_01_000100_001_000_010001_0000000000,
    .vfms ⟨⟨false, true, false, true⟩, false, 3⟩ (.reg 9) (.reg 19) (.pop 5) (.reg 17) .fp16 .rne ⟨false, true⟩),
  (.c, 0b0011_0_111_011001_000011_100001_000001, 0b00_11_000101_010_001_000000_0000000000,
    .vfmin ⟨⟨false, false, true, true⟩, false, 7⟩ (.reg 3) (.latch 1) (.reg 1) .bf16 .rtz ⟨true, true⟩),
  (.c, 0b0001_0_100_011001_000101_101000_110101, 0b00_01_000110_000_010_000000_0000000000,
    .vfmax ⟨⟨false, false, false, true⟩, false, 4⟩ (.reg 5) (.pop 0) (.peek 5) .fp32 .rdn ⟨false, true⟩),
  (.c, 0b1010_0_000_011001_100000_011000_000000, 0b00_11_000111_001_011_000000_0000000000,
    .vfabs ⟨⟨true, false, true, false⟩, false, 0⟩ .latch (.reg 24) .fp16 .rup ⟨true, true⟩)] : List Row).all Row.ok = true := by decide +kernel

theorem test_decode_vfloat2 : ([
  (.c, 0b0000_1_101_011001_010001_010011_000000, 0b00_01_001000_010_000_000000_0000000000,
    .vfneg ⟨⟨false, false, false, false⟩, true, 5⟩ (.reg 17) (.reg 19) .bf16 .rne ⟨false, true⟩),
  (.c, 0b0110_1_010_011001_011110_100001_000000, 0b00_11_001001_000_001_000000_0000000000,
    .vfrcp ⟨⟨false, true, true, false⟩, true, 2⟩ (.reg 30) (.latch 1) .fp32 .rtz ⟨true, true⟩),
  (.c, 0b0101_1_110_011001_001001_101000_000000, 0b00_01_001010_001_010_000000_0000000000,
    .vfrsq ⟨⟨false, true, false, true⟩, true, 6⟩ (.reg 9) (.pop 0) .fp16 .rdn ⟨false, true⟩)] : List Row).all Row.ok = true := by decide +kernel

theorem test_decode_vother1 : ([
  (.c, 0b0011_0_011_011010_110_001_010111_110001, 0b00_11_0011_0111_00000000000000000000,
    .vcmp ⟨⟨false, false, true, true⟩, false, 3⟩ 6 1 (.reg 23) (.peek 1) .un (.f .fp16) ⟨true, true⟩),
  (.c, 0b0001_0_111_011100_010100_001101_011011, 0b00_01_101_1_000000000000000000000000,
    .vsel ⟨⟨false, false, false, true⟩, false, 7⟩ (.reg 20) (.reg 13) (.reg 27) 5 true ⟨false, true⟩),
  (.c, 0b1010_0_100_011101_010100_101001_011011, 0b00_11_000000_000000_0000000000000000,
    .vperm ⟨⟨true, false, true, false⟩, false, 4⟩ (.reg 20) (.pop 1) (.reg 27) ⟨true, true⟩),
  (.c, 0b0000_0_000_011101_000101_101001_000000, 0b00_01_000001_111111_0000000000000000,
    .vrot ⟨⟨false, false, false, false⟩, false, 0⟩ (.reg 5) (.pop 1) 63 ⟨false, true⟩),
  (.c, 0b0110_1_101_011101_100000_101001_000000, 0b00_11_000010_100110_0000000000000000,
    .vbcast ⟨⟨false, true, true, false⟩, true, 5⟩ .latch (.pop 1) 38 ⟨true, true⟩),
  (.c, 0b0101_1_010_011101_010001_101001_000000, 0b00_01_000011_011001_0000000000000000,
    .vshup ⟨⟨false, true, false, true⟩, true, 2⟩ (.reg 17) (.pop 1) 25 ⟨false, true⟩),
  (.c, 0b0011_1_110_011101_011110_101001_000000, 0b00_11_000100_001000_0000000000000000,
    .vshdn ⟨⟨false, false, true, true⟩, true, 6⟩ (.reg 30) (.pop 1) 8 ⟨true, true⟩),
  (.c, 0b0001_0_011_011110_001000_110011_000000, 0b00_01_1001_0010_100_1_0000000000000000,
    .vcvt ⟨⟨false, false, false, true⟩, false, 3⟩ (.reg 8) (.peek 3) .fp32 .int8 .rna true ⟨false, true⟩)] : List Row).all Row.ok = true := by decide +kernel

theorem test_decode_vother2 : ([
  (.c, 0b1010_0_111_011111_000101_010010_000000, 0b00_11_000000_1000_000000000000000000,
    .vrsum ⟨⟨true, false, true, false⟩, false, 7⟩ (.reg 5) (.reg 18) (.f .bf16) ⟨true, true⟩),
  (.c, 0b0000_0_100_011111_100000_010010_000000, 0b00_01_000001_0100_000000000000000000,
    .vrmax ⟨⟨false, false, false, false⟩, false, 4⟩ .latch (.reg 18) (.i .uint16) ⟨false, true⟩),
  (.c, 0b0110_0_000_011111_010001_010010_000000, 0b00_11_000010_0110_000000000000000000,
    .vrmin ⟨⟨false, true, true, false⟩, false, 0⟩ (.reg 17) (.reg 18) (.f .fp32) ⟨true, true⟩),
  (.c, 0b0101_1_101_100000_000101_101011_000000, 0,
    .vmov ⟨⟨false, true, false, true⟩, true, 5⟩ (.reg 5) (.pop 3)),
  (.c, 0b0011_1_010_100000_000_111_001001_000001, 0,
    .vpush ⟨⟨false, false, true, true⟩, true, 2⟩ 7 (.reg 9)),
  (.c, 0b0001_1_110_100000_100000_011110_000010, 0,
    .vbcs ⟨⟨false, false, false, true⟩, true, 6⟩ .latch (.reg 30)),
  (.c, 0b1010_0_011_100000_010001_110000_000011, 0,
    .vmvs ⟨⟨true, false, true, false⟩, false, 3⟩ (.reg 17) (.peek 0)),
  (.c, 0b0000_0_111_100001_000010_111111111110, 0,
    .vli ⟨⟨false, false, false, false⟩, false, 7⟩ (.reg 2) 0xffe#12)] : List Row).all Row.ok = true := by decide +kernel

theorem test_decode_vother3 : ([
  (.c, 0b0110_0_100_100010_000000_000000_10_1001, 0,
    .vbank ⟨⟨false, true, true, false⟩, false, 4⟩ .off 9#4)] : List Row).all Row.ok = true := by decide +kernel

theorem test_decode_matrix : ([
  (.c, 0b0101_0_000_100100_10_1_101_011_000_101000, 0b00_01_101101_1_1_0010_0_1_01_11_0000000000,
    .mma ⟨⟨false, true, false, true⟩, false, 0⟩ 2 true 5 3 40 ⟨45, true, true, 2, false, true, .quad, 3⟩ ⟨false, true⟩),
  (.c, 0b0011_1_101_100101_11_0000000000000000, 0b00_11_001100_1_0_1011_1_0_10_01_0000000000,
    .drain ⟨⟨false, false, true, true⟩, true, 5⟩ 3 ⟨12, true, false, 11, true, false, .dev, 1⟩ ⟨true, true⟩)] : List Row).all Row.ok = true := by decide +kernel

/-! The words that the spec writes out in its worked examples. -/

theorem test_decode_worked1 : ([
  (.l, 0x9308_51A2, 0,
    .add ⟨⟨true, false, false, true⟩, false, 3⟩ (.reg 5) (.reg 6) (.latch 2)),
  (.k, 0x2800_0000, 0,
    .nop ⟨⟨false, false, true, false⟩, true, 0⟩),
  (.c, 0x0004_1317, 0,
    .commit ⟨false, false, false, false⟩ true 3#4 0x17#8),
  (.c, 0x8091_823F, 0x1162_0000,
    .mma ⟨⟨true, false, false, false⟩, false, 0⟩ 1 true 0 1 63 ⟨5, true, false, 2, false, false, .core, 0⟩ ⟨false, true⟩),
  (.c, 0x0092_281F, 0x01F1_5C00,
    .mma z 2 false 2 4 31 ⟨7, true, true, 1, false, true, .quad, 3⟩ n),
  (.c, 0x0097_0000, 0x0324_0400,
    .drain z 3 ⟨12, true, false, 4, false, false, .core, 1⟩ n),
  (.k, 0x0A4F_FFFD, 0,
    .br ⟨⟨false, false, false, false⟩, true, 2⟩ (-3)),
  (.k, 0x0054_7300, 0,
    .jr z (.reg 7) (.reg 12)),
  (.k, 0x0059_C003, 0x0090_0004,
    .loop z 1 true (.imm 3) 9 4 n),
  (.s, 0x0004_3020, 0,
    .halt ⟨false, false, false, false⟩ true 0 0x20)] : List Row).all Row.ok = true := by decide +kernel

theorem test_decode_worked2 : ([
  (.k, 0x00B4_0000, 0,
    .yieldN z),
  (.k, 0x0096_0100, 0x0300_0100,
    .prefi z 2 (.reg 4) 3 0x100 n),
  (.s, 0x100C_4121, 0,
    .sub ⟨⟨false, false, false, true⟩, false, 0⟩ (.reg 4) (.reg 4) (.latch 1)),
  (.k, 0x002A_0083, 0,
    .mul z .latch (.reg 2) (.reg 3)),
  (.k, 0x0030_5001, 0,
    .li z (.reg 5) 1),
  (.k, 0x0034_5140, 0x04F8_9ABC,
    .lih z (.reg 5) (.reg 5) 0x389ABC n),
  (.k, 0x0044_A1C0, 0x007F_FFFB,
    .cmplti z 1 2 (.reg 7) (-5) n),
  (.k, 0x0048_B054, 0,
    .por z 3 1 2 true false),
  (.k, 0x0049_D144, 0,
    .pmov z 5 5 true),
  (.l, 0x005C_9002, 0,
    .mfsr z 9 2)] : List Row).all Row.ok = true := by decide +kernel

theorem test_decode_worked3 : ([
  (.c, 0x005E_1040, 0,
    .mtsr z 1 0x40),
  (.l, 0x0060_3260, 0,
    .ld z (.reg 3) (.reg 9) .w),
  (.l, 0x0064_42A0, 0x0800_0040,
    .ldx z (.reg 4) (.reg 10) .w .drop 0x40 n),
  (.l, 0x0080_51B0, 0x0800_0010,
    .ldd z (.reg 5) (.reg 6) .d .dev false 0x10 n),
  (.k, 0x0084_91B0, 0x0EFF_FFF8,
    .std z (.reg 9) (.reg 6) .d .sys true (-8) n),
  (.s, 0x0078_6300, 0x0400_0000,
    .stq z 6 (.reg 12) .retain 0 n),
  (.l, 0x006C_1209, 0x0100_0000,
    .gather z 1 (.reg 8) (.reg 9) .keep .e16 0 n),
  (.c, 0x0260_10A8, 0x0014_0000,
    .vadd ⟨⟨false, false, false, false⟩, false, 2⟩ (.reg 1) (.reg 2) (.pop 0) .int32 true n),
  (.c, 0x0064_4146, 0x00C0_1C00,
    .vfma z (.reg 4) (.reg 5) (.reg 6) (.reg 7) .fp32 .rne n),
  (.c, 0x0068_A0C4, 0x0160_0000,
    .vcmp z 1 2 (.reg 3) (.reg 4) .lt (.f .fp32) n)] : List Row).all Row.ok = true := by decide +kernel

theorem test_decode_worked4 : ([
  (.c, 0x0078_80C0, 0x0790_0000,
    .vcvt z (.reg 8) (.reg 3) .fp16 .fp32 .rne false n),
  (.c, 0x0080_6241, 0,
    .vpush z 6 (.reg 9)),
  (.c, 0x0084_2FFF, 0,
    .vli z (.reg 2) (-1)),
  (.s, 0x00A0_00E3, 0,
    .bank z (.reg 3) .off 3),
  (.c, 0x0088_0014, 0,
    .vbank z .retention 4),
  (.l, 0x0098_1500, 0x0000_0000,
    .tld z 1 (.reg 20) .keep 0 n),
  (.l, 0x009C_0009, 0x0000_0000,
    .tldw z 0 (.reg 0) (.reg 9) .keep 0 0 n),
  (.s, 0x20AC_0105, 0x0000_0060,
    .dwin ⟨⟨false, false, true, false⟩, false, 0⟩ 0 (.reg 4) (.reg 5) 0x60 n),
  (.l, 0x0090_0180, 0x0800_0080,
    .pref z (.reg 6) .dev 0x80 n),
  (.c, 0x8074_9AC0, 0x0108_0000,
    .vshdn ⟨⟨true, false, false, false⟩, false, 0⟩ (.reg 9) (.pop 3) 8 n)] : List Row).all Row.ok = true := by decide +kernel

/-! ### Words that are no instruction (R44, R49, R55 to R69): the first condition that fails -/

/-- The condition a decode fails on. -/
def fails (q : Sys2Proof.Seq) (w w2 : Word32) (e : DecodeErr) : Bool :=
  match decode q w w2 with
  | .ok _ => false
  | .error x => decide (x = e)

theorem test_refused :
    (-- R49: major 63; R63: LD in K; R66: C's major 35
     fails .k 0xFFFFFFFF 0 .major && fails .k 0x00603260 0 .major && fails .c 0x008C0000 0 .major &&
     -- R55: minor 2; R57: COND 3; R59: OP 20; R65: ATOM OP 10; R68: VCMP COND 4
     fails .s 0x00000002 0 .minor && fails .l 0x00440000 0x00C00000 .minor && fails .k 0x00340000 0x05000000 .minor &&
     fails .k 0x008C0000 0x0A010000 .minor && fails .c 0x00680000 0x04000000 .minor &&
     -- R55: A in NOP; R47: N with an index; R56: a guard in COMMIT; R64: D in BAR; R66: A in VBANK
     fails .c 0x00000A00 0 .reserved && fails .k 0x00321001 0 .reserved && fails .k 0x01040000 0 .reserved &&
     fails .k 0x00BC1000 0 .reserved && fails .c 0x00880041 0 .reserved &&
     -- R49: a wait bit in a second word, after a reserved bit of the first
     fails .k 0x00340000 0x40000000 .secondWait && fails .l 0x00640001 0x80000000 .reserved &&
     -- R45: a pop in K; R56: DROP in K; R64: SZ 7, .BU in ST; R60: LEN 0; R279: A = 0, 29 and a latch in COPY; R52: RNA to FP16; R51: format 11
     fails .k 0x00080A00 0 .operand && fails .k 0x00040100 0 .operand && fails .l 0x00600038 0 .operand &&
     fails .s 0x00700008 0 .operand && fails .k 0x00584001 0 .operand && fails .k 0x00A80000 0 .operand && fails .s 0x00A80740 0 .operand && fails .k 0x00A80880 0 .operand && fails .c 0x00780000 0x09780000 .operand &&
     fails .c 0x00780000 0x0B900000 .operand) = true := by
  decide +kernel

/-! ### Ill-formed terms, one for each check of `Instr.wf` -/

theorem test_ill_formed :
    -- a selector of another sequencer (R45), in each operand place and in LOOP's count
    ((Instr.add z .latch (.pop 0) (.reg 0)).wf .k || (Instr.add z .latch (.reg 0) (.peek 6)).wf .c ||
     (Instr.loop z 0 false (.sel (.pop 6)) 0 1 n).wf .c || (Instr.vmad z .latch (.reg 0) (.reg 0) (.pop 6) .int8 false n).wf .c ||
     (Instr.atomCas z .latch (.reg 0) (.reg 0) (.pop 7) ⟨.dev, false, false, false⟩ n).wf .k ||
     -- a drop mask outside C (R56); a field past bit 63 (R59); an empty body (R60)
     (Instr.commit z.ring true 1 0).wf .s || (Instr.ins z .latch (.reg 0) (.reg 0) 1 63 n).wf .k ||
     (Instr.loop z 0 false (.imm 1) 0 0 n).wf .k ||
     -- a major of another sequencer (R63, R66)
     (Instr.ld z .latch (.reg 0) .b).wf .k || (Instr.st z (.reg 0) (.reg 0) .b).wf .k || (Instr.launch z (.reg 0) n).wf .s ||
     (Instr.prefi z 0 (.reg 0) 0 0 n).wf .c || (Instr.vli z .latch 0).wf .l || (Instr.yieldN z).wf .c ||
     -- an unsigned store size (R64); a near scope in a DEV word, and core scope in an ATOM (R65)
     (Instr.st z (.reg 0) (.reg 0) .hu).wf .s || (Instr.ldd z .latch (.reg 0) .d .quad false 0 n).wf .l ||
     (Instr.atomAdd z .latch (.reg 0) (.reg 0) ⟨.core, false, false, false⟩ n).wf .k ||
     -- a queue that the instruction cannot use (R65, R68), and an index that is no queue (R158)
     (Instr.ldq z 6 (.reg 0) .keep 0 n).wf .l || (Instr.stq z 5 (.reg 0) .keep 0 n).wf .s || (Instr.vpush z 0 (.reg 0)).wf .c ||
     (Instr.scatter z 6 (.reg 0) (.reg 1) .keep .e8 0 n).wf .s ||
     -- a window of no length (R65); no bank (R194)
     (Instr.dwin z 0 (.reg 0) (.reg 0) 0 n).wf .s || (Instr.vbank z .off 0).wf .c ||
     -- an unsigned type in VABS (R174); RNA in a float operation (R67); UN of integers (R68)
     (Instr.vabs z .latch (.reg 0) .uint8 false n).wf .c || (Instr.vfadd z .latch (.reg 0) (.reg 0) .fp32 .rna n).wf .c ||
     (Instr.vcmp z 0 0 (.reg 0) (.reg 0) .un (.i .int8) n).wf .c ||
     -- a pair that is no conversion (R88); RNA to a float format (R52)
     (Instr.vcvt z .latch (.reg 0) .e8m2 .int8 .rne false n).wf .c || (Instr.vcvt z .latch (.reg 0) .fp32 .fp16 .rna false n).wf .c ||
     -- drain fields without DR, FSEL above 3 with FL, DRAIN without DR (R69)
     (Instr.mma z 0 true 0 1 0 ⟨1, false, false, 0, false, false, .core, 0⟩ n).wf .c ||
     (Instr.mma z 0 true 0 1 0 ⟨0, true, true, 4, false, false, .core, 0⟩ n).wf .c ||
     (Instr.drain z 0 ⟨0, false, false, 0, false, false, .core, 0⟩ n).wf .c ||
     -- a step of an engine
     (Instr.powerOnReset).wf .k) = false := by
  decide

/-! ### One step on small states; the expected values are the spec's own, or worked out from its rules by hand -/

/-- The writes that an instruction puts in flight. -/
def wrote (i : Instr) (s : State) : List (List Wr) :=
  match exec i s with
  | .next t => t.mySeq.pend.map Pend.writes
  | .fault e => nomatch e
  | .refused _ => []
/-- The sequencer after an instruction. -/
def seqAfter (i : Instr) (s : State) : Option SeqSt :=
  match exec i s with
  | .next t => some t.mySeq
  | .fault e => nomatch e
  | .refused _ => none

/-- R136: the second LIH of the worked constant. -/
theorem test_lih : wrote (.lih z (.reg 5) (.reg 5) 0x389ABC n) (on .k (rg .k 5 0x48D159)) = [destWr (.reg 5) 0 0x123456789ABC] := by
  decide +kernel

/-- R133: 0 − 1 modulo 2^64; R136: the high halves of (−1) × (−1), signed and unsigned. -/
theorem test_wraps : wrote (.sub z (.reg 4) (.reg 1) (.reg 2)) (on .l (rg .l 2 1)) = [destWr (.reg 4) 0 0xFFFFFFFFFFFFFFFF] ∧
    wrote (.mulh z .latch (.reg 1) (.reg 1) n) (on .k (rg .k 1 0xFFFFFFFFFFFFFFFF)) = [destWr .latch 1 0] ∧
    wrote (.mulhu z .latch (.reg 1) (.reg 1) n) (on .k (rg .k 1 0xFFFFFFFFFFFFFFFF)) = [destWr .latch 1 0xFFFFFFFFFFFFFFFE] := by
  decide +kernel

/-- R136: a signed field whose top bit is set, and a field of A put into B. -/
theorem test_fields : wrote (.exts z (.reg 1) (.reg 1) 4 3 n) (on .s (rg .s 1 0x8F)) = [destWr (.reg 1) 0 0xFFFFFFFFFFFFFFF8] ∧
    wrote (.ins z (.reg 3) (.reg 1) (.reg 2) 8 7 n) (on .s fun c => rg .s 2 0x1122334455667788 (rg .s 1 0xAB c)) =
      [destWr (.reg 3) 0 0x112233445566AB88] := by
  decide +kernel

/-- R137: −6 < −5. -/
theorem test_cmplti : wrote (.cmplti z 1 2 (.reg 7) (-5) n) (on .k (rg .k 7 0xFFFFFFFFFFFFFFFA)) = [[.pred 1 true, .pred 2 false]] := by
  decide +kernel

/-- R103: the worked branch, three words back. -/
theorem test_branch : (seqAfter (.br ⟨⟨false, false, false, false⟩, true, 2⟩ (-3))
    (on .k fun c => c.modSeq 0 fun x => { x with pc := 0x1000 })).map SeqSt.pc = some 0xFF4 := by
  decide +kernel

/-- R139: SEQID of C of a task bound to core 11. -/
theorem test_seqid : wrote (.mfsr z 1 0) (on .c fun c => { c with seqid := 0x2E8 }) = [destWr (.reg 1) 0 0x2EA] := by decide +kernel

/-- R154: a halfword, little-endian, extended by its sign. -/
theorem test_ld : wrote (.ld z (.reg 3) (.reg 1) .h) (on .l fun c => { rg .l 1 0x100 c with mem := [(0x100, 0x34), (0x101, 0x92)] }) =
    [destWr (.reg 3) 2 0xFFFFFFFFFFFF9234] := by
  decide +kernel

/-- R151: the worked window address, in quad 0 with SHARE 2. -/
theorem test_window : winTarget 0 0x01C00000 0xA84 = (1, 0x01C00284) := by decide +kernel

/-- R198: the worked detail word of a bank fault. -/
theorem test_bank_detail : bankDetail 1 5 0 0 5 = 0x15000005 := by decide

/-- The worked conversions of spec/03. -/
theorem test_conversions :
    convertFmt .fp32 .e4m3 .rne false 0x43960000 = (0x79, FFlags.none) ∧
    convertFmt .fp32 .e4m3 .rne false 0x43FA0000 = (0x7F, { FFlags.none with ovf := true }) ∧
    convertFmt .fp32 .e4m3 .rne true 0x43FA0000 = (0x7E, { FFlags.none with ovf := true }) ∧
    convertFmt .fp32 .e4m3 .rtz false 0x43FA0000 = (0x7E, { FFlags.none with ovf := true }) ∧
    (convertFmt .fp32 .bf16 .rne false 0x3F801000).1 = 0x3F80 ∧ (convertFmt .fp32 .bf16 .rup false 0x3F801000).1 = 0x3F81 ∧
    convertFmt .int32 .int8 .rne true 0xFFFFFF38 = (0x80, FFlags.ofSatd true) ∧
    (convertFmt .int32 .int8 .rne false 0xFFFFFF38).1 = 0x38 := by
  decide +kernel

/-- The same table's ±2.5 to INT8 under each mode. -/
theorem test_rounding :
    ([RMode.rne, .rtz, .rdn, .rup, .rna].map fun m => (convertFmt .fp32 .int8 m false 0x40200000).1) = [2, 2, 2, 3, 3] ∧
    ([RMode.rne, .rtz, .rdn, .rup, .rna].map fun m => (convertFmt .fp32 .int8 m false 0xC0200000).1) =
      [254, 254, 253, 254, 253] := by
  decide +kernel

/-- R176: the reciprocal of 4.0, the worked 0.25. -/
theorem test_reciprocal : frcpP .fp32 .rne 0x40800000 = (0x3E800000, FFlags.none) := by decide +kernel

/-- R240: the worked drain program, word by word, and the bytes that it stores. -/
def relu : List Word32 := [0x29030000, 0x62000008, 0x32440000, 0x6A400002, 0x80400002]
theorem test_drain_words : decodeProg relu =
    some [.ldpI 1 0, .shr 2 0 8 .rne, .arith .max false 2 2 1, .sat 2 2 8, .stw 2 .int8] := by decide +kernel
theorem test_drain_stores : ([1000, 640, 0xFFFFFED4, 40000].map fun v =>
    let r := runElem (progOf relu) ⟨BitVec.ofNat 196608 v, [], [], 256, 0⟩ 0 0
    (r.stores, r.flags.satd)) =
      [([.stw .int8 4], false), ([.stw .int8 2], false), ([.stw .int8 0], false), ([.stw .int8 0x7F], true)] := by
  decide +kernel

/-- R240, R251: the worked values of DRAINPOS. -/
theorem test_drainpos : drainPos 1 5 0 2 4096 4096 = 0xA288100000001000 ∧ drainPos 0 1 0 2 192 256 = 0x808800C000000100 := by
  decide +kernel

/-- R213: the worked windows of a TLDW, tile rows 0 and 5 at column 0, and row 0 at column 64. -/
def conv (col0 : Nat) : ShapeRec := ⟨0x20000, 32, 4, 4, 4, 4, 8, 3, 3, 1, 1, 1, 1, 1, 1, 0, 0, 0, col0⟩
theorem test_windows : ([0, 31, 32, 40, 55, 56].map fun i => (conv 0).byte 64 i) =
      [.inl 0, .inl 0, .inr 0x20000, .inr 0x20008, .inl 0, .inr 0x20020] ∧
    ([0, 8, 16, 24, 32, 40, 48, 56].map fun i => (conv 0).byte 64 (5 * 64 + i)) =
      [.inr 0x20000, .inr 0x20008, .inr 0x20010, .inr 0x20020, .inr 0x20028, .inr 0x20030, .inr 0x20040, .inr 0x20048] ∧
    ([0, 7, 8, 63].map fun i => (conv 64).byte 64 i) = [.inr 0x20028, .inr 0x2002F, .inl 0, .inl 0] := by
  decide +kernel

/-- R277: the turns S then E from core 0 go one router east. -/
theorem test_route : (routeEject 0 0 0x0200000C).map Prod.fst = some 1 := by decide +kernel

set_option maxRecDepth 100000 in
/-- FIPS 180-4 (R406): the published digest of the three bytes of "abc". -/
theorem test_sha384 : sha384 [0x61, 0x62, 0x63] =
    beBytes 48 0xcb00753f45a35e8bb5a03d699ac65007272c32ab0eded1631a8b605a43ff5bed8086072ba1e7cc2358baeca134c825a7 := by
  decide +kernel

/-- A step fetches and runs the instruction that stands at the program counter (log 2). -/
theorem test_fetch : (match step (State.reset.withFetchWord 32 0x00305001) with
    | .next t => ((t.core 0).sq 0).pend.map Pend.writes
    | .fault e => nomatch e
    | .refused _ => []) = [destWr (.reg 5) 0 1] := by
  decide +kernel

/-! ### Witnesses: each meets the hypotheses of a clause of the statement that its name gives -/

theorem witness_ScalarArithmetic :
    Goes (op1 z [.reg 31, .latch 3] [] (destRes (.reg 31))) (on .l id) ∧ Goes (op1 z [.reg 0] [] (destRes .latch)) (on .s id) ∧
    Goes (op1 z [] [] (destRes (.reg 0))) (on .k id) ∧ Goes (op2 z n [.pop 5] [] (destRes (.reg 1))) (on .c (qs 5 [.filled 7])) ∧
    Goes (op2 z n [.reg 1, .reg 2] [] (destRes (.reg 3))) (on .c id) :=
  ⟨goes_of_b (by decide +kernel), goes_of_b (by decide +kernel), goes_of_b (by decide +kernel),
    goes_of_b (by decide +kernel), goes_of_b (by decide +kernel)⟩

/-- An SWP loop of ten iterations in its second. -/
def swp : LoopSt := ⟨10, 9, 1, 0, 64, true⟩

theorem witness_ComparesAndPredicates :
    Goes (op1 z [.reg 1, .reg 2] [] (predRes 3 ++ predRes 0)) (on .k id) ∧ (on .k id).mySeq.swpLoop = none ∧
    Goes (op2 z n [.reg 1] [] (predRes 7 ++ predRes 7)) (on .k id) ∧
    Goes (op1 z [.reg 1, .reg 2] [] (predRes 4 ++ predRes 0)) (on .c (lp .c 3 swp)) ∧
    Goes (op2 z n [.reg 1] [] (predRes 0 ++ predRes 7)) (on .c (lp .c 3 swp)) ∧
    (on .c (lp .c 3 swp)).mySeq.swpLoop = some 3 ∧
    Goes (op1 z [] (predRes 1 ++ predRes 0) (predRes 7)) (on .k id) ∧ Goes (op1 z [] (predRes 7) (predRes 3)) (on .k id) ∧
    Goes (op1 z [] (predRes 1 ++ predRes 0) (predRes 4)) (on .c (lp .c 3 swp)) ∧
    Goes (op1 z [] (predRes 7) (predRes 7)) (on .c (lp .c 3 swp)) :=
  ⟨goes_of_b (by decide +kernel), by decide +kernel, goes_of_b (by decide +kernel), goes_of_b (by decide +kernel),
    goes_of_b (by decide +kernel), by decide +kernel, goes_of_b (by decide +kernel), goes_of_b (by decide +kernel),
    goes_of_b (by decide +kernel), goes_of_b (by decide +kernel)⟩

/-- A token for every counter. -/
def toks (c : Core) : Core := { c with tok := Vector.replicate 8 1, tok0 := Vector.replicate 8 1 }

theorem witness_IssueRules :
    Goes (op1 { z with ring := ⟨true, true, true, true⟩ } [.pop 0, .peek 0] [] []) (on .c fun c => toks (qs 0 [.filled 1, .filled 2] c)) ∧
    (let op := op1 ⟨⟨false, false, true, true⟩, false, 7⟩ [.pop 0] [] []
     let s := on .c (qs 0 [.filled 1])
     s.me.tokenFail s.curSeq.idx op.ring true = none ∧ s.me.queueFail op.names op.push = none ∧
     op.guard.res.any s.mySeq.busy = false ∧ (op.guard.never ∨ op.guard.holds s.mySeq = false)) ∧
    (let op := op1 { z with ring := ⟨true, false, false, false⟩ } [] [] []
     (on .l id).me.tokenFail 1 op.ring (!op.arr) ≠ none ∧ op.arr = false) ∧
    (let op := op1 z [.pop 0] [] []
     (on .c id).me.tokenFail 2 op.ring (!op.arr) = none ∧ (on .c id).me.queueFail op.names op.push ≠ none ∧ op.arr = false) :=
  ⟨goes_of_b (by decide +kernel), by decide +kernel, by decide +kernel, by decide +kernel⟩

theorem witness_IssueRules_reads :
    (let s := on .c (qs 0 [.filled 1, .filled 2])
     let names : List Sel := [.pop 0, .peek 0]
     (s.me.q[(0 : Fin 8)]).ents[((names.take 0).filter fun y => decide (y = .pop 0)).length]? = some (.filled 1) ∧
     (s.me.q[(0 : Fin 8)]).ents[((names.take 1).filter fun y => decide (y = .pop 0)).length]? = some (.filled 2)) := by
  decide +kernel

/-- A die's permission bits set. -/
def perm (s : State) : State := s.modDie 0 fun x => { x with dbgperm := 1 }

theorem witness_NopAndBreak : Goes (op1 z [] [] []) (on .k id) ∧ Goes (op1 z [] [] []) (perm (on .s id)) ∧
    (perm (on .s id)).me.dbg = .running ∧ bvf ((perm (on .s id)).die (dieOf 0)).dbgperm 0 1 = 1 ∧
    bvf ((on .k id).die (dieOf 0)).dbgperm 0 1 = 0 :=
  ⟨goes_of_b (by decide +kernel), goes_of_b (by decide +kernel), by decide +kernel⟩

theorem witness_Branches : Goes (opBr z [] []) (on .l id) ∧ Goes (opBr z [] [.sreg 31]) (on .k id) ∧
    Goes (opBr z [.reg 5] (destRes .latch)) (on .s (rg .s 5 0xFFFFFFFFFFFC)) ∧
    ((on .s (rg .s 5 0xFFFFFFFFFFFC)).val [.reg 5] 0).toNat % 4 = 0 ∧
    Goes (opBr z [.reg 5] (destRes (.reg 7))) (on .s (rg .s 5 2)) ∧ ((on .s (rg .s 5 2)).val [.reg 5] 0).toNat % 4 ≠ 0 :=
  ⟨goes_of_b (by decide +kernel), goes_of_b (by decide +kernel), goes_of_b (by decide +kernel), by decide +kernel,
    goes_of_b (by decide +kernel), by decide +kernel⟩

/-- The operation of a LOOP. -/
def loopOp (swp : Bool) (c : LoopCount) : Op :=
  { op2 z n (loopNames c) [] (if swp then [.pred 4, .pred 5, .pred 6, .pred 7] else []) with lock := true }
/-- A plain loop whose body holds the sixteen words from 0, in its last iteration but one. -/
def outer : LoopSt := ⟨3, 1, 1, 0, 64, false⟩

theorem witness_Loops :
    Goes (loopOp false (.imm 0xFFF)) (on .k (lp .k 0 outer)) ∧
    (let s := on .k (lp .k 0 outer)
     (1 : Fin 4) ∉ s.mySeq.live ∧ ∀ i ∈ s.mySeq.live, (s.mySeq.h[i]).start ≤ s.mySeq.pc + 8 ∧
      s.mySeq.pc + 8 + 4 * (14#18).setWidth 48 ≤ (s.mySeq.h[i]).stop) ∧
    (let s := on .k (rg .k 1 0xFFFFFFFC)
     Goes (loopOp true (.sel (.reg 1))) s ∧ (s.val [.reg 1] 0).toNat ≤ 2 ^ 32 - 4 ∧ s.mySeq.swpLoop = none) ∧
    Goes (loopOp true (.imm 0)) (on .k id) :=
  ⟨goes_of_b (by decide +kernel), by decide +kernel, ⟨goes_of_b (by decide +kernel), by decide +kernel⟩,
    goes_of_b (by decide +kernel)⟩

theorem witness_Loops_fault :
    Goes (loopOp false (.imm 1)) (on .k (lp .k 0 outer)) ∧ (0 : Fin 4) ∈ (on .k (lp .k 0 outer)).mySeq.live ∧
    (let s := on .k (rg .k 1 0x100000000)
     Goes (loopOp false (.sel (.reg 1))) s ∧ 2 ^ 32 ≤ (s.val [.reg 1] 0).toNat) ∧
    (let s := on .k (rg .k 1 0xFFFFFFFD)
     Goes (loopOp true (.sel (.reg 1))) s ∧ 2 ^ 32 - 4 < (s.val [.reg 1] 0).toNat) ∧
    (let s := on .k (lp .k 0 swp)
     Goes (loopOp true (.imm 1)) s ∧ s.mySeq.swpLoop ≠ none) ∧
    (let s := on .k (lp .k 0 outer)
     ∃ i ∈ s.mySeq.live, ¬((s.mySeq.h[i]).start ≤ s.mySeq.pc + 8 ∧
      s.mySeq.pc + 8 + 4 * (15#18).setWidth 48 ≤ (s.mySeq.h[i]).stop)) :=
  ⟨goes_of_b (by decide +kernel), by decide +kernel, ⟨goes_of_b (by decide +kernel), by decide +kernel⟩,
    ⟨goes_of_b (by decide +kernel), by decide +kernel⟩, ⟨goes_of_b (by decide +kernel), by decide +kernel⟩, by decide +kernel⟩

/-- The core at the last word of the loop's body. -/
def atEnd (c : Core) : Core := c.modSeq 0 fun x => { x with pc := 60 }

theorem witness_Loops_end :
    (let s := on .k fun c => atEnd (lp .k 0 outer c)
     Goes (op1 z [] [] []) s ∧ s.mySeq.live = [0] ∧ (s.mySeq.h[0]).stop = s.mySeq.pc + 4 ∧
      (s.mySeq.h[0]).iter.toNat + 1 < (s.mySeq.h[0]).count.toNat) ∧
    (let s := on .k fun c => atEnd (lp .k 0 { outer with iter := 2 } c)
     Goes (op1 z [] [] []) s ∧ (s.mySeq.h[0]).count.toNat ≤ (s.mySeq.h[0]).iter.toNat + 1) ∧
    (let s := on .k fun c => atEnd (lp .k 0 { swp with iter := 11 } c)
     Goes (op1 z [] [] []) s ∧ (s.mySeq.h[0]).swp = true ∧ (s.mySeq.h[0]).iter.toNat + 1 < (s.mySeq.h[0]).count.toNat + 3) ∧
    (let s := on .k (lp .k 0 outer)
     Goes (op1 z [] [] []) s ∧ ∀ i ∈ s.mySeq.live, (s.mySeq.h[i]).stop ≠ s.mySeq.pc + 4) :=
  ⟨⟨goes_of_b (by decide +kernel), by decide +kernel⟩, ⟨goes_of_b (by decide +kernel), by decide +kernel⟩,
    ⟨goes_of_b (by decide +kernel), by decide +kernel⟩, ⟨goes_of_b (by decide +kernel), by decide +kernel⟩⟩

/-- MTSR's operation with the value in s1. -/
def srs (v : Word64) : State := on .c (rg .c 1 v)

theorem witness_SpecialRegisters :
    Goes (op1 z [] [] (destRes (.reg 9))) (on .l id) ∧ Goes (op1 z [] [] (destRes (.reg 0))) (on .c id) ∧
    Goes (op1 z [] [] (destRes (.reg 9))) (on .s id) ∧
    Goes (op1 z [.reg 1] [] []) (srs 64) ∧ ((srs 64).val [.reg 1] 0).toNat % 128 = 64 ∧
    Goes (op1 z [.reg 1] [] []) (srs 65) ∧ ((srs 65).val [.reg 1] 0).toNat % 128 = 65 ∧
    Goes (op1 z [.reg 1] [] []) (srs 256) ∧ ((srs 256).val [.reg 1] 0).toNat % 512 = 256 ∧
    Goes (op1 z [.reg 1] [] []) (srs 0x002401C0) ∧ tshapeOk ((srs 0x002401C0).val [.reg 1] 0).toNat = true ∧
    Goes (op1 z [.reg 1] [] []) (srs 0x2402) ∧ fmtEntryOk ((srs 0x2402).val [.reg 1] 0).toNat = true ∧
    Goes (op1 z [.reg 1] [] []) (on .k id) ∧
    Goes (op1 z [.reg 1] [] []) (srs 128) ∧ Goes (op1 z [.reg 1] [] []) (srs 1024) ∧ Goes (op1 z [.reg 1] [] []) (srs 257) ∧
    Goes (op1 z [.reg 1] [] []) (srs 0x20000) ∧ ((srs 128).val [.reg 1] 0).toNat % 128 = 0 ∧
    ((srs 1024).val [.reg 1] 0).toNat % 512 = 0 ∧ 256 < ((srs 257).val [.reg 1] 0).toNat % 512 ∧
    tshapeOk ((srs 128).val [.reg 1] 0).toNat = false ∧ fmtEntryOk ((srs 0x20000).val [.reg 1] 0).toNat = false :=
  ⟨goes_of_b (by decide +kernel), goes_of_b (by decide +kernel), goes_of_b (by decide +kernel),
    goes_of_b (by decide +kernel), by decide +kernel, goes_of_b (by decide +kernel), by decide +kernel,
    goes_of_b (by decide +kernel), by decide +kernel, goes_of_b (by decide +kernel), by decide +kernel,
    goes_of_b (by decide +kernel), by decide +kernel, goes_of_b (by decide +kernel),
    goes_of_b (by decide +kernel), goes_of_b (by decide +kernel), goes_of_b (by decide +kernel), goes_of_b (by decide +kernel), by decide +kernel, by decide +kernel, by decide +kernel,
    by decide +kernel, by decide +kernel⟩

/-- A register of L for the address of a load. -/
def la (v : Word64) : State := on .l (rg .l 1 v)
/-- A register of S for the address of a store, a value in s2, and an entry in each of q6 and q7. -/
def sa (v : Word64) : State := on .s fun c => qs 7 [.filled 0] (qs 6 [.filled 5] (rg .s 2 0x8899AABBCCDDEEFF (rg .s 1 v c)))

theorem witness_LocalLoads :
    (la 0x1FFFFF8).me.portBusy = false ∧ Goes (op1 z [.reg 1] [] (destRes .latch)) (la 0x1FFFFF8) ∧
    ((la 0x1FFFFF8).val [.reg 1] 0).toNat = 0x1FFFFF8 ∧ 0x1FFFFF8 % Sz.d.bytes = 0 ∧ PrivateFull (la 0x1FFFFF8) 0 0x1FFFFF8 8 ∧
    Goes (op2 z n [.reg 1] [] (destRes (.reg 3))) (la 0) ∧
    ((la 0).val [.reg 1] 0 + (0x40#24).signExtend 64).toNat = 0x40 ∧ PrivateFull (la 0) 0 0x40 1 ∧
    Goes (op1 z [.reg 1] [] (destRes (.reg 3))) (la 0x3FFFFFF8) ∧ ((la 0x3FFFFFF8).val [.reg 1] 0).toNat = 0x3FFFFFF8 ∧
    Goes (op1 z [.reg 1] [] (destRes (.reg 3))) (la 0x2000000) ∧ ((la 0x2000000).val [.reg 1] 0).toNat = 0x2000000 ∧
    Goes (op1 z [.reg 1] [] (destRes (.reg 3))) (la 1) ∧ ((la 1).val [.reg 1] 0).toNat % Sz.h.bytes ≠ 0 ∧
    Goes (op1 z [.reg 2, .reg 1] [] []) (sa 0x40000000) ∧ ((sa 0x40000000).val [.reg 2, .reg 1] 1).toNat = 0x40000000 ∧
    Goes (op1 z [.reg 2, .reg 1] [] []) (sa 7) ∧ ((sa 7).val [.reg 2, .reg 1] 1).toNat % Sz.d.bytes ≠ 0 :=
  ⟨by decide +kernel, goes_of_b (by decide +kernel), by decide +kernel, by decide, by unfold PrivateFull; decide +kernel,
    goes_of_b (by decide +kernel), by decide +kernel, by unfold PrivateFull; decide +kernel,
    goes_of_b (by decide +kernel), by decide +kernel, goes_of_b (by decide +kernel), by decide +kernel,
    goes_of_b (by decide +kernel), by decide +kernel, goes_of_b (by decide +kernel), by decide +kernel,
    goes_of_b (by decide +kernel), by decide +kernel⟩

theorem witness_LocalLoads_traps :
    Goes (op2 z n [.reg 1] [] (destRes (.reg 3))) (la 0) ∧ ((la 0).val [.reg 1] 0 + (2#24).signExtend 64).toNat % Sz.w.bytes ≠ 0 ∧
    Goes (op2 z n [.reg 1] [] (destRes (.reg 3))) (la 0x40000000) ∧
    ((la 0x40000000).val [.reg 1] 0 + (-4#24).signExtend 64).toNat = 0x3FFFFFFC ∧
    (la 1).me.portBusy = false ∧ (la 1).me.share = 0 ∧
    Goes (op2 z n [.reg 2, .reg 1] [] []) (sa 0x40000000) ∧
    ((sa 0x40000000).val [.reg 2, .reg 1] 1 + (0#24).signExtend 64).toNat = 0x40000000 ∧
    Goes (op2 z n [.reg 2, .reg 1] [] []) (sa 7) ∧ ((sa 7).val [.reg 2, .reg 1] 1 + (0#24).signExtend 64).toNat % Sz.d.bytes ≠ 0 ∧
    ((sa 7).val [.reg 2, .reg 1] 1 + (0#24).signExtend 64).toNat % 2 ^ 48 % Sz.d.bytes ≠ 0 ∧
    ((la 0).val [.reg 1] 0 + (2#24).signExtend 64).toNat % 2 ^ 48 % Sz.w.bytes ≠ 0 :=
  ⟨goes_of_b (by decide +kernel), by decide +kernel, goes_of_b (by decide +kernel), by decide +kernel, by decide +kernel,
    by decide +kernel, goes_of_b (by decide +kernel), by decide +kernel, goes_of_b (by decide +kernel), by decide +kernel,
    by decide +kernel, by decide +kernel⟩

theorem witness_LocalStores :
    Goes (op1 z [.reg 2, .reg 1] [] []) (sa 0x1FFFFFC) ∧ ((sa 0x1FFFFFC).val [.reg 2, .reg 1] 1).toNat = 0x1FFFFFC ∧
    PrivateFull (sa 0x1FFFFFC) 0 0x1FFFFFC 4 ∧
    Goes (op2 z n [.reg 2, .reg 1] [] []) (sa 8) ∧ ((sa 8).val [.reg 2, .reg 1] 1 + (-8#24).signExtend 64).toNat = 0 ∧
    PrivateFull (sa 8) 0 0 8 ∧
    Goes (op2 z n [.pop 6, .reg 1] [] []) (sa 0x1FFFF00) ∧
    ((sa 0x1FFFF00).val [.pop 6, .reg 1] 1 + (0#24).signExtend 64).toNat = 0x1FFFF00 ∧ PrivateFull (sa 0x1FFFF00) 0 0x1FFFF00 256 ∧
    (sa 8).me.stores = [] ∧
    (let s := { on .s fun c => { c with stores := [⟨.after 31, [(0x100, 7)], none⟩] } with rc := 7 }
     s.me.stores.map PStore.due = [.after 31]) ∧
    (let s := { on .s fun c => { c with stores := [⟨.rc 0, [(0x100, 7), (0x101, 0), (0x100, 9)], none⟩, ⟨.rc 9, [(0, 1)], none⟩] } with
        phase := 19 }
     MemOk s ∧ s.agenda = [] ∧ s.phase = 19) :=
  ⟨goes_of_b (by decide +kernel), by decide +kernel, by unfold PrivateFull; decide +kernel,
    goes_of_b (by decide +kernel), by decide +kernel, by unfold PrivateFull; decide +kernel,
    goes_of_b (by decide +kernel), by decide +kernel, by unfold PrivateFull; decide +kernel,
    by decide +kernel, by decide +kernel, memOk_of (by decide +kernel), by decide +kernel, by decide +kernel⟩

theorem witness_QueueMoves_ldq :
    Goes { op2 z n [.reg 1] [] [] with push := some 5 } (la 0x1FFFF00) ∧ (la 0x1FFFF00).me.portBusy = false ∧
    ((la 0x1FFFF00).val [.reg 1] 0 + (0#24).signExtend 64).toNat = 0x1FFFF00 ∧ PrivateFull (la 0x1FFFF00) 0 0x1FFFF00 256 :=
  ⟨goes_of_b (by decide +kernel), by decide +kernel, by decide +kernel, by unfold PrivateFull; decide +kernel⟩

theorem witness_QueueMoves_gather :
    Goes { op2 z n [.reg 1, .reg 2] [] [] with push := some 0 } (la 0x1FFFFFC) ∧
    ((la 0x1FFFFFC).val [.reg 1, .reg 2] 0 + (0#24).signExtend 64).toNat = 0x1FFFFFC ∧
    ((la 0x1FFFFFC).val [.reg 1, .reg 2] 1).toNat = 0 ∧ 0x1FFFFFC % eszBytes .e32 = 0 ∧ PrivateFull (la 0x1FFFFFC) 0 0 256 ∧
    ∀ i, i < eszCount .e32 →
      PrivateFull (la 0x1FFFFFC) 0 (0x1FFFFFC + 4 * leNat ((la 0x1FFFFFC).me.mem.readN (0 + 2 * i) 2)) 4 :=
  ⟨goes_of_b (by decide +kernel), by decide +kernel, by decide +kernel, by decide, by unfold PrivateFull; decide +kernel,
    by unfold PrivateFull; decide +kernel⟩

theorem witness_QueueMoves_scatter :
    Goes (op2 z n [.pop 6, .reg 1, .pop 7] [] []) (sa 0x1FFFFFE) ∧
    ((sa 0x1FFFFFE).val [.pop 6, .reg 1, .pop 7] 1 + (0#24).signExtend 64).toNat = 0x1FFFFFE ∧
    ∀ i, i < eszCount .e16 → PrivateFull (sa 0x1FFFFFE) 0
      (0x1FFFFFE + 2 * elemOf ((sa 0x1FFFFFE).me.vector [.pop 6, .reg 1, .pop 7] 2) 16 i) 2 :=
  ⟨goes_of_b (by decide +kernel), by decide +kernel, by unfold PrivateFull; decide +kernel⟩

/-- Every core of a quad runs a task of the partition with one share of the quad window. -/
def quad (s : State) : State :=
  { s with cores := s.cores.map fun c => { c with task := some placedTask, share := 1 } }

theorem witness_LocalLoads_fate :
    (let s := quad (la 0x407FFFFC)
     s.me.portBusy = false ∧ Goes (op2 z n [.reg 1] [] (destRes (.reg 3))) s ∧
      (s.val [.reg 1] 0 + (0#24).signExtend 64).toNat = 0x407FFFFC ∧ WindowFull s 0 0x407FFFFC 4 3 0x1FFFFFC) ∧
    (let s := quad (sa 0x40000000)
     Goes (op2 z n [.reg 2, .reg 1] [] []) s ∧ (s.val [.reg 2, .reg 1] 1 + (0#24).signExtend 64).toNat = 0x40000000 ∧
      WindowFull s 0 0x40000000 8 0 0x1E00000) :=
  ⟨⟨by decide +kernel, goes_of_b (by decide +kernel), by decide +kernel, by unfold WindowFull; decide +kernel⟩,
    goes_of_b (by decide +kernel), by decide +kernel, by unfold WindowFull; decide +kernel⟩

theorem witness_FarLoads_window :
    (let s := quad (la 0x407FFFF8)
     s.me.portBusy = false ∧ Goes (op1 z [.reg 1] [] (destRes (.reg 3))) s ∧ (s.val [.reg 1] 0).toNat = 0x407FFFF8 ∧
      0x407FFFF8 % Sz.d.bytes = 0 ∧ WindowFull s 0 0x407FFFF8 8 3 0x1FFFFF8) ∧
    (let s := quad (la 0x40000000)
     Goes (op2 z n [.reg 1] [] (destRes (.reg 3))) s ∧ (s.val [.reg 1] 0 + (0x84#24).signExtend 64).toNat = 0x40000084 ∧
      WindowFull s 0 0x40000084 4 1 0x1E00004) :=
  ⟨⟨by decide +kernel, goes_of_b (by decide +kernel), by decide +kernel, by decide, by unfold WindowFull; decide +kernel⟩,
    goes_of_b (by decide +kernel), by decide +kernel, by unfold WindowFull; decide +kernel⟩

theorem witness_FarLoads_device :
    (let s := on .l fun c => paged (rg .l 1 0xFFF8 c)
     Goes (op2 z n [.reg 1] [] (destRes (.reg 3))) s ∧ (s.val [.reg 1] 0 + (0#24).signExtend 64).toNat % 2 ^ 48 = 0xFFF8 ∧
      s.coreFloor 0 .sys = true ∧ s.me.frec.outst = false ∧ Translated s 0xFFF8 .load .dev 0x10FFF8 ∧ s.farHeld 0 0x10FFF8 = false) ∧
    (let s := on .l fun c => paged (rg .l 1 0xFFC0 c)
     Goes { op2 z n [.reg 1] [] [] with push := some 0 } s ∧
      (s.val [.reg 1] 0 + (0#24).signExtend 64).toNat % 2 ^ 48 = 0xFFC0 ∧ Translated s 0xFFC0 .load .dev 0x10FFC0 ∧
      s.farHeld 0 0x10FFC0 = false) ∧
    (let s := on .l fun c => paged (rg .l 1 0xFF00 c)
     s.me.tlb.find? (fun e => e.covers s.me.part 0xFF00) = some page ∧ 0xFF00 % page.size + 256 ≤ page.size ∧
      ∀ i, i < 4 → scopeOk .load .dev (0x10FF00 + 64 * i) = true ∧ s.farHeld 0 (0x10FF00 + 64 * i) = false) :=
  ⟨⟨goes_of_b (by decide +kernel), by decide +kernel, by decide +kernel, by decide +kernel,
      ⟨page, by decide +kernel, by decide +kernel, by decide +kernel, by decide +kernel⟩, by decide +kernel⟩,
    ⟨goes_of_b (by decide +kernel), by decide +kernel,
      ⟨page, by decide +kernel, by decide +kernel, by decide +kernel, by decide +kernel⟩, by decide +kernel⟩, by decide +kernel⟩

/-- A load of eight bytes of device memory whose data is due, and a read of a line for an entry of q7. -/
def theLoad : DLoad := ⟨7, 1, .dev, some .d, none, some (.reg 31), [⟨.hbm, 0x100, 0, 8, none⟩], [], false, 0, 0, 0x100⟩
def theLine : DLoad :=
  ⟨7, 1, .dev, none, some (7, 1), none, [⟨.hbm, 0x140, 0, 64, none⟩, ⟨.sysr, 0x4000000000, 64, 1, some [5]⟩], [], false, 0, 0, 0x140⟩
/-- A line of the region in the core's own buffer, over two of the bytes at 256. -/
def ownLine : CBLine := ⟨3, .hbm, 0x100, .dev, 6, 0x332211, false, 0, 0, 0, 0, true, 0, none, 0, false, false, 0, 0⟩
def loadingOf (l : DLoad) (ws : List Wr) (cb : List CBLine) : State := on .l fun c =>
  qs 7 [.filled 1, .reserved] { c.modSeq 1 fun x => { x with pend := [⟨7, .onReturn, ws, n⟩] } with loads := [l], cb := cb }

/-- What the two clauses of LoadReturns ask of a load. -/
def returning (l : DLoad) (s : State) : Bool :=
  (s.core 0).loads == [l] && decide (l.at_ ≤ s.rc) && l.todo.isEmpty && !s.linkDown && !(s.core 0).pinned && s.poison.isEmpty &&
    (s.core 0).reads.isEmpty && l.seqr != 2 && (s.core 0).cb.all CBLine.cur &&
    l.pieces.all fun p => (p.early.map List.length).getD p.len == p.len &&
      (((granOf p.home p.addr).bind fun g => (s.gran g).claim).map fun x => (s.core x.1).cb.all CBLine.cur) != some false &&
      match p.home with
      | .win t => ((s.core t).bank (p.addr / 131072)).state == .full
      | _ => true

theorem witness_LoadReturns :
    (∀ d ∈ [Dest.reg 31, .reg 0, .latch], ∀ cb ∈ [[], [ownLine]],
      returning { theLoad with dest := some d } (loadingOf { theLoad with dest := some d } (destWr d 2 0) cb) = true) ∧
    theLoad.pieces.map Piece.len = [Sz.d.bytes] ∧
    ((loadingOf theLoad [] [ownLine]).core 0).cbByte .hbm 0x101 = some (0x22, true, 0) ∧
    ((loadingOf theLoad [] [ownLine]).core 0).cbByte .hbm 0x100 = none ∧
    returning theLine (loadingOf theLine [] []) = true ∧ (loadingOf theLine [] []).grans = [] ∧
    (((loadingOf theLine [] []).core 0).q[(7 : Fin 8)]).popped ≤ 1 ∧
    1 < (((loadingOf theLine [] []).core 0).q[(7 : Fin 8)]).popped + (((loadingOf theLine [] []).core 0).q[(7 : Fin 8)]).ents.length ∧
    (let l := { theLoad with pieces := [⟨.win 3, 0x1FFFFF8, 0, 8, none⟩] }
     returning l (loadingOf l (destWr .latch 2 0) []) = true) := by
  decide +kernel

theorem witness_BufferedStores :
    (let s := on .k fun c => paged (rg .k 1 0xFFF8 c)
     s.me.cb.length < 64 ∧ Goes (op2 z n [.reg 2, .reg 1] [] []) s ∧
      (s.val [.reg 2, .reg 1] 1 + (0#24).signExtend 64).toNat % 2 ^ 48 = 0xFFF8 ∧ Translated s 0xFFF8 .store .dev 0x10FFF8 ∧
      0x10FFF8 % Sz.d.bytes = 0) ∧
    (let s := quad (sa 0x407FFFF8)
     Goes (op1 z [.reg 2, .reg 1] [] []) s ∧ (s.val [.reg 2, .reg 1] 1).toNat = 0x407FFFF8 ∧
      WindowFull s 0 0x407FFFF8 8 3 0x1FFFFF8) ∧
    (let s := quad (sa 0x40000100)
     Goes (op2 z n [.reg 2, .reg 1] [] []) s ∧ (s.val [.reg 2, .reg 1] 1 + (-0x100#24).signExtend 64).toNat = 0x40000000 ∧
      WindowFull s 0 0x40000000 1 0 0x1E00000) :=
  ⟨⟨by decide +kernel, goes_of_b (by decide +kernel), by decide +kernel,
      ⟨page, by decide +kernel, by decide +kernel, by decide +kernel, by decide +kernel⟩, by decide⟩,
    ⟨goes_of_b (by decide +kernel), by decide +kernel, by unfold WindowFull; decide +kernel⟩,
    goes_of_b (by decide +kernel), by decide +kernel, by unfold WindowFull; decide +kernel⟩

/-- A line of a window store that has stored the other bytes of its line. -/
def winLine : CBLine := ⟨3, .win 3, 0x1FFFFC0, .quad, 0xFF80000000000000, 0x332211, false, 0, 0, 0, 0, true, 0, none, 0, false, false, 0, 0⟩
/-- A store to the last bytes of the quad window, with lines in the buffer. -/
def storing (l : List CBLine) : State := (quad (sa 0x407FFFF8)).modCore 0 fun c => { c with cb := l }
/-- Whether a line takes the bytes of that store. -/
def takes (s : State) (l : CBLine) : Bool :=
  s.me.ownLine l && l.home == .win 3 && l.addr == 0x1FFFFF8 / 64 * 64 && l.scope == .quad && !l.rel && l.atom.isNone

theorem witness_BufferedStores_lines :
    (let s := storing [winLine, ownLine]
     Goes (op1 z [.reg 2, .reg 1] [] []) s ∧ WindowFull s 0 0x407FFFF8 8 3 0x1FFFFF8 ∧ s.me.cb.map (takes s) = [true, false]) ∧
    ∀ cur, let s := storing (List.replicate 64 { ownLine with cur := cur })
      Goes (op1 z [.reg 2, .reg 1] [] []) s ∧ WindowFull s 0 0x407FFFF8 8 3 0x1FFFFF8 ∧
      (s.val [.reg 2, .reg 1] 1).toNat = 0x407FFFF8 ∧ s.me.cb.length = 64 ∧
      (s.me.cb.all fun l => decide (l.part = s.me.part) && !takes s l && decide (l.cur = cur)) = true :=
  ⟨⟨goes_of_b (by decide +kernel), by unfold WindowFull; decide +kernel, by decide +kernel⟩,
    fun cur => ⟨goes_of_b (by cases cur <;> decide +kernel), by cases cur <;> (unfold WindowFull; decide +kernel),
      by cases cur <;> decide +kernel, by cases cur <;> decide +kernel, by cases cur <;> decide +kernel⟩⟩

/-- A released line of the partition, of another core, in the system range, still to be performed. -/
def owed : CBLine := ⟨3, .sysr, 0, .dev, 1, 5, false, 0, 0, 0, 0, false, 0, none, 0, false, false, 0, 0⟩

theorem witness_FencesAndFloors :
    Goes (op1 z [] [] []) (on .s id) ∧ (on .s id).me.stores = [] ∧ (on .s id).coreFloor 0 .quad = true ∧
    (on .s id).coreFloor 0 .dev = true ∧ (on .s id).coreFloor 0 .sys = true ∧
    (let s := on .s fun c => { c with stores := [⟨.rc 9, [(0, 1)], none⟩] }
     Goes (op1 z [] [] []) s ∧ s.me.stores ≠ []) ∧
    (let s := (on .s id).modCore 15 fun c => { c with cb := [owed] }
     Goes (op1 z [] [] []) s ∧ s.coreFloor 0 .sys = false ∧ s.coreFloor 0 .dev = true) :=
  ⟨goes_of_b (by decide +kernel), by decide +kernel, by decide +kernel, by decide +kernel, by decide +kernel,
    ⟨goes_of_b (by decide +kernel), by decide +kernel⟩, goes_of_b (by decide +kernel), by decide +kernel, by decide +kernel⟩

theorem witness_AtomicOperations :
    (let s := on .k fun c => paged (rg .k 1 0xFFFC c)
     Goes { op2 z n [.reg 1, .reg 2] [] (destRes (.reg 0)) with arr := false } s ∧ s.me.cb.length < 64 ∧
      (s.val [.reg 1, .reg 2] 0).toNat % 2 ^ 48 % 4 = 0 ∧
      Translated s ((s.val [.reg 1, .reg 2] 0).toNat % 2 ^ 48) .atomic .sys 0x10FFFC) ∧
    (let s := on .s fun c => paged (rg .s 1 8 c)
     Goes { op2 z n [.reg 1, .reg 2, .reg 3] [] (destRes .latch) with arr := true } s ∧ s.coreFloor 0 .dev = true ∧
      Translated s ((s.val [.reg 1, .reg 2, .reg 3] 0).toNat % 2 ^ 48) .atomic .dev 0x100008) ∧
    (let s := quad (sa 0x40000180)
     Goes { op2 z n [.reg 1, .reg 2] [] (destRes (.reg 4)) with arr := true } s ∧ s.coreFloor 0 .quad = true ∧
      WindowFull s 0 (s.val [.reg 1, .reg 2] 0).toNat 8 3 0x1E00000) :=
  ⟨⟨goes_of_b (by decide +kernel), by decide +kernel, by decide +kernel,
      ⟨page, by decide +kernel, by decide +kernel, by decide +kernel, by decide +kernel⟩⟩,
    ⟨goes_of_b (by decide +kernel), by decide +kernel,
      ⟨page, by decide +kernel, by decide +kernel, by decide +kernel, by decide +kernel⟩⟩,
    goes_of_b (by decide +kernel), by decide +kernel, by unfold WindowFull; decide +kernel⟩

/-- K with a team number in s1, a member of team 255 of rank 15. -/
def tm (v : Word64) : State := on .k fun c => { rg .k 1 v c with members := [(255, 15)] }

theorem witness_Arrivals :
    Goes (opArrive ⟨true, false, true, false⟩) (on .c toks) ∧
    ((tm 255).val [.reg 1] 0).toNat = 255 ∧ (tm 255).me.members.find? (fun x => x.1 == 255) = some (255, 15) ∧
    Goes { op1 z [.reg 1] [] [] with arr := true } (tm 255) ∧
    Goes { op1 z [.reg 1] [] (destRes (.reg 2)) with arr := true } (tm 255) ∧
    (let l0 : ICLine := ⟨0, 0xFF80, 0x1000, 65536⟩
     let l1 : ICLine := ⟨0, 0xFFC0, 0xFFFFFFFFFFFC <<< 448, 65536⟩
     let s := on .k fun c => ((rg .k 1 0xFF80 c).icPut 0 l0).icPut 0 l1
     (s.val [.reg 1] 0).toNat % 2 ^ 48 = 0xFF80 ∧ 0xFF80 % 128 = 0 ∧ s.me.icLine 0 s.me.part 0xFF80 = some l0 ∧
      s.me.icLine 0 s.me.part (0xFF80 + 64) = some l1 ∧
      (∀ x ∈ (List.range 16).map fun i => (if i < 8 then l0 else l1).data.toNat / 2 ^ (64 * (i % 8)) % 2 ^ 48, x % 4 = 0) ∧
      Goes { op1 z [.reg 1] [] [] with arr := true } s) :=
  ⟨goes_of_b (by decide +kernel), by decide +kernel, by decide +kernel, goes_of_b (by decide +kernel),
    goes_of_b (by decide +kernel), by decide +kernel, by decide, by decide +kernel, by decide +kernel, by decide +kernel,
    goes_of_b (by decide +kernel)⟩

theorem witness_TeamNumbers :
    Goes (op1 z [.reg 1] [] (destRes .latch)) (tm 255) ∧ ((tm 255).val [.reg 1] 0).toNat < 256 ∧
    Goes (op1 z [.reg 1] [] (destRes .latch)) (tm 256) ∧ 255 < ((tm 256).val [.reg 1] 0).toNat ∧
    Goes { op1 z [.reg 1] [] [] with arr := true } (tm 254) ∧ ((tm 254).val [.reg 1] 0).toNat ≤ 255 ∧
    (∀ m ∈ (tm 254).me.members, m.1 ≠ ((tm 254).val [.reg 1] 0).toNat) ∧
    Goes { op1 z [.reg 1] [] (destRes .latch) with arr := true } (tm 254) :=
  ⟨goes_of_b (by decide +kernel), by decide +kernel, goes_of_b (by decide +kernel), by decide +kernel,
    goes_of_b (by decide +kernel), by decide +kernel, by decide +kernel, goes_of_b (by decide +kernel)⟩

theorem witness_Banks :
    (let s := on .s (rg .s 3 240)
     Goes (op1 z [.reg 3] [] []) s ∧ (s.val [.reg 3] 0).toNat + (15 : Fin 16).val ≤ 255) ∧
    (let s := on .s (rg .s 3 241)
     Goes (op1 z [.reg 3] [] []) s ∧ 255 < (s.val [.reg 3] 0).toNat + (15 : Fin 16).val) ∧
    Goes (op1 z [] [] []) (on .c id) ∧
    (let b := BankSt.reset
     let c : Core := { Core.reset with banks := [(0, { b with state := .retention }), (1, { b with state := .off }),
      (2, { b with state := .waking, wakeEnd := some 9 })] }
     c.wakesRunning < 16 ∧ (c.banks.map Prod.fst).Pairwise (· < ·) ∧ c.mem.wf = true ∧ (c.bank 0).state = .retention ∧
      (c.bank 1).state = .off ∧ (c.bank 2).state = .waking ∧ (c.bank 255).state = .full) :=
  ⟨⟨goes_of_b (by decide +kernel), by decide +kernel⟩, ⟨goes_of_b (by decide +kernel), by decide +kernel⟩,
    goes_of_b (by decide +kernel), by decide +kernel⟩

/-- Core 0 with requests made and banks that a commit moves off. -/
def settling (reqs : List (Nat × SupplyReq)) (off : List Nat) : Core :=
  { Core.reset with
    banks := [(0, { BankSt.reset with state := .retention, pendOff := true }), (257, { BankSt.reset with state := .waking, wakeEnd := some 9 })]
    mem := [(131071, 1), (131072, 2)]
    breqs := reqs
    goOff := off }

theorem witness_Banks_settling :
    (∀ c ∈ [settling [(255, .retention)] [], settling [] [0, 257]],
      (c.banks.map Prod.fst).Pairwise (· < ·) ∧ c.mem.wf = true ∧ (∀ e ∈ c.banks, e.2.pendRet = false ∧ e.2.moveAfter = none)) ∧
    (settling [(255, .retention)] []).goOff = [] ∧ (settling [] [0, 257]).breqs = [] ∧ (settling [] [0, 257]).wakeq = [] ∧
    (0, SupplyReq.full) ∈ [(0, SupplyReq.retention), (1, .full), (0, .full), (0, .off)] := by
  refine ⟨fun c h => ?_, by decide⟩
  rcases List.mem_pair.1 h with rfl | rfl <;> decide +kernel

/-- S with a base in s1 and a stride in s2. -/
def dw (base stride : Word64) : State := on .s fun c => rg .s 2 stride (rg .s 1 base c)

theorem witness_WindowsAndSyncWords :
    (let s := dw 0x1FFFFC0 0xFFFFFF
     Goes (op2 z n [.reg 1, .reg 2] [] []) s ∧ (s.val [.reg 1, .reg 2] 1).toNat < 2 ^ 24 ∧
      (s.val [.reg 1, .reg 2] 0).toNat % 64 = 0 ∧
      (s.val [.reg 1, .reg 2] 0).toNat + 64 * (1#24).toNat ≤ s.me.privTop) ∧
    (Goes (op2 z n [.reg 1, .reg 2] [] []) (dw 0x1FFFFC0 0x1000000) ∧ 2 ^ 24 ≤ ((dw 0x1FFFFC0 0x1000000).val [.reg 1, .reg 2] 1).toNat) ∧
    (Goes (op2 z n [.reg 1, .reg 2] [] []) (dw 63 0) ∧ ((dw 63 0).val [.reg 1, .reg 2] 0).toNat % 64 ≠ 0) ∧
    (dw 0x1FFFFC0 0).me.privTop < ((dw 0x1FFFFC0 0).val [.reg 1, .reg 2] 0).toNat + 64 * (2#24).toNat ∧
    (let s := on .l (rg .l 1 0x1FFFFE0)
     Goes (op2 z n [.reg 1, .reg 2] [] (destRes (.reg 0))) s ∧ s.me.portBusy = false ∧
      (s.val [.reg 1, .reg 2] 0 + (0#24).signExtend 64).toNat = 0x1FFFFE0 ∧ 0x1FFFFE0 % 32 = 0 ∧ PrivateFull s 0 0x1FFFFE0 32 ∧
      (BitVec.ofNat 32 (leNat (s.me.memThen.readN (0x1FFFFE0 + 16) 4)) - (s.val [.reg 1, .reg 2] 1).setWidth 32).msb = false) ∧
    (let s := on .l (rg .l 2 1)
     Goes (op2 z n [.reg 1, .reg 2] [] (destRes (.reg 0))) s ∧ PrivateFull s 0 0 32 ∧
      ¬(BitVec.ofNat 32 (leNat (s.me.memThen.readN 16 4)) - (s.val [.reg 1, .reg 2] 1).setWidth 32).msb = false) :=
  ⟨⟨goes_of_b (by decide +kernel), by decide +kernel⟩, ⟨goes_of_b (by decide +kernel), by decide +kernel⟩,
    ⟨goes_of_b (by decide +kernel), by decide +kernel⟩, by decide +kernel,
    ⟨goes_of_b (by decide +kernel), by decide +kernel, by decide +kernel, by decide, by unfold PrivateFull; decide +kernel,
      by decide +kernel⟩,
    goes_of_b (by decide +kernel), by unfold PrivateFull; decide +kernel, by decide +kernel⟩

/-- Four registers of K from s4 on and a route one router east. -/
def cp (a b c d : Word64) : State :=
  on .k fun x => { rg .k 4 a (rg .k 5 b (rg .k 6 c (rg .k 7 d x))) with rte := x.rte.set 5 0x0200000C }

theorem witness_CopyIssue :
    (let s := cp 0x1FFFFFE 0x1FFFFFF 1 0
     Goes (op2 z n [] ((List.range 4).map fun i => .sreg (Fin.ofNat 32 (4 + i))) []) s ∧
      s.copyCheck 0 (s.me.copyCmd (s.die 0).linkuse 0 0 4 false ⟨.core, false, false⟩) = none ∧
      (s.me.queueOf 3 s.me.part).length < 8) ∧
    (let s := cp 0x1000 0x2000 0x40 0x8000000500000020
     Goes (op2 z n [] ((List.range 4).map fun i => .sreg (Fin.ofNat 32 (4 + i))) []) s ∧
      s.copyCheck 0 (s.me.copyCmd (s.die 0).linkuse 0 0 4 true ⟨.core, false, false⟩) = none) :=
  ⟨⟨goes_of_b (by decide +kernel), by decide +kernel⟩, goes_of_b (by decide +kernel), by decide +kernel⟩

/-- The operands of a copy whose registers begin at s4. -/
def cpOp : Op := op2 z n [] ((List.range 4).map fun i => .sreg (Fin.ofNat 32 (4 + i))) []
/-- Which of the checks of R280 a copy of core 0 fails first, in their order: 0 for none. -/
def failing (s : State) (f : CopyF) (routed : Bool) : Nat :=
  let reg (j : Nat) : Nat := (s.mySeq.sreg (Fin.ofNat 32 (4 + j))).toNat
  let sd := decide (2 ^ 63 ≤ reg 2)
  let dd := reg 2 / 2 ^ 62 % 2 == 1
  let len := reg 2 % 2 ^ 32
  let src := if sd then reg 0 % 2 ^ 48 else reg 0
  let dst := if dd then reg 1 % 2 ^ 48 else reg 1
  let sync := reg 3 % 2 ^ 32
  let out (a n : Nat) : Bool := decide (s.me.privTop < a + n)
  if reg 2 / 2 ^ 32 % 2 ^ 30 != 0 || len == 0 || reg 3 / 2 ^ 37 % 2 ^ 26 != 0 || (!routed && reg 3 / 2 ^ 32 % 32 != 0) || (routed && dd) ||
    ((sd || dd) && (f.scope == .core || f.scope == .quad)) then 1
  else if routed && (routeEject (s.die 0).linkuse 0 s.me.rte[(Fin.ofNat 32 (reg 3 / 2 ^ 32) : Fin 32)]).isNone then 2
  else if !sd && out src len then 3
  else if !dd && !routed && out dst len then 4
  else if decide (2 ^ 63 ≤ reg 3) && sync % 32 != 0 then 5
  else if decide (2 ^ 63 ≤ reg 3) && !routed && out sync 32 then 6
  else if !routed && sd == dd && (if sd then decide ((dst + 2 ^ 48 - src) % 2 ^ 48 < len ∨ (src + 2 ^ 48 - dst) % 2 ^ 48 < len)
    else decide (src < dst + len ∧ dst < src + len)) then 7
  else 0
/-- A queue of channel 3 with eight commands of the partition. -/
def cpFull (cur deferred : Bool) : State :=
  let s := cp 0 0x1000 2 0
  let m := s.me.copyCmd (s.die 0).linkuse 0 0 4 false ⟨.core, false, false⟩
  s.modCore 0 fun x => { x with chans := x.chans.set 3 (List.replicate 7 { m with deferred := true } ++ [{ m with cur := cur, deferred := deferred }]) }

theorem witness_CopyIssue_checks :
    (∀ i < 11, let x := [(cp 0 0x1000 0x2000000000000040 0, CopyF.mk .core false false, false, 1), (cp 0 0x1000 0 0, ⟨.core, false, false⟩, false, 1),
      (cp 0 0x1000 64 0x100000000, ⟨.core, false, false⟩, false, 1), (cp 0 0x1000 0x4000000000000040 0x500000000, ⟨.dev, false, false⟩, true, 1),
      (cp 0 0x1000 0x8000000000000040 0, ⟨.quad, false, false⟩, false, 1), (cp 0 0x1000 64 0x1F00000000, ⟨.quad, false, false⟩, true, 2),
      (cp 0x1FFFFFF 0x1000 2 0, ⟨.core, false, false⟩, false, 3), (cp 0 0x1FFFFFF 2 0, ⟨.core, false, false⟩, false, 4),
      (cp 0 0x1000 2 0x8000000000000001, ⟨.core, false, false⟩, false, 5), (cp 0 0x1000 2 0x8000000002000000, ⟨.core, false, false⟩, false, 6),
      (cp 0xFFFFFFFFFFFF 0 0xC000000000000002 0, ⟨.dev, false, false⟩, false, 7)].getD i (cp 0 0 0 0, ⟨.core, false, false⟩, false, 0)
      Goes cpOp x.1 ∧ failing x.1 x.2.1 x.2.2.1 = x.2.2.2) ∧
    (∀ cur d, Goes cpOp (cpFull cur d) ∧ failing (cpFull cur d) ⟨.core, false, false⟩ false = 0 ∧
      ((cpFull cur d).me.queueOf 3 (cpFull cur d).me.part).map (fun y => y.cur && y.deferred) = List.replicate 7 true ++ [cur && d]) := by
  refine ⟨fun i h => ?_, fun cur d => ⟨goes_of_b ?_, ?_, ?_⟩⟩
  · interval_cases i <;> exact ⟨goes_of_b (by decide +kernel), by decide +kernel⟩
  all_goals cases cur <;> cases d <;> decide +kernel

/-- K right after a commit with a pre-emption pending. -/
def asked : State := on .k fun c => { c.modSeq 0 fun x => { x with fresh := true } with preempt := some 0 }
/-- K with a launch record, of g tasks, in the page's last line. -/
def lr (g : BitVec 8) : State :=
  { on .k (fun c => paged (rg .k 1 0xFFC0 c)) with mem := [(0x10FFC0, g)] }

theorem witness_NodesLaunchesPrefetches :
    (Goes (op1 z [] [] []) asked ∧ asked.me.preempt ≠ none ∧ asked.me.stopped = false ∧ asked.mySeq.fresh = true ∧
      (∀ q : Fin 4, (asked.me.sq q).live = []) ∧ asked.me.task = some placedTask) ∧
    (Goes (op1 z [] [] []) (on .k id) ∧ (on .k id).me.preempt = none) ∧
    (∀ g ∈ [16, 17#8], Goes (op2 z n [.reg 1] [] []) (lr g) ∧ ((lr g).val [.reg 1] 0).toNat % 2 ^ 48 = 0xFFC0 ∧
      Translated (lr g) 0xFFC0 .load .dev 0x10FFC0 ∧ (lr g).me.lbuf.length < 4 ∧ (lr g).farHeld 0 0x10FFC0 = false ∧
      (lr g).me.pinned = false ∧ (lr g).poison = [] ∧ (lr g).me.cb = [] ∧ (lr g).me.reads = [] ∧
      (lr g).me.task = some placedTask ∧ ((lr g).gran (.line (0x10FFC0 / 64))).claim = none) ∧
    launchOk ((lr 16).mem.readN 0x10FFC0 64) = true ∧ launchOk ((lr 17).mem.readN 0x10FFC0 64) = false ∧
    Goes (op2 z n [.reg 1] [] []) (la 0xFFFD) ∧ ((la 0xFFFD).val [.reg 1] 0 + (4#24).signExtend 64).toNat % 2 ^ 48 % 4 ≠ 0 ∧
    (let s := on .l fun c => paged (rg .l 1 0xFF40 c)
     Goes (op2 z n [.reg 1] [] []) s ∧ ((s.val [.reg 1] 0 + (4#24).signExtend 64).toNat % 2 ^ 48) % 4 = 0 ∧ s.me.fills = [] ∧
      ((s.val [.reg 1] 0 + (4#24).signExtend 64).toNat % 2 ^ 48 / 64 * 64 + 64 * 2) % 2 ^ 48 = 0xFFC0 ∧
      Translated s 0xFFC0 .fetch .dev 0x10FFC0 ∧ s.me.icLine 3 s.me.part 0xFFC0 = none ∧ s.farHeld 0 0x10FFC0 = false ∧
      s.me.tlb.length ≤ 64 ∧ ∀ e ∈ s.me.tlb, ∀ e' ∈ s.me.tlb,
        e.covers s.me.part 0xFFC0 = true → e'.covers s.me.part 0xFFC0 = true → e = e') := by
  refine ⟨⟨goes_of_b (by decide +kernel), by decide +kernel, by decide +kernel, by decide +kernel, by decide +kernel, by decide +kernel⟩,
    ⟨goes_of_b (by decide +kernel), by decide +kernel⟩, fun g h => ?_, by decide +kernel, by decide +kernel,
    goes_of_b (by decide +kernel), by decide +kernel, goes_of_b (by decide +kernel), by decide +kernel, by decide +kernel,
    by decide +kernel, ⟨page, by decide +kernel, by decide +kernel, by decide +kernel, by decide +kernel⟩, by decide +kernel⟩
  rcases List.mem_pair.1 h with rfl | rfl
  · exact ⟨goes_of_b (by decide +kernel), by decide +kernel,
      ⟨page, by decide +kernel, by decide +kernel, by decide +kernel, by decide +kernel⟩, by decide +kernel⟩
  · exact ⟨goes_of_b (by decide +kernel), by decide +kernel,
      ⟨page, by decide +kernel, by decide +kernel, by decide +kernel, by decide +kernel⟩, by decide +kernel⟩

/-- L with a shape record of ones in local store and its address in s2. -/
def shp : State := on .l fun c =>
  { c with mem := [8, 10, 12, 14, 16, 18, 19, 20, 21, 22, 23].map fun i => (i, 1) }

theorem witness_TileLoads :
    (let s := la 0x1FFF000
     Goes (op2 z n [.reg 1] [] []) s ∧ (s.me.tiles[(7 : Fin 8)]).fills = 0 ∧ (s.me.tiles[(7 : Fin 8)]).reads = 0 ∧
      s.me.portBusy = false ∧ s.me.tloads = [] ∧ (s.val [.reg 1] 0 + (0#24).signExtend 64).toNat = 0x1FFF000 ∧
      bvf s.me.tshape[(7 : Fin 8)] 12 8 * (8 * (bvf s.me.tshape[(7 : Fin 8)] 6 6 + 1)) = 4096 ∧ PrivateFull s 0 0x1FFF000 4096) ∧
    Goes (op2 z n [.reg 1, .reg 2] [] []) shp ∧ (shp.val [.reg 1, .reg 2] 1).toNat = 0 ∧ PrivateFull shp 0 0 32 ∧
    ∃ r, shapeRec (shp.me.mem.readN 0 32) (shp.val [.reg 1, .reg 2] 0).toNat 0xFFF 0 = .ok r :=
  ⟨⟨goes_of_b (by decide +kernel), by decide +kernel, by decide +kernel, by decide +kernel, by decide +kernel,
      by decide +kernel, by decide +kernel, by unfold PrivateFull; decide +kernel⟩,
    goes_of_b (by decide +kernel), by decide +kernel, by unfold PrivateFull; decide +kernel,
    ⟨⟨0, 0, 1, 1, 1, 1, 1, 1, 1, 1, 1, 1, 1, 0, 0, 0, 0, 0xFFF, 0⟩, by rfl⟩⟩

/-- A TLD with its last 256 bytes to place, and a TLDW of that record with its first 64. -/
def lastTld : TileLoad := ⟨7, 4096, 0x1FFF000, none, 3840, 0, none, .drop, 0, false, 0, ⟨true, false⟩⟩
def firstTldw : TileLoad := ⟨0, 4096, 0, some (⟨0, 0, 1, 1, 1, 1, 1, 1, 1, 1, 1, 1, 1, 0, 0, 0, 0, 0, 0⟩, 64), 0, 0, none, .keep, 0, false, 0, ⟨true, false⟩⟩

theorem witness_TileLoads_cycle :
    (let s := on .l fun c => { c with tloads := [lastTld] }
     s.me.tloads = [lastTld] ∧ lastTld.nextCyc ≤ (s.me.clk .control).cyc ∧ lastTld.pos < lastTld.n ∧ lastTld.n ≤ 16384 ∧
      PrivateFull s 0 (lastTld.base + lastTld.pos) 256 ∧ lastTld.pos + 256 = lastTld.n) ∧
    (let s := on .l fun c => { c with tloads := [firstTldw] }
     s.me.tloads = [firstTldw] ∧ PrivateFull s 0 0 1 ∧
      ∃ r, firstTldw.shape = some (r, 64) ∧ r.byte 64 0 = .inr 0 ∧ ∀ i, i < 64 → i ≠ 0 → r.byte 64 i = .inl 0) ∧
    ((conv 0).byte 64 55).isLeft = true ∧ (la 4).me.portBusy = false ∧ ((la 4).val [.reg 1] 0 + (0#24).signExtend 64).toNat % 8 ≠ 0 ∧
    ((on .l id).val [.reg 1, .reg 2] 1).toNat = 0 ∧
    shapeRec ((on .l id).me.mem.readN 0 32) 0 0 0 = .error 8 :=
  ⟨⟨by decide +kernel, by decide +kernel, by decide +kernel, by decide +kernel, by unfold PrivateFull; decide +kernel, by decide +kernel⟩,
    ⟨by decide +kernel, by unfold PrivateFull; decide +kernel, _, rfl, by decide +kernel, by decide +kernel⟩,
    by decide +kernel, by decide +kernel, by decide +kernel, by decide +kernel, by rfl⟩

/-- C with an entry in each of q0 to q2. -/
def vs : State := on .c fun c => qs 2 [.filled 3] (qs 1 [.filled 2] (qs 0 [.filled 1] c))

theorem witness_VectorInteger :
    Goes (opV 2 { z with gp := 2 } n [.pop 0, .pop 1] (.reg 31)) vs ∧ vs.me.drainHolds (vregsOf [.pop 0, .pop 1] (.reg 31)) = false ∧
    Goes (opV 2 z n [.reg 4] .latch) vs ∧ vs.me.drainHolds (vregsOf [.reg 4] .latch) = false ∧
    Goes (opV 2 z n [.pop 0, .peek 1, .latch 3] (.reg 0)) vs ∧
    vs.me.drainHolds (vregsOf [.pop 0, .peek 1, .latch 3] (.reg 0)) = false :=
  ⟨goes_of_b (by decide +kernel), by decide +kernel, goes_of_b (by decide +kernel), by decide +kernel,
    goes_of_b (by decide +kernel), by decide +kernel⟩

theorem witness_VectorFloats :
    Goes (opV 2 z n [.reg 1, .reg 2] (.reg 3)) vs ∧ Goes (opV 2 z n [.reg 1, .reg 2, .reg 3] (.reg 3)) vs ∧
    Goes (opV 2 { z with gp := 7 } n [.pop 2] .latch) vs ∧ vs.me.drainHolds (vregsOf [.reg 1, .reg 2, .reg 3] (.reg 3)) = false ∧
    decodeF .fp16 0x7BFF = .fin false 2047 5 ∧ (0x7BFF : Nat) < 2 ^ fmtWidth .fp16 ∧ decodeF .fp32 1 = .fin false 1 (-149) :=
  ⟨goes_of_b (by decide +kernel), goes_of_b (by decide +kernel), goes_of_b (by decide +kernel), by decide +kernel,
    by decide +kernel, by decide +kernel, by decide +kernel⟩

theorem witness_VectorFloats_patterns :
    decodeF .fp16 0x8000 = .fin true 0 (-24) ∧ decodeF .bf16 0xFF80 = .inf true ∧ decodeF .fp32 0x7F800001 = .nan ∧
    decodeF .fp32 0xFFFFFFFF = .nan ∧ decodeF .bf16 0x8001 = .fin true 1 (-133) ∧ decodeF .bf16 0x7F7F = .fin false 255 120 ∧
    (0x7F800001 : Nat) < 2 ^ fmtWidth .fp32 := by
  decide +kernel

theorem witness_VectorMovesAndMasks :
    vs.curSeq = .c ∧ Goes (opV 2 z n [.pop 0, .reg 2] (.reg 3)) vs ∧ Goes (opV 2 z n [.pop 0] (.reg 3)) vs ∧
    Goes (opV 1 z n [.reg 1] (.reg 3)) vs ∧ Goes (opV 1 z n [] .latch) vs ∧
    Goes { opV 1 z n [.reg 31] (.reg 3) with vregs := vregsOf [] (.reg 3) } vs ∧
    Goes { opV 1 z n [.reg 31] (.reg 0) with vregs := vregsOf [.reg 31] .latch } vs ∧
    Goes { opV 1 { z with gp := 1 } n [.pop 1] .latch with push := some 7 } vs ∧ vs.me.drains = [] ∧
    Goes (opV 2 { z with gp := 3 } n [.pop 0, .peek 1] .latch) vs ∧ Goes (op1 z [] [] []) vs :=
  ⟨by decide +kernel, goes_of_b (by decide +kernel), goes_of_b (by decide +kernel), goes_of_b (by decide +kernel),
    goes_of_b (by decide +kernel), goes_of_b (by decide +kernel), goes_of_b (by decide +kernel),
    goes_of_b (by decide +kernel), by decide +kernel, goes_of_b (by decide +kernel), goes_of_b (by decide +kernel)⟩

theorem witness_VectorConvertReduce :
    Goes (opV 2 { z with gp := 4 } n [.pop 1] (.reg 3)) vs ∧
    vs.me.drainHolds (opV 2 { z with gp := 4 } n [.pop 1] (.reg 3)).vregs = false :=
  ⟨goes_of_b (by decide +kernel), by decide +kernel⟩

/-- C with t0 shaped for 4 rows of INT8, t1 for 96 rows of T2, an accumulator's tag, and format entry 0. -/
def mx (tag : AccTag) (e : BitVec 32) : State := on .c fun c =>
  { c with tshape := (c.tshape.set 0 0x00204FC0).set 1 0x000603C0, acc := c.acc.set 3 { c.acc[(3 : Fin 4)] with tag := tag },
           fmt := c.fmt.set 0 e }
/-- The fields of an MMA without a drain, and with one. -/
def md (dr : Bool) : DrainF := ⟨0, dr, false, 0, false, false, .core, 0⟩

theorem witness_MatrixIssue :
    Goes { op2 z n [] [] [] with vregs := (mx .empty 0x2402).me.drainVregs (md false) } (mx .empty 0x2402) ∧
    Goes { op2 z n [] [] [] with vregs := (mx .fp32 0x2402).me.drainVregs (md true) } (mx .fp32 0x2402) ∧
    Goes { op2 z n [] [] [] with vregs := (mx .empty 0x2404).me.drainVregs (md true) } (mx .empty 0x2404) :=
  ⟨goes_of_b (by decide +kernel), goes_of_b (by decide +kernel), goes_of_b (by decide +kernel)⟩

theorem witness_MatrixIssue_state :
    (let k := (mx .fp32 0x2402).me
     k.drainHolds (k.drainVregs (md true)) = false ∧ k.drainFull = false ∧ k.draining 3 = false ∧ k.mmas = [] ∧
      (∀ t : Fin 8, (k.tiles[t]).fills = 0) ∧ k.fmtEntry (md true) = 0x2402) ∧
    (mx .empty 0x2404).me.fmtEntry (md true) = 0x2404 := by
  decide +kernel

theorem witness_MatrixIssue_operands :
    entryOk 0x2404 = false ∧ entryOk 0x2402 = true ∧ tagOf 0x2402 = .int32 ∧
    operandReason (mx .empty 0x2402).me 0x2402 0 1 4 = none ∧ operandReason (mx .empty 0x2402).me 0x2402 0 1 5 = some (5, 0) ∧
    operandReason (mx .empty 0x2402).me 0x2402 1 0 1 = some (1, 1) := by
  decide +kernel

/-! A world with a partition 0 that owns the first GiB of device memory, mapped one to one, and an image at 64 KiB. -/

/-- The page tables: a root at 4 KiB, and a 1 GiB leaf with every permission; and the header of an empty image. -/
def tables : Mem := [(0x1000, 0x01), (0x1001, 0x20), (0x2000, 0x1F)]
def imageHdr : Mem := [(0x10000, 0x48), (0x10001, 0x58), (0x10002, 0x49), (0x10003, 0x4D), (0x10004, 1), (0x10029, 1), (0x1002D, 0x11)]
/-- Partition 0 enabled on every core, with its tables and its allotment, on both dies. -/
def owned (s : State) : State :=
  { s with
    mem := tables ++ imageHdr
    dies := s.dies.map fun x => { x with
      ptroot := x.ptroot.set 0 0x1001
      partcfg := x.partcfg.set 0 0xC00000FFFFFFFFFF
      allot := x.allot.set 0 0x8000003FFF000000 } }
/-- A bind record of kind `k` in partition 0. -/
def bd (k : Nat) : Bind := ⟨k, 0, 5, 0, 1, 0, 0, 0, 1, 3, 0x10000, 0, 0x400, false, false⟩
/-- The world with core 15 free and the record staged. -/
def staged (k : Nat) : State := (owned State.reset).modCore 15 fun c => { c with staged := some (bd k) }

theorem witness_Dispatching :
    ((on .k id).core 0).task = some placedTask ∧
    (let s := staged 0
     (s.core 15).staged = some (bd 0) ∧ s.canDispatch 15 = true ∧ s.bindCode 15 (bd 0) = some 5 ∧ (bd 0).part < 16 ∧
      (bd 0).table = false ∧ (bd 0).kind ≠ 4) ∧
    (let s := staged 1
     (s.core 15).staged = some (bd 1) ∧ s.canDispatch 15 = true ∧ (bd 1).kind = 1 ∧ s.bindCode 15 (bd 1) = none ∧
      (s.memberships (bd 1).key).length ≤ 4) := by
  decide +kernel

theorem witness_Dispatching_image :
    (∃ x, (staged 1).loadImage (dieOf 15) (bd 1).pid (bd 1).image.toNat (lscap - 0x200000 * (bd 1).share) = .ok x ∧
      x.routes = []) ∧
    ∃ r, (staged 1).vread (dieOf 15) (bd 1).pid 2 (bd 1).regs.toNat 1024 = some r := by
  have h1 : (match (staged 1).loadImage (dieOf 15) (bd 1).pid (bd 1).image.toNat (lscap - 0x200000 * (bd 1).share) with
    | .ok x => x.routes.isEmpty
    | .error _ => false) = true := by decide +kernel
  have h2 : ((staged 1).vread (dieOf 15) (bd 1).pid 2 (bd 1).regs.toNat 1024).isSome = true := by decide +kernel
  refine ⟨?_, Option.isSome_iff_exists.1 h2⟩
  split at h1
  · exact ⟨_, ‹_›, by simpa using h1⟩
  · cases h1

/-- A context of the task of gang 0 saved at address 0, by a save or the migration path, or at a node boundary. -/
def kept (k : Nat) : Saved := ⟨0, 0, 0, 1, 3, 0, 0, 0, if k = 3 then 1 else 2, false, k == 4, 0, Core.reset⟩
/-- A record of kind k that takes it up, staged on core 15. -/
def taking (k : Nat) : Bind := ⟨k, 0, 0, 0, 1, 0, 0, 0, 1, 3, 0x10000, 0, 0x400, false, false⟩
def returnable (k : Nat) : State := { (owned State.reset).modCore 15 fun c => { c with staged := some (taking k) } with saved := [kept k] }

/-- Bytes within a page that translates are read. -/
theorem vread_isSome {s : State} {d : Fin 2} {p : PartId} {va n : Nat} (h : (s.vmap d p .load va).isSome = true ∧ n ≤ 65536 - va % 65536) :
    (s.vread d p 2 va n).isSome = true := by
  obtain ⟨⟨pa, hp⟩, hn⟩ := And.imp_left Option.isSome_iff_exists.1 h
  by_cases h0 : n = 0
  · simp [State.vread, h0]
  · simp [State.vread, h0, hp, Nat.min_eq_left hn]

theorem witness_Dispatching_returning : ∀ i < 3, let k := 2 + i
    let s := returnable k
    let b := taking k
    (s.core 15).staged = some b ∧ s.canDispatch 15 = true ∧ s.bindCode 15 b = none ∧
    (∃ x, s.loadImage (dieOf 15) b.pid b.image.toNat (lscap - 0x200000 * b.share) = .ok x ∧ x.routes = []) ∧
    (s.memberships b.key).length ≤ 4 ∧ s.savedFor b = some (kept k) ∧ s.saved = [kept k] ∧ b.kind = k ∧
    (s.vread (dieOf 15) b.pid 2 b.regs.toNat 1024).isSome = true ∧
    (s.vread (dieOf 15) b.pid 2 (b.save.toNat + (0x24000 + 16384 * 7)) 16384).isSome = true ∧
    (s.vread (dieOf 15) b.pid 2 (b.save.toNat + (0x2000 + 256 * 31)) 256).isSome = true ∧
    (((s.vread (dieOf 15) b.pid 2 (b.save.toNat + 0x400) 65).map fun m => leNat m / 4 ^ (256 + 31 / 8) % 4) = some 0) := by
  intro i hi
  have h : ∀ k, (match (returnable k).loadImage (dieOf 15) (taking k).pid (taking k).image.toNat (lscap - 0x200000 * (taking k).share) with
    | .ok x => x.routes.isEmpty
    | .error _ => false) = true → ∃ x, (returnable k).loadImage (dieOf 15) (taking k).pid (taking k).image.toNat
      (lscap - 0x200000 * (taking k).share) = .ok x ∧ x.routes = [] := fun k e => by
    split at e
    · exact ⟨_, ‹_›, by simpa using e⟩
    · cases e
  interval_cases i <;> exact ⟨by decide +kernel, by decide +kernel, by decide +kernel, h _ (by decide +kernel), by decide +kernel,
    List.find?_cons_of_pos (by decide +kernel), rfl, rfl, vread_isSome (by decide +kernel), vread_isSome (by decide +kernel), vread_isSome (by decide +kernel),
    by decide +kernel⟩

/-- A task in a phase, on core 0. -/
def inPhase (p : TaskPhase) (f : Core → Core) : State :=
  State.reset.modCore 0 fun c => f { c with task := some { placedTask with phase := p } }
/-- A migrating context that stands saved, with core 1 of its partition as its spare. -/
def moving : Saved := ⟨0, 0, 0, 1, 0, 0, 0, 0, 2, false, true, 0, Core.reset⟩
def spared : State := { owned State.reset with saved := [moving] }

theorem witness_ContextsAndSlots :
    (inPhase (.loading 0) id).rc = 0 ∧ ((inPhase (.saving 0 2) id).core 0).copiesDone { placedTask with phase := .saving 0 2 } = true ∧
    ((inPhase (.migrating 0) id).core 0).copiesDone { placedTask with phase := .migrating 0 } = true ∧
    ((on .k id).core 0).mid = none ∧ placedTask.cancelled = none ∧ placedTask.phase = .running ∧
    ((inPhase .held id).core 0).task = some { placedTask with phase := .held } ∧ ((inPhase .held id).die 0).lost = false ∧
    ((staged 1).core 15).staged = some (bd 1) ∧ (bd 1).kind = 1 ∧
    ((on .k id).die (dieOf 0)).lost = false ∧ ((on .k id).core 0).cancelAt ≠ (on .k id).rc + 1 ∧
    ((on .k fun c => { c with cancelAt := 1 }).core 0).cancelAt = (on .k fun c => { c with cancelAt := 1 }).rc + 1 ∧
    ((inPhase .held id).core 0).cancelAt ≠ (inPhase .held id).rc + 1 ∧
    ((inPhase .held fun c => { c with preempt := some 0 }).core 0).preempt ≠ none ∧ ((inPhase .held id).core 0).preempt = none ∧
    (State.reset.core 0).task = none := by
  decide +kernel

theorem witness_ContextsAndSlots_spare :
    spared.saved = [moving] ∧ spared.unstaged moving = true ∧ spared.spare moving = some 0 :=
  ⟨rfl, by decide +kernel, by decide +kernel⟩

/-- A commit's arrival of each sequencer. -/
def com (k : ArrKind) : Arrival := ⟨k, 0xFF, true, 0, ⟨false, false, false, false⟩, n⟩
/-- The region ready, K's arrival of a kind and the others' commits. -/
def readyWith (a b : ArrKind) : State := on .k fun c =>
  { (((c.modSeq 0 fun x => { x with arrival := some (com a) }).modSeq 1 fun x => { x with arrival := some (com b) }).modSeq 2
      fun x => { x with arrival := some (com b) }).modSeq 3 fun x => { x with arrival := some (com b) } with ready := true }

theorem witness_Commits :
    (let c := (readyWith .commit .commit).core 0
     c.ready = true ∧ c.held = false ∧ c.preempt = none ∧ c.explicit.head? = some (0, com .commit) ∧
      (∀ a ∈ c.arrivals, a.2.kind ≠ .halt) ∧ c.switches = false) ∧
    (let c := (readyWith (.swpt []) .commit).core 0
     c.ready = true ∧ c.explicit.head? = some (1, com .commit) ∧
      (∀ j : Fin 4, j ≠ 0 → ((c.sq j).arrival.map Arrival.kind) = some .commit) ∧
      (c.sq 0).arrival.map Arrival.kind = some (.swpt [])) ∧
    (let c := (readyWith .halt .halt).core 0
     c.explicit.head? = some (0, com .halt) ∧ ∃ a ∈ c.arrivals, a.2.kind = .halt) := by
  decide +kernel

/-- The region ready with a line of its own and one released, a launch record, a deferred copy, a bank to go off and a drop mask. -/
def releasing (a b : ArrKind) : State := (readyWith a b).modCore 0 fun c =>
  { (c.modSeq 2 fun x => { x with arrival := x.arrival.map fun y => { y with drop := 9 } }) with
    cb := [ownLine, owed]
    ts := .done 40
    banks := [(255, { BankSt.reset with pendOff := true })]
    lbuf := [⟨0, ⟨15, 1, 0, 0, 0, 0⟩, 0, 0, 0, 0, true⟩] }

theorem witness_Commits_released : ∀ i < 2,
    let c := (if i = 0 then releasing .commit .commit else releasing .halt .halt).core 0
    c.ready = true ∧ c.task = some placedTask ∧ placedTask.phase = .running ∧ c.held = false ∧ c.preempt = none ∧ c.stepBase = none ∧
      c.cb.map CBLine.cur = [true, false] ∧ c.ts = .done 40 ∧ c.lbuf.map LaunchEnt.cur = [true] ∧ c.explicit.length = 4 ∧
      (c.banks.map fun b => (b.1, b.2.pendOff)) = [(255, true)] ∧ (c.sq 2).arrival.map Arrival.drop = some 9 := by
  intro i hi
  interval_cases i <;> decide +kernel

/-- An atomic that has its value, and a barrier released with a status, between commit A and commit B. -/
def atomMid : Mid := ⟨0, 8, .inl ⟨.reg 4, 0, 0, some (9, 0), 0, false⟩, none, false, true, ⟨false, false, false, true⟩, n⟩
def barMid (st : Nat) : Mid := ⟨0, 8, .inr ⟨255, 0, false, .reg 0, true, some (st, 0), 1⟩, some 0, false, true, ⟨false, false, false, false⟩, n⟩

theorem witness_Commits_second :
    (on .k fun c => { c with mid := some atomMid }).me.mid = some atomMid ∧ atomMid.doneAt = none ∧
    (on .k fun c => { c with mid := some { atomMid with doneAt := some 0 } }).me.held = false ∧
    Mid.trap { atomMid with doneAt := some 0 } = none ∧ (barMid 0).trap = none ∧ (barMid 1).doneAt = some 0 ∧
    (on .k fun c => { c with mid := some (barMid 2) }).me.rolled = false ∧
    (on .k fun c => { c with mid := some (barMid 2) }).me.preempt = none ∧
    placedTask.phase = .running := by
  decide +kernel

theorem witness_RegionEvents :
    (let c := (on .k fun c => { c with rgncnt := 0x10000 }).me
     c.rolled = false ∧ c.allArrived = false ∧ c.detected = [] ∧ c.mid = none ∧ c.rgnmax.toNat ≤ c.rgncnt.toNat ∧ c.preempt = none) ∧
    (let c := (on .k fun c => { c with rgncnt := 0xFFFF, preempt := some 0x10000 }).me
     c.rgncnt.toNat < c.rgnmax.toNat ∧ c.rgnmax.toNat ≤ 0x10000) ∧
    (let c := (on .k fun c => { c with offered := [7], tok0 := Vector.replicate 8 14 }).me
     (7 : Fin 8) ∈ c.offered ∧ c.signalled[(7 : Fin 8)] = false ∧ c.sigRoom [] 7 = true) ∧
    (on .k fun c => { c with signalled := Vector.replicate 8 true }).me.signalled[(7 : Fin 8)] = true := by
  decide +kernel

/-- One result in flight, due now. -/
def due (q : Fin 4) (ws : List Wr) : State :=
  on .k fun c => qs 5 [.filled 1, .reserved] (c.modSeq q fun x => { x with pend := [⟨0, .cycle .control 0, ws, ⟨true, true⟩⟩] })

theorem witness_ResultDelivery :
    ∀ ws ∈ [destWr (.reg 0) 0 5, destWr (.reg 31) 3 5, destWr .latch 1 5, [.pred 0 true], [.pred 7 true],
        vecWr (.reg 31) 3 0xFF 7 FFlags.none, [.mask 0 1 1], [.mask 7 1 1], [.entry 5 1 9]],
      (((due 2 ws).core 0).sq 2).pend = [⟨0, .cycle .control 0, ws, ⟨true, true⟩⟩] ∧
      ((due 2 ws).core 0).dueNow 0 ⟨0, .cycle .control 0, ws, ⟨true, true⟩⟩ = true ∧
      (((due 2 ws).core 0).q[(5 : Fin 8)]).popped ≤ 1 ∧
      1 < (((due 2 ws).core 0).q[(5 : Fin 8)]).popped + (((due 2 ws).core 0).q[(5 : Fin 8)]).ents.length := by
  intro ws _
  exact ⟨rfl, rfl, Nat.le_of_ble_eq_true rfl, Nat.le_of_ble_eq_true rfl⟩

theorem witness_TakingATrap : ((on .c id).core 0).task = some placedTask ∧ ((on .c id).core 0).rolled = false ∧
    ((on .c fun c => { c with rolled := true }).core 0).rolled = true := by
  decide +kernel

/-- A tile load whose bytes are placed. -/
def tloadEnd : TileLoad := ⟨7, 4096, 0, none, 4096, 0, none, .keep, 0, false, 0, ⟨true, false⟩⟩

theorem witness_BanksAndTiles :
    (let s := { State.reset.modCore 0 fun c => { c with banks := [(259, { BankSt.reset with state := .waking, wakeEnd := some 0 })] }
        with rc := 1 }
     ((s.core 0).bank 259).wakeEnd = some 0 ∧ 0 < s.rc ∧ (s.core 0).wakeq = [] ∧ ((s.core 0).bank 0).wakeEnd = none) ∧
    (let s := on .l fun c => { c with tloads := [tloadEnd], tiles := c.tiles.set 7 { c.tiles[(7 : Fin 8)] with fills := 1 } }
     (s.core 0).tloads = [tloadEnd] ∧ tloadEnd.n ≤ tloadEnd.pos ∧ tloadEnd.ready ≤ ((s.core 0).clk .control).cyc) := by
  decide +kernel

/-- An MMA at a stage, at an edge of the matrix clock. -/
def mma (st : MmaStage) (e : BitVec 32) : MmaSt :=
  ⟨4, 3, false, 0, 1, 64, e, false, false, st, 0, ⟨false, true⟩, 0, 0, 8⟩
def mmaing (st : MmaStage) (e : BitVec 32) : State := on .c fun c => { c with mmas := [mma st e] }

theorem witness_MatrixEngine : ∀ st e, ((mmaing st e).core 0).mmas = [mma st e] ∧ (mma st e).stage = st ∧
    (mma st e).at_ ≤ (((mmaing st e).core 0).clk .matrix).cyc ∧ (mma st e).m ≤ 64 :=
  fun _ _ => ⟨rfl, rfl, Nat.le_of_ble_eq_true rfl, Nat.le_of_ble_eq_true rfl⟩

theorem witness_MatrixEngine_tags : tagOf 0x2402 = .int32 ∧ tagOf 0x7977 ≠ .int32 := by decide +kernel

/-- A check by a drain of an accumulator whose element 0 is `v` and whose checksums are zero. -/
def chk (v : Nat) : CheckSt :=
  ⟨2, { Core.reset.acc[(2 : Fin 4)] with tag := .int32, elem := BitVec.ofNat 196608 v, dirty := true }, 0, true, false, 63, 3, 8⟩
def chkOf (v : Nat) : State := on .c fun c => { c with checks := [chk v], acc := c.acc.set 2 (chk v).of_ }

theorem witness_MatrixEngine_checks : (∀ v, ((chkOf v).core 0).checks = [chk v]) ∧
    (chk 0).of_.mismatch ((chkOf 0).core 0).abfttol.toNat = false ∧
    (chk 1).of_.mismatch ((chkOf 1).core 0).abfttol.toNat = true ∧ (chk 1).final ≤ (((chkOf 1).core 0).clk .matrix).cyc ∧
    ((chkOf 1).core 0).retrycnt.toNat + 1 ≤ ((chkOf 1).core 0).retrylim.toNat :=
  ⟨fun _ => rfl, by decide +kernel, by decide +kernel, by decide +kernel, by decide +kernel⟩

/-- A drain of accumulator 2 by program 63 through window 3, waiting or running, with its words. -/
def dr (run : Bool) (ws : List Word32) (done : Nat) : DrainSt :=
  ⟨9, 2, 63, some ⟨0x1FFE000, 384, 8192⟩, 3, 0x2402, .core, false, false, n, [], run, false, 0, 64, ws, [], 256, [], false, done, 0, 0,
    0, none, false, none, false, false, 8⟩
/-- The core at an edge of the matrix clock, with the drain and a word of program 63. -/
def draining (d : DrainSt) (w : Word32) : State := on .c fun c =>
  { c with drains := [d], clocks := c.clocks.set 2 ⟨2, 0, 1000, true⟩, dmem := c.dmem.set 1008 w }

theorem witness_Drains_start :
    ∀ w : Word32, ((draining (dr false [] 0) w).core 0).drains = [dr false [] 0] ∧ (dr false [] 0).running = false ∧
      (((draining (dr false [] 0) w).core 0).clk .matrix).edge = true ∧ ((draining (dr false [] 0) w).core 0).mmas = [] ∧
      ((draining (dr false [] 0) w).core 0).rolled = false :=
  fun _ => ⟨rfl, rfl, rfl, rfl, rfl⟩

theorem witness_Drains_program :
    decodeProg (((draining (dr false [] 0) 0x80000004).core 0).drainWords 63) = some [.stw 0 .int32] ∧
    decodeProg (((draining (dr false [] 0) 0x90000000).core 0).drainWords 63) = none := by
  decide +kernel

theorem witness_Drains_store :
    (let d := dr true [0x80000004] 2015
     let c := (draining d 0).core 0
     (c.drains.map DrainSt.id = [9] ∧ d.finished = false ∧ d.skip = 0 ∧ d.restart = false ∧ d.done < 96 * d.rows) ∧
      (draining d 0).elemDue 0 d = true ∧ c.mem.wf = true ∧
      (runElem (progOf d.words) (c.drainEnv d) 20 95).stores = [.stw .int32 0] ∧
      dstwOff ⟨0x1FFE000, 384, 8192⟩ .int32 20 95 = some 8060 ∧ 8060 + 4 ≤ 8192 ∧ (c.bank (0x1FFE000 / 131072)).state = .full) ∧
    (let d := dr true [0x70000000] 2047
     let c := (draining d 0).core 0
     (draining d 0).elemDue 0 d = true ∧ (runElem (progOf d.words) (c.drainEnv d) 21 31).stores = [.stv 0 0] ∧
      (0 + 2047 / 64 < 32) ∧ (c.bank (256 + (0 + 2047 / 64) / 8)).state = .full) := by
  decide +kernel

/-- A drain into q7 at a word whose entry is its own, or is to be reserved. -/
def queued (done : Nat) (place : Option Nat) : DrainSt := { dr true [0x78000001] done with qplace := place }

theorem witness_Drains_queue : ∀ i < 3, let x := [(0, none, [QEnt.filled 3]), (62, some 1, [.filled 3, .reserved]), (6143, some 1, [.filled 3, .reserved])].getD i (0, none, [])
    let d := queued x.1 x.2.1
    let s := (draining d 0).modCore 0 (qs 7 x.2.2)
    s.elemDue 0 d = true ∧ (s.core 0).mem.wf = true ∧ d.done < 96 * d.rows ∧ d.finished = false ∧ d.skip = 0 ∧ d.restart = false ∧
      ((runElem (progOf d.words) ((s.core 0).drainEnv d) (d.done / 96) (d.done % 96)).stores = [.stq 7 0]) ∧
      ((s.core 0).q[(7 : Fin 8)]).room = true ∧ ((s.core 0).q[(7 : Fin 8)]).popped = 0 ∧
      (d.done % 64 = 0 ∨ d.qplace = some 1) := by
  intro i hi
  interval_cases i <;> decide +kernel

/-- The registers of an element with a value of a format and a scale. -/
def drun (x y : Nat) : DRun := ⟨(Vector.replicate 8 0).set 1 x |>.set 2 y, [], FFlags.none⟩

theorem witness_Drains_words :
    (∀ n : Fin 8, (drun 0xFFFFFFFF 0x1FC).regs[n] < 2 ^ 32) ∧ decodeScale (0x1FC % 2 ^ 16) = .fin false 4 (-2) ∧
    decodeScale (0x3FC % 2 ^ 16) = .nan ∧ decodeF .fp32 0xFFFFFFFF = .nan ∧ decodeF .fp32 0xFF800000 = .inf true ∧
    decodeF .fp32 0x80000000 = .fin true 0 (-149) ∧ decodeF .fp32 0x3F800001 = .fin false 8388609 (-23) ∧
    (∀ o ∈ [DOp.mov 1 0], o.isHist = false) ∧
    (let xs := [0x3F800000, 0x40400000, 0x80000000]
     let exOf (x : Nat) : Option Int := match decodeF .fp32 x with
       | .fin _ m d => if m = 0 then none else some (d + (Nat.log2 m : Int))
       | .nan => none
       | .inf _ => none
     xs.filterMap exOf = [0, 1] ∧ decodeF .fp32 0x40400000 = .fin false 12582912 (-22) ∧
      (5 * 2 ^ Nat.log2 12582912 < 4 * 12582912) ∧ ¬6 * 2 ^ Nat.log2 12582912 < 4 * 12582912) := by
  decide +kernel

theorem witness_Drains_lookup :
    alGet ({ elem := 0, params := [], tables := [(255, 7)], hist := 256, emax := 0 } : DEnv).tables 255 0 = 7 ∧
    (roundF .fp32 .rne false (mulF (addF .rne (decodeF .fp32 0x40400000) (negF (decodeF .fp32 0))).1 (decodeF .fp32 0x3F800000)).1).1 =
      0x40400000 ∧ decodeF .fp32 0x40400000 ≠ .nan := by
  decide +kernel

/-- The world with a walk that ends now on core 0, for the control TLB or a stream, and with a fill. -/
def walk (x : Option (Fin 4)) (page : Nat) (kind : AccKind) : Walk := ⟨2, page, 0, kind, .dev, x, false, true, false, true, 0, []⟩
def walking (x : Option (Fin 4)) (page : Nat) (kind : AccKind) : State :=
  (owned State.reset).modCore 0 fun c => { c with walks := [walk x page kind] }
def filling : State := State.reset.modCore 0 fun c => { c with fills := [⟨3, 0, 0xFC0, some 0x1000, 0, none, 65536⟩] }

theorem witness_WalksAndFills :
    (∀ x p k, ((walking x p k).core 0).walks = [walk x p k]) ∧
    (match (walking none 0x3FFF .load).walkPT (dieOf 0) 0 (0x3FFF * 65536) .load false with
      | .ok e => e.size == 2 ^ 30 && scopeOk .load .dev e.pbase
      | .error _ => false) = true ∧
    (match (walking (some 3) 0x4000 .fetch).walkPT (dieOf 0) 0 (0x4000 * 65536) .fetch false with
      | .ok _ => false
      | .error f => f == ⟨0, 1⟩) = true ∧
    (∀ x ∈ [none, some 3], ((walking x 0 .load).core 0).walkOld (walk x 0 .load) = false) ∧ scopeOk .load .dev sysBase = false ∧
    ((walking none 0 .load).farHeld 0 (2 ^ 37 - 64) = false) ∧
    (walking (some 3) 0x4000 .fetch).linkDown = false ∧ (walking none 0x3FFF .load).linkDown = false ∧ filling.linkDown = false ∧
    (filling.core 0).fills = [⟨3, 0, 0xFC0, some 0x1000, 0, none, 65536⟩] ∧ (0xFC0 % 64 = 0) ∧ (filling.core 0).part = 0 :=
  ⟨fun _ _ _ => rfl, by decide +kernel, by decide +kernel, by decide +kernel, by decide +kernel, by decide +kernel,
    by decide +kernel, by decide +kernel, by decide +kernel, by decide +kernel, by decide,
    by decide +kernel⟩

/-- The world with one table entry, at 0x3000. -/
def entered (e : Nat) : State := { owned State.reset with mem := Mem.writeN [] 0x3000 (leBytes 8 e) }
/-- Its fields: valid, leaf, next or page address, and whether reserved bits are set. -/
def entry (e : Nat) : BitVec 64 := BitVec.ofNat 64 (leNat ((entered e).mem.readN (0x3000 + 8 * 0) 8))
def reservedIn (e : BitVec 64) : Prop := bvf e 40 24 ≠ 0 ∨ bvf e 6 2 ≠ 0 ∨ (¬bvf e 1 1 = 1 ∧ bvf e 2 4 ≠ 0)

theorem witness_WalksAndFills_entries :
    bvf (State.reset.die 0).ptroot[(0 : Fin 16)] 0 1 = 0 ∧ bvf ((entered 0).die 0).ptroot[(0 : Fin 16)] 0 1 = 1 ∧
    entry 0x1E = 0x1E ∧ bvf (entry 0x1E) 0 1 = 0 ∧
    (bvf (entry 0x41) 0 1 = 1 ∧ reservedIn (entry 0x41)) ∧
    (¬reservedIn (entry 0x2101) ∧ bvf (entry 0x2101) 1 1 ≠ 1 ∧ bvf (entry 0x2101) 8 32 * 256 % 256 = 0 ∧
      bvf (entry 0x2101) 8 32 * 256 % 4096 ≠ 0) ∧
    (¬reservedIn (entry 0x10103) ∧ bvf (entry 0x10103) 8 32 * 256 % 2 ^ 16 ≠ 0) ∧
    (¬reservedIn (entry 3) ∧ bvf (entry 3) 1 1 = 1 ∧ bvf (entry 3) 8 32 * 256 = 0 ∧
      (entered 3).allotRanges 0 0 = [(0, 2 ^ 30 - 1)] ∧ ((entered 3).die (hbmDie 0)).gone false = false ∧
      permits .load (bvf (entry 3) 2 1 == 1) (bvf (entry 3) 3 1 == 1) (bvf (entry 3) 4 1 == 1) = false) ∧
    permits .load (bvf (entry 7) 2 1 == 1) (bvf (entry 7) 3 1 == 1) (bvf (entry 7) 4 1 == 1) = true ∧
    (¬reservedIn (entry 0x40000007) ∧ bvf (entry 0x40000007) 8 32 * 256 = 2 ^ 30 ∧ 2 ^ 30 % 2 ^ 30 = 0) := by
  unfold reservedIn
  decide +kernel

/-- A shoot-down of page 0 of partition 0 on its way to core 0, whose region has used the page. -/
def shooting : State := { on .k (fun c => { paged c with used := [(0x20000, 65536), (0, 65536)] }) with shoots := [⟨0, 0, 0, 0⟩] }

theorem witness_ShootDowns : bvf (State.reset.die 1).sdstat 31 1 = 0 ∧
    bvf ((State.reset.modDie 1 fun x => { x with sdstat := 0x80000000 }).die 1).sdstat 31 1 = 1 ∧
    shooting.shoots = [⟨0, 0, 0, 0⟩] ∧ (shooting.core 0).isRunning = true ∧
    (∃ g ∈ (shooting.core 0).used, shotPage 0 0 g.1 g.2 = true) ∧
    (∀ g ∈ (shooting.core 0).used, shotPage 0x0001000000000000 0 g.1 g.2 = false) := by
  decide +kernel

/-- A command of core 0 that moves 65 bytes within its store, at a phase and cursor; with a sync word, or over a route. -/
def cmd (ph : CopyPhase) (cur : Nat) (y : Word64) (routed : Bool) : CopyCmd :=
  ⟨6, #v[0x1FFFF00, 0x1000, 65, y], routed, .core, false, false, 0, 0, 0, 0, !routed, routed, ph, cur, 0x0200000C, 0, 0, 0, false,
    if routed then some (1, 2) else none, [], none, none, false⟩
def copying (m : CopyCmd) : State := on .k fun c =>
  { c with chans := c.chans.set 3 [m], clocks := (c.clocks.set 0 ⟨1, 0, 0, true⟩).set 3 ⟨1, 0, 0, true⟩ }

theorem witness_Copies :
    (∀ m, ((copying m).core 0).chans[(3 : Fin 4)] = [m]) ∧ (∀ ph a y r, (cmd ph a y r).phase = ph) ∧
    MemOk (copying (cmd .queued 0 0 false)) ∧ ((copying (cmd .queued 0 0 false)).die (dieOf 0)).rstphase = 0 ∧
    (cmd .moving 64 0 false).route = none ∧
    (let l := [cmd .queued 0 0 false, { cmd .queued 0 0 false with id := 7 }, { cmd .queued 0 0 false with id := 8 }]
     ∀ y ∈ l.tail, y.part = (cmd .queued 0 0 false).part ∧ y.id ≠ (cmd .queued 0 0 false).id) ∧
    (let c := (copying (cmd .moving 64 0 false)).core 0
     c.changing = false ∧ (c.clk .control).edge = true ∧ (c.clk .copy).edge = true ∧ (cmd .moving 64 0 false).sd = false ∧
      (cmd .moving 64 0 false).dd = false ∧ 64 < (cmd .moving 64 0 false).len ∧ (c.bank (0x1FFFF40 / 131072)).state = .full ∧
      (c.bank (0x1040 / 131072)).state = .full) ∧
    (cmd .reporting 65 0 false).sync = none ∧ (cmd .reporting 65 0x8000000001FFFFE0 false).sync = some 0x1FFFFE0 ∧
    (let s := { (copying (cmd .flying 65 0 true)).modCore 1 (fun c => { c with task := some placedTask }) with
        routed := [⟨0, 3, 6, 1, 0x1040, [7], true, 0⟩] }
     s.routed = [⟨0, 3, 6, 1, 0x1040, [7], true, 0⟩] ∧ (cmd .flying 65 0 true).id = 6 ∧ s.linkDown = false ∧ s.targetOk (cmd .flying 65 0 true) 1 = true ∧
      ((s.core 1).bank (0x1040 / 131072)).state = .full) :=
  ⟨fun _ => rfl, fun _ _ _ _ => rfl, memOk_of (by decide +kernel), by decide +kernel, by decide +kernel, by decide +kernel,
    by decide +kernel, by decide +kernel, by decide +kernel, by decide +kernel⟩

/-- A command of 64 bytes with a side in device memory, at the end of its page, and the world with a stream entry for the page. -/
def devCmd (sd : Bool) : CopyCmd :=
  { cmd .moving 0 0 false with
    regs := if sd then #v[0xFFC0, 0x1FFFFC0, 0x8000000000000040, 0] else #v[0x1FFFFC0, 0xFFC0, 0x4000000000000040, 0]
    scope := .dev }
def streaming (m : CopyCmd) (e : TlbEnt) : State := (copying m).modCore 0 fun c => { c with stlb := c.stlb.set 3 [e] }

theorem witness_Copies_devices :
    (∀ sd, let s := streaming (devCmd sd) page
      let c := s.core 0
      let m := devCmd sd
      c.chans[(3 : Fin 4)] = [m] ∧ m.sd = sd ∧ m.dd = !sd ∧ m.at_ ≤ s.rc ∧ c.changing = false ∧ (c.clk .control).edge = true ∧
        (c.clk .copy).edge = true ∧ m.routed = false ∧ m.route = none ∧ m.cursor < m.len ∧ m.keep = [] ∧ s.poison = [] ∧
        s.routed = [] ∧ min 64 (m.len - m.cursor) = 64 ∧ (if sd then m.src else m.dst) % 2 ^ 48 = 0xFFC0 ∧
        page.pbase + 0xFFC0 % page.size = 0x10FFC0 ∧ (c.stlb[(3 : Fin 4)]).find? (fun e => e.covers m.part 0xFFC0) = some page ∧
        permits .load page.r page.w page.x = true ∧ permits .store page.r page.w page.x = true ∧
        scopeOk .load m.scope 0x10FFC0 = true ∧ scopeOk .store m.scope 0x10FFC0 = true ∧
        (s.die (hbmDie 0x10FFC0)).gone m.old = false ∧ s.farHeld 0 0x10FFC0 = false ∧ s.writeHeld 0x10FFC0 64 = false ∧
        (c.bank (0x1FFFFC0 / 131072)).state = .full) ∧
    permits .load false true true = false ∧ (devCmd true).cur = true ∧ (devCmd true).sync = none := by
  refine ⟨fun sd => ?_, by decide +kernel⟩
  cases sd <;> decide +kernel

theorem witness_Copies_ends :
    (let s := copying { cmd .acquire 0 0 false with scope := .sys }
     s.floorReached 0 .sys 0 = true ∧ (s.modCore 15 fun c => { c with cb := [owed] }).floorReached 0 .sys 9 = false) ∧
    (let m := { cmd .releasing 65 0 false with rel := true, scope := .sys }
     m.rel = true ∧ m.at_ ≤ (copying m).rc ∧ m.pts.getD ((copying m).core 0).pts = 0) ∧
    (let m := { cmd .reporting 65 0x8000000001FFFFE0 false with failed := true }
     m.sync = some 0x1FFFFE0 ∧ m.failed = true ∧ m.routed = false ∧ m.route = none ∧
      (((copying m).core 0).bank (0x1FFFFE0 / 131072)).state = .full) ∧
    (let m := { cmd .flying 65 0 true with cur := false }
     let s := { copying m with routed := [⟨0, 3, 6, 1, 0x1040, [7], true, 0⟩] }
     s.targetOk m 1 = false ∧ s.linkDown = false ∧ m.cur = false ∧ m.id = 6 ∧ ((s.die 0).mbout[(0 : Fin 16)]).length < 256) := by
  decide +kernel

/-- A line of device line 0 in core 0's buffer, of the current region or released, plain or an atomic's. -/
def line (cur : Bool) (a : Option AtomReq) (mask : BitVec 64) : CBLine :=
  ⟨3, .hbm, 0, .dev, mask, 5, false, 0, 0, 0, 0, cur, 9, a, 0, false, false, 0, 0⟩
def lined (l : CBLine) : State := on .k fun c => { c with cb := [l], pts := 7 }
/-- A 64-bit add to bytes 56 to 63. -/
def addAt : AtomReq := ⟨0, 56, true, 1, 0, true⟩

theorem witness_TimestampsAndLines :
    (let c := (lined (line true none 1)).core 0
     c.ts = .idle ∧ c.timedLoads = false ∧ (∀ l ∈ c.cb, l.cur = true) ∧ c.writeSet = [.line 0] ∧
      ((lined (line true none 1)).gran (.line 0)).claim = none) ∧
    (∀ l, ((lined l).core 0).cb = [l]) ∧ (lined (line false none 0x8000000000000001)).lineReady 0 (line false none 0x8000000000000001) = true ∧
    MemOk (lined (line false none 1)) ∧
    (let l := line false (some addAt) 0xFF00000000000000
     (lined l).lineReady 0 l = true ∧ addAt.addr % 8 = 0 ∧ l.addr = addAt.addr / 64 * 64 ∧
      ∀ i, i < 64 → (bvf l.mask i 1 = 1 ↔ addAt.addr % 64 ≤ i ∧ i < addAt.addr % 64 + 8)) ∧
    (let s := { State.reset with pins := [⟨15, none, [(3, 4), (3, 5)]⟩], rc := 4 }
     s.pins = [⟨15, none, [(3, 4), (3, 5)]⟩] ∧ 3 < s.rc) :=
  ⟨by decide +kernel, fun _ => rfl, by decide +kernel, memOk_of (by decide +kernel), by decide +kernel, rfl, by decide +kernel⟩

theorem witness_TimestampsAndLines_reads :
    let s := { on .k fun c => { c with reads := [⟨.line 5, 0, 4, none⟩] } with grans := [(.line 5, ⟨0, 4, none, none, false⟩)] }
    ∀ r ∈ (s.core 0).reads, (s.gran r.gran).wts = r.wts ∧ (s.gran r.gran).claim = none := by
  decide +kernel

/-- A line of another home, whose window bank stands in a state. -/
def homed (h : Home) (addr : Nat) : CBLine := { line false none 1 with home := h, addr := addr }
def linedAt (l : CBLine) (st : Supply) : State :=
  (lined l).modCore 3 fun c => { c with banks := [(l.addr / 131072, { BankSt.reset with state := st })] }

theorem witness_TimestampsAndLines_homes :
    (∀ i < 4, let st := [Supply.full, .off, .retention, .waking].getD i .full
      let l := homed (.win 3) 0x1E00400
      (linedAt l st).lineReady 0 l = true ∧ (((linedAt l st).core 3).bank (l.addr / 131072)).state = st ∧ ((linedAt l st).core 0).cb = [l] ∧
        l.pinned = false) ∧
    (lined (homed .sysr 0x4000000000)).lineReady 0 (homed .sysr 0x4000000000) = true ∧
    (lined { homed .hbm 0 with at_ := 9 }).lineReady 0 { homed .hbm 0 with at_ := 9 } = false ∧
    ((lined (line true none 1)).core 0).timedRegion = true ∧ (lined (line true none 1)).granHeld 0 (.line 0) = false ∧
    ((on .k id).core 0).timedRegion = false ∧ ((on .k id).core 0).ts = .idle ∧
    (let s := { State.reset with pins := [⟨15, some 3, [(3, 4)]⟩], rc := 4 }
     s.pins.map Pin.holder = [some 3]) := by
  refine ⟨fun i h => ?_, by decide +kernel⟩
  interval_cases i <;> decide +kernel

/-- Team 255 of partition 0, enabled, with two members: task 0 of gang 0 on core 0 and task 1 on core 8. -/
def mem0 (arr : Bool) (st : Nat) : Member := ⟨true, st, arr, 0, 0, 0⟩
def mem1 (arr : Bool) (st : Nat) : Member := ⟨true, st, arr, 8, 1, 0⟩
def team2 (a b : Member) : Team :=
  { Team.reset with en := true, timeout := 5, count := 2, mem := (Team.reset.mem.set 0 a).set 1 b }
def teamed (a b : Member) (c : Core → Core) : State := { on .k c with teams := [(255, team2 a b)] }
def wait0 (sent : Bool) : BarWait := ⟨255, 0, true, .reg 4, sent, none, 0⟩
def waiting (sent : Bool) : Mid := ⟨0, 8, .inr (wait0 sent), none, false, true, ⟨false, false, false, false⟩, n⟩
/-- Core 0's arrival. -/
def who : Arriver := ⟨0, 0, ⟨0, 0, 0⟩⟩

theorem witness_BarrierEvents_core :
    (let s := teamed (mem0 false 1) (mem1 false 1) fun c => { c with mid := some (waiting false) }
     s.me.mid = some (waiting false) ∧ (wait0 false).sent = false ∧ (wait0 false).released = none ∧ s.coreFloor 0 .dev = true) ∧
    (let s := { teamed (mem0 false 1) (mem1 false 1) fun c => { c with mid := some (waiting true) } with
        msgs := [(0, .release 0 placedTask.key 255 1 2 9)] }
     s.msgs = [(0, .release 0 placedTask.key 255 1 2 9)] ∧ s.holder placedTask.key = some 0 ∧ (waiting true).doneAt = none) := by
  decide +kernel

theorem witness_BarrierEvents_combiners :
    (let s := { teamed (mem0 false 1) (mem1 false 1) id with msgs := [(0, .arrival who 255 0 9)] }
     s.msgs = [(0, .arrival who 255 0 9)] ∧ dieOf who.core = 0 ∧ s.combs = [] ∧ s.combReady ⟨0, 255, 0, [who], 9, false⟩ = true) ∧
    (let s := teamed (mem0 false 1) ⟨true, 1, false, 7, 1, 0⟩ id
     s.combReady ⟨0, 255, 0, [who], 9, false⟩ = false) ∧
    (let x := (teamed (mem0 false 1) (mem1 false 1) id).team 255
     x.en = true ∧ x.broken = false ∧ x.rankOf who.key = some 0 ∧ ((on .k id).holder who.key).isSome = true ∧
      ∃ j ∈ x.ranks, j ≠ 0 ∧ (x.mem[j]).arr = false ∧ (x.mem[j]).state ≠ 2) ∧
    (let x := (teamed (mem0 false 1) (mem1 true 1) id).team 255
     ∀ j ∈ x.ranks, j ≠ 0 → (x.mem[j]).arr = true ∨ (x.mem[j]).state = 2) := by
  decide +kernel

theorem witness_TeamEvents :
    (let s := { teamed (mem0 false 1) (mem1 false 1) id with msgs := [(0, .token 8 ⟨0, 0, 1⟩ 4)] }
     s.msgs = [(0, .token 8 ⟨0, 0, 1⟩ 4)] ∧ s.teams = [(255, s.team 255)] ∧ (s.team 255).en = true ∧
      (s.team 255).rankOf ⟨0, 0, 1⟩ = some 1 ∧ ∀ j : Fin 16, ((s.team 255).mem[j]).arr = false) ∧
    ({ team2 (mem0 true 1) (mem1 false 1) with tlast := some 0, tcount := 5000 } : Team).expired = true ∧
    ({ team2 (mem0 true 1) (mem1 false 1) with tlast := some 0, tcount := 4999 } : Team).expired = false ∧
    (let s := owned { State.reset with teams := [(0, { Team.reset with mem := Team.reset.mem.set 0 (mem0 false 0) })] }
     (s.team 0).en = false ∧ s.teamOk ((s.team 0).fields 0x5001) = true ∧ s.teamOk ((s.team 0).fields 0x5002) = false) ∧
    ({ team2 (mem0 true 1) (mem1 false 1) with broken := true } : Team).broken = true := by
  decide +kernel

/-- A released launch record of partition 15. -/
def ent : LaunchEnt := ⟨0, ⟨15, 1, 0, 0, 0, 0⟩, 0, 0, 0, 0, false⟩
/-- The table running on die 0 with entry 0: core 15, of partition 0, whose launch record lies at 64 MiB. -/
def tabled (cores : BitVec 64) : State :=
  let s := owned { State.reset with mem := [] }
  { s.modDie 0 (fun x => { x with
      ttctl := x.ttctl ||| 0x8000000000100000, tteA := x.tteA.set 0 (cores <<< 44 ||| 0x6400000), tteB := x.tteB.set 0 0x4000000 })
    with mem := tables ++ [(0x4000000, 1), (0x400000A, 1)] }

/-- A world with its link up. -/
theorem witness_link : (teamed (mem0 false 1) (mem1 false 1) id).linkDown = false := by decide +kernel

theorem witness_Scheduling :
    ((on .k fun c => { c with lbuf := [ent] }).core 0).lbuf = [ent] ∧ (State.reset.die 0).queueFull 15 = false ∧
    bvf (State.reset.die State.reset.authority).ttctl 63 1 = 0 ∧ bvf State.reset.qstep 61 1 = 0 ∧ State.reset.qhold = 0 ∧
    bvf ((tabled 0).die (tabled 0).authority).ttctl 63 1 = 1 ∧
    (tabled 0).ttRuns 0 = true ∧ (0 : Nat) < bvf ((tabled 0).die 0).ttctl 20 9 ∧ (tabled 0).ttBad 0 0 = true ∧
    (tabled 0x8000).ttBad 0 0 = false ∧ ((tabled 0x8000).die 0).ttgangs = [] ∧
    bvf ((tabled 0x8000).die 0).tteB[(0 : Fin 256)] 0 48 % 64 = 0 ∧
    ((State.reset.modDie 0 fun x => { x with slotEnds := [(255, 0)] }).die 0).slotEnds = [(255, 0)] := by
  decide +kernel

theorem witness_Scheduling_record : ∃ r, (tabled 0x8000).vread 0 0 2 0x4000000 64 = some r ∧ launchOk r = true := by
  have h : (match (tabled 0x8000).vread 0 0 2 0x4000000 64 with
    | some r => launchOk r
    | none => false) = true := by decide +kernel
  split at h
  · exact ⟨_, ‹_›, h⟩
  · cases h

/-- A core with a pending level and divisors, every domain at an edge. -/
def pending : State := State.reset.modCore 15 fun c =>
  { c with clkpend := true, clkdiv := 0x7070, grant := some (3, 1), clocks := c.clocks.map fun x => { x with edge := true } }

theorem witness_PowerLevels : (pending.core 15).changing = true ∧ pending.crossing 15 = false ∧
    (∀ i : Fin 4, ((pending.core 15).clocks[i]).edge = true) ∧ bvf (State.reset.die 0).pwrcap 15 1 = 0 ∧
    bvf ((State.reset.modDie 0 fun x => { x with pwrcap := 0x00009902 }).die 0).pwrcap 15 1 = 1 := by
  decide +kernel

theorem witness_PowerLevels_caps :
    (let r := ((State.reset.modDie 0 fun x => { x with pwrcap := 0x82 }).die 0).pwrcap
     bvf r 15 1 = 0 ∧ bvf r 11 1 = 0 ∧ bvf r 7 1 = 1 ∧ bvf r 0 2 = 2) ∧
    (let r := ((State.reset.modDie 0 fun x => { x with pwrcap := 0x0B02 }).die 0).pwrcap
     bvf r 15 1 = 0 ∧ bvf r 11 1 = 1 ∧ bvf r 8 2 = 3 ∧ bvf r 0 2 = 2) ∧
    (let r := ((State.reset.modDie 0 fun x => { x with pwrcap := 0x9803 }).die 0).pwrcap
     bvf r 15 1 = 1 ∧ bvf r 12 2 = 1 ∧ bvf r 11 1 = 1 ∧ bvf r 8 2 = 0) := by
  decide +kernel

theorem witness_DetectedErrors :
    (let c := (on .k fun c => { c with retrycnt := 2 }).core 0
     c.rolled = false ∧ c.trapped = [] ∧ (on .k id).rc ≤ (⟨some 3, 8, 0⟩ : OpRef).at_ + 20 ∧ c.retrycnt.toNat + 1 ≤ c.retrylim.toNat) ∧
    (let c := (on .k fun c => { c with retrycnt := 3 }).core 0
     c.retrylim.toNat < c.retrycnt.toNat + 1) ∧
    (let c := (on .k fun c => { c with notes := { c.notes with ops := [(8, 5, 0x7FFFFFFFFFFFFFFF)] } }).core 0
     ∀ e ∈ c.notes.ops, e.1 = 8 → e.2.1 = 5 → e.2.2.getLsbD (63 : Fin 64).val = false) ∧
    (dieOf 15 = 1 ∧ bvf (0x80#8) ((15 : Fin 16).val % 8) 1 = 1 ∧ bvf (0x80#8) ((8 : Fin 16).val % 8) 1 = 0) := by
  decide +kernel

/-- Quartz at 10 s, both dies' firmware running. -/
def later : State :=
  { State.reset with qns := 16 * 10000000000, dies := State.reset.dies.map fun x => { x with bootstat := 0x30000000 } }

theorem witness_LinksAndSplits :
    bvf (bvSet (State.reset.die 0).flstat (4 + (3 : Fin 4).val) 1 0) 4 4 ≠ 0 ∧ bvf (bvSet (0x80#32) 7 1 0) 4 4 = 0 ∧
    ((State.reset.modDie 0 fun x => { x with retrain := some 0 }).die 0).retrain = some 0 ∧ later.fwRuns 0 = true ∧
    bvf (later.die 0).flstat 4 4 ≠ 0 ∧ bvf (later.die 0).flstat 0 4 ≠ 0 ∧ (later.die 1).lost = false ∧
    (later.die 0).hbSeen + 100000 ≤ later.qtime ∧
    (let s := later.modDie 0 fun x => { x with claimAt := some 5 }
     (s.die 0).claimAt = some 5 ∧ (s.die 0).lost = false ∧ (s.die 1).pinLow = false) ∧
    (let s := (later.modDie 1 fun x => { x with claimedAt := some 9999996000, pinLow := true }).modDie 0 fun x =>
        { x with pinLow := true, claimedAt := some 9999992000 }
     (s.die 1).claimedAt = some 9999996000 ∧ 9999996000 + 4000 ≤ s.qtime ∧ (s.die 0).pinLow = true ∧
      (s.die 0).claimedAt = some 9999992000 ∧ 9999992000 + 8000 ≤ s.qtime ∧ (s.die 1).lost = false) := by
  decide +kernel

/-- A die in a reset's phase. -/
def resetting (p : Nat) (s : State) : State := s.modDie 1 fun x => { x with rstphase := p, lost := true }

theorem witness_DieLossAndReset : (State.reset.die 1).lost = false ∧ (State.reset.die 1).rstphase = 0 ∧
    ((resetting 2 later).die 1).rstphase = 2 ∧ (resetting 2 later).feldsparBusy = false ∧
    (let s := (resetting 2 later).modCore 0 fun c => { c with loads := [{ theLoad with pieces := [⟨.hbm, 2 ^ 37, 0, 8, none⟩] }] }
     s.feldsparBusy = true) ∧
    ((resetting 2 later).die 1).rstQdl ≤ (resetting 2 later).qtime ∧ ((resetting 5 later).die 1).rstphase = 5 ∧
    bvf ((resetting 5 later).die 1).bootstat 28 3 ≠ 2 := by
  decide +kernel

theorem witness_Recorders : bvf State.reset.shctl 30 1 = 0 ∧ bvf ({ State.reset with shctl := 0x40000000 } : State).shctl 30 1 = 1 ∧
    ((State.reset.modDie 0 fun x => { x with sharmed := true }).die 0).sharmed = true ∧ State.reset.shtime.toNat ≤ State.reset.qtime ∧
    ((State.reset.modDie 0 fun x => { x with tnroom := x.tnroom.set 15 1 }).die 0).tnroom[(15 : Fin 16)] ≠ 0 ∧
    bvf (State.reset.die 0).tnstat[(15 : Fin 16)] 62 1 = 0 ∧ bvf (State.reset.die 0).tnstat[(15 : Fin 16)] 63 1 = 0 ∧
    ((State.reset.modDie 0 fun x => { x with tnfreeze := x.tnfreeze.set 15 (some 0) }).die 0).tnfreeze[(15 : Fin 16)] = some 0 := by
  decide +kernel

theorem witness_DebugPort : bvf ((perm (on .k id)).die 0).dbgperm placedTask.part.val 1 = 1 ∧ (on .k id).me.dbg = .running ∧
    bvf ((on .k id).die 0).dbgperm placedTask.part.val 1 ≠ 1 ∧
    (let c := (perm (on .k fun c => lp .c 0 outer { c with dbg := .pending 2 })).me
     c.allArrived = false ∧ c.ready = false ∧ c.dbg = .pending 2 ∧ (c.sq 2).live ≠ []) ∧
    (let c := (perm (on .k fun c => { c with dbg := .due 3 })).me
     c.allArrived = false ∧ c.ready = false ∧ c.dbg = .due 3) ∧
    (let c := (perm (on .k fun c => { c with dbg := .stopped 0, stopped := true, dbgctl := 0x0B000000 })).me
     c.stopped = true ∧ c.stepOff = false ∧ bvf c.dbgctl 27 1 = 1 ∧ c.stepping = false ∧ c.dbg ≠ .running ∧ bvf c.dbgctl 24 2 ≠ 2) ∧
    (let c := (perm (on .k fun c => { c with dbg := .stopped 2, stopped := true, dbgctl := 0x0A000000 })).me
     c.stopped = true ∧ bvf c.dbgctl 27 1 = 1 ∧ c.stepping = false ∧ c.dbg ≠ .running ∧ bvf c.dbgctl 24 2 = 2) ∧
    (let c := (perm (on .k fun c => { c with dbg := .stopped 2, stopped := true, stepBase := some ⟨5, []⟩ })).me
     c.stopped = true ∧ c.stepOff = false ∧ c.stepBase.isSome = true) ∧
    ((inPhase .held id).core 0).task = some { placedTask with phase := .held } := by
  decide +kernel

/-- Partition 0's mailbox at 128 MiB: 16 inbound and 16 outbound entries, with a message in the first. -/
def boxed (msg : Mem) (ptr : BitVec 64) : State :=
  let s := owned { State.reset with mem := [] }
  { s with
    mem := tables ++ [(0x4000000, 1)] ++ msg
    dies := s.dies.map fun x => { x with mbcfg := x.mbcfg.set 0 0x8000000008000000, mbptr := x.mbptr.set 0 ptr } }
/-- A message of a type, version 1, with bytes from 8 on. -/
def msgAt (type : BitVec 8) (rest : Mem) : Mem := (if type = 0 then [] else [(0x8000000, type)]) ++ [(0x8000001, 1)] ++ rest
def oneIn (type : BitVec 8) (rest : Mem) : State := boxed (msgAt type rest) 0x0001000000000000
def isGood (s : State) : Bool :=
  match s.inMsg 0 0 with
  | some m => s.msgBad 0 0 m == none
  | none => false

theorem witness_Mailboxes :
    bvf (State.reset.die 0).mbptr[(0 : Fin 16)] 32 16 = 0 ∧ (16 + 65536 - 0) % 65536 ≤ 2 ^ (bvf (State.reset.die 0).mbcfg[(0 : Fin 16)] 56 4 + 4) ∧
    State.reset.inMsg 0 0 = none ∧ (State.reset.die 0).mbout[(0 : Fin 16)] = [] ∧
    isGood (oneIn 0 [(0x8000008, 1), (0x8000009, 1)]) = true ∧ isGood (oneIn 1 [(0x800000B, 4)]) = true ∧
    isGood (oneIn 5 []) = true ∧ bvf ((oneIn 5 []).die 0).tnstat[(0 : Fin 16)] 63 1 = 0 ∧
    bvf ((oneIn 1 []).die 0).partcfg[(0 : Fin 16)] 63 1 = 1 ∧ ((oneIn 1 []).die 0).queueFull 0 = false := by
  decide +kernel

/-- One message of a version, type and header in a mailbox that has agreed version 1, the firmware running. -/
def refusable (type ver p flags : BitVec 8) (ptr : BitVec 64) : State :=
  let s := boxed ([(0x8000000, type), (0x8000001, ver), (0x8000002, p), (0x8000003, flags), (0x8000004, 7)].filter fun x => x.2 ≠ 0) ptr
  { s with dies := s.dies.map fun x => { x with mbver := x.mbver.set 0 1, bootstat := 0x30000000 } }
/-- The reason for which the one message of a mailbox is rejected, and whether the outbound ring has room. -/
def refusal (s : State) : Option (Option Nat × Bool) :=
  if s.mem.wf = true ∧ (s.die 0).mbver[(0 : Fin 16)] ≠ 0 ∧ s.inCount 0 0 = 1 ∧ s.fwRuns 0 = true ∧ (s.die 0).mbout[(0 : Fin 16)] = [] then
    (s.inMsg 0 0).map fun m => (s.msgBad 0 0 m, s.ringRoom 0 0)
  else none

theorem witness_Mailboxes_rejects :
    refusal (refusable 6 2 1 1 0x0001000000000000) = some (some 2, true) ∧
    refusal (refusable 6 1 1 1 0x0001000000000000) = some (some 1, true) ∧
    refusal (refusable 5 1 0 1 0x000100000010FFFF) = some (some 3, false) ∧
    refusal (refusable 5 1 1 0 0x00010000000F0000) = some (some 3, true) ∧
    (let s := { refusable 5 1 1 0 0x0001000000000000 with grans := [(.line 0x200010, ⟨0, 0, some (0, false), none, false⟩)] }
     s.writeHeld (0x8000000 + 64 * 16) 64 = true ∧ refusal s = some (some 3, true)) := by
  decide +kernel

theorem witness_Mailboxes_launch :
    (∃ a, (oneIn 1 [(0x800000B, 4)]).vread 0 0 2 0x4000000 64 = some a ∧ launchOk a = true) ∧
    ∃ a, (oneIn 1 [(0x8000009, 1)]).vread 0 0 2 0x100 64 = some a ∧ launchOk a = false := by
  have h (o : Option (List (BitVec 8))) (b : Bool) (e : (match o with
    | some r => launchOk r == b
    | none => false) = true) : ∃ a, o = some a ∧ launchOk a = b := by
    cases o with
    | none => cases e
    | some a => exact ⟨a, rfl, by simpa using e⟩
  exact ⟨h _ _ (by decide +kernel), h _ _ (by decide +kernel)⟩

/-- Core 0's task with an outstanding fault request whose L is halted on address 65536. -/
def faulted (s : State) : State := s.modCore 0 fun c =>
  { c with task := some placedTask, frec := ⟨65536, 0, 0, true, false, false⟩, halted := some ⟨65536, 0, none⟩ }

theorem witness_PartitionRequests :
    isGood (oneIn 2 []) = true ∧ isGood (oneIn 2 [(0x800000B, 1)]) = true ∧ (faulted (oneIn 2 [])).holder placedTask.key = some 0 ∧
    ((faulted (oneIn 2 [])).core 0).frec.outst = true ∧ ((faulted (oneIn 2 [])).core 0).frec.detail.toNat % 65536 = 0 ∧
    (((faulted (oneIn 2 [])).core 0).halted.map HaltSt.va) = some 65536 ∧
    isGood (oneIn 3 [(0x8000008, 5)]) = true ∧ isGood (oneIn 4 [(0x8000009, 7), (0x800000A, 1)]) = true ∧
    isGood (oneIn 4 [(0x8000009, 7)]) = true ∧
    bvf ((State.reset.modCore 0 fun c => { c with cntcfg := c.cntcfg.set 7 0 }).core 0).cntcfg[(7 : Fin 8)] 24 5 = (0 : Fin 16).val ∧
    cntOk 0 = true ∧ bvf (State.reset.core 0).cntcfg[(7 : Fin 8)] 24 5 ≠ (0 : Fin 16).val := by
  decide +kernel

theorem witness_BootAndAccesses :
    bvf (State.reset.die 1).bootstat 28 3 = 1 ∧ (State.reset.die 1).rstphase = 0 ∧
    (let s := State.reset.modDie 1 fun x => { x with bootstat := 0x20000000, bootDue := some 0 }
     (s.die 1).bootDue = some 0 ∧ bvf (s.die 1).bootstat 28 3 = 2 ∧ bvf (s.die 0).bootstat 28 3 < 3 ∧ bootErr 1 (s.die 1).bootwin = 1) ∧
    10000000000 ≤ later.qtime ∧ State.reset.qtime < 10000000000 ∧ MemOk (owned State.reset) ∧
    (owned State.reset).allotRanges 0 0 = [(0, 0x3FFFFFFF)] ∧ (0x3FFFFFC0 + 64 ≤ 0x3FFFFFFF + 1 - 0) ∧ 0x3FFFFFC0 + 64 ≤ 2 ^ 36 ∧
    (owned State.reset).writeHeld 0x3FFFFFC0 64 = false ∧
    ({ State.reset with grans := [(.line 1, ⟨0, 4, some (0, false), none, false⟩)] } : State).writeHeld 127 1 = true ∧ 127 % 64 + 1 ≤ 64 :=
 
  ⟨by decide +kernel, by decide +kernel, by decide +kernel, by decide +kernel, by decide +kernel, memOk_of (by decide +kernel),
    by decide +kernel, by decide, by decide, by decide +kernel, by decide +kernel, by decide⟩

theorem witness_RegisterWrites : bvf (0x7FFFFFFFFFFFFFFF#64) 63 1 = 0 ∧ (State.reset.die 1).mbout[(15 : Fin 16)] = [] ∧
    (State.reset.core 15).stopped = false ∧ (State.reset.team 255).en = false ∧
    ((teamed (mem0 false 1) (mem1 false 1) id).team 255).en = true := by
  decide +kernel

theorem witness_RegisterWrites_commands :
    bvf (0x1FFFFFFF#64) 29 3 = 0 ∧ bvf (0x08000000#64) 27 1 = 1 ∧ bvf (0x8FFFFFFFFFFFFFFF#64) 62 2 = 2 ∧
    bvf (0x3FFFFFFFFFFFFFFF#64) 62 2 = 0 ∧ bvf (0x17FFFFFF#64) 29 3 = 0 ∧ bvf (0x17FFFFFF#64) 27 1 = 0 ∧
    (let c := (on .k fun c => { c with stopped := true, dbgctl := 0x08000000 }).core 0
     c.stopped = true ∧ bvf c.dbgctl 27 1 = 1) ∧
    (∃ u, exec (.mailboxDoorbell 1 15 0xFFFF) State.reset = .next u) ∧
    MReg.ptroot 15 ∉ (State.reset.die 1).permits ∧ (∀ y, MReg.ptroot 15 ≠ .bootwin y) ∧
    MReg.ptroot 15 ∈ ((State.reset.modDie 1 fun x => { x with permits := [.cohctl, .ptroot 15] }).die 1).permits ∧
    (0xFF8#12) ≠ 0 ∧ (0xFF8#12) ≠ 8 :=
  ⟨by decide, by decide, by decide, by decide, by decide, by decide, by decide +kernel, ⟨_, rfl⟩, by decide +kernel,
    fun _ => MReg.noConfusion, by decide +kernel, by decide, by decide⟩

theorem witness_MajorZero : (0x3F#18).toNat / 64 = 0 ∧ (0x3F#18).toNat % 64 ∉ [0, 1, 4, 5, 6, 7] ∧ (0x40#18).toNat / 64 ≠ 0 ∧
    ∀ m ∈ [0, 1, 4, 5, 6, 7], (BitVec.ofNat 18 m).toNat / 64 = 0 ∧ (BitVec.ofNat 18 m).toNat % 64 = m := by
  decide

theorem witness_EncodingsDecode :
    (Instr.ldx z (.reg 31) (.latch 3) .d .drop 0xFFFFFF n).wf .l = true ∧ (Instr.nop z).wf .k = true ∧
    (Instr.vcvt z .latch (.peek 5) .e8m2 .fp32 .rup true n).wf .c = true := by
  decide

theorem witness_DecodedWordsAreTheirs : decode .l 0x006442A0 0x08000040 = .ok (.ldx z (.reg 4) (.reg 10) .w .drop 0x40 n) := by
  decide +kernel

/-- Core 0 at L's turn, the words of an LDX at the end of a line and the start of the next. -/
def turn : State :=
  let s := on .l fun c => ((((c.ready4 .l).modSeq 1 fun x => { x with pc := 60 }).placeWord 1 60 0x006442A0).placeWord 1 64 0x08000040)
  { s with agenda := [.issue 0 .l] }

theorem witness_StepRunsDecoded : turn.agenda = [.issue 0 .l] ∧ (turn.core 0).mayIssue .l = true ∧ ((turn.core 0).sq 1).arrival = none ∧
    (turn.core 0).mid = none ∧ ((turn.core 0).sq 1).pay = 0 ∧ (turn.core 0).pinned = false ∧ (turn.core 0).halted = none ∧
    (turn.core 0).spec.isNone = true ∧ (turn.core 0).icWord 1 60 = some 0x006442A0 ∧ (turn.core 0).icWord 1 64 = some 0x08000040 ∧
    twoWord .l (majOf 0x006442A0) = true := by
  decide +kernel

theorem witness_MemoriesKept : MemOk State.reset ∧ ∃ t, step State.reset = .next t :=
  ⟨memOk_of (by decide +kernel), ⟨State.reset.enter, rfl⟩⟩

end Sys2Proof.Tests
end

section
/-! SUPPORT. Every operation of the model keeps the canonical form of every memory (O60): first what the operations of one
core do to its local store, then the rules for a state with a memory, a core or a die changed, then one lemma per operation,
in the order of the model's files. -/

namespace Sys2Proof.Machine

-- Hundreds of proofs elaborated at once ask for more threads than the memory limit has stacks for.
set_option Elab.async false

/-! ### What keeps a core's local store

A lemma `f_mem` says that `f` leaves the bytes of local store alone; a lemma `f_wf` that it keeps their canonical form. -/

/-- A fold of steps that leave local store alone leaves it alone. -/
theorem Core.foldl_mem {α : Type} (f : Core → α → Core) (hf : ∀ c x, (f c x).mem = c.mem) (l : List α) (c : Core) :
    (l.foldl f c).mem = c.mem := by
  induction l generalizing c with
  | nil => rfl
  | cons x l ih => rw [List.foldl_cons, ih, hf]

/-- A fold of steps that keep the canonical form of local store keeps it. -/
theorem Core.foldl_wf {α : Type} {f : Core → α → Core} (hf : ∀ c x, c.mem.wf = true → (f c x).mem.wf = true) (l : List α)
    {c : Core} (h : c.mem.wf = true) : (l.foldl f c).mem.wf = true := by
  induction l generalizing c with
  | nil => exact h
  | cons x l ih => exact ih (hf c x h)

@[simp] theorem Core.keepOld_mem (c : Core) (a n : Nat) : (c.keepOld a n).mem = c.mem := rfl
@[simp] theorem Core.modBank_mem (c : Core) (k : Nat) (f : BankSt → BankSt) : (c.modBank k f).mem = c.mem := rfl
@[simp] theorem Core.countFor_mem (c : Core) (own : Option PartId) (event unit arg : Nat) (exact : Bool) :
    (c.countFor own event unit arg exact).mem = c.mem := by
  unfold Core.countFor
  dsimp only
  (repeat' split) <;> simp
@[simp] theorem Core.works_mem (c : Core) (u : Fin 12) : (c.works u).mem = c.mem := rfl
@[simp] theorem Core.stepOver_mem (c : Core) : c.stepOver.mem = c.mem := by
  unfold Core.stepOver
  split <;> rfl
@[simp] theorem Core.count_mem (c : Core) (event unit arg : Nat) (exact : Bool) :
    (c.count event unit arg exact).mem = c.mem := by
  simp [Core.count]
@[simp] theorem Core.beginWake_mem (c : Core) (rc k dur : Nat) : (c.beginWake rc k dur).mem = c.mem := by
  simp [Core.beginWake]
@[simp] theorem Core.startWake_mem (c : Core) (rc k dur : Nat) : (c.startWake rc k dur).mem = c.mem := by
  unfold Core.startWake
  split <;> simp
@[simp] theorem Core.retainPending_mem (c : Core) : c.retainPending.mem = c.mem := rfl
@[simp] theorem Core.rollback_mem (c : Core) (k : CoreId) : (c.rollback k).mem = c.mem := rfl
@[simp] theorem Core.untrap_mem (c : Core) : c.untrap.mem = c.mem := by
  unfold Core.untrap
  split <;> rfl
@[simp] theorem Core.setMask_mem (c : Core) (m : Fin 8) (v : BitVec 64) : (c.setMask m v).mem = c.mem := by
  unfold Core.setMask
  split <;> rfl
@[simp] theorem Core.modQ_mem (c : Core) (q : Fin 8) (f : QueueSt → QueueSt) : (c.modQ q f).mem = c.mem := rfl
@[simp] theorem Core.doPops_mem (c : Core) (names : List Sel) : (c.doPops names).mem = c.mem := rfl
@[simp] theorem Core.doTokens_mem (c : Core) (q : Fin 4) (r : Ring) (signals : Bool) :
    (c.doTokens q r signals).mem = c.mem := rfl
@[simp] theorem Core.offer_mem (c : Core) (q : Fin 4) (x : Comp) : (c.offer q x).mem = c.mem := rfl
@[simp] theorem Core.unwait_mem (c : Core) (w : Waiter) : (c.unwait w).mem = c.mem := by
  unfold Core.unwait
  split <;> rfl
@[simp] theorem Core.askStop_mem (c : Core) (q : Fin 4) : (c.askStop q).mem = c.mem := by
  unfold Core.askStop
  split <;> rfl
@[simp] theorem Core.noteReads_mem (c : Core) (q : Fin 4) (op : Op) (goes : Bool) :
    (c.noteReads q op goes).mem = c.mem := rfl
@[simp] theorem Core.noteIssue_mem (c : Core) (rc : Nat) (q : Fin 4) (op : Op) (goes staged : Bool) :
    (c.noteIssue rc q op goes staged).mem = c.mem := rfl
@[simp] theorem Core.leave_mem (c : Core) (k : CoreId) (rc : Nat) (q : Fin 4) (op : Op) (pops arrives late staged : Bool) :
    (c.leave k rc q op pops arrives late staged).mem = c.mem := by
  unfold Core.leave
  dsimp only
  (repeat' split) <;> simp
@[simp] theorem Core.watch_mem (c : Core) (q : Fin 4) (on : Bool) (old : SeqSt) : (c.watch q on old).mem = c.mem := by
  unfold Core.watch
  dsimp only
  (repeat' split) <;> simp
@[simp] theorem Core.ask_mem (c : Core) (k : Nat) (s : SupplyReq) : (c.ask k s).mem = c.mem := rfl
@[simp] theorem Core.fmterrClear_mem (c : Core) (m : BitVec 6) : (c.fmterrClear m).mem = c.mem := rfl
@[simp] theorem Core.fmterrRaise_mem (c : Core) (f : BitVec 6) : (c.fmterrRaise f).mem = c.mem := rfl
@[simp] theorem Core.fmterrCommit_mem (c : Core) : c.fmterrCommit.mem = c.mem := rfl
@[simp] theorem Core.setTlb_mem (c : Core) (x : Option (Fin 4)) (l : List TlbEnt) : (c.setTlb x l).mem = c.mem := by
  unfold Core.setTlb
  split <;> rfl
@[simp] theorem Core.icPut_mem (c : Core) (q : Fin 4) (l : ICLine) : (c.icPut q l).mem = c.mem := rfl
@[simp] theorem Core.addFill_mem (c : Core) (q : Fin 4) (line : Nat) (prefi : Option Nat) :
    (c.addFill q line prefi).mem = c.mem := rfl
@[simp] theorem Core.askFate_mem (c : Core) (r : Option (Nat × SupplyReq)) : (c.askFate r).mem = c.mem := by
  unfold Core.askFate
  split <;> rfl
@[simp] theorem Core.cbNew_mem (c : Core) (h : Home) (addr : Nat) (scope : Scope) (rel : Bool) (vpage : Nat) (nomig : Bool) (m : BitVec 64 × BitVec 512) (atom : Option AtomReq) :
    (c.cbNew h addr scope rel vpage nomig m atom).mem = c.mem := rfl
@[simp] theorem Core.cbPut_mem (c : Core) (h : Home) (addr off : Nat) (bs : List (BitVec 8)) (scope : Scope) (rel : Bool) (vpage : Nat) (nomig : Bool) :
    (c.cbPut h addr off bs scope rel vpage nomig).mem = c.mem := by
  unfold Core.cbPut
  split <;> rfl
@[simp] theorem Core.applyWr_mem (c : Core) (q : Fin 4) (w : Wr) : (c.applyWr q w).mem = c.mem := by
  unfold Core.applyWr
  split <;> simp
@[simp] theorem Core.clean_mem (c : Core) (q : Fin 4) (ws : List Wr) : (c.clean q ws).mem = c.mem := rfl
@[simp] theorem Core.putCmd_mem (c : Core) (x : Fin 4) (m : CopyCmd) : (c.putCmd x m).mem = c.mem := rfl
@[simp] theorem Core.dropCmd_mem (c : Core) (x : Fin 4) (m : CopyCmd) : (c.dropCmd x m).mem = c.mem := rfl
@[simp] theorem Core.copyDone_mem (c : Core) (x : Fin 4) (m : CopyCmd) : (c.copyDone x m).mem = c.mem := rfl
@[simp] theorem Core.pieceCount_mem (c : Core) (x : Fin 4) (m : CopyCmd) : (c.pieceCount x m).mem = c.mem := by
  simp [Core.pieceCount]
@[simp] theorem Core.modTile_mem (c : Core) (t : Fin 8) (f : TileSt → TileSt) : (c.modTile t f).mem = c.mem := rfl
@[simp] theorem Core.spoilB_mem (c : Core) (t : Fin 8) : (c.spoilB t).mem = c.mem := rfl
@[simp] theorem Core.queueDrain_mem (c : Core) (acc : Fin 4) (f : DrainF) (e : BitVec 32) (comp : Comp) :
    (c.queueDrain acc f e comp).mem = c.mem := rfl
@[simp] theorem Core.modAcc_mem (c : Core) (a : Fin 4) (f : AccSt → AccSt) : (c.modAcc a f).mem = c.mem := rfl
@[simp] theorem Core.setMma_mem (c : Core) (x : MmaSt) : (c.setMma x).mem = c.mem := rfl
@[simp] theorem Core.setDrain_mem (c : Core) (d : DrainSt) : (c.setDrain d).mem = c.mem := rfl
@[simp] theorem Core.noteRun_mem (c : Core) (rc : Nat) (d : DrainSt) : (c.noteRun rc d).mem = c.mem := rfl
@[simp] theorem Core.finishDrain_mem (c : Core) (rc id : Nat) : (c.finishDrain rc id).mem = c.mem := by
  unfold Core.finishDrain
  split <;> rfl
@[simp] theorem Core.tablesWoken_mem (c : Core) (k : CoreId) (d : DrainSt) : (c.tablesWoken k d).mem = c.mem := by
  unfold Core.tablesWoken
  split <;> simp
@[simp] theorem Core.useRelease_mem (c : Core) (rc : Nat) : (c.useRelease rc).mem = c.mem := by
  unfold Core.useRelease
  (repeat' split) <;> rfl
@[simp] theorem Core.freed_mem (c : Core) : c.freed.mem = c.mem := rfl
@[simp] theorem Core.limits_mem (c : Core) (b : Bind) : (c.limits b).mem = c.mem := rfl
@[simp] theorem Core.notePreempt_mem (c : Core) (rc : Nat) : (c.notePreempt rc).mem = c.mem := rfl
@[simp] theorem Core.beginChecks_mem (c : Core) : c.beginChecks.mem = c.mem := by
  unfold Core.beginChecks
  split <;> rfl
@[simp] theorem Core.releaseCopies_mem (c : Core) : c.releaseCopies.mem = c.mem := rfl
@[simp] theorem Core.applyOff_mem (c : Core) (drop : BitVec 4) : (c.applyOff drop).mem = c.mem := rfl
@[simp] theorem Core.commitB_mem (c : Core) (m : Mid) : (c.commitB m).mem = c.mem := by
  simp [Core.commitB]
@[simp] theorem Core.markOld_mem (c : Core) : c.markOld.mem = c.mem := rfl
@[simp] theorem Core.granted_mem (c : Core) (g : Nat × Nat) : (c.granted g).mem = c.mem := by
  unfold Core.granted
  dsimp only
  split <;> rfl
@[simp] theorem Core.setCls_mem (c : Core) (u : Fin 12) (n : Nat) : (c.setCls u n).mem = c.mem := rfl
@[simp] theorem Core.stepped_mem (c : Core) (q : Fin 4) (n : Nat) : (c.stepped q n).mem = c.mem := by
  unfold Core.stepped
  dsimp only
  (repeat' split) <;> simp
@[simp] theorem Core.stepPaid_mem (c : Core) (q : Fin 4) : (c.stepPaid q).mem = c.mem := by
  unfold Core.stepPaid
  split <;> simp
@[simp] theorem Core.dumped_mem (c : Core) : c.dumped.mem = c.mem := rfl
@[simp] theorem Core.writeCfg_mem (c : Core) (i : Fin 8) (v : Nat) : (c.writeCfg i v).mem = c.mem := by
  unfold Core.writeCfg
  split <;> rfl
@[simp] theorem Core.writeVal_mem (c : Core) (i : Fin 8) (v : Nat) : (c.writeVal i v).mem = c.mem := rfl
@[simp] theorem Core.writeDbgctl_mem (c : Core) (v : BitVec 64) : (c.writeDbgctl v).mem = c.mem := rfl
@[simp] theorem Core.specOpen_mem (c : Core) (q : SeqSt) (h : Hdr) (off : BitVec 18) (late : List (Fin 8)) :
    (c.specOpen q h off late).mem = c.mem := by
  unfold Core.specOpen
  dsimp only
  split <;> rfl
@[simp] theorem Core.specClean_mem (c : Core) (old new : SeqSt) : (c.specClean old new).mem = c.mem := rfl
@[simp] theorem Core.suspend_mem (c : Core) (rc : Nat) : (c.suspend rc).mem = c.mem := rfl
@[simp] theorem Core.startRc_mem (c : Core) (rc : Nat) : (c.startRc rc).mem = c.mem := by
  unfold Core.startRc
  dsimp only
  split <;> rfl
@[simp] theorem Core.attempted_mem (c : Core) (q : Fin 4) : (c.attempted q).mem = c.mem := by
  unfold Core.attempted
  split <;> simp
@[simp] theorem Core.countRegion_mem (c : Core) : c.countRegion.mem = c.mem := by
  unfold Core.countRegion
  split <;> rfl
@[simp] theorem Core.placeWord_mem (c : Core) (q : Fin 4) (a : BitVec 48) (w : Word32) :
    (c.placeWord q a w).mem = c.mem := rfl
@[simp] theorem Core.ready4_mem (c : Core) (q : Seq) : (c.ready4 q).mem = c.mem := rfl

@[simp] theorem Core.wakeAll_mem (c : Core) (rc : Nat) (w : Waiter) (ks : List Nat) : (c.wakeAll rc w ks).mem = c.mem := by
  unfold Core.wakeAll
  refine Core.foldl_mem _ (fun c k => ?_) _ _
  dsimp only
  repeat' split
  all_goals simp
@[simp] theorem Core.cbStore_mem (c : Core) (h : Home) (a : Nat) (bs : List (BitVec 8)) (scope : Scope) (rel : Bool)
    (vpage : Nat) (nomig : Bool) : (c.cbStore h a bs scope rel vpage nomig).mem = c.mem :=
  Core.foldl_mem _ (fun c _ => Core.cbPut_mem c ..) _ _
@[simp] theorem Core.deliver_mem (c : Core) (rc : Nat) (q : Fin 4) (p : Pend) : (c.deliver rc q p).mem = c.mem := by
  simp [Core.deliver, Core.foldl_mem]
@[simp] theorem Core.queueMma_mem (c : Core) (e : BitVec 32) (ta : Fin 8) (m : Nat) :
    ((mmaATiles e ta m).foldl (fun (c : Core) t => c.modTile t fun x => { x with reads := x.reads + 1 }) c).mem = c.mem :=
  Core.foldl_mem _ (fun c _ => Core.modTile_mem c ..) _ _
@[simp] theorem Core.acceptMma_mem (c : Core) (acc : Fin 4) (z : Bool) (ta tb : Fin 8) (m : Nat) (f : DrainF) (e : BitVec 32)
    (comp : Comp) : (c.acceptMma acc z ta tb m f e comp).mem = c.mem := by
  unfold Core.acceptMma
  extract_lets u bf bsm reuse slot up c1 c2 c3 c4
  have h1 : c1.mem = c.mem := Core.foldl_mem _ (fun c _ => Core.modTile_mem c ..) _ _
  have h2 : c2.mem = c.mem := by
    simp only [c2]
    split
    · exact h1
    · exact (Core.modTile_mem c1 ..).trans h1
  split
  · exact (Core.queueDrain_mem c4 ..).trans h2
  · exact h2
@[simp] theorem Core.specClose_mem (c : Core) (rc : Nat) (on : Bool) (x : Spec) : (c.specClose rc on x).mem = c.mem := by
  unfold Core.specClose
  dsimp only
  repeat' split
  all_goals simp [Core.foldl_mem]
@[simp] theorem Core.specConfirm_mem (c : Core) (rc : Nat) (on : Bool) : (c.specConfirm rc on).mem = c.mem := by
  unfold Core.specConfirm
  repeat' split
  all_goals simp
@[simp] theorem Core.prefisDone_mem (c : Core) (rc : Nat) : (c.prefisDone rc).mem = c.mem := by
  refine Core.foldl_mem _ (fun c q => Core.foldl_mem _ (fun c p => ?_) _ _) _ _
  split
  · exact Core.deliver_mem ..
  · rfl
@[simp] theorem Core.idleCls_mem (c : Core) : c.idleCls.mem = c.mem := by
  unfold Core.idleCls
  split
  · rfl
  · exact Core.foldl_mem _ (fun c _ => Core.setCls_mem c ..) _ _
@[simp] theorem Core.commit_mem (c : Core) (k : CoreId) (tag : BitVec 8) (p : Bool) (drop : BitVec 4) :
    (c.commit k tag p drop).mem = c.mem := by
  simp [Core.commit]

/-! ### What writes local store -/

theorem Core.loseBank_wf {c : Core} (h : c.mem.wf = true) (k : Nat) : (c.loseBank k).mem.wf = true := by
  unfold Core.loseBank
  split
  · exact Mem.wf_clear _ _ h
  · exact h

theorem Core.request_wf {c : Core} (h : c.mem.wf = true) (rc k : Nat) (s : SupplyReq) (hold : Option (Nat × Option Nat)) :
    (c.request rc k s hold).mem.wf = true := by
  cases s with
  | full =>
    unfold Core.request
    dsimp only
    split
    · rw [Core.startWake_mem]; exact h
    · rw [Core.startWake_mem]; exact Core.loseBank_wf (by exact h) k
    · exact h
    · exact h
  | retention => exact h
  | off =>
    unfold Core.request
    dsimp only
    split <;> exact h

theorem Core.bankOff_wf {c : Core} (h : c.mem.wf = true) (k : Nat) : (c.bankOff k).mem.wf = true := Core.loseBank_wf h k

@[simp] theorem Core.pumpWakes_mem (c : Core) (rc n : Nat) : (c.pumpWakes rc n).mem = c.mem := by
  induction n generalizing c with
  | zero => rfl
  | succ n ih =>
    unfold Core.pumpWakes
    repeat' split
    all_goals simp [ih]

theorem Core.settleBanks_wf {c : Core} (h : c.mem.wf = true) (rc : Nat) : (c.settleBanks rc).mem.wf = true := by
  have h1 : ((combine c.breqs).foldl (fun (c : Core) r => c.request rc r.1 r.2 (c.moveHold r.1)) { c with breqs := [] }).mem.wf = true :=
    Core.foldl_wf (fun d r hd => Core.request_wf hd ..) _ h
  unfold Core.settleBanks
  dsimp only
  split
  · exact h1
  · rw [Core.pumpWakes_mem]
    exact Core.foldl_wf (fun _ k hd => Core.bankOff_wf hd k) _ h1

theorem Core.spoil_wf {c : Core} (h : c.mem.wf = true) (p : Place) (bad : Nat) : (c.spoil p bad).mem.wf = true := by
  cases p with
  | byte a => exact Mem.wf_write _ _ h
  | mask m => exact (congrArg Mem.wf (Core.setMask_mem c ..)).trans h
  | _ => exact h

theorem Core.performStores_wf {c : Core} (h : c.mem.wf = true) (rc : Nat) : (c.performStores rc).mem.wf = true := by
  refine Core.foldl_wf (fun d x hd => ?_) _ h
  rw [Core.askFate_mem]
  exact Mem.wf_writes _ hd

theorem Core.drainStore_wf {c : Core} (h : c.mem.wf = true) (id i j : Nat) (x : DStore) :
    (c.drainStore id i j x).mem.wf = true := by
  unfold Core.drainStore
  cases (c.drains.find? fun d => d.id = id) with
  | none => exact h
  | some d =>
    cases x with
    | stv n v => dsimp only; split <;> exact h
    | stw f v =>
      dsimp only
      cases d.win with
      | none => exact h
      | some w =>
        dsimp only
        cases dstwOff w f i j with
        | none => exact h
        | some o =>
          dsimp only
          split
          · exact h
          · exact Mem.wf_writeLE _ _ _ h
    | stq q v =>
      dsimp only
      repeat' split
      all_goals exact h

theorem Core.bankRecord_wf {c : Core} (h : c.mem.wf = true) (r : Nat × Nat × Nat) : (c.bankRecord r).mem.wf = true := by
  refine Core.foldl_wf (fun d i hd => ?_) _ h
  dsimp only
  split
  · exact hd
  · exact hd
  · exact Core.loseBank_wf (by exact hd) _

/-- A new task's local store holds its image's bytes alone (R189, R315). -/
theorem Core.launch_wf (c : Core) (k : CoreId) (b : Bind) (x : Image) (regs : List (BitVec 8)) :
    (c.launch k b x regs).mem.wf = true := by
  refine Core.foldl_wf (fun _ r hd => Core.bankRecord_wf hd r) _ ?_
  exact List.foldlRecOn (motive := fun m : Mem => m.wf = true) x.data _ rfl fun _ hm _ _ => Mem.wf_writeN _ _ hm

theorem Core.nodeResume_wf (c : Core) (k : CoreId) (b : Bind) (x : Image) (regs : List (BitVec 8)) (o : Core) :
    (c.nodeResume k b x regs o).mem.wf = true :=
  Core.foldl_wf (fun _ r hd => Core.bankRecord_wf hd r) _ rfl

theorem Core.restore_wf {o : Core} (h : o.mem.wf = true) (c : Core) (k : CoreId) (rc : Nat) (b : Bind) (x : Image) :
    (c.restore k rc b x o).mem.wf = true := h

theorem Core.reread_wf {c : Core} (h : c.mem.wf = true) (rd : Nat → List (BitVec 8) → List (BitVec 8)) :
    (c.reread rd).mem.wf = true :=
  List.foldlRecOn (motive := fun m : Mem => m.wf = true) _ _ h fun _ hm _ _ => Mem.wf_writeN _ _ (Mem.wf_clear _ _ hm)

theorem Mem.wf_syncUpdate {m : Mem} (h : m.wf = true) (a len : Nat) (failed : Bool) : (m.syncUpdate a len failed).wf = true := by
  unfold Mem.syncUpdate
  dsimp only
  repeat' split
  all_goals simp only [Mem.wf_writeLE, h]

/-- A property of what a choice between two optional values holds. -/
theorem Die.writeTtctl_bootwin (x : Die) (v : BitVec 64) : (x.writeTtctl v).bootwin = x.bootwin := by
  unfold Die.writeTtctl
  generalize bvSet _ _ _ _ = r
  rfl

theorem ite_wf {p : Prop} [Decidable p] {a b : Die} (ha : a.bootwin.wf = true) (hb : b.bootwin.wf = true) :
    (if p then a else b).bootwin.wf = true := by
  split <;> assumption

theorem forall_mem_ite {α : Type} {P : α → Prop} {p : Prop} [Decidable p] {a b : Option α} (ha : ∀ x ∈ a, P x)
    (hb : ∀ x ∈ b, P x) : ∀ x ∈ (if p then a else b), P x := by
  split <;> assumption

theorem Core.writeSr_mem (c : Core) (q : Fin 4) (n x : Nat) : ∀ d ∈ c.writeSr q n x, d.mem = c.mem := by
  have refuses : ∀ d ∈ (none : Option Core), d.mem = c.mem := fun _ h => nomatch h
  have writes (e : Core) (he : e.mem = c.mem) : ∀ d ∈ some e, d.mem = c.mem := fun d h => Option.some.inj h ▸ he
  have checked (e : Core) (p : Prop) [Decidable p] (he : e.mem = c.mem) :
      ∀ d ∈ (if p then some e else none), d.mem = c.mem := forall_mem_ite (writes e he) refuses
  unfold Core.writeSr
  exact forall_mem_ite (writes _ rfl) <| forall_mem_ite
    (forall_mem_ite (checked _ _ rfl) <| forall_mem_ite (writes _ rfl) <| forall_mem_ite (checked _ _ rfl) <|
      forall_mem_ite (writes _ rfl) <| forall_mem_ite (checked _ _ rfl) <| forall_mem_ite (checked _ _ rfl) refuses)
    refuses

/-! ### What keeps every memory of the package -/

section
variable {s t : State} {k : CoreId} {d : Fin 2}

/-- A state with the same memories, cores, dies, saved contexts and dumps. -/
theorem MemOk.frame (h : MemOk s) (mem : t.mem = s.mem := by rfl) (cores : t.cores = s.cores := by rfl)
    (dies : t.dies = s.dies := by rfl) (saved : t.saved = s.saved := by rfl) (dump : t.dump = s.dump := by rfl) : MemOk t where
  device := mem ▸ h.device
  cores k := by rw [State.core, cores]; exact h.cores k
  saved := saved ▸ h.saved
  boot d := by rw [State.die, dies]; exact h.boot d
  dump := dump ▸ h.dump

theorem MemOk.ite {p : Prop} [Decidable p] (hs : MemOk s) (ht : MemOk t) : MemOk (if p then s else t) := by
  split <;> assumption

theorem MemOk.setCore (h : MemOk s) {c : Core} (hc : c.mem.wf = true) : MemOk (s.setCore k c) where
  device := h.device
  cores j := by
    by_cases hj : j = k
    · subst hj; rw [State.core_setCore_same]; exact hc
    · rw [State.core_setCore_other _ _ hj]; exact h.cores j
  saved := h.saved
  boot := h.boot
  dump := h.dump

theorem MemOk.modCore (h : MemOk s) {f : Core → Core}
    (hf : ∀ c, c.mem.wf = true → (f c).mem.wf = true := by exact fun _ hc => hc) : MemOk (s.modCore k f) :=
  h.setCore (hf _ (h.cores k))

theorem MemOk.modMe (h : MemOk s) {f : Core → Core}
    (hf : ∀ c, c.mem.wf = true → (f c).mem.wf = true := by exact fun _ hc => hc) : MemOk (s.modMe f) := h.modCore hf

theorem MemOk.modMySeq (h : MemOk s) {f : SeqSt → SeqSt} : MemOk (s.modMySeq f) := h.modMe

/-- Every core changed. -/
theorem MemOk.mapCores (h : MemOk s) {f : Core → Core}
    (hf : ∀ c, c.mem.wf = true → (f c).mem.wf = true := by exact fun _ hc => hc) : MemOk { s with cores := s.cores.map f } where
  device := h.device
  cores k := by
    have := hf _ (h.cores k)
    simpa [State.core] using this
  saved := h.saved
  boot := h.boot
  dump := h.dump

theorem MemOk.modDie (h : MemOk s) {f : Die → Die}
    (hf : ∀ x, x.bootwin.wf = true → (f x).bootwin.wf = true := by exact fun _ hx => hx) : MemOk (s.modDie d f) where
  device := h.device
  cores := h.cores
  saved := h.saved
  boot e := by
    by_cases he : e = d
    · subst he; rw [State.die_modDie_same]; exact hf _ (h.boot e)
    · rw [State.die_modDie_other _ _ he]; exact h.boot e
  dump := h.dump

/-- Cores replaced by ones whose local stores are in canonical form. -/
theorem MemOk.setCores (h : MemOk s) {v : Vector Core 16} (hv : ∀ k : CoreId, (v[k]).mem.wf = true) : MemOk { s with cores := v } :=
  ⟨h.device, hv, h.saved, h.boot, h.dump⟩

/-- Every die changed. -/
theorem MemOk.mapDies (h : MemOk s) {f : Die → Die}
    (hf : ∀ x, x.bootwin.wf = true → (f x).bootwin.wf = true := by exact fun _ hx => hx) : MemOk { s with dies := s.dies.map f } where
  device := h.device
  cores := h.cores
  saved := h.saved
  boot d := by
    have := hf _ (h.boot d)
    simpa [State.die] using this
  dump := h.dump

/-- Device memory replaced by one in canonical form. -/
theorem MemOk.setMem (h : MemOk s) {m : Mem} (hm : m.wf = true) : MemOk { s with mem := m } :=
  ⟨hm, h.cores, h.saved, h.boot, h.dump⟩

/-- Saved contexts replaced by ones in canonical form. -/
theorem MemOk.setSaved (h : MemOk s) {l : List Saved} (hl : ∀ x ∈ l, x.ctx.mem.wf = true) : MemOk { s with saved := l } :=
  ⟨h.device, h.cores, hl, h.boot, h.dump⟩

theorem MemOk.foldl {α : Type} {f : State → α → State} {l : List α} (h : MemOk s) (hf : ∀ t x, MemOk t → MemOk (f t x)) :
    MemOk (l.foldl f s) :=
  List.foldlRecOn (motive := MemOk) l f h fun t ht x _ => hf t x ht

/-- Steps over the members of a list, which the members' own property may carry. -/
theorem MemOk.foldl_mem {α : Type} {f : State → α → State} {l : List α} (h : MemOk s)
    (hf : ∀ t, ∀ x ∈ l, MemOk t → MemOk (f t x)) : MemOk (l.foldl f s) :=
  List.foldlRecOn (motive := MemOk) l f h fun t ht x hx => hf t x hx ht

end

/-! ### The results of operations that answer more than a state

For each type of result, what it means that the state it holds has its memories in canonical form. -/

/-- The memories of the next state of an outcome, where there is one. -/
def NextOk : Host.Outcome State Fault Refusal → Prop
  | .next s => MemOk s
  | .fault _ => True
  | .refused _ => True

theorem NextOk.next {s : State} (h : MemOk s) : NextOk (.next s) := h

theorem NextOk.ite {p : Prop} [Decidable p] {a b : Host.Outcome State Fault Refusal} (ha : NextOk a) (hb : NextOk b) : NextOk (if p then a else b) := by
  split <;> assumption

theorem NextOk.of {a b : Host.Outcome State Fault Refusal} (h : NextOk a) (e : a = b) : NextOk b := e ▸ h

/-- The memories of the state in which an instruction's body ends. -/
def OutOk : Out → Prop
  | .done s _ _ => MemOk s
  | .stall _ s => MemOk s
  | .trap _ _ _ s => MemOk s
  | .yield s => MemOk s

theorem OutOk.done {s : State} {n : Next} {late : Bool} (h : MemOk s) : OutOk (.done s n late) := h

theorem OutOk.stall {s : State} {cls : Nat} (h : MemOk s) : OutOk (.stall cls s) := h

theorem OutOk.trap {s : State} {cause detail addr : Nat} (h : MemOk s) : OutOk (.trap cause detail addr s) := h

theorem OutOk.yield {s : State} (h : MemOk s) : OutOk (.yield s) := h

theorem OutOk.ite {p : Prop} [Decidable p] {a b : Out} (ha : OutOk a) (hb : OutOk b) : OutOk (if p then a else b) := by
  split <;> assumption

theorem OutOk.of {a b : Out} (h : OutOk a) (e : a = b) : OutOk b := e ▸ h

/-- The memories of the state after a translation. -/
def XlOk : Xl → Prop
  | .hit _ _ s => MemOk s
  | .wait s => MemOk s
  | .fault _ s => MemOk s

theorem XlOk.hit {s : State} {pa : Nat} {e : TlbEnt} (h : MemOk s) : XlOk (.hit pa e s) := h

theorem XlOk.wait {s : State} (h : MemOk s) : XlOk (.wait s) := h

theorem XlOk.fault {s : State} {f : XFault} (h : MemOk s) : XlOk (.fault f s) := h

theorem XlOk.ite {p : Prop} [Decidable p] {a b : Xl} (ha : XlOk a) (hb : XlOk b) : XlOk (if p then a else b) := by
  split <;> assumption

theorem XlOk.of {a b : Xl} (h : XlOk a) (e : a = b) : XlOk b := e ▸ h

/-- The memories of the state after the gate of R264. -/
def GateOk : Gate → Prop
  | .go s => MemOk s
  | .halt s => MemOk s
  | .abort _ s => MemOk s

theorem GateOk.go {s : State} (h : MemOk s) : GateOk (.go s) := h

theorem GateOk.halt {s : State} (h : MemOk s) : GateOk (.halt s) := h

theorem GateOk.abort {s : State} {detail : Nat} (h : MemOk s) : GateOk (.abort detail s) := h

theorem GateOk.ite {p : Prop} [Decidable p] {a b : Gate} (ha : GateOk a) (hb : GateOk b) : GateOk (if p then a else b) := by
  split <;> assumption

theorem GateOk.of {a b : Gate} (h : GateOk a) (e : a = b) : GateOk b := e ▸ h

/-- The memories of the state after a fetch. -/
def FetchedOk : Fetched → Prop
  | .words _ _ s => MemOk s
  | .miss s => MemOk s
  | .fault _ _ s => MemOk s

theorem FetchedOk.words {s : State} {w w2 : Word32} (h : MemOk s) : FetchedOk (.words w w2 s) := h

theorem FetchedOk.miss {s : State} (h : MemOk s) : FetchedOk (.miss s) := h

theorem FetchedOk.fault {s : State} {va : Nat} {f : XFault} (h : MemOk s) : FetchedOk (.fault va f s) := h

theorem FetchedOk.ite {p : Prop} [Decidable p] {a b : Fetched} (ha : FetchedOk a) (hb : FetchedOk b) : FetchedOk (if p then a else b) := by
  split <;> assumption

theorem FetchedOk.of {a b : Fetched} (h : FetchedOk a) (e : a = b) : FetchedOk b := e ▸ h

/-- The memories of the state after the translation of a piece. -/
def PieceXOk : PieceX → Prop
  | .ok _ s => MemOk s
  | .wait s => MemOk s
  | .bad _ _ s => MemOk s

theorem PieceXOk.ok {s : State} {l : List (Nat × Nat × Bool)} (h : MemOk s) : PieceXOk (.ok l s) := h

theorem PieceXOk.wait {s : State} (h : MemOk s) : PieceXOk (.wait s) := h

theorem PieceXOk.bad {s : State} {f : XFault} {va : Nat} (h : MemOk s) : PieceXOk (.bad f va s) := h

theorem PieceXOk.ite {p : Prop} [Decidable p] {a b : PieceX} (ha : PieceXOk a) (hb : PieceXOk b) : PieceXOk (if p then a else b) := by
  split <;> assumption

theorem PieceXOk.of {a b : PieceX} (h : PieceXOk a) (e : a = b) : PieceXOk b := e ▸ h

/-- The memories of the state of an attempt that succeeds. -/
def SomeOk : Option State → Prop
  | some s => MemOk s
  | none => True

theorem SomeOk.some {s : State} (h : MemOk s) : SomeOk (Option.some s) := h

theorem SomeOk.ite {p : Prop} [Decidable p] {a b : Option State} (ha : SomeOk a) (hb : SomeOk b) : SomeOk (if p then a else b) := by
  split <;> assumption

theorem SomeOk.of {a b : Option State} (h : SomeOk a) (e : a = b) : SomeOk b := e ▸ h

/-- The memories of the state of an attempt that succeeds. -/
def ExceptOk {ε : Type} : Except ε State → Prop
  | .ok s => MemOk s
  | .error _ => True

theorem ExceptOk.ok {ε : Type} {s : State} (h : MemOk s) : ExceptOk ((.ok s : Except ε State)) := h

theorem ExceptOk.ite {ε : Type} {p : Prop} [Decidable p] {a b : Except ε State} (ha : ExceptOk a) (hb : ExceptOk b) : ExceptOk (if p then a else b) := by
  split <;> assumption

theorem ExceptOk.of {ε : Type} {a b : Except ε State} (h : ExceptOk a) (e : a = b) : ExceptOk b := e ▸ h

/-- The memories of the state of an attempt that succeeds with a value. -/
def ExceptSndOk {α : Type} {ε : Type} : Except ε (α × State) → Prop
  | .ok x => MemOk x.2
  | .error _ => True

theorem ExceptSndOk.ite {α : Type} {ε : Type} {p : Prop} [Decidable p] {a b : Except ε (α × State)} (ha : ExceptSndOk a) (hb : ExceptSndOk b) : ExceptSndOk (if p then a else b) := by
  split <;> assumption

theorem ExceptSndOk.of {α : Type} {ε : Type} {a b : Except ε (α × State)} (h : ExceptSndOk a) (e : a = b) : ExceptSndOk b := e ▸ h

/-- The memories of the state that comes first in a pair. -/
def FstOk {α : Type} (x : State × α) : Prop := MemOk x.1

theorem FstOk.mk {α : Type} {s : State} {a : α} (h : MemOk s) : FstOk (s, a) := h

theorem FstOk.state {α : Type} {x : State × α} (h : FstOk x) : MemOk x.1 := h

theorem FstOk.ite {α : Type} {p : Prop} [Decidable p] {a b : State × α} (ha : FstOk a) (hb : FstOk b) : FstOk (if p then a else b) := by
  split <;> assumption

theorem FstOk.of {α : Type} {a b : State × α} (h : FstOk a) (e : a = b) : FstOk b := e ▸ h

/-- The memories of the state that comes second in a pair. -/
def SndOk {α : Type} (x : α × State) : Prop := MemOk x.2

theorem SndOk.mk {α : Type} {s : State} {a : α} (h : MemOk s) : SndOk (a, s) := h

theorem SndOk.state {α : Type} {x : α × State} (h : SndOk x) : MemOk x.2 := h

theorem SndOk.ite {α : Type} {p : Prop} [Decidable p] {a b : α × State} (ha : SndOk a) (hb : SndOk b) : SndOk (if p then a else b) := by
  split <;> assumption

theorem SndOk.of {α : Type} {a b : α × State} (h : SndOk a) (e : a = b) : SndOk b := e ▸ h

/-- The memories of the state that comes last of three. -/
def Snd2Ok {α : Type} {β : Type} (x : α × β × State) : Prop := MemOk x.2.2

theorem Snd2Ok.mk {α : Type} {β : Type} {s : State} {a : α} {b : β} (h : MemOk s) : Snd2Ok (a, b, s) := h

theorem Snd2Ok.state {α : Type} {β : Type} {x : α × β × State} (h : Snd2Ok x) : MemOk x.2.2 := h

theorem Snd2Ok.ite {α : Type} {β : Type} {p : Prop} [Decidable p] {a b : α × β × State} (ha : Snd2Ok a) (hb : Snd2Ok b) : Snd2Ok (if p then a else b) := by
  split <;> assumption

theorem Snd2Ok.of {α : Type} {β : Type} {a b : α × β × State} (h : Snd2Ok a) (e : a = b) : Snd2Ok b := e ▸ h

/-! ### Named operations, reports, rollback and traps -/

theorem MemOk.setGran {s : State} {g : Gran} {x : GranSt} (h : MemOk s) : MemOk (s.setGran g x) := h.frame.ite h.frame

theorem MemOk.acceptWrite {s : State} {ring : Bool} {pa : Nat} {bs : List (BitVec 8)} (h : MemOk s) : MemOk
    (s.acceptWrite ring pa bs) :=
  ((h.setMem (Mem.wf_writeN _ _ h.device)).frame.foldl fun _ _ ht => ht.setGran).frame.ite
    ((h.setMem (Mem.wf_writeN _ _ h.device)).frame)

theorem MemOk.writeAs {s : State} {ring : Bool} {pa : Nat} {bs : List (BitVec 8)} (h : MemOk s) : MemOk
    (s.writeAs ring pa bs) :=
  h.ite ((h.foldl fun _ _ ht => ht.frame.ite ht.acceptWrite).ite h.acceptWrite)

theorem MemOk.untimedWrite {s : State} {pa : Nat} {bs : List (BitVec 8)} (h : MemOk s) : MemOk (s.untimedWrite pa bs)
    :=
  h.writeAs

theorem MemOk.ringWrite {s : State} {pa : Nat} {bs : List (BitVec 8)} (h : MemOk s) : MemOk (s.ringWrite pa bs) :=
  h.writeAs

theorem MemOk.pumpWrites {s : State} (h : MemOk s) : MemOk s.pumpWrites :=
  h.ite (h.frame.foldl fun _ _ ht => ht.writeAs)

theorem MemOk.ringOut {s : State} {d : Fin 2} {p : PartId} {msg : List (BitVec 8)} (h : MemOk s) : MemOk
    (s.ringOut d p msg) := by
  unfold State.ringOut
  exact h.ringWrite.modDie

theorem MemOk.tansy {s : State} {d : Fin 2} {p : PartId} {type core unit : Nat} {gang : BitVec 16} {task gen : Nat}
    {body : List (BitVec 8)} (h : MemOk s) : MemOk (s.tansy d p type core unit gang task gen body) :=
  h.ite (h.frame.modDie.ite h.frame.ringWrite.modDie)

theorem MemOk.cmdRecord {s : State} {k : CoreId} {p : PartId} {unit : Nat} {gang : BitVec 16}
    {task gen kind sub : Nat} {regs : List (BitVec 8)} {cursor : Nat} (h : MemOk s) : MemOk
    (s.cmdRecord k p unit gang task gen kind sub regs cursor) :=
  h.tansy

theorem MemOk.cmdHere {s : State} {k : CoreId} {unit kind sub : Nat} (h : MemOk s) : MemOk (s.cmdHere k unit kind sub)
    := by
  unfold State.cmdHere
  split
  · exact h.cmdRecord
  · exact h

theorem MemOk.trigger {s : State} {d : Fin 2} {p : PartId} {source cause : Nat} {w : TrigAt} (h : MemOk s) : MemOk
    (s.trigger d p source cause w) :=
  h.tansy.ite h.tansy.modDie

theorem MemOk.elog {s : State} {d : Fin 2} {p : PartId} {rec_ : List (BitVec 8)} (h : MemOk s) : MemOk
    (s.elog d p rec_) :=
  (h.ringWrite.ite h).modDie.tansy

theorem MemOk.postOut {s : State} {d : Fin 2} {p : PartId} {type : Nat} {body : List (BitVec 8)} (h : MemOk s) : MemOk
    (s.postOut d p type body) :=
  h.ringOut.ite (h.modDie.ite h.elog)

theorem MemOk.status {s : State} {d : Fin 2} {code part : Nat} {gang : BitVec 16} {task cause : Nat} {tag : BitVec 16}
    {gen : Nat} (h : MemOk s) : MemOk (s.status d code part gang task cause tag gen) :=
  h.postOut

theorem MemOk.dropClaims {s : State} {k : CoreId} (h : MemOk s) : MemOk (s.dropClaims k) := h.frame

theorem MemOk.freePin {s : State} {k : CoreId} (h : MemOk s) : MemOk (s.freePin k) := h.frame

theorem MemOk.dropPin {s : State} {k : CoreId} (h : MemOk s) : MemOk (s.dropPin k) := h.frame.freePin

theorem MemOk.refetch {s : State} {k : CoreId} (h : MemOk s) : MemOk (s.refetch k) := by
  unfold State.refetch
  split
  · split
    · split
      · exact h.frame.modCore
      · exact h
    · exact h
  · exact h

theorem MemOk.dropWaits {s : State} {hit : Waiter → Bool} (h : MemOk s) : MemOk (s.dropWaits hit) := by
  unfold State.dropWaits
  dsimp only
  split
  · exact h.mapCores
  · exact h

theorem MemOk.rollback {s : State} {k : CoreId} {keepPin : Bool} (h : MemOk s) : MemOk (s.rollback k keepPin) := by
  unfold State.rollback
  extract_lets c busy c1 c2 s1 s2
  have hc : c2.mem.wf = true := by
    simp only [c2, c1, Core.rollback_mem]
    exact h.cores k
  have h1 : MemOk s1 := h.ite h.frame
  have h2 : MemOk s2 := (h1.setCore hc).dropClaims.dropWaits.refetch
  exact h2.ite h2.dropPin

theorem MemOk.logCore {s : State} {k : CoreId} {r : Rep} (h : MemOk s) : MemOk (s.logCore k r) := h.elog

theorem MemOk.takeTrap {s : State} {k : CoreId} {r : Rep} (h : MemOk s) : MemOk (s.takeTrap k r) := by
  unfold State.takeTrap
  dsimp only
  split
  · exact h
  · exact h.ite h.rollback.modCore

theorem MemOk.takeTraps {s : State} {k : CoreId} {r : Rep} {also : List Rep} (h : MemOk s) : MemOk
    (s.takeTraps k r also) :=
  h.ite h.takeTrap.modCore

theorem MemOk.postTraps {s : State} {k : CoreId} (h : MemOk s) : MemOk (s.postTraps k) :=
  h.ite ((h.foldl fun _ _ ht => ht.elog.trigger.ite ht.elog).modCore.dropPin)

theorem MemOk.resume {s : State} {k : CoreId} (h : MemOk s) : MemOk (s.resume k) := by
  unfold State.resume
  split
  · exact h
  · exact h.modCore.ite h

/-! ### Issue and its operands -/

theorem MemOk.stallWith {s : State} {cls : Nat} (h : MemOk s) : MemOk (s.stallWith cls) := h.modMySeq

theorem MemOk.trapHere {s : State} {cause detail addr : Nat} (h : MemOk s) : MemOk (s.trapHere cause detail addr) :=
  h.takeTrap

theorem MemOk.retire {s : State} {op : Op} {pops : Bool} {n : Next} {late : Bool} (h : MemOk s) : MemOk
    (s.retire op pops n late) :=
  h.modMe fun _ hc => by simpa using hc

theorem MemOk.finish {s0 s : State} {op : Op} {pops : Bool} {n : Next} {late : Bool} (h : MemOk s0) (h2 : MemOk s) :
    MemOk (s0.finish s op pops n late) := by
  unfold State.finish
  dsimp only
  split
  · exact h.trapHere
  · exact h2.retire

theorem MemOk.noted {s : State} {op : Op} (h : MemOk s) : MemOk (s.noted op) := h.modMe

theorem issue_ok {op : Op} {body : State → Out} {s : State} (h : MemOk s) (hb : ∀ t, MemOk t → OutOk (body t)) :
    NextOk (issue op body s) := by
  unfold issue
  dsimp only
  split
  · exact h.stallWith.modMe.ite h.stallWith
  split
  · exact h.stallWith.modMe.ite h.stallWith
  refine NextOk.ite h.stallWith <| NextOk.ite (h.finish h) <| NextOk.ite h.stallWith <| NextOk.ite (h.finish h) <|
    NextOk.ite h.stallWith ?_
  split
  · exact h.trapHere
  · exact (h.modMe fun _ hc => by simpa using hc).stallWith
  · have hb := hb s h
    split
    all_goals
      rename_i heq
      have ht : MemOk _ := hb.of heq
    · exact h.finish ht
    · exact ht.stallWith
    · exact ht.noted.trapHere
    · exact ht

theorem MemOk.produce {s : State} {lat : Nat} {ws : List Wr} {comp : Comp} (h : MemOk s) : MemOk
    (s.produce lat ws comp) :=
  h.modMe

/-! ### Banks -/

theorem execBank_ok {hdr : Hdr} {a : Sel} {st : SupplyReq} {cnt : Fin 16} {s : State} (h : MemOk s) : NextOk
    (execBank hdr a st cnt s) :=
  issue_ok h (fun _ ht => OutOk.ite ht (OutOk.ite ht (ht.modMe
    (fun _ hc => Core.foldl_wf (fun _ _ hd => by simpa using hd) _ hc))))

theorem execVbank_ok {hdr : Hdr} {st : SupplyReq} {mask : BitVec 4} {s : State} (h : MemOk s) : NextOk
    (execVbank hdr st mask s) :=
  issue_ok h (fun _ ht => ht.modMe (fun _ hc => Core.foldl_wf (fun _ _ hd => by split <;> exact hd) _ hc))

theorem execWakeEnd_ok {k : CoreId} {b : Fin 260} {s : State} (h : MemOk s) : NextOk (execWakeEnd k b s) := by
  refine h.modCore fun c hc => ?_
  split
  · split
    · rw [Core.pumpWakes_mem]; exact hc
    · exact hc
  · exact hc

theorem execBankCensus_ok {d : Fin 2} {s : State} (h : MemOk s) : NextOk (execBankCensus d s) := h.modDie

/-! ### Translation -/

theorem MemOk.pumpWalks {s : State} {k : CoreId} {x : Option (Fin 4)} (h : MemOk s) : MemOk (s.pumpWalks k x) := by
  unfold State.pumpWalks
  dsimp only
  split
  · exact h.frame.modCore.ite h
  · exact h

theorem MemOk.translate {s : State} {k : CoreId} {p : PartId} {x : Option (Fin 4)} {va : Nat} {kind : AccKind}
    {scope : Scope} {prefetch want : Bool} (h : MemOk s) : XlOk (s.translate k p x va kind scope prefetch want) := by
  unfold State.translate
  dsimp only
  split
  · exact XlOk.ite (h.modCore (fun _ hc => by simpa using hc)) ((h.modCore (fun _ hc => by simpa using hc)).modCore)
  · split
    · exact h.modCore
    · exact XlOk.ite h ((h.modCore (fun _ hc => by split <;> simpa using hc)).pumpWalks)

theorem MemOk.faultRequest {s : State} {k : CoreId} {q : Fin 4} {va : Nat} {kind : AccKind} {f : XFault} (h : MemOk s)
    : FstOk (s.faultRequest k q va kind f) := by
  unfold State.faultRequest
  dsimp only
  split
  · exact h
  · exact h.modCore.postOut

theorem MemOk.xlateTrap {s : State} {k : CoreId} {q : Fin 4} {va : Nat} {kind : AccKind} {f : XFault} (h : MemOk s) :
    FstOk (s.xlateTrap k q va kind f) :=
  FstOk.ite h h.faultRequest

theorem MemOk.requestGate {s : State} {k : CoreId} {halt : HaltSt} (h : MemOk s) : GateOk (s.requestGate k halt) :=
  GateOk.ite (GateOk.ite h.modCore (GateOk.ite h.modCore h.modCore)) h

theorem MemOk.loadFault {s : State} {k : CoreId} {f : XFault} {halt : HaltSt} (h : MemOk s) : FstOk
    (s.loadFault k f halt) := by
  unfold State.loadFault
  exact FstOk.ite (FstOk.mk h) (FstOk.ite (FstOk.mk h.modCore) (FstOk.mk h.faultRequest.state.modCore))

theorem MemOk.migCount {s : State} {k : CoreId} {p : PartId} {pa : Nat} {nomig : Bool} (h : MemOk s) : MemOk
    (s.migCount k p pa nomig) :=
  (h.ite (h.frame.modCore (fun _ hc => by simpa using hc))).ite
    ((h.ite (h.frame.modCore (fun _ hc => by simpa using hc))).modDie)

theorem execMigrationCountHalve_ok {d : Fin 2} {s : State} (h : MemOk s) : NextOk (execMigrationCountHalve d s) :=
  h.modDie

theorem MemOk.walkCount {s : State} {k : CoreId} {p : PartId} {va : Nat} (h : MemOk s) : MemOk (s.walkCount k p va) :=
  h.foldl fun _ _ ht => ht.migCount

theorem MemOk.touchTask {s : State} {key : TaskKey} {pa : Nat} (h : MemOk s) : MemOk (s.touchTask key pa) := by
  unfold State.touchTask
  dsimp only
  split
  · exact h
  · refine (h.mapCores fun c hc => ?_).setSaved fun x hx => ?_
    · split
      · split <;> exact hc
      · exact hc
    · obtain ⟨y, hy, rfl⟩ := List.mem_map.mp hx
      split <;> exact h.saved y hy

theorem MemOk.prefLine {s : State} {k : CoreId} {p : PartId} {pa : Nat} {nomig : Bool} (h : MemOk s) : MemOk
    (s.prefLine k p pa nomig) :=
  h.modCore.ite h.migCount

theorem MemOk.pumpPrefs {s : State} {k : CoreId} (h : MemOk s) : MemOk (s.pumpPrefs k) :=
  h.modCore.foldl fun _ _ ht => ht.prefLine

theorem MemOk.prefLines {s : State} {k : CoreId} {w : Walk} {e : TlbEnt} (h : MemOk s) : MemOk (s.prefLines k w e) :=
  h.foldl fun _ _ ht => ht.touchTask.prefLine

theorem execTlbWalkComplete_ok {k : CoreId} {id : Nat} {s : State} (h : MemOk s) : NextOk (execTlbWalkComplete k id s)
    := by
  unfold execTlbWalkComplete
  dsimp only
  split
  · exact h
  · split
    · exact ((h.modCore.ite h.modCore.walkCount).modCore (fun _ hc => by simpa using hc)).pumpWalks.prefLines
    · exact ((h.modCore.ite h.modCore.walkCount).modCore.ite (h.modCore.ite h.modCore.walkCount)).pumpWalks

theorem execIcacheFill_ok {k : CoreId} {q : Fin 4} {line : Nat} {s : State} (h : MemOk s) : NextOk
    (execIcacheFill k q line s) := by
  unfold execIcacheFill
  dsimp only
  split
  · exact h
  · exact h.modCore

theorem MemOk.pumpFills {s : State} {k : CoreId} (h : MemOk s) : MemOk (s.pumpFills k) := by
  unfold State.pumpFills
  refine h.foldl fun _ _ ht => ?_
  split
  · rename_i heq
    have hu : MemOk _ := ht.translate.of heq
    exact hu
  · rename_i heq
    have hu : MemOk _ := ht.translate.of heq
    exact hu.modCore
  · rename_i heq
    have hu : MemOk _ := ht.translate.of heq
    split
    · exact hu.modCore.modCore
    · exact hu.ite hu.migCount.frame.modCore

theorem MemOk.fetchWord {s : State} {k : CoreId} {q : Fin 4} {va : Nat} {spec : Bool} (h : MemOk s) : FetchedOk
    (s.fetchWord k q va spec) := by
  unfold State.fetchWord
  dsimp only
  split
  · exact h.modCore
  · split
    · exact h
    · split
      · rename_i heq
        have ht : MemOk _ := h.translate.of heq
        exact ht
      · rename_i heq
        have ht : MemOk _ := h.translate.of heq
        exact ht
      · rename_i heq
        have ht : MemOk _ := h.translate.of heq
        exact FetchedOk.ite ht ((ht.ite ht.migCount).frame.modCore)

theorem MemOk.fetch {s : State} {k : CoreId} {q : Seq} {pc : BitVec 48} {spec : Bool} (h : MemOk s) : FetchedOk
    (s.fetch k q pc spec) := by
  unfold State.fetch
  split
  · rename_i heq
    have ht : MemOk _ := h.fetchWord.of heq
    split
    · split
      · rename_i heq
        have hu : MemOk _ := ht.fetchWord.of heq
        exact hu
      · rename_i heq
        have hu : MemOk _ := ht.fetchWord.of heq
        exact hu
      · rename_i heq
        have hu : MemOk _ := ht.fetchWord.of heq
        exact hu
    · exact ht
  · rename_i heq
    have ht : MemOk _ := h.fetchWord.of heq
    exact ht
  · rename_i heq
    have ht : MemOk _ := h.fetchWord.of heq
    exact ht

theorem execPrefi_ok {hdr : Hdr} {x : Fin 4} {a : Sel} {nl : Fin 16} {off : BitVec 24} {c : Comp} {s : State} (h : MemOk s) :
    NextOk (execPrefi hdr x a nl off c s) := by
  unfold execPrefi
  dsimp only
  refine issue_ok h fun t ht => OutOk.ite (OutOk.trap ht) (OutOk.done (MemOk.pumpFills (ht.modMe fun k hk => ?_)))
  dsimp only
  rw [Core.modSeq_mem, Core.foldl_mem _ fun _ _ => Core.addFill_mem ..]
  exact hk

theorem execPref_ok {hdr : Hdr} {a : Sel} {scope : Scope} {off : BitVec 24} {c : Comp} {s : State} (h : MemOk s) :
    NextOk (execPref hdr a scope off c s) := by
  unfold execPref
  dsimp only
  refine issue_ok h (fun _ ht => ?_)
  split
  · rename_i heq
    have hu : MemOk _ := ht.translate.of heq
    exact hu.prefLine
  · rename_i heq
    have hu : MemOk _ := ht.translate.of heq
    exact hu.modMe
  · rename_i heq
    have hu : MemOk _ := ht.translate.of heq
    exact hu

theorem MemOk.tellShoot {s : State} {d : Fin 2} {cmd : BitVec 64} {l : List CoreId} (h : MemOk s) : MemOk
    (s.tellShoot d cmd l) := by
  induction l generalizing s with
  | nil => exact h
  | cons k l ih => exact ih h.frame

theorem MemOk.startShoot {s : State} {d : Fin 2} {cmd : BitVec 64} (h : MemOk s) : MemOk (s.startShoot d cmd) :=
  h.modDie.tellShoot

theorem shootGo_ok {d : Fin 2} {scope : Nat} {p : PartId} {va : BitVec 32} {s : State} (h : MemOk s) : NextOk
    (shootGo d scope p va s) :=
  NextOk.ite h.modDie h.startShoot

theorem execShootdownPage_ok {d : Fin 2} {p : PartId} {va : BitVec 32} {s : State} (h : MemOk s) : NextOk
    (execShootdownPage d p va s) :=
  shootGo_ok h

theorem execShootdownPartition_ok {d : Fin 2} {p : PartId} {s : State} (h : MemOk s) : NextOk
    (execShootdownPartition d p s) :=
  shootGo_ok h

theorem execShootdownAll_ok {d : Fin 2} {s : State} (h : MemOk s) : NextOk (execShootdownAll d s) := shootGo_ok h

theorem execShootdownAck_ok {d : Fin 2} {k : CoreId} {s : State} (h : MemOk s) : NextOk (execShootdownAck d k s) := by
  unfold execShootdownAck
  split
  · exact h
  · extract_lets c used s1 s2 s3 s4 s5
    have h1 : MemOk s1 := h.frame
    have h2 : MemOk s2 := h1.modCore
    have h3 : MemOk s3 := h2.frame
    have h4 : MemOk s4 := h3.rollback.ite h3
    have h5 : MemOk s5 := h4.modDie
    exact h5.modDie fun _ hx => by split <;> exact hx

/-! ### Loads and stores -/

theorem MemOk.wakeBanks {s : State} {w : Waiter} {l : List (CoreId × Nat)} (h : MemOk s) : MemOk (s.wakeBanks w l) :=
  h.foldl fun _ _ ht => ht.modCore fun _ hc => by simpa using hc

theorem MemOk.unwaitBanks {s : State} {w : Waiter} {l : List (CoreId × Nat)} (h : MemOk s) : MemOk (s.unwaitBanks w l)
    :=
  h.foldl fun _ _ ht => ht.modCore fun _ hc => by simpa using hc

theorem OutOk.unwait {o : Out} {w : Waiter} {bs : List (CoreId × Nat)} (h : OutOk o) : OutOk (o.unwait w bs) := by
  cases o with
  | done s n late => exact MemOk.unwaitBanks h
  | stall cls s => exact h
  | trap cause detail addr s => exact h
  | yield s => exact h

theorem MemOk.bankCheck {s : State} {a : Nat} {bs : List (CoreId × Nat)} {go : State → Out} (h : MemOk s)
    (hg : ∀ t, MemOk t → OutOk (go t)) : OutOk (s.bankCheck a bs go) := by
  unfold State.bankCheck
  dsimp only
  split
  · exact h
  · exact OutOk.ite (hg s h).unwait h.wakeBanks

theorem MemOk.localCheck {s : State} {a n align : Nat} {fate : Fate} {privOnly : Bool} {go : Loc → State → Out} (h : MemOk s)
    (hg : ∀ l t, MemOk t → OutOk (go l t)) : OutOk (s.localCheck a n align fate privOnly go) := by
  unfold State.localCheck
  dsimp only
  refine OutOk.ite h ?_
  split
  · exact h
  · exact OutOk.ite h (h.bankCheck fun t ht => hg _ t ht)

theorem MemOk.sendLoad {s : State} {scope : Scope} {sz : Option Sz} {q : Option (Fin 8)} {dest : Option Dest}
    {pieces : List Piece} {todo : List (Nat × Nat)} {acq : Bool} {va : Nat} {comp : Comp} (h : MemOk s) : MemOk
    (s.sendLoad scope sz q dest pieces todo acq va comp) :=
  h.frame.modMe fun _ hc => by split <;> exact hc

theorem loadBody_ok {d : Dest} {sz : Sz} {fate : Fate} {comp : Comp} {a : Nat} {s : State} (h : MemOk s) :
    OutOk (loadBody d sz fate comp a s) := by
  unfold loadBody
  refine OutOk.ite h (h.localCheck fun l t ht => ?_)
  cases l with
  | priv a => exact ht.produce.modMe fun _ hc => by simpa using hc
  | win l => exact ht.sendLoad
  | bad c x => exact ht

theorem execLd_ok {hdr : Hdr} {d : Dest} {a : Sel} {sz : Sz} {s : State} (h : MemOk s) : NextOk (execLd hdr d a sz s)
    :=
  issue_ok h (fun _ ht => loadBody_ok ht)

theorem execLdx_ok {hdr : Hdr} {d : Dest} {a : Sel} {sz : Sz} {fate : Fate} {off : BitVec 24} {c : Comp} {s : State}
    (h : MemOk s) : NextOk (execLdx hdr d a sz fate off c s) :=
  issue_ok h (fun _ ht => loadBody_ok ht)

/-- Where a device load that is not translated leaves off. -/
theorem loadStop_ok {sent : Option (State → State)} {t : State} (ht : MemOk t) :
    (∀ f ∈ sent, ∀ t, MemOk t → MemOk (f t)) → OutOk (match sent with
      | some f => .done (f t) .seq true
      | none => .stall haltClass t) := by
  cases sent with
  | none => exact fun _ => ht
  | some f => exact fun hs => hs f rfl t ht

theorem MemOk.loadXlate {s : State} {va align : Nat} {scope : Scope} {acq : Bool} {sent : Option (State → State)}
    {go : Nat → TlbEnt → State → Out} (h : MemOk s) (hs : ∀ f ∈ sent, ∀ t, MemOk t → MemOk (f t))
    (hg : ∀ pa e t, MemOk t → OutOk (go pa e t)) : OutOk (s.loadXlate va align scope acq sent go) := by
  unfold State.loadXlate
  dsimp only
  refine OutOk.ite h <| OutOk.ite h ?_
  have hgate := fun hl : HaltSt => h.requestGate (k := s.curCore) (halt := hl)
  split
  · rename_i heq
    have ht : MemOk _ := (hgate _).of heq
    exact loadStop_ok ht hs
  · rename_i heq
    exact (hgate _).of heq
  · rename_i heq
    have ht : MemOk _ := (hgate _).of heq
    split
    · rename_i heq
      have hu : MemOk _ := ht.translate.of heq
      exact OutOk.ite hu (hg _ _ _ hu)
    · rename_i heq
      exact ht.translate.of heq
    · rename_i heq
      have hu : MemOk _ := ht.translate.of heq
      split
      · rename_i heq
        exact hu.loadFault.of heq
      · rename_i heq
        have hv : MemOk _ := hu.loadFault.of heq
        exact loadStop_ok hv hs

theorem execLdd_ok {hdr : Hdr} {d : Dest} {a : Sel} {sz : Sz} {scope : Scope} {acq : Bool} {off : BitVec 24} {c : Comp} {s : State}
    (h : MemOk s) : NextOk (execLdd hdr d a sz scope acq off c s) :=
  issue_ok h fun _ ht => ht.loadXlate (fun _ hf => nomatch hf) fun _ _ _ hu => hu.migCount.sendLoad

theorem MemOk.linesNow {s : State} {scope : Scope} {l : List (Nat × Nat)} (h : MemOk s) : Snd2Ok (s.linesNow scope l)
    := by
  induction l generalizing s with
  | nil => exact h
  | cons x l ih =>
    unfold State.linesNow
    split
    · exact h
    · split
      · rename_i heq
        have ht : MemOk _ := h.translate.of heq
        split
        · exact h
        · exact ih ht.migCount
      · exact h
      · exact h

theorem execLddq_ok {hdr : Hdr} {q : Fin 8} {a : Sel} {scope : Scope} {acq : Bool} {off : BitVec 24} {c : Comp} {s : State}
    (h : MemOk s) : NextOk (execLddq hdr q a scope acq off c s) := by
  unfold execLddq
  dsimp only
  exact issue_ok h fun _ ht => ht.loadXlate (fun _ hf _ hu => Option.some.inj hf ▸ hu.sendLoad)
    fun _ _ _ hu => OutOk.done (hu.migCount.linesNow.state.sendLoad)

theorem MemOk.pumpLoads {s : State} {k : CoreId} (h : MemOk s) : MemOk (s.pumpLoads k) := by
  unfold State.pumpLoads
  dsimp only
  refine h.foldl fun _ _ ht => ?_
  split
  · exact ht
  · split
    · exact ht
    · split
      · rename_i heq
        have hu : MemOk _ := ht.requestGate.of heq
        exact hu
      · rename_i heq
        have hu : MemOk _ := ht.requestGate.of heq
        exact hu.takeTrap
      · rename_i heq
        have hu : MemOk _ := ht.requestGate.of heq
        split
        · rename_i heq
          have hv : MemOk _ := hu.translate.of heq
          exact hv
        · rename_i heq
          have hv : MemOk _ := hu.translate.of heq
          exact hv.ite hv.migCount.modCore
        · rename_i heq
          have hv : MemOk _ := hu.translate.of heq
          split
          · rename_i heq
            have hw : MemOk _ := hv.loadFault.of heq
            exact hw.takeTrap
          · rename_i heq
            have hw : MemOk _ := hv.loadFault.of heq
            exact hw

theorem MemOk.sendStore {s : State} {cycles : Nat} {bytes : List (Nat × BitVec 8)} {fate : Option (Nat × SupplyReq)}
    {comp : Comp} (h : MemOk s) : MemOk (s.sendStore cycles bytes fate comp) :=
  h.modMe

theorem MemOk.buffer {s : State} {a need : Nat} {put : Core → Core} (h : MemOk s)
    (hp : ∀ c, c.mem.wf = true → (put c).mem.wf = true := by exact fun _ hc => by simpa using hc) : OutOk (s.buffer a need put) := by
  unfold State.buffer
  split
  · exact h
  · exact h
  · exact h.modMe hp

theorem storeBody_ok {bs : List (BitVec 8)} {align : Nat} {fate : Fate} {comp : Comp} {a : Nat} {s : State}
    (h : MemOk s) : OutOk (storeBody bs align fate comp a s) := by
  unfold storeBody
  refine h.localCheck (fun _ _ ht => ?_)
  split
  · exact ht.sendStore
  · exact ht.buffer (fun _ hc => by simpa [Core.foldl_mem] using hc)
  · exact ht

theorem execSt_ok {hdr : Hdr} {v a : Sel} {sz : Sz} {s : State} (h : MemOk s) : NextOk (execSt hdr v a sz s) :=
  issue_ok h (fun _ ht => storeBody_ok ht)

theorem execStx_ok {hdr : Hdr} {v a : Sel} {sz : Sz} {fate : Fate} {off : BitVec 24} {c : Comp} {s : State}
    (h : MemOk s) : NextOk (execStx hdr v a sz fate off c s) :=
  issue_ok h (fun _ ht => storeBody_ok ht)

theorem MemOk.storeXlate {s : State} {va : Nat} {kind : AccKind} {scope : Scope} {go : Nat → TlbEnt → State → Out} (h : MemOk s)
    (hg : ∀ pa e t, MemOk t → OutOk (go pa e t)) : OutOk (s.storeXlate va kind scope go) := by
  unfold State.storeXlate
  split
  · rename_i heq
    exact hg _ _ _ (h.translate.of heq)
  · rename_i heq
    exact h.translate.of heq
  · rename_i heq
    have ht : MemOk _ := h.translate.of heq
    exact ht.xlateTrap

theorem execStd_ok {hdr : Hdr} {v a : Sel} {sz : Sz} {scope : Scope} {rel : Bool} {off : BitVec 24} {c : Comp}
    {s : State} (h : MemOk s) : NextOk (execStd hdr v a sz scope rel off c s) :=
  issue_ok h (fun _ ht => OutOk.ite ht (ht.storeXlate (fun _ _ _ hu => hu.buffer (fun _ hc => by simpa using hc))))

theorem MemOk.fillLater {s : State} {q : Fin 8} {lat : Nat} {v : VWord} {comp : Comp} (h : MemOk s) : MemOk
    (s.fillLater q lat v comp) :=
  h.modMe.produce

theorem execLdq_ok {hdr : Hdr} {q : Fin 8} {a : Sel} {fate : Fate} {off : BitVec 24} {c : Comp} {s : State}
    (h : MemOk s) : NextOk (execLdq hdr q a fate off c s) := by
  unfold execLdq
  refine issue_ok h (fun _ ht => ?_)
  split
  · exact ht
  · refine ht.localCheck (fun _ _ hu => ?_)
    split
    · exact hu.fillLater.modMe fun _ hc => by simpa using hc
    · exact hu.sendLoad
    · exact hu

theorem execStq_ok {hdr : Hdr} {q : Fin 8} {a : Sel} {fate : Fate} {off : BitVec 24} {c : Comp} {s : State} (h : MemOk s) :
    NextOk (execStq hdr q a fate off c s) := by
  unfold execStq
  exact issue_ok h fun _ ht => storeBody_ok ht

theorem MemOk.elemCheck {s : State} {addrs : List Nat} {n : Nat} {go : State → Out} (h : MemOk s)
    (hg : ∀ t, MemOk t → OutOk (go t)) : OutOk (s.elemCheck addrs n go) := by
  unfold State.elemCheck
  dsimp only
  split
  · exact h
  · split
    · exact h
    · exact OutOk.ite (hg s h) h.wakeBanks

theorem MemOk.baseCheck {s : State} {base e : Nat} {blk : Option Nat} {go : Out} (h : MemOk s) (hg : OutOk go) :
    OutOk (s.baseCheck base e blk go) := by
  have at_ (a n : Nat) (g : Out) (hg : OutOk g) : OutOk (match s.resolvePriv s.curCore s.curSeq.idx.val a n with
      | .bad c d => .trap c d a s
      | .priv _ => g
      | .win _ => g) := by
    split
    · exact h
    · exact hg
    · exact hg
  unfold State.baseCheck
  dsimp only
  refine OutOk.ite h ?_
  split
  · exact at_ _ _ _ hg
  · exact OutOk.ite h (at_ _ _ _ (at_ _ _ _ hg))

theorem execGather_ok {hdr : Hdr} {q : Fin 8} {a b : Sel} {fate : Fate} {esz : Esz} {off : BitVec 24} {c : Comp} {s : State}
    (h : MemOk s) : NextOk (execGather hdr q a b fate esz off c s) := by
  unfold execGather
  refine issue_ok h fun t ht => ?_
  refine OutOk.ite (OutOk.stall ht) (ht.baseCheck (ht.localCheck fun _ u hu => hu.elemCheck fun v hv => OutOk.done
    ?_))
  exact hv.fillLater.modMe fun _ hc => by simpa using hc

theorem execScatter_ok {hdr : Hdr} {q : Fin 8} {a b : Sel} {fate : Fate} {esz : Esz} {off : BitVec 24} {c : Comp} {s : State}
    (h : MemOk s) : NextOk (execScatter hdr q a b fate esz off c s) := by
  unfold execScatter
  exact issue_ok h fun t ht => ht.baseCheck (ht.elemCheck fun u hu => OutOk.done hu.sendStore)

/-! ### Order, coherence buffers and pins -/

theorem fence_ok {hdr : Hdr} {scope : Option Scope} {s : State} (h : MemOk s) : NextOk (fence hdr scope s) := by
  unfold fence
  refine issue_ok h (fun _ ht => ?_)
  split
  · exact ht
  · split
    · exact ht
    · exact OutOk.ite ht ht

theorem execXfenceCore_ok {hdr : Hdr} {s : State} (h : MemOk s) : NextOk (execXfenceCore hdr s) := by
  unfold execXfenceCore
  exact fence_ok h

theorem execXfenceQuad_ok {hdr : Hdr} {s : State} (h : MemOk s) : NextOk (execXfenceQuad hdr s) := by
  unfold execXfenceQuad
  exact fence_ok h

theorem execXfenceDev_ok {hdr : Hdr} {s : State} (h : MemOk s) : NextOk (execXfenceDev hdr s) := by
  unfold execXfenceDev
  exact fence_ok h

theorem execXfenceSys_ok {hdr : Hdr} {s : State} (h : MemOk s) : NextOk (execXfenceSys hdr s) := by
  unfold execXfenceSys
  exact fence_ok h

theorem atom_ok {op : Fin 10} {hdr : Hdr} {d : Dest} {names : List Sel} {f : AtomF} {c : Comp} {s : State}
    (h : MemOk s) : NextOk (atom op hdr d names f c s) := by
  unfold atom
  dsimp only
  refine issue_ok h (fun _ ht => ?_)
  split
  · split
    · split
      · exact ht
      · split
        · split
          · refine ht.bankCheck (fun _ hu => ?_)
            split
            · exact hu
            · split
              · exact hu
              · exact hu
              · exact OutOk.ite hu.modMe hu.modMe
          · exact ht
        · exact ht
        · exact OutOk.ite ht ht
    · split
      · exact ht
      · split
        · split
          · refine ht.bankCheck (fun _ hu => ?_)
            split
            · exact hu
            · split
              · exact hu
              · exact hu
              · exact OutOk.ite hu.modMe hu.modMe
          · exact ht
        · exact ht
        · exact OutOk.ite ht ht
  · split
    · split
      · exact ht
      · refine ht.storeXlate (fun _ _ _ hu => ?_)
        split
        · exact hu
        · split
          · exact hu
          · exact hu
          · exact OutOk.ite hu.modMe hu.modMe
    · split
      · exact ht
      · refine ht.storeXlate (fun _ _ _ hu => ?_)
        split
        · exact hu
        · split
          · exact hu
          · exact hu
          · exact OutOk.ite hu.modMe hu.modMe

theorem execAtomAdd_ok {hdr : Hdr} {d : Dest} {a b : Sel} {f : AtomF} {c : Comp} {s : State} (h : MemOk s) : NextOk
    (execAtomAdd hdr d a b f c s) := by
  unfold execAtomAdd
  exact atom_ok h

theorem execAtomAnd_ok {hdr : Hdr} {d : Dest} {a b : Sel} {f : AtomF} {c : Comp} {s : State} (h : MemOk s) : NextOk
    (execAtomAnd hdr d a b f c s) := by
  unfold execAtomAnd
  exact atom_ok h

theorem execAtomOr_ok {hdr : Hdr} {d : Dest} {a b : Sel} {f : AtomF} {c : Comp} {s : State} (h : MemOk s) : NextOk
    (execAtomOr hdr d a b f c s) := by
  unfold execAtomOr
  exact atom_ok h

theorem execAtomXor_ok {hdr : Hdr} {d : Dest} {a b : Sel} {f : AtomF} {c : Comp} {s : State} (h : MemOk s) : NextOk
    (execAtomXor hdr d a b f c s) := by
  unfold execAtomXor
  exact atom_ok h

theorem execAtomMin_ok {hdr : Hdr} {d : Dest} {a b : Sel} {f : AtomF} {c : Comp} {s : State} (h : MemOk s) : NextOk
    (execAtomMin hdr d a b f c s) := by
  unfold execAtomMin
  exact atom_ok h

theorem execAtomMax_ok {hdr : Hdr} {d : Dest} {a b : Sel} {f : AtomF} {c : Comp} {s : State} (h : MemOk s) : NextOk
    (execAtomMax hdr d a b f c s) := by
  unfold execAtomMax
  exact atom_ok h

theorem execAtomMinu_ok {hdr : Hdr} {d : Dest} {a b : Sel} {f : AtomF} {c : Comp} {s : State} (h : MemOk s) : NextOk
    (execAtomMinu hdr d a b f c s) := by
  unfold execAtomMinu
  exact atom_ok h

theorem execAtomMaxu_ok {hdr : Hdr} {d : Dest} {a b : Sel} {f : AtomF} {c : Comp} {s : State} (h : MemOk s) : NextOk
    (execAtomMaxu hdr d a b f c s) := by
  unfold execAtomMaxu
  exact atom_ok h

theorem execAtomSwap_ok {hdr : Hdr} {d : Dest} {a b : Sel} {f : AtomF} {c : Comp} {s : State} (h : MemOk s) : NextOk
    (execAtomSwap hdr d a b f c s) := by
  unfold execAtomSwap
  exact atom_ok h

theorem execAtomCas_ok {hdr : Hdr} {d : Dest} {a b cmp : Sel} {f : AtomF} {c : Comp} {s : State} (h : MemOk s) :
    NextOk (execAtomCas hdr d a b cmp f c s) := by
  unfold execAtomCas
  exact atom_ok h

theorem execResultDue_ok {k : CoreId} {q : Fin 4} {id : Nat} {s : State} (h : MemOk s) : NextOk
    (execResultDue k q id s) := by
  unfold execResultDue
  split
  · exact h.modCore fun _ hc => by simpa using hc
  · exact h

theorem MemOk.askPin {s : State} {k : CoreId} (h : MemOk s) : MemOk (s.askPin k) := h.frame.ite h.frame

theorem MemOk.cohReplay {s : State} {k : CoreId} {addr : Nat} (h : MemOk s) : MemOk (s.cohReplay k addr) :=
  (h.logCore.rollback.modCore (fun _ hc => by simpa using hc)).modCore.askPin.ite
    (h.logCore.rollback.modCore (fun _ hc => by simpa using hc))

theorem execPinTokenGrant_ok {p : PartId} {s : State} (h : MemOk s) : NextOk (execPinTokenGrant p s) := by
  unfold execPinTokenGrant
  exact h.frame

theorem MemOk.readPiece {s : State} {k : CoreId} {p : Piece} (h : MemOk s) : SomeOk (s.readPiece k p) := by
  unfold State.readPiece
  dsimp only
  split
  · exact h
  · split
    · split
      · exact trivial
      · exact h.setGran.modCore
    · split
      · exact h
      · split
        · exact trivial
        · exact h.modCore

theorem MemOk.readAll {s : State} {k : CoreId} {l : List Piece} (h : MemOk s) : ExceptOk (s.readAll k l) := by
  induction l generalizing s with
  | nil => exact h
  | cons p l ih =>
    unfold State.readAll
    split
    · trivial
    · rename_i heq
      have ht : MemOk _ := h.readPiece.of heq
      exact ih ht

theorem MemOk.pinClaims {s : State} {k : CoreId} {l : List Piece} (h : MemOk s) : SomeOk (s.pinClaims k l) := by
  unfold State.pinClaims
  refine SomeOk.ite h (List.foldlRecOn (motive := SomeOk) l _ h fun r hr p _ => ?_)
  cases r with
  | none => trivial
  | some t =>
    dsimp only
    split
    · exact hr
    · split
      · exact SomeOk.ite hr trivial
      · exact SomeOk.some (MemOk.setGran hr)

theorem execDeviceLoadReturn_ok {k : CoreId} {id : Nat} {s : State} (h : MemOk s) : NextOk
    (execDeviceLoadReturn k id s) := by
  unfold execDeviceLoadReturn
  dsimp only
  split
  · exact h
  · split
    · exact h.takeTrap
    · exact h
    · rename_i heq
      have ht : MemOk _ := h.pinClaims.of heq
      split
      · exact h.wakeBanks
      · split
        · exact ht.unwaitBanks.takeTrap
        · split
          · exact ht.unwaitBanks.cohReplay
          · rename_i heq
            have hu : MemOk _ := ht.unwaitBanks.readAll.of heq
            exact hu.modCore fun _ hc => by split <;> simpa using hc

theorem MemOk.claimAll {s : State} {k : CoreId} {l : List Gran} (h : MemOk s) : FstOk (s.claimAll k l) := by
  induction l generalizing s with
  | nil => exact h
  | cons g l ih =>
    unfold State.claimAll
    split
    · exact h
    · split
      · exact ih h.setGran
      · exact h
      · exact h

theorem MemOk.validate {s : State} {k : CoreId} {ts : Nat} {l : List ReadPair} (h : MemOk s) : ExceptOk
    (s.validate k ts l) := by
  induction l generalizing s with
  | nil => exact h
  | cons r l ih =>
    unfold State.validate
    exact ExceptOk.ite (ExceptOk.ite (ih h.setGran) trivial) (ih h)

theorem execTimestampProcedure_ok {k : CoreId} {s : State} (h : MemOk s) : NextOk (execTimestampProcedure k s) := by
  unfold execTimestampProcedure
  dsimp only
  split
  · exact h
  · split
    · rename_i heq
      have ht : MemOk _ := h.claimAll.of heq
      exact ht.cohReplay
    · rename_i heq
      have ht : MemOk _ := h.claimAll.of heq
      split
      · exact ht.modCore
      · split
        · exact ht.cohReplay
        · rename_i heq
          have hu : MemOk _ := ht.validate.of heq
          exact hu.modCore

/-- The bytes of a line that its mask names, written to a memory in canonical form. -/
theorem Mem.wf_masked {m : Mem} (h : m.wf = true) (addr : Nat) (mask : BitVec 64) (data : BitVec 512) (l : List Nat) :
    (l.foldl (fun (m : Mem) i =>
      if bvf mask i 1 = 1 then m.write (addr + i) (BitVec.ofNat 8 (bvf data (8 * i) 8)) else m) m).wf = true := by
  refine List.foldlRecOn (motive := fun m : Mem => m.wf = true) _ _ h fun m hm i _ => ?_
  split
  · exact Mem.wf_write _ _ hm
  · exact hm

theorem MemOk.putHome {s : State} {home : Home} {addr : Nat} {mask : BitVec 64} {data : BitVec 512} (h : MemOk s) :
    MemOk (s.putHome home addr mask data) := by
  cases home with
  | win t =>
    unfold State.putHome
    exact h.modCore fun c hc => by exact Mem.wf_masked hc _ _ _ _
  | hbm => exact h.setMem (Mem.wf_masked h.device ..)
  | sysr => exact h.setMem (Mem.wf_masked h.device ..)

theorem MemOk.applyLine {s : State} {k : CoreId} {l : CBLine} (h : MemOk s) : MemOk (s.applyLine k l) := by
  unfold State.applyLine
  split
  · exact h.putHome
  · extract_lets n old new t
    have ht : MemOk t := h.putHome
    split
    · dsimp only [State.drawDelay]
      exact (ht.frame : MemOk { t with free := t.free + 1, atomrecs := _ }).mapCores
    · exact ht

theorem MemOk.putLine {s : State} {k : CoreId} {l : CBLine} {off : Bool} (h : MemOk s) : MemOk (s.putLine k l off) :=
    by
  unfold State.putLine
  dsimp only
  split
  · refine MemOk.freePin ?_
    split
    · refine (MemOk.migCount ?_).frame
      split
      · exact (h.ite h.applyLine).modCore
      · exact (h.ite h.applyLine).modCore.setGran
    · split
      · exact (h.ite h.applyLine).modCore
      · exact (h.ite h.applyLine).modCore.setGran
    · split
      · exact (h.ite h.applyLine).modCore
      · exact (h.ite h.applyLine).modCore.setGran
  · split
    · refine (MemOk.migCount ?_).frame
      split
      · exact (h.ite h.applyLine).modCore
      · exact (h.ite h.applyLine).modCore.setGran
    · split
      · exact (h.ite h.applyLine).modCore
      · exact (h.ite h.applyLine).modCore.setGran
    · split
      · exact (h.ite h.applyLine).modCore
      · exact (h.ite h.applyLine).modCore.setGran

theorem execLinePerformed_ok {k : CoreId} {id : Nat} {s : State} (h : MemOk s) : NextOk (execLinePerformed k id s) :=
    by
  unfold execLinePerformed
  dsimp only
  split
  · exact h
  · split
    · exact h
    · split
      · exact NextOk.ite (h.modCore (fun _ hc => by simpa using hc))
          ((h.modCore (fun _ hc => by simpa using hc)).putLine)
      · exact NextOk.ite h h.putLine

theorem execAtomValueReturn_ok {k : CoreId} {s : State} (h : MemOk s) : NextOk (execAtomValueReturn k s) := by
  unfold execAtomValueReturn
  split
  · exact h
  · split
    · split
      · exact NextOk.ite h.modCore h
      · exact h
    · exact h

/-! ### Copy channels -/

theorem MemOk.regenRoute {s : State} {ret : BitVec 32} {k t : CoreId} {rte : BitVec 32} (h : MemOk s) : SndOk
    (s.regenRoute ret k t rte) := by
  unfold State.regenRoute
  dsimp only
  split
  · exact h
  · split
    · exact h
    · exact h.frame

theorem copyIssue_ok {routed : Bool} {hdr : Hdr} {x : Fin 4} {a : Sel} {f : CopyF} {c : Comp} {s : State}
    (h : MemOk s) : NextOk (copyIssue routed hdr x a f c s) := by
  unfold copyIssue
  dsimp only
  refine issue_ok h (fun _ ht => ?_)
  split
  · exact ht
  · exact OutOk.ite (OutOk.ite ht ht) ht.cmdRecord.modMe

theorem execCopy_ok {hdr : Hdr} {x : Fin 4} {a : Sel} {f : CopyF} {c : Comp} {s : State} (h : MemOk s) : NextOk
    (execCopy hdr x a f c s) := by
  unfold execCopy
  exact copyIssue_ok h

theorem execCopyR_ok {hdr : Hdr} {x : Fin 4} {a : Sel} {f : CopyF} {c : Comp} {s : State} (h : MemOk s) : NextOk
    (execCopyR hdr x a f c s) := by
  unfold execCopyR
  exact copyIssue_ok h

theorem execSyncwait_ok {hdr : Hdr} {d : Dest} {a b : Sel} {off : BitVec 24} {c : Comp} {s : State} (h : MemOk s) :
    NextOk (execSyncwait hdr d a b off c s) := by
  unfold execSyncwait
  exact issue_ok h (fun _ ht => OutOk.ite ht (ht.localCheck (fun _ _ hu => OutOk.ite hu.produce hu)))

theorem MemOk.copyTrace {s : State} {k : CoreId} {x : Fin 4} {m : CopyCmd} {kind : Nat} (h : MemOk s) : MemOk
    (s.copyTrace k x m kind) :=
  h.cmdRecord

theorem MemOk.copyFail {s : State} {k : CoreId} {x : Fin 4} {m : CopyCmd} {cause detail addr : Nat} (h : MemOk s) :
    MemOk (s.copyFail k x m cause detail addr) :=
  h.frame.copyTrace.dropWaits.takeTrap.ite (h.frame.copyTrace.dropWaits.elog.postOut.modCore
    (fun _ hc => by split <;> exact hc))

theorem MemOk.copyStop {s : State} {k : CoreId} {x : Fin 4} {m : CopyCmd} {cause detail addr : Nat} (h : MemOk s) :
    MemOk (s.copyStop k x m cause detail addr) :=
  h.modCore.ite h.copyFail

theorem MemOk.startStep {k : CoreId} {x : Fin 4} {s : State} {m : CopyCmd} (h : MemOk s) : MemOk (s.startStep k x m)
    :=
  h.copyTrace.frame.modCore.ite h

theorem execCopyStart_ok {k : CoreId} {x : Fin 4} {s : State} (h : MemOk s) : NextOk (execCopyStart k x s) := by
  unfold execCopyStart
  exact h.foldl fun _ _ ht => ht.startStep

theorem MemOk.chanBank {s : State} {k : CoreId} {x : Fin 4} {m : CopyCmd} {owner : CoreId} {a n : Nat} (h : MemOk s) :
    ExceptSndOk (s.chanBank k x m owner a n) := by
  unfold State.chanBank
  dsimp only
  split
  · exact trivial
  · exact ExceptSndOk.ite h.unwaitBanks h.wakeBanks

theorem MemOk.chanPrefetch {s : State} {k : CoreId} {x : Fin 4} {m : CopyCmd} {kind : AccKind} {start size : Nat}
    (h : MemOk s) : MemOk (s.chanPrefetch k x m kind start size) := by
  unfold State.chanPrefetch
  dsimp only
  split
  · split
    · rename_i heq
      have ht : MemOk _ := h.translate.of heq
      exact ht
    · rename_i heq
      have ht : MemOk _ := h.translate.of heq
      exact ht
    · rename_i heq
      have ht : MemOk _ := h.translate.of heq
      exact ht
  · exact h

theorem MemOk.cmdXlate {s : State} {k : CoreId} {x : Fin 4} {m : CopyCmd} {kind : AccKind} {va : Nat} (h : MemOk s) :
    XlOk (s.cmdXlate k x m kind va) := by
  have hx : XlOk (match m.keep.find? fun e => e.covers m.part va with
      | some e =>
        let pa := e.pbase + va % e.size
        if permits kind e.r e.w e.x && scopeOk kind m.scope pa then Xl.hit pa e s else .fault ⟨1, levelOf e.size⟩ s
      | none => s.translate k m.part (some x) va kind m.scope false true) := by
    split
    · exact XlOk.ite h h
    · exact h.translate
  unfold State.cmdXlate
  split
  all_goals
    rename_i heq
    have ht : MemOk _ := hx.of heq
  · exact XlOk.ite ht ht.touchTask
  · exact ht
  · exact ht

theorem MemOk.pieceXlate {s : State} {k : CoreId} {x : Fin 4} {m : CopyCmd} {kind : AccKind} {start n : Nat}
    (h : MemOk s) : PieceXOk (s.pieceXlate k x m kind start n) := by
  unfold State.pieceXlate
  dsimp only
  split
  · rename_i heq
    have ht : MemOk _ := h.cmdXlate.of heq
    exact ht
  · rename_i heq
    have ht : MemOk _ := h.cmdXlate.of heq
    exact ht
  · rename_i heq
    have ht : MemOk _ := h.cmdXlate.of heq
    split
    · exact ht.chanPrefetch
    · split
      · exact ht.chanPrefetch
      · split
        · rename_i heq
          have hu : MemOk _ := ht.chanPrefetch.cmdXlate.of heq
          exact hu
        · rename_i heq
          have hu : MemOk _ := ht.chanPrefetch.cmdXlate.of heq
          exact hu
        · rename_i heq
          have hu : MemOk _ := ht.chanPrefetch.cmdXlate.of heq
          exact PieceXOk.ite hu hu

theorem MemOk.pieceReqs {s : State} {k : CoreId} {m : CopyCmd} {l : List (Nat × Nat × Bool)} (h : MemOk s) : MemOk
    (s.pieceReqs k m l) :=
  h.foldl fun _ _ ht => ht.migCount

theorem MemOk.putDevice {s : State} {l : List (Nat × Nat × Bool)} {bs : List (BitVec 8)} (h : MemOk s) : MemOk
    (s.putDevice l bs) := by
  induction l generalizing s bs with
  | nil => exact h
  | cons x l ih => exact ih h.untimedWrite

theorem MemOk.pieceDone {s : State} {k : CoreId} {x : Fin 4} {m : CopyCmd} {reqs : List (Nat × Nat × Bool)}
    {n next : Nat} (h : MemOk s) : MemOk (s.pieceDone k x m reqs n next) :=
  h.pieceReqs.modCore fun _ hc => by simpa using hc

theorem MemOk.copyWrite {s : State} {k : CoreId} {x : Fin 4} {m : CopyCmd} {reqs : List (Nat × Nat × Bool)}
    {bs : List (BitVec 8)} (h : MemOk s) : MemOk (s.copyWrite k x m reqs bs) := by
  unfold State.copyWrite
  dsimp only [State.drawDelay]
  split
  · split
    all_goals
      rename_i heq
      have ht : MemOk _ := h.frame.pieceXlate.of heq
    · exact ht
    · exact ht.pieceReqs.copyStop
    · exact ht.ite ht.putDevice.pieceDone
  · split
    · exact h.frame.ite h.frame.pieceDone
    · split
      · exact h.frame.pieceReqs.copyStop
      all_goals
        rename_i heq
        have ht : MemOk _ := h.frame.chanBank.of heq
      · exact ht
      · exact (ht.modCore fun c hc => by exact Mem.wf_writeN _ _ hc).pieceDone

theorem MemOk.pieceStep {s : State} {k : CoreId} {x : Fin 4} {m : CopyCmd} (h : MemOk s) : MemOk (s.pieceStep k x m)
    := by
  unfold State.pieceStep
  dsimp only
  split
  · exact h.modCore
  · split
    · exact h
    · split
      · split
        · rename_i heq
          have ht : MemOk _ := h.pieceXlate.of heq
          exact ht
        · rename_i heq
          have ht : MemOk _ := h.pieceXlate.of heq
          exact ht.copyStop
        · rename_i heq
          have ht : MemOk _ := h.pieceXlate.of heq
          exact ht.pieceReqs.copyStop.ite ht.copyWrite
      · split
        · exact h.copyStop
        · rename_i heq
          have ht : MemOk _ := h.chanBank.of heq
          exact ht
        · rename_i heq
          have ht : MemOk _ := h.chanBank.of heq
          exact ht.copyWrite

theorem MemOk.channelCycle {k : CoreId} {x : Fin 4} {l : List CopyCmd} {s : State} (h : MemOk s) :
    MemOk (State.channelCycle k x l s) := by
  induction l generalizing s with
  | nil => exact h
  | cons m l ih => exact h.pieceStep.ite (ih h.pieceStep)

theorem execCopyPiece_ok {k : CoreId} {x : Fin 4} {s : State} (h : MemOk s) : NextOk (execCopyPiece k x s) := by
  unfold execCopyPiece
  exact h.channelCycle

theorem MemOk.pieceArrival {s : State} {k : CoreId} {x : Fin 4} {p : Routed} (h : MemOk s) : MemOk
    (s.pieceArrival k x p) := by
  unfold State.pieceArrival
  split
  · exact h.frame
  · extract_lets m'
    refine MemOk.ite h.copyFail ?_
    split
    · exact h.copyFail
    all_goals
      rename_i heq
      have ht : MemOk _ := h.chanBank.of heq
    · exact ht
    · extract_lets u v
      have hu : MemOk u := ht.frame
      have hv : MemOk v := (hu.modCore fun c hc => by exact Mem.wf_writeN _ _ hc).modCore
      exact hv.modCore.ite hv

theorem MemOk.arrivals {k : CoreId} {x : Fin 4} {l : List Routed} {s : State} (h : MemOk s) : MemOk
    (State.arrivals k x l s) := by
  induction l generalizing s with
  | nil => exact h
  | cons p l ih => exact (ih h.pieceArrival).ite h.pieceArrival

theorem execRoutedPieceArrival_ok {k : CoreId} {x : Fin 4} {s : State} (h : MemOk s) : NextOk
    (execRoutedPieceArrival k x s) := by
  unfold execRoutedPieceArrival
  exact h.arrivals

theorem MemOk.finishStep {k : CoreId} {x : Fin 4} {s : State} {m : CopyCmd} (h : MemOk s) : MemOk (s.finishStep k x m)
    := by
  unfold State.finishStep
  extract_lets later drop
  have hlater {t : State} {c : CopyCmd} (ht : MemOk t) : MemOk (later t c) := ht.modCore
  have hdrop {t : State} (ht : MemOk t) : MemOk (drop t) := ht.modCore.dropWaits
  clear_value later drop
  split
  · exact h.copyFail
  · exact (hlater h).ite h
  · split
    · exact hdrop h.copyTrace
    · refine MemOk.ite h (MemOk.ite ((hdrop h).ite (hdrop h.copyFail)) ?_)
      split
      · exact h.copyFail.ite (hdrop h.copyFail)
      all_goals
        rename_i heq
        have ht : MemOk _ := h.chanBank.of heq
      · exact hlater ht
      · extract_lets u
        have hu : MemOk u := ht.modCore fun c hc => by exact Mem.wf_syncUpdate hc ..
        exact hdrop (hu.ite hu.copyTrace)
  · exact h

theorem execCopyFinish_ok {k : CoreId} {x : Fin 4} {s : State} (h : MemOk s) : NextOk (execCopyFinish k x s) := by
  unfold execCopyFinish
  exact h.foldl fun _ _ ht => ht.finishStep

/-! ### Groups of copies and launches -/

theorem MemOk.setTeam {s : State} {t : Nat} {x : Team} (h : MemOk s) : MemOk (s.setTeam t x) := h.frame

theorem MemOk.send {s : State} {n : Nat} {m : Msg} (h : MemOk s) : MemOk (s.send n m) := h.frame

theorem MemOk.sendToken {s : State} {core : CoreId} {key : TaskKey} {ev : Nat} (h : MemOk s) : MemOk
    (s.sendToken core key ev) :=
  h.send.ite h

theorem MemOk.sendAbsence {s : State} {k : CoreId} {key : TaskKey} (h : MemOk s) : MemOk (s.sendAbsence k key) :=
  h.sendToken

/-! ### Recovery -/

theorem MemOk.retireCore {s : State} {k : CoreId} {r : Rep} (h : MemOk s) : MemOk (s.retireCore k r) := by
  unfold State.retireCore
  split
  · exact h.modCore
  · exact (h.logCore.trigger.ite h.logCore).sendAbsence.frame.rollback.modCore

theorem MemOk.detectedError {s : State} {k : CoreId} {r : Rep} (h : MemOk s) : MemOk (s.detectedError k r) :=
  ((h.modCore (fun _ hc => by simpa using hc)).logCore.modCore (fun _ hc => by simpa using hc)).rollback.ite
    ((h.modCore (fun _ hc => by simpa using hc)).retireCore)

/-! ### Vector instructions -/

theorem vector_ok {op : Op} {lat : Nat} {f : Core → List Wr} {s : State} (h : MemOk s) : NextOk (vector op lat f s) :=
    by
  unfold vector
  exact issue_ok h (fun _ ht => OutOk.ite ht ht.produce)

theorem vint_ok {hdr : Hdr} {d : Dest} {names : List Sel} {t : VITy} {c : Comp} {latch : Fin 4} {lat : Nat}
    {sat : Bool} {f : Nat → Nat → Nat → ℤ} {s : State} (h : MemOk s) : NextOk (vint hdr d names t c latch lat sat f s)
    := by
  unfold vint
  exact vector_ok h

theorem vfloat_ok {hdr : Hdr} {d : Dest} {names : List Sel} {t : VFTy} {c : Comp} {lat : Nat}
    {f : Nat → Nat → Nat → Flagged Nat} {s : State} (h : MemOk s) : NextOk (vfloat hdr d names t c lat f s) := by
  unfold vfloat
  exact vector_ok h

theorem maskLogic_ok {hdr : Hdr} {xd xa xb : Fin 8} {na nb : Bool} {f : BitVec 64 → BitVec 64 → BitVec 64} {s : State}
    (h : MemOk s) : NextOk (maskLogic hdr xd xa xb na nb f s) := by
  unfold maskLogic
  exact issue_ok h (fun _ ht => ht.produce)

theorem vlanes_ok {len : Nat} {hdr : Hdr} {d : Dest} {names : List Sel} {c : Comp} {latch : Fin 4} {lat : Nat}
    {f : Core → Nat → Nat} {s : State} (h : MemOk s) : NextOk (vlanes len hdr d names c latch lat f s) := by
  unfold vlanes
  exact vector_ok h

theorem vreduce_ok {hdr : Hdr} {d : Dest} {a : Sel} {ty : VTy} {c : Comp} {r : Red} {s : State} (h : MemOk s) : NextOk
    (vreduce hdr d a ty c r s) := by
  unfold vreduce
  exact vector_ok h

theorem execVadd_ok {hdr : Hdr} {d : Dest} {a b : Sel} {ty : VITy} {sat : Bool} {c : Comp} {s : State} (h : MemOk s) :
    NextOk (execVadd hdr d a b ty sat c s) := by
  unfold execVadd
  exact vint_ok h

theorem execVsub_ok {hdr : Hdr} {d : Dest} {a b : Sel} {ty : VITy} {sat : Bool} {c : Comp} {s : State} (h : MemOk s) :
    NextOk (execVsub hdr d a b ty sat c s) := by
  unfold execVsub
  exact vint_ok h

theorem execVmul_ok {hdr : Hdr} {d : Dest} {a b : Sel} {ty : VITy} {sat : Bool} {c : Comp} {s : State} (h : MemOk s) :
    NextOk (execVmul hdr d a b ty sat c s) := by
  unfold execVmul
  exact vint_ok h

theorem execVmulh_ok {hdr : Hdr} {d : Dest} {a b : Sel} {ty : VITy} {c : Comp} {s : State} (h : MemOk s) : NextOk
    (execVmulh hdr d a b ty c s) := by
  unfold execVmulh
  exact vint_ok h

theorem execVmin_ok {hdr : Hdr} {d : Dest} {a b : Sel} {ty : VITy} {c : Comp} {s : State} (h : MemOk s) : NextOk
    (execVmin hdr d a b ty c s) := by
  unfold execVmin
  exact vint_ok h

theorem execVmax_ok {hdr : Hdr} {d : Dest} {a b : Sel} {ty : VITy} {c : Comp} {s : State} (h : MemOk s) : NextOk
    (execVmax hdr d a b ty c s) := by
  unfold execVmax
  exact vint_ok h

theorem execVand_ok {hdr : Hdr} {d : Dest} {a b : Sel} {ty : VITy} {c : Comp} {s : State} (h : MemOk s) : NextOk
    (execVand hdr d a b ty c s) := by
  unfold execVand
  exact vint_ok h

theorem execVor_ok {hdr : Hdr} {d : Dest} {a b : Sel} {ty : VITy} {c : Comp} {s : State} (h : MemOk s) : NextOk
    (execVor hdr d a b ty c s) := by
  unfold execVor
  exact vint_ok h

theorem execVxor_ok {hdr : Hdr} {d : Dest} {a b : Sel} {ty : VITy} {c : Comp} {s : State} (h : MemOk s) : NextOk
    (execVxor hdr d a b ty c s) := by
  unfold execVxor
  exact vint_ok h

theorem execVshl_ok {hdr : Hdr} {d : Dest} {a b : Sel} {ty : VITy} {c : Comp} {s : State} (h : MemOk s) : NextOk
    (execVshl hdr d a b ty c s) := by
  unfold execVshl
  exact vint_ok h

theorem execVshr_ok {hdr : Hdr} {d : Dest} {a b : Sel} {ty : VITy} {c : Comp} {s : State} (h : MemOk s) : NextOk
    (execVshr hdr d a b ty c s) := by
  unfold execVshr
  exact vint_ok h

theorem execVsra_ok {hdr : Hdr} {d : Dest} {a b : Sel} {ty : VITy} {c : Comp} {s : State} (h : MemOk s) : NextOk
    (execVsra hdr d a b ty c s) := by
  unfold execVsra
  exact vint_ok h

theorem execVabs_ok {hdr : Hdr} {d : Dest} {a : Sel} {ty : VITy} {sat : Bool} {c : Comp} {s : State} (h : MemOk s) :
    NextOk (execVabs hdr d a ty sat c s) := by
  unfold execVabs
  exact vint_ok h

theorem execVneg_ok {hdr : Hdr} {d : Dest} {a : Sel} {ty : VITy} {sat : Bool} {c : Comp} {s : State} (h : MemOk s) :
    NextOk (execVneg hdr d a ty sat c s) := by
  unfold execVneg
  exact vint_ok h

theorem execVmad_ok {hdr : Hdr} {d : Dest} {a b x : Sel} {ty : VITy} {sat : Bool} {c : Comp} {s : State} (h : MemOk s)
    : NextOk (execVmad hdr d a b x ty sat c s) := by
  unfold execVmad
  exact vint_ok h

theorem execVfadd_ok {hdr : Hdr} {d : Dest} {a b : Sel} {ty : VFTy} {rm : RMode} {c : Comp} {s : State} (h : MemOk s)
    : NextOk (execVfadd hdr d a b ty rm c s) := by
  unfold execVfadd
  exact vfloat_ok h

theorem execVfsub_ok {hdr : Hdr} {d : Dest} {a b : Sel} {ty : VFTy} {rm : RMode} {c : Comp} {s : State} (h : MemOk s)
    : NextOk (execVfsub hdr d a b ty rm c s) := by
  unfold execVfsub
  exact vfloat_ok h

theorem execVfmul_ok {hdr : Hdr} {d : Dest} {a b : Sel} {ty : VFTy} {rm : RMode} {c : Comp} {s : State} (h : MemOk s)
    : NextOk (execVfmul hdr d a b ty rm c s) := by
  unfold execVfmul
  exact vfloat_ok h

theorem execVfma_ok {hdr : Hdr} {d : Dest} {a b x : Sel} {ty : VFTy} {rm : RMode} {c : Comp} {s : State} (h : MemOk s)
    : NextOk (execVfma hdr d a b x ty rm c s) := by
  unfold execVfma
  exact vfloat_ok h

theorem execVfms_ok {hdr : Hdr} {d : Dest} {a b x : Sel} {ty : VFTy} {rm : RMode} {c : Comp} {s : State} (h : MemOk s)
    : NextOk (execVfms hdr d a b x ty rm c s) := by
  unfold execVfms
  exact vfloat_ok h

theorem execVfmin_ok {hdr : Hdr} {d : Dest} {a b : Sel} {ty : VFTy} {_rm : RMode} {c : Comp} {s : State} (h : MemOk s)
    : NextOk (execVfmin hdr d a b ty _rm c s) := by
  unfold execVfmin
  exact vfloat_ok h

theorem execVfmax_ok {hdr : Hdr} {d : Dest} {a b : Sel} {ty : VFTy} {_rm : RMode} {c : Comp} {s : State} (h : MemOk s)
    : NextOk (execVfmax hdr d a b ty _rm c s) := by
  unfold execVfmax
  exact vfloat_ok h

theorem execVfabs_ok {hdr : Hdr} {d : Dest} {a : Sel} {ty : VFTy} {_rm : RMode} {c : Comp} {s : State} (h : MemOk s) :
    NextOk (execVfabs hdr d a ty _rm c s) := by
  unfold execVfabs
  exact vfloat_ok h

theorem execVfneg_ok {hdr : Hdr} {d : Dest} {a : Sel} {ty : VFTy} {_rm : RMode} {c : Comp} {s : State} (h : MemOk s) :
    NextOk (execVfneg hdr d a ty _rm c s) := by
  unfold execVfneg
  exact vfloat_ok h

theorem execVfrcp_ok {hdr : Hdr} {d : Dest} {a : Sel} {ty : VFTy} {rm : RMode} {c : Comp} {s : State} (h : MemOk s) :
    NextOk (execVfrcp hdr d a ty rm c s) := by
  unfold execVfrcp
  exact vfloat_ok h

theorem execVfrsq_ok {hdr : Hdr} {d : Dest} {a : Sel} {ty : VFTy} {rm : RMode} {c : Comp} {s : State} (h : MemOk s) :
    NextOk (execVfrsq hdr d a ty rm c s) := by
  unfold execVfrsq
  exact vfloat_ok h

theorem execVcmp_ok {hdr : Hdr} {pt pf : Fin 8} {a b : Sel} {cond : VCond} {ty : VTy} {c : Comp} {s : State}
    (h : MemOk s) : NextOk (execVcmp hdr pt pf a b cond ty c s) := by
  unfold execVcmp
  exact vector_ok h

theorem execMand_ok {hdr : Hdr} {xd xa xb : Fin 8} {na nb : Bool} {s : State} (h : MemOk s) : NextOk
    (execMand hdr xd xa xb na nb s) := by
  unfold execMand
  exact maskLogic_ok h

theorem execMor_ok {hdr : Hdr} {xd xa xb : Fin 8} {na nb : Bool} {s : State} (h : MemOk s) : NextOk
    (execMor hdr xd xa xb na nb s) := by
  unfold execMor
  exact maskLogic_ok h

theorem execMxor_ok {hdr : Hdr} {xd xa xb : Fin 8} {na nb : Bool} {s : State} (h : MemOk s) : NextOk
    (execMxor hdr xd xa xb na nb s) := by
  unfold execMxor
  exact maskLogic_ok h

theorem execMmov_ok {hdr : Hdr} {xd xa : Fin 8} {na : Bool} {s : State} (h : MemOk s) : NextOk
    (execMmov hdr xd xa na s) := by
  unfold execMmov
  exact maskLogic_ok h

theorem execVsel_ok {hdr : Hdr} {d : Dest} {a b : Sel} {ms : Fin 8} {ns : Bool} {c : Comp} {s : State} (h : MemOk s) :
    NextOk (execVsel hdr d a b ms ns c s) := by
  unfold execVsel
  exact vector_ok h

theorem execVperm_ok {hdr : Hdr} {d : Dest} {a b : Sel} {c : Comp} {s : State} (h : MemOk s) : NextOk
    (execVperm hdr d a b c s) := by
  unfold execVperm
  exact vlanes_ok h

theorem execVrot_ok {hdr : Hdr} {d : Dest} {a : Sel} {n : Fin 64} {c : Comp} {s : State} (h : MemOk s) : NextOk
    (execVrot hdr d a n c s) := by
  unfold execVrot
  exact vlanes_ok h

theorem execVbcast_ok {hdr : Hdr} {d : Dest} {a : Sel} {n : Fin 64} {c : Comp} {s : State} (h : MemOk s) : NextOk
    (execVbcast hdr d a n c s) := by
  unfold execVbcast
  exact vlanes_ok h

theorem execVshup_ok {hdr : Hdr} {d : Dest} {a : Sel} {n : Fin 64} {c : Comp} {s : State} (h : MemOk s) : NextOk
    (execVshup hdr d a n c s) := by
  unfold execVshup
  exact vlanes_ok h

theorem execVshdn_ok {hdr : Hdr} {d : Dest} {a : Sel} {n : Fin 64} {c : Comp} {s : State} (h : MemOk s) : NextOk
    (execVshdn hdr d a n c s) := by
  unfold execVshdn
  exact vlanes_ok h

theorem execVcvt_ok {hdr : Hdr} {d : Dest} {a : Sel} {from_ to_ : Fmt} {rm : RMode} {sat : Bool} {c : Comp}
    {s : State} (h : MemOk s) : NextOk (execVcvt hdr d a from_ to_ rm sat c s) := by
  unfold execVcvt
  exact vector_ok h

theorem execVrsum_ok {hdr : Hdr} {d : Dest} {a : Sel} {ty : VTy} {c : Comp} {s : State} (h : MemOk s) : NextOk
    (execVrsum hdr d a ty c s) := by
  unfold execVrsum
  exact vreduce_ok h

theorem execVrmax_ok {hdr : Hdr} {d : Dest} {a : Sel} {ty : VTy} {c : Comp} {s : State} (h : MemOk s) : NextOk
    (execVrmax hdr d a ty c s) := by
  unfold execVrmax
  exact vreduce_ok h

theorem execVrmin_ok {hdr : Hdr} {d : Dest} {a : Sel} {ty : VTy} {c : Comp} {s : State} (h : MemOk s) : NextOk
    (execVrmin hdr d a ty c s) := by
  unfold execVrmin
  exact vreduce_ok h

theorem execVmov_ok {hdr : Hdr} {d : Dest} {a : Sel} {s : State} (h : MemOk s) : NextOk (execVmov hdr d a s) := by
  unfold execVmov
  exact vlanes_ok h

theorem execVpush_ok {hdr : Hdr} {q : Fin 8} {a : Sel} {s : State} (h : MemOk s) : NextOk (execVpush hdr q a s) := by
  unfold execVpush
  exact issue_ok h (fun _ ht => OutOk.ite ht ht.modMe.produce)

theorem execVbcs_ok {hdr : Hdr} {d : Dest} {a : Sel} {s : State} (h : MemOk s) : NextOk (execVbcs hdr d a s) := by
  unfold execVbcs
  exact vector_ok h

theorem execVmvs_ok {hdr : Hdr} {d : Dest} {a : Sel} {s : State} (h : MemOk s) : NextOk (execVmvs hdr d a s) := by
  unfold execVmvs
  exact vector_ok h

theorem execVli_ok {hdr : Hdr} {d : Dest} {imm : BitVec 12} {s : State} (h : MemOk s) : NextOk (execVli hdr d imm s)
    := by
  unfold execVli
  exact vlanes_ok h

/-! ### The matrix unit -/

theorem MemOk.tilePort {s : State} {k : CoreId} {l : TileLoad} (h : MemOk s) : MemOk (s.tilePort k l) := by
  unfold State.tilePort
  dsimp only
  split
  · exact h
  · split
    · exact h.wakeBanks.modCore.modCore
    · split
      · exact h.unwaitBanks.modCore.takeTrap
      · split
        · split
          · exact h.unwaitBanks.modCore.modCore.modCore fun _ hc => by simpa using hc
          · exact h.unwaitBanks.modCore.modCore
        · exact h.unwaitBanks.modCore.modCore

theorem MemOk.pumpTiles {s : State} {k : CoreId} (h : MemOk s) : MemOk (s.pumpTiles k) :=
  h.foldl fun _ _ ht => ht.tilePort

theorem MemOk.startTile {s : State} {t : Fin 8} {n base cycles first : Nat} {shape : Option (ShapeRec × Nat)}
    {fate : Fate} {far : Bool} {comp : Comp} (h : MemOk s) : MemOk
    (s.startTile t n base cycles first shape fate far comp) :=
  h.modMe.tilePort

theorem execTld_ok {hdr : Hdr} {t : Fin 8} {a : Sel} {fate : Fate} {off : BitVec 24} {c : Comp} {s : State}
    (h : MemOk s) : NextOk (execTld hdr t a fate off c s) := by
  unfold execTld
  exact issue_ok h (fun _ ht => OutOk.ite ht (ht.localCheck (fun _ _ hu => hu.startTile)))

theorem execTldw_ok {hdr : Hdr} {t : Fin 8} {a b : Sel} {fate : Fate} {row0 col0 : BitVec 12} {c : Comp} {s : State}
    (h : MemOk s) : NextOk (execTldw hdr t a b fate row0 col0 c s) := by
  unfold execTldw
  refine issue_ok h (fun _ ht => ?_)
  split
  · exact ht
  · refine ht.localCheck (fun _ _ hu => ?_)
    split
    · exact hu
    · exact hu.startTile

theorem execTileReady_ok {k : CoreId} {t : Fin 8} {s : State} (h : MemOk s) : NextOk (execTileReady k t s) := by
  unfold execTileReady
  split
  · exact h
  · exact h.modCore

theorem execMma_ok {hdr : Hdr} {acc : Fin 4} {z : Bool} {ta tb : Fin 8} {m1 : Fin 64} {f : DrainF} {c : Comp}
    {s : State} (h : MemOk s) : NextOk (execMma hdr acc z ta tb m1 f c s) := by
  unfold execMma
  dsimp only
  refine issue_ok h (fun _ ht => ?_)
  split
  · exact ht
  · split
    · exact ht
    · split
      · exact ht
      · split
        · exact ht
        · exact OutOk.ite ht (ht.cmdHere.modMe (fun _ hc => by simpa using hc))

theorem execDrain_ok {hdr : Hdr} {acc : Fin 4} {f : DrainF} {c : Comp} {s : State} (h : MemOk s) : NextOk
    (execDrain hdr acc f c s) := by
  unfold execDrain
  exact issue_ok h (fun _ ht => OutOk.ite ht (OutOk.ite ht (OutOk.ite ht ht.modMe)))

theorem execMmaBLoadStart_ok {k : CoreId} {id : Nat} {s : State} (h : MemOk s) : NextOk (execMmaBLoadStart k id s) :=
    by
  unfold execMmaBLoadStart
  refine h.modCore (fun _ hc => ?_)
  split
  · exact hc
  · split
    · exact hc
    · exact hc

theorem execMmaBLoadEnd_ok {k : CoreId} {id : Nat} {s : State} (h : MemOk s) : NextOk (execMmaBLoadEnd k id s) := by
  unfold execMmaBLoadEnd
  exact h.modCore fun _ hc => by split <;> exact hc

theorem execMmaAStreamStart_ok {k : CoreId} {id : Nat} {s : State} (h : MemOk s) : NextOk (execMmaAStreamStart k id s)
    := by
  unfold execMmaAStreamStart
  refine h.modCore (fun _ hc => ?_)
  split
  · exact hc
  · split
    · exact hc
    · exact hc

theorem execMmaAStreamEnd_ok {k : CoreId} {id : Nat} {s : State} (h : MemOk s) : NextOk (execMmaAStreamEnd k id s) :=
    by
  unfold execMmaAStreamEnd
  refine h.modCore (fun _ hc => ?_)
  split
  · exact hc
  · exact Core.foldl_wf (fun _ _ hd => by simpa using hd) _ hc

theorem execMmaResultsFinal_ok {k : CoreId} {id : Nat} {s : State} (h : MemOk s) : NextOk (execMmaResultsFinal k id s)
    := by
  refine h.modCore fun c hc => ?_
  split
  · simpa only [Core.offer_mem, Core.setMma_mem, Core.fmterrRaise_mem, Core.modAcc_mem] using hc
  · split <;> exact hc

theorem execAbftCheckFinal_ok {k : CoreId} {a : Fin 4} {s : State} (h : MemOk s) : NextOk (execAbftCheckFinal k a s)
    := by
  unfold execAbftCheckFinal
  dsimp only
  split
  · exact h
  · exact NextOk.ite (h.modCore.detectedError.modCore.ite h.modCore.detectedError)
      (NextOk.ite h.modCore h.modCore.modCore)

/-! ### Drains -/

theorem execDwin_ok {hdr : Hdr} {x : Fin 4} {a b : Sel} {len : BitVec 24} {c : Comp} {s : State} (h : MemOk s) :
    NextOk (execDwin hdr x a b len c s) := by
  unfold execDwin
  exact issue_ok h (fun _ ht => OutOk.ite ht ht.modMe)

theorem MemOk.stopDrain {s : State} {k : CoreId} {d : DrainSt} {stop cause detail elem addr cursor : Nat}
    (h : MemOk s) : MemOk (s.stopDrain k d stop cause detail elem addr cursor) :=
  h.modCore.takeTrap

theorem execDrainStart_ok {k : CoreId} {s : State} (h : MemOk s) : NextOk (execDrainStart k s) := by
  unfold execDrainStart
  dsimp only
  split
  · exact h
  · split
    · exact h
    · split
      · exact h
      · split
        · exact h.modCore.stopDrain
        · split
          · exact h.modCore.stopDrain
          · split
            · exact h.modCore.stopDrain
            · exact h.modCore.modCore fun _ hc => by simpa using hc

theorem execDrainElement_ok {k : CoreId} {s : State} (h : MemOk s) : NextOk (execDrainElement k s) := by
  unfold execDrainElement
  dsimp only
  split
  · exact h
  · rename_i d _
    refine NextOk.ite (NextOk.next (h.cmdHere.modCore fun _ hc => by simpa using hc)) (NextOk.ite h ?_)
    split
    · exact h.stopDrain
    · refine NextOk.ite (NextOk.next (h.modCore fun _ hc => by simpa using hc)) (NextOk.ite h (NextOk.next ?_))
      refine (h.cmdHere.ite h).modCore fun c hc => ?_
      have stored (e : Core) (he : e.mem.wf = true) (i j : Nat) (l : List DStore) :
          (l.foldl (fun c x => c.drainStore d.id i j x) e).mem.wf = true :=
        Core.foldl_wf (fun c x hc => Core.drainStore_wf hc ..) l he
      split
      · rw [Core.finishDrain_mem, Core.fmterrRaise_mem]
        refine stored _ ?_ _ _ _
        rw [Core.setDrain_mem]
        split <;> simpa using hc
      · rw [Core.fmterrRaise_mem]
        refine stored _ ?_ _ _ _
        rw [Core.setDrain_mem]
        split <;> simpa using hc

theorem MemOk.pumpDrains {s : State} {k : CoreId} (h : MemOk s) : MemOk (s.pumpDrains k) :=
  (h.modCore (fun _ hc => by simpa [Core.foldl_mem] using hc)).foldl fun _ _ ht => (ht.modCore.ite ht).modCore.ite
    (ht.modCore.ite ht)

/-! ### Special registers -/

theorem execMfsr_ok {hdr : Hdr} {r : Fin 32} {srn : BitVec 12} {s : State} (h : MemOk s) : NextOk
    (execMfsr hdr r srn s) := by
  unfold execMfsr
  refine issue_ok h (fun _ ht => ?_)
  split
  · exact ht.produce
  · exact ht

theorem execMtsr_ok {hdr : Hdr} {r : Fin 32} {srn : BitVec 12} {s : State} (h : MemOk s) : NextOk
    (execMtsr hdr r srn s) := by
  unfold execMtsr
  refine issue_ok h fun t ht => ?_
  split
  · rename_i heq
    exact OutOk.done (ht.setCore ((congrArg Mem.wf (Core.writeSr_mem _ _ _ _ _ heq)).trans (ht.cores _)))
  · exact ht

/-! ### Teams and barriers -/

theorem MemOk.sendRelease {s : State} {core : CoreId} {key : TaskKey} {t : Nat} {epoch : BitVec 16} {status pts : Nat}
    (h : MemOk s) : MemOk (s.sendRelease core key t epoch status pts) :=
  h.send

theorem MemOk.endEpisode {s : State} {t status : Nat} (h : MemOk s) : MemOk (s.endEpisode t status) :=
  (h.foldl fun _ _ ht => ht.sendRelease.ite ht).frame.setTeam

theorem MemOk.testEpisode {s : State} {t : Nat} (h : MemOk s) : MemOk (s.testEpisode t) := h.endEpisode.ite h

theorem MemOk.takeArrival {s : State} {t : Nat} {epoch : BitVec 16} {pts : Nat} {a : Arriver} (h : MemOk s) : MemOk
    (s.takeArrival t epoch pts a) := by
  unfold State.takeArrival
  dsimp only
  split
  · exact h.sendRelease
  · split
    · exact h.sendRelease
    · exact h.sendRelease.ite h.setTeam

theorem MemOk.pumpTeams {s : State} (h : MemOk s) : MemOk s.pumpTeams := h.frame

theorem execEpisodeTimeout_ok {t : Fin 256} {s : State} (h : MemOk s) : NextOk (execEpisodeTimeout t s) := by
  unfold execEpisodeTimeout
  exact h.endEpisode.ite h

theorem execGrpctlEnable_ok {t : Fin 256} {v : BitVec 64} {s : State} (h : MemOk s) : NextOk (execGrpctlEnable t v s)
    := by
  unfold execGrpctlEnable
  dsimp only
  refine NextOk.ite h (NextOk.ite (NextOk.next h.setTeam) (NextOk.next ?_))
  generalize hs : s.setTeam t.val _ = u
  have hu : MemOk u := hs ▸ h.setTeam
  refine ⟨hu.device, fun j => ?_, hu.saved, hu.boot, hu.dump⟩
  simp only [State.core, Fin.getElem_fin, Vector.getElem_ofFn]
  split <;> exact hu.cores j

theorem execGrpctlDisable_ok {t : Fin 256} {s : State} (h : MemOk s) : NextOk (execGrpctlDisable t s) := by
  unfold execGrpctlDisable
  exact NextOk.ite h h.endEpisode.setTeam.mapCores

theorem execGrpctlRearm_ok {t : Fin 256} {s : State} (h : MemOk s) : NextOk (execGrpctlRearm t s) := by
  unfold execGrpctlRearm
  exact h.frame.setTeam.ite h

theorem withTeam_ok {a : Sel} {s : State} {go : Nat → Fin 16 → Out} (h : MemOk s) (hg : ∀ t r, OutOk (go t r)) :
    OutOk (withTeam a s go) := by
  unfold withTeam
  refine OutOk.ite h ?_
  split
  · exact hg _ _
  · exact h

theorem execGroupRank_ok {hdr : Hdr} {d : Dest} {a : Sel} {s : State} (h : MemOk s) : NextOk (execGroupRank hdr d a s)
    := by
  unfold execGroupRank
  exact issue_ok h (fun _ ht => withTeam_ok ht (fun _ _ => ht.produce))

theorem execGroupSize_ok {hdr : Hdr} {d : Dest} {a : Sel} {s : State} (h : MemOk s) : NextOk (execGroupSize hdr d a s)
    := by
  unfold execGroupSize
  exact issue_ok h (fun _ ht => withTeam_ok ht (fun _ _ => ht.produce))

theorem barrier_ok {hdr : Hdr} {d : Dest} {a : Sel} {status : Bool} {s : State} (h : MemOk s) : NextOk
    (barrier hdr d a status s) := by
  unfold barrier
  exact issue_ok h (fun _ ht => withTeam_ok ht (fun _ _ => ht))

theorem execBar_ok {hdr : Hdr} {a : Sel} {s : State} (h : MemOk s) : NextOk (execBar hdr a s) := by
  unfold execBar
  exact barrier_ok h

theorem execBarw_ok {hdr : Hdr} {d : Dest} {a : Sel} {s : State} (h : MemOk s) : NextOk (execBarw hdr d a s) := by
  unfold execBarw
  exact barrier_ok h

theorem execBarrierArrivalSend_ok {k : CoreId} {s : State} (h : MemOk s) : NextOk (execBarrierArrivalSend k s) := by
  unfold execBarrierArrivalSend
  dsimp only
  split
  · split
    · exact h
    · exact NextOk.ite h h.send.modCore
  · exact h

theorem MemOk.sendComb {s : State} {c : DieComb} (h : MemOk s) : MemOk (s.sendComb c) := by
  have ht : MemOk (s.send (s.upDelay c.die) (.combined c.die c.team c.epoch c.pts c.mem)) := h.send
  exact ht.frame

theorem MemOk.dropMsg {s : State} {m : Nat × Msg} (h : MemOk s) : MemOk (s.dropMsg m) := h.frame

theorem execDieCombinerArrival_ok {d : Fin 2} {s : State} (h : MemOk s) : NextOk (execDieCombinerArrival d s) := by
  unfold execDieCombinerArrival
  split
  · extract_lets t
    have ht : MemOk t := h.dropMsg
    split
    · exact NextOk.next (ht.frame.sendComb.ite ht.frame)
    · exact NextOk.ite (NextOk.next ht.send) (NextOk.next (ht.frame.sendComb.ite ht.frame))
  · split
    · exact h.sendComb
    · exact h

theorem execPackageCombinerArrival_ok {d : Fin 2} {s : State} (h : MemOk s) : NextOk (execPackageCombinerArrival d s)
    := by
  unfold execPackageCombinerArrival
  split
  · exact (h.dropMsg.foldl fun _ _ ht => ht.takeArrival).testEpisode
  · exact h

theorem MemOk.applyToken {s : State} {k : CoreId} {key : TaskKey} {ev t : Nat} (h : MemOk s) : MemOk
    (s.applyToken k key ev t) := by
  unfold State.applyToken
  dsimp only
  split
  · exact h
  · exact h.ite (h.setTeam.endEpisode.ite h.setTeam.testEpisode)

theorem execMemberTokenArrival_ok {k : CoreId} {ev : Fin 5} {s : State} (h : MemOk s) : NextOk
    (execMemberTokenArrival k ev s) := by
  unfold execMemberTokenArrival
  split
  · exact h.dropMsg.foldl fun _ _ ht => ht.applyToken
  · exact h

/-! ### Tasks and migration -/

theorem MemOk.vcount {s : State} {k : CoreId} {p : PartId} {kind : AccKind} {fuel va n : Nat} (h : MemOk s) :
    MemOk (s.vcount k p kind fuel va n) := by
  induction fuel generalizing s va n with
  | zero => exact h
  | succ fuel ih =>
    unfold State.vcount
    split
    · exact h
    · refine ih ?_
      split
      · exact h.walkCount.foldl fun _ _ ht => ht.migCount
      · exact h.walkCount

theorem MemOk.vput {s : State} {d : Fin 2} {p : PartId} {fuel va : Nat} {bs : List (BitVec 8)} (h : MemOk s) :
    MemOk (s.vput d p fuel va bs) := by
  induction fuel generalizing s va bs with
  | zero => exact h
  | succ fuel ih =>
    unfold State.vput
    split
    · exact h
    · refine ih ?_
      split
      · exact h.untimedWrite
      · exact h

theorem MemOk.noteLaunch {s : State} {r : LaunchRec} {ds : List (Fin 2)} (h : MemOk s) : MemOk (s.noteLaunch r ds) :=
  h.ite h.frame

theorem MemOk.contextEvent {s : State} {k : CoreId} {key : TaskKey} {gen : BitVec 32} {event code : Nat} (h : MemOk s)
    : MemOk (s.contextEvent k key gen event code) :=
  h.tansy

theorem MemOk.gangEnd {s : State} {key : TaskKey} {aborted : Bool} (h : MemOk s) : MemOk (s.gangEnd key aborted) :=
  h.mapDies

theorem MemOk.abortTask {s : State} {k : CoreId} {code : Nat} (h : MemOk s) : MemOk (s.abortTask k code) := by
  unfold State.abortTask
  split
  · exact h
  · exact h.rollback.modCore.status.contextEvent.sendToken.gangEnd

theorem MemOk.abortSaved {s : State} {x : Saved} {code : Nat} (h : MemOk s) (hx : x.ctx.mem.wf = true) :
    MemOk (s.abortSaved x code) := by
  unfold State.abortSaved
  extract_lets key t u
  have ht : MemOk t := h.setSaved fun y hy => by
    obtain ⟨z, hz, hzy⟩ := List.mem_filterMap.mp hy
    split at hzy
    · split at hzy
      · exact Option.some.inj hzy ▸ hx
      · cases hzy
    · exact Option.some.inj hzy ▸ h.saved z hz
  have hu : MemOk u := ht.status
  exact hu.contextEvent.sendToken.gangEnd

theorem MemOk.finishTask {s : State} {k : CoreId} (h : MemOk s) : MemOk (s.finishTask k) := by
  unfold State.finishTask
  split
  · exact h
  · exact h.dropPin.modCore

theorem MemOk.settleDone {s : State} {k : CoreId} (h : MemOk s) : MemOk (s.settleDone k) :=
  h.foldl fun _ _ ht => ht.modCore.status.contextEvent.sendToken.gangEnd

theorem MemOk.releaseSaved {s : State} {key : TaskKey} {f : Mid → Mid} (h : MemOk s) : MemOk (s.releaseSaved key f) :=
    by
  unfold State.releaseSaved
  split
  · exact h
  · rename_i x heq
    have hx := h.saved x (List.mem_of_find?_eq_some heq)
    refine MemOk.vput (h.setSaved fun y hy => ?_)
    obtain ⟨z, hz, rfl⟩ := List.mem_map.mp hy
    split
    · exact hx
    · exact h.saved z hz

theorem execBarrierReleaseArrival_ok {k : CoreId} {s : State} (h : MemOk s) : NextOk (execBarrierReleaseArrival k s)
    := by
  unfold execBarrierReleaseArrival
  dsimp only
  split
  · split
    · exact (h.dropMsg.trigger.ite h.dropMsg).modCore fun _ hc => by split <;> simpa using hc
    · exact (h.dropMsg.trigger.ite h.dropMsg).releaseSaved
  · exact h.modCore fun _ hc => by split <;> simpa using hc

theorem MemOk.putSections {s : State} {k : CoreId} {p : PartId} {base : Nat} {l : List (Nat × List (BitVec 8))}
    (h : MemOk s) : MemOk (s.putSections k p base l) :=
  h.foldl fun _ _ ht => ht.vcount.vput

theorem MemOk.beginSave {s : State} {k : CoreId} {depth : Nat} (h : MemOk s) : MemOk (s.beginSave k depth) := by
  unfold State.beginSave
  exact h.frame.modCore

theorem MemOk.preemptWait {s : State} {k : CoreId} (h : MemOk s) : MemOk (s.preemptWait k) := by
  unfold State.preemptWait
  split
  · exact h
  · split
    · exact h
    · exact h.rollback.beginSave.ite h

theorem MemOk.storeContext {s : State} {k : CoreId} {t : TaskSt} {depth : Nat} {migrating : Bool} (h : MemOk s) :
    MemOk (s.storeContext k t depth migrating) := by
  refine MemOk.modCore (h.setSaved fun x hx => ?_)
  rcases List.mem_append.mp hx with hx | hx
  · exact h.saved x (List.mem_of_mem_filter hx)
  · rw [List.mem_singleton.mp hx]
    exact h.cores k

theorem execSaveComplete_ok {k : CoreId} {s : State} (h : MemOk s) : NextOk (execSaveComplete k s) := by
  unfold execSaveComplete
  dsimp only
  split
  · exact h
  · split
    · split
      · exact h
      · split
        · exact h.abortTask
        · exact h.putSections.sendAbsence.contextEvent.storeContext
    · exact h

theorem execMigrationPathComplete_ok {k : CoreId} {s : State} (h : MemOk s) : NextOk (execMigrationPathComplete k s)
    := by
  unfold execMigrationPathComplete
  dsimp only
  split
  · exact h
  · split
    · split
      · exact h
      · split
        · exact h.abortTask
        · exact h.putSections.contextEvent.storeContext
    · exact h

/-! ### Loading and saving of contexts -/

theorem MemOk.refuse {s : State} {k : CoreId} {b : Bind} {code : Nat} (h : MemOk s) : MemOk (s.refuse k b code) := by
  unfold State.refuse
  extract_lets s1 s2 s3
  have h1 : MemOk s1 := h.modCore
  have h2 : MemOk s2 := h1.status.ite h1
  have h3 : MemOk s3 := h2.gangEnd.ite h2
  refine MemOk.ite (h3.setSaved fun x hx => ?_) h3
  obtain ⟨z, hz, rfl⟩ := List.mem_map.mp hx
  split <;> exact h3.saved z hz

theorem MemOk.checkRoute {s : State} {k : CoreId} {key : TaskKey} {r : BitVec 32} (h : MemOk s) : SndOk
    (s.checkRoute k key r) := by
  unfold State.checkRoute
  split
  · exact h
  · exact SndOk.ite h h.regenRoute

theorem MemOk.checkRoutes {s : State} {k : CoreId} {key : TaskKey} {l : List (BitVec 32)} (h : MemOk s) :
    SndOk (s.checkRoutes k key l) := by
  induction l generalizing s with
  | nil => exact h
  | cons r l ih =>
    unfold State.checkRoutes
    split
    all_goals
      rename_i heq
      have ht : MemOk _ := h.checkRoute.of heq
    · exact ht
    · split
      all_goals
        rename_i heq
        have hu : MemOk _ := (ih ht).of heq
        exact hu

theorem MemOk.fixEntries {s : State} {j k : CoreId} {idx : Nat} {l : List (BitVec 32)} (h : MemOk s) :
    SndOk (s.fixEntries j k idx l) := by
  induction l generalizing s with
  | nil => exact h
  | cons r l ih =>
    unfold State.fixEntries
    dsimp only
    refine SndOk.mk (ih ?_).state
    split
    · exact h
    · split
      all_goals
        rename_i heq
        have ht : MemOk _ := h.regenRoute.of heq
        exact ht

theorem MemOk.fixRoutes {s : State} {k : CoreId} {key : TaskKey} (h : MemOk s) : MemOk (s.fixRoutes k key) := by
  unfold State.fixRoutes
  refine h.foldl fun _ _ ht => ?_
  split
  · exact ht.fixEntries.state.modCore.ite ht
  · exact ht

theorem MemOk.cntRequests {s : State} {k : CoreId} {p : PartId} {a : Nat} {of_ : Fin 8 → Bool} (h : MemOk s) : MemOk
    (s.cntRequests k p a of_) :=
  (h.migCount.ite h).migCount.ite (h.migCount.ite h)

theorem MemOk.worldSwitch {s : State} {k : CoreId} {q : PartId} (h : MemOk s) : MemOk (s.worldSwitch k q) := by
  unfold State.worldSwitch
  dsimp only
  split
  · exact h
  · refine MemOk.modCore ?_
    split
    · refine MemOk.cntRequests ?_
      split
      · exact h
      · split
        · exact h
        · exact h.cntRequests.foldl fun _ _ ht => ht.ringWrite.ite ht
    · split
      · exact h
      · split
        · exact h
        · exact h.cntRequests.foldl fun _ _ ht => ht.ringWrite.ite ht

theorem MemOk.loadCount {s : State} {k : CoreId} {b : Bind} (h : MemOk s) : MemOk (s.loadCount k b) :=
  h.foldl fun _ _ ht => ht.vcount

theorem MemOk.takeSaved {s : State} {b : Bind} (h : MemOk s) : ∀ x ∈ s.takeSaved b, x.ctx.mem.wf = true := by
  unfold State.takeSaved
  split
  · exact h.saved
  · rename_i x heq
    intro y hy
    obtain ⟨z, hz, hzy⟩ := List.mem_filterMap.mp hy
    split at hzy
    · split at hzy
      · rw [← Option.some.inj hzy]
        exact h.saved x (List.mem_of_find?_eq_some heq)
      · cases hzy
    · exact Option.some.inj hzy ▸ h.saved z hz

theorem MemOk.install {s : State} {k : CoreId} {b : Bind} {c : Core} {rte : List (BitVec 32)} (h : MemOk s)
    (hc : c.mem.wf = true) : MemOk (s.install k b c rte) := by
  unfold State.install
  dsimp only [State.drawDelay]
  generalize ht : s.worldSwitch k b.pid = t
  have h1 : MemOk t := ht ▸ h.worldSwitch
  have h2 : MemOk { t with free := t.free + 1 } := h1.frame
  have h3 : MemOk { t with free := t.free + 1, saved := State.takeSaved { t with free := t.free + 1 } b } := h2.setSaved h2.takeSaved
  refine MemOk.contextEvent (MemOk.ite (MemOk.elog ?_) ?_)
  all_goals exact (MemOk.setCore h3.frame (by exact hc)).fixRoutes.refetch

/-- The context that a load brings to a core holds its local store in canonical form. -/
theorem MemOk.contextFor {s : State} {k : CoreId} {b : Bind} {x : Image} (h : MemOk s) :
    ∀ c ∈ s.contextFor k b x, c.mem.wf = true := by
  unfold State.contextFor
  dsimp only
  intro c hc
  split at hc
  · obtain ⟨r, _, rfl⟩ := Option.map_eq_some_iff.mp hc
    exact Core.launch_wf ..
  · split at hc
    · exact Option.some.inj hc ▸ Core.nodeResume_wf ..
    · cases hc
  · obtain ⟨y, hy, rfl⟩ := Option.map_eq_some_iff.mp hc
    exact Core.restore_wf (Core.reread_wf (h.saved y (List.mem_of_find?_eq_some hy)) _) ..

theorem execDispatch_ok {k : CoreId} {s : State} (h : MemOk s) : NextOk (execDispatch k s) := by
  unfold execDispatch
  refine NextOk.ite h ?_
  split
  · exact h
  · split
    · exact h.refuse
    · split
      · exact h.refuse
      · dsimp only
        refine NextOk.ite (NextOk.next h.refuse) ?_
        split
        all_goals
          rename_i heq
          have ht : MemOk _ := h.checkRoutes.of heq
        · exact ht.refuse
        · refine NextOk.ite (NextOk.next ht.refuse) ?_
          split
          · exact ht.refuse
          · rename_i hc
            exact ht.loadCount.install (ht.contextFor _ hc)

theorem execContextLoadComplete_ok {k : CoreId} {s : State} (h : MemOk s) : NextOk (execContextLoadComplete k s) := by
  unfold execContextLoadComplete
  split
  · exact h
  · split
    · exact NextOk.ite h (h.modCore.sendToken.ite h.modCore)
    · exact h

/-! ### Scheduling -/

theorem execYieldN_ok {hdr : Hdr} {s : State} (h : MemOk s) : NextOk (execYieldN hdr s) := by
  unfold execYieldN
  exact issue_ok h (fun _ ht => OutOk.ite ht.rollback.modCore.beginSave ht)

theorem launchRead_ok {pa va : Nat} {nomig : Bool} {s : State} (h : MemOk s) : OutOk (launchRead pa va nomig s) := by
  have hp : SomeOk (if s.halfSeen ⟨.hbm, pa, 0, 64, none⟩ then none else s.pinClaims s.curCore [⟨.hbm, pa, 0, 64, none⟩]) :=
    SomeOk.ite (a := none) trivial h.pinClaims
  unfold launchRead
  dsimp only
  split
  · exact h
  · rename_i heq
    have ht : MemOk _ := hp.of heq
    split
    · exact ht.migCount
    · split
      · exact ht.migCount.cohReplay
      · rename_i heq
        have hu : MemOk _ := ht.migCount.readPiece.of heq
        exact OutOk.ite hu (OutOk.done hu.modMe)

theorem execLaunch_ok {hdr : Hdr} {a : Sel} {c : Comp} {s : State} (h : MemOk s) : NextOk (execLaunch hdr a c s) := by
  unfold execLaunch
  exact issue_ok h (fun _ ht => OutOk.ite ht (ht.storeXlate (fun _ _ _ hu => OutOk.ite (OutOk.ite hu hu)
    (OutOk.ite hu (launchRead_ok hu)))))

theorem execLaunchRecordPost_ok {k : CoreId} {s : State} (h : MemOk s) : NextOk (execLaunchRecordPost k s) := by
  unfold execLaunchRecordPost
  split
  · exact h
  · exact h.noteLaunch.modDie.modCore

theorem execSlotStage_ok {k : CoreId} {rec : BitVec 512} {s : State} (h : MemOk s) : NextOk (execSlotStage k rec s) :=
    by
  unfold execSlotStage
  exact h.modCore

theorem MemOk.requestPreempt {s : State} {k : CoreId} (h : MemOk s) : MemOk (s.requestPreempt k) := by
  unfold State.requestPreempt
  split
  · exact h
  · split
    · exact h
    · exact h
    · exact h.modCore
    · exact h.modCore
    · exact h.modCore

theorem execSlotPreempt_ok {k : CoreId} {s : State} (h : MemOk s) : NextOk (execSlotPreempt k s) := by
  unfold execSlotPreempt
  exact h.requestPreempt

theorem MemOk.cancelActive {s : State} {k : CoreId} (h : MemOk s) : MemOk (s.cancelActive k) := by
  unfold State.cancelActive
  split
  · exact h
  · exact h.abortTask.ite (h.abortTask.ite h.modCore)

theorem MemOk.dropBind {s : State} {k : CoreId} {b : Bind} (h : MemOk s) : MemOk (s.dropBind k b) := by
  unfold State.dropBind
  split
  · rename_i x heq
    refine h.abortSaved ?_
    split at heq
    · cases heq
    · exact h.saved x (List.mem_of_find?_eq_some heq)
  · extract_lets t u
    have ht : MemOk t := h.status.ite h
    have hu : MemOk u := ht.sendToken
    exact hu.gangEnd.ite hu

theorem MemOk.cancelStaged {s : State} {k : CoreId} (h : MemOk s) : MemOk (s.cancelStaged k) := by
  unfold State.cancelStaged
  split
  · exact h
  · exact h.modCore.dropBind

theorem execSlotCancela_ok {k : CoreId} {s : State} (h : MemOk s) : NextOk (execSlotCancela k s) := by
  unfold execSlotCancela
  exact h.cancelActive

theorem execSlotCancels_ok {k : CoreId} {s : State} (h : MemOk s) : NextOk (execSlotCancels k s) := by
  unfold execSlotCancels
  split
  · exact h.cancelStaged
  · exact NextOk.ite h.modCore h
  · exact h

theorem execSlotResume_ok {k : CoreId} {s : State} (h : MemOk s) : NextOk (execSlotResume k s) := by
  unfold execSlotResume
  exact h.ite h.resume

theorem execQstepForward_ok {off : BitVec 40} {s : State} (h : MemOk s) : NextOk (execQstepForward off s) := by
  unfold execQstepForward
  exact h.frame.ite h.frame

theorem execQstepBackward_ok {off : BitVec 40} {s : State} (h : MemOk s) : NextOk (execQstepBackward off s) := by
  unfold execQstepBackward
  exact h.frame.ite h.frame

theorem execQstepHoldEnd_ok {s : State} (h : MemOk s) : NextOk (execQstepHoldEnd s) := by
  unfold execQstepHoldEnd
  exact h.frame.ite h

theorem MemOk.ttStage {s : State} {k : CoreId} {b : Bind} (h : MemOk s) : MemOk (s.ttStage k b) := by
  unfold State.ttStage
  refine (MemOk.modCore ?_).requestPreempt
  split
  · exact h
  · exact h.modDie

theorem MemOk.ttLaunch {s : State} {d : Fin 2} {i : Fin 256} (h : MemOk s) : MemOk (s.ttLaunch d i) := by
  unfold State.ttLaunch
  dsimp only
  split
  · exact h.modDie.status.trigger.ite h.modDie.status
  · split
    · exact h.status
    · exact h.status.ite (h.noteLaunch.modDie.foldl fun _ _ ht => ht.ttStage)

theorem execTtSlotStart_ok {d : Fin 2} {i : Fin 256} {s : State} (h : MemOk s) : NextOk (execTtSlotStart d i s) := by
  unfold execTtSlotStart
  exact NextOk.ite h (NextOk.ite h.modDie.modDie h.modDie.modDie.ttLaunch)

theorem execTtSlotEnd_ok {d : Fin 2} {i : Fin 256} {s : State} (h : MemOk s) : NextOk (execTtSlotEnd d i s) := by
  unfold execTtSlotEnd
  exact h.modDie fun _ hc => by split <;> exact hc

/-! ### Regions -/

theorem MemOk.settle {s : State} {k : CoreId} (h : MemOk s) : MemOk (s.settle k) := by
  unfold State.settle
  dsimp only
  refine MemOk.preemptWait ?_
  split
  · split
    · exact h.modCore.beginSave.ite h.modCore
    · split
      · exact h.abortTask.modCore.beginSave.ite h.abortTask.modCore
      · split
        · exact h.modCore.beginSave.ite h.modCore
        · exact h.logCore.rollback.beginSave.modCore.beginSave.ite h.logCore.rollback.beginSave.modCore
        · exact h.takeTraps.modCore.beginSave.ite h.takeTraps.modCore
  · refine MemOk.modCore ?_
    split
    · exact h
    · split
      · exact h.abortTask
      · split
        · exact h
        · exact h.logCore.rollback.beginSave
        · exact h.takeTraps

theorem execRegionWatchdog_ok {k : CoreId} {s : State} (h : MemOk s) : NextOk (execRegionWatchdog k s) := by
  unfold execRegionWatchdog
  exact h.settle.ite h

theorem execPreemptionOverdue_ok {k : CoreId} {s : State} (h : MemOk s) : NextOk (execPreemptionOverdue k s) := by
  unfold execPreemptionOverdue
  exact h.settle.ite h

theorem execCompletionSignal_ok {k : CoreId} {x : Fin 8} {s : State} (h : MemOk s) : NextOk
    (execCompletionSignal k x s) := by
  unfold execCompletionSignal
  exact h.modCore fun _ hc => by split <;> exact hc

theorem MemOk.checkReady {s : State} {k : CoreId} (h : MemOk s) : MemOk (s.checkReady k) :=
  (h.modCore (fun _ hc => by simpa using hc)).ite h

theorem MemOk.releaseEffects {s : State} {k : CoreId} {ts : Nat} {tag : BitVec 8} (h : MemOk s) : MemOk
    (s.releaseEffects k ts tag) := by
  unfold State.releaseEffects
  exact ((h.foldl fun _ _ ht => ht.frame.modCore.ite ht).foldl fun _ _ ht => ht.cmdHere.ite ht).modCore

theorem MemOk.unpin {s : State} {k : CoreId} (h : MemOk s) : MemOk (s.unpin k) := h.dropClaims.dropPin

theorem MemOk.commitTrace {s : State} {k : CoreId} {tag : BitVec 8} {p halt : Bool} {ts : Nat}
    {pcs : Vector (BitVec 48) 4} (h : MemOk s) : MemOk (s.commitTrace k tag p halt ts pcs) := by
  unfold State.commitTrace
  split
  · exact h
  · refine h.tansy.foldl fun _ _ ht => ?_
    split
    · exact ht.tansy.ite ht
    · exact ht

theorem execCommitComplete_ok {k : CoreId} {s : State} (h : MemOk s) : NextOk (execCommitComplete k s) := by
  unfold execCommitComplete
  dsimp only
  split
  · exact h
  · split
    · exact h
    · split
      · exact ((h.commitTrace.releaseEffects.modCore (fun _ hc => by simpa using hc)).unpin.ite
          (h.commitTrace.releaseEffects.modCore (fun _ hc => by simpa using hc))).finishTask
      · split
        · exact ((h.commitTrace.releaseEffects.modCore (fun _ hc => by simpa using hc)).unpin.ite
            (h.commitTrace.releaseEffects.modCore (fun _ hc => by simpa using hc))).preemptWait
        · exact ((h.commitTrace.releaseEffects.modCore (fun _ hc => by simpa using hc)).unpin.ite
            (h.commitTrace.releaseEffects.modCore (fun _ hc => by simpa using hc))).beginSave.ite
            ((h.commitTrace.releaseEffects.modCore (fun _ hc => by simpa using hc)).unpin.ite
            (h.commitTrace.releaseEffects.modCore (fun _ hc => by simpa using hc)))

theorem execCommitBComplete_ok {k : CoreId} {s : State} (h : MemOk s) : NextOk (execCommitBComplete k s) := by
  unfold execCommitBComplete
  dsimp only
  split
  · exact h
  · split
    · exact h
    · split
      · exact h
      · split
        · exact (h.commitTrace.modCore (fun _ hc => by simpa using hc)).takeTrap.settle
        · exact (h.commitTrace.modCore (fun _ hc => by simpa using hc)).beginSave.ite
            (h.commitTrace.modCore (fun _ hc => by simpa using hc))

/-! ### Errors, loss and reset of a die -/

theorem MemOk.correctedFor {s : State} {k : CoreId} {p : PartId} {q : Option (Fin 4)} {addr : Nat} (h : MemOk s) :
    MemOk (s.correctedFor k p q addr) :=
  h.logCore.ite h.elog

theorem MemOk.corrected {s : State} {k : CoreId} {q : Option (Fin 4)} {addr : Nat} (h : MemOk s) : MemOk
    (s.corrected k q addr) :=
  h.correctedFor

theorem MemOk.dropLine {s : State} {k : CoreId} {l : CBLine} (h : MemOk s) : MemOk (s.dropLine k l) := by
  unfold State.dropLine
  refine MemOk.dropWaits ?_
  split
  · refine MemOk.freePin ?_
    split
    · exact h.modCore
    · exact h.modCore.ite (h.modCore.setGran.ite h.modCore)
  · split
    · exact h.modCore
    · exact h.modCore.ite (h.modCore.setGran.ite h.modCore)

theorem MemOk.tearLine {s : State} {d : Fin 2} {k : CoreId} {l : CBLine} (h : MemOk s) : MemOk (s.tearLine d k l) :=
  h.dropLine.elog

theorem MemOk.opError {s : State} {k : CoreId} {q : Option (Fin 4)} {pc : BitVec 48} {addr : Nat} (h : MemOk s) :
    MemOk (s.opError k q pc addr) :=
  h.detectedError

theorem MemOk.storageError {s : State} {k : CoreId} {o : OpRef} {place : Place} {bad : Nat} {written : Bool} (h : MemOk s) :
    MemOk (s.storageError k o place bad written) := by
  unfold State.storageError
  extract_lets c run
  split
  have ht : MemOk (if c.notes.bad.contains place ∨ (c.notes.hit.any fun h => h.1 == place) then s
      else s.modCore k fun c => { c.spoil place bad with notes := { c.notes with bad := c.notes.bad ++ [place] } }) :=
    h.ite (h.modCore fun c hc => Core.spoil_wf hc ..)
  exact ht.takeTrap.ite (ht.opError.modCore.ite ht.corrected)

theorem MemOk.pieceError {s : State} {k : CoreId} {x : Fin 4} (h : MemOk s) : MemOk (s.pieceError k x) := by
  unfold State.pieceError
  dsimp only
  split
  · exact h
  · exact h.elog.frame.modCore.ite h.copyStop

theorem MemOk.channelError {s : State} {k : CoreId} {x : Fin 4} (h : MemOk s) : MemOk (s.channelError k x) :=
  ((h.opError.foldl fun _ _ ht => ht.copyStop).ite h.opError).ite h.pieceError

theorem MemOk.drainError {s : State} {k : CoreId} {at_ : Nat} {stop : Bool} (h : MemOk s) : MemOk
    (s.drainError k at_ stop) := by
  unfold State.drainError
  dsimp only
  split
  · exact h.corrected
  · exact h.opError.modCore.ite h.opError

theorem MemOk.movedError {s : State} {k : CoreId} (h : MemOk s) : MemOk (s.movedError k) := by
  unfold State.movedError
  split
  · exact h
  · split
    · exact h.abortTask.modCore
    · extract_lets n t
      have ht : MemOk t := h.modCore
      dsimp only [State.drawDelay]
      refine MemOk.ite (MemOk.modCore ?_) ht.retireCore
      exact ht.logCore.frame
    all_goals exact h

theorem execDetectorReport_ok {k : CoreId} {r : Report} {s : State} (h : MemOk s) : NextOk (execDetectorReport k r s)
    := by
  unfold execDetectorReport
  dsimp only
  split
  · exact h.ite (h.opError.ite h.corrected)
  · exact h.ite (h.opError.ite h.corrected)
  · exact h.ite h.drainError
  · exact h.ite h.storageError
  · exact h.modCore.correctedFor
  · exact (h.modCore (fun _ hc => by simpa using hc)).correctedFor
  · split
    · exact h.ite h.drainError
    · exact h.corrected
  · exact h.pieceError
  · exact h.ite h.channelError
  · split
    · exact h
    · exact NextOk.ite (h.opError.ite h) h.tearLine
  · exact h.ite h.frame
  · exact h.correctedFor
  · exact h.elog
  · exact h.movedError

theorem execCoreretRetreq_ok {d : Fin 2} {mask : BitVec 8} {s : State} (h : MemOk s) : NextOk
    (execCoreretRetreq d mask s) := by
  unfold execCoreretRetreq
  exact h.foldl fun _ _ ht => ht.ite ht.retireCore

theorem execMigrationStage_ok {p : PartId} {gang : BitVec 16} {t : Fin 16} {s : State} (h : MemOk s) : NextOk
    (execMigrationStage p gang t s) := by
  unfold execMigrationStage
  split
  · exact h
  · split
    · exact h
    · exact h.modCore

theorem MemOk.logAll {s : State} {d : Fin 2} {kind : Nat} {enabled : Bool} (h : MemOk s) : MemOk
    (s.logAll d kind enabled) :=
  h.foldl fun _ _ ht => ht.ite ht.elog

theorem MemOk.breakTeams {s : State} {k : CoreId} {key : TaskKey} (h : MemOk s) : MemOk (s.breakTeams k key) :=
  h.foldl fun _ _ ht => ht.applyToken

theorem MemOk.loseContext {s : State} {l : Fin 2} {k : CoreId} {mode : LossMode} (h : MemOk s) : MemOk
    (s.loseContext l k mode) := by
  unfold State.loseContext
  split
  · exact h
  · exact (h.ite h.modCore.takeTrap.postTraps).modCore.status.contextEvent.breakTeams.gangEnd.ite
      ((h.ite h.modCore.takeTrap.postTraps).abortTask.breakTeams.ite ((h.ite h.modCore.takeTrap.postTraps).abortTask))

theorem MemOk.loseSaved {s : State} {l : Fin 2} {x : Saved} (h : MemOk s) (hx : x.ctx.mem.wf = true) : MemOk
    (s.loseSaved l x) :=
  (h.abortSaved hx).breakTeams.ite (h.abortSaved hx)

theorem MemOk.loseWork {s : State} {v : Fin 2} {k : CoreId} {t : LostTask} {gen : BitVec 32} (h : MemOk s) : MemOk
    (s.loseWork v k t gen) :=
  h.status.contextEvent.breakTeams.gangEnd

theorem MemOk.loseFinishing {s : State} {v : Fin 2} {k : CoreId} (h : MemOk s) : MemOk (s.loseFinishing v k) :=
  (h.foldl fun _ _ ht => ht.loseWork).modCore

theorem MemOk.loseStaged {s : State} {v : Fin 2} {k : CoreId} (h : MemOk s) : MemOk (s.loseStaged v k) :=
  (h.foldl fun _ _ ht => ht.loseWork).modCore

theorem MemOk.tearFrom {s : State} {v : Fin 2} {k : CoreId} {all : Bool} {l : CBLine} (h : MemOk s) : MemOk
    (s.tearFrom v k all l) :=
  h.ite (h.tearLine.ite h.dropLine)

theorem MemOk.loseCore {s : State} {v : Fin 2} {all : Bool} {k : CoreId} (h : MemOk s) : MemOk (s.loseCore v all k) :=
  (h.foldl fun _ _ ht => ht.tearFrom).loseFinishing.loseStaged.dropClaims.modCore.dropPin.dropWaits

theorem MemOk.splitCore {s : State} {v : Fin 2} {k : CoreId} (h : MemOk s) : MemOk (s.splitCore v k) :=
  (h.foldl fun _ _ ht => ht.tearLine.ite ht).loseFinishing.loseStaged.dropClaims.dropPin

theorem MemOk.refuseStale {s : State} {l : Fin 2} {k : CoreId} (h : MemOk s) : MemOk (s.refuseStale l k) := by
  unfold State.refuseStale
  split
  · exact h
  · split
    · exact h
    · exact h.ite (h.refuse.ite h.modCore)

theorem MemOk.reissue {s : State} {v : Fin 2} {t : LostTask} (h : MemOk s) : MemOk (s.reissue v t) := by
  unfold State.reissue
  exact h.modDie

theorem MemOk.takeOver {s : State} (h : MemOk s) : MemOk s.takeOver := by
  unfold State.takeOver
  exact (h.foldl fun _ _ ht => ht.endEpisode.setTeam.ite ht).mapCores.modDie.modDie

theorem MemOk.dropAimed {s : State} {l : Fin 2} {k : CoreId} (h : MemOk s) : MemOk (s.dropAimed l k) :=
  h.foldl fun _ _ ht => ht.foldl fun _ _ hu => hu.modCore.dropWaits.ite hu

theorem MemOk.dropFar {s : State} {l : Fin 2} {torn : Bool} {k : CoreId} (h : MemOk s) : MemOk (s.dropFar l torn k) :=
    by
  unfold State.dropFar
  exact (h.foldl fun _ _ ht => (ht.tearLine.ite ht.dropLine).ite ht).dropAimed.modCore

theorem MemOk.lostTokens {s : State} {l : Fin 2} (h : MemOk s) : MemOk (s.lostTokens l) := by
  unfold State.lostTokens
  refine h.foldl fun _ _ ht => ?_
  split
  · exact (ht.foldl fun _ _ hu => hu.applyToken).ite ht
  · exact ht
  · exact ht
  · exact ht

theorem MemOk.loseDie {s : State} {l : Fin 2} {mode : LossMode} (h : MemOk s) : MemOk (s.loseDie l mode) := by
  unfold State.loseDie
  refine MemOk.ite h ?_
  extract_lets v tasks adopted s1 s2 s3 s4 s5 s6 s7 s8 s9 s10 s11 s11' s12 s13 s14 base s15 s16
  have h1 : MemOk s1 := h.lostTokens
  have h2 : MemOk s2 := h1.mapCores.ite h1
  have h3 : MemOk s3 := h2.modDie
  have h4 : MemOk s4 := h3.modDie
  have h5 : MemOk s5 := h4.logAll
  have h6 : MemOk s6 := h5.foldl fun _ _ ht => ht.trigger
  have h7 : MemOk s7 := h6.foldl fun _ _ ht => ht.loseContext
  have h8 : MemOk s8 := by
    refine h7.foldl fun t k ht => ?_
    cases mode with
    | fatal => exact ht.loseCore
    | split => exact ht.splitCore
    | reset => exact ht.loseStaged
  have h9 : MemOk s9 := h8.foldl fun _ _ ht => ht.loseContext.ite ht
  have h10 : MemOk s10 := h9.foldl fun _ _ ht => ht.refuseStale
  have h11 : MemOk s11 := h10.foldl_mem fun _ x hx ht => ht.loseSaved (h10.saved x (List.mem_of_mem_filter hx))
  clear_value s11
  have far : MemOk s11' := h11.foldl fun _ _ ht => ht.dropFar
  clear_value s11'
  have h12 : MemOk s12 := by
    dsimp only [s12]
    split
    · exact h11
    · exact far.frame
  clear_value s12
  have h13 : MemOk s13 := h12.mapCores
  have h14 : MemOk s14 := h13.takeOver.ite h13
  clear_value s14
  have h15 : MemOk s15 := (h14.modDie (d := v)
    (f := fun x => { x with launchq := Vector.ofFn fun p : Fin 16 => x.launchq[p] ++ adopted p })).frame
  have h16 : MemOk s16 := h15.modDie
  exact h16.foldl fun _ _ ht => ht.reissue

theorem execDieLost_ok {d : Fin 2} {s : State} (h : MemOk s) : NextOk (execDieLost d s) := by
  unfold execDieLost
  exact h.loseDie

theorem MemOk.split {s : State} (h : MemOk s) : MemOk s.split := by
  unfold State.split
  refine MemOk.foldl h.mapDies fun t d ht => ?_
  dsimp only [State.drawPick]
  refine MemOk.modDie ht.frame fun x hx => ?_
  split <;> exact hx

theorem execLaneRetire_ok {d : Fin 2} {lane : Fin 4} {s : State} (h : MemOk s) : NextOk (execLaneRetire d lane s) :=
    by
  unfold execLaneRetire
  extract_lets t u
  have hu : MemOk u := h.modDie.modDie
  exact NextOk.ite (NextOk.next hu.split) (NextOk.next (MemOk.modDie hu.frame))

theorem execLaneRetrainComplete_ok {d : Fin 2} {s : State} (h : MemOk s) : NextOk (execLaneRetrainComplete d s) := by
  unfold execLaneRetrainComplete
  split
  · exact h
  · exact NextOk.ite h h.modDie.modDie.logAll

theorem execHeartbeat_ok {d : Fin 2} {s : State} (h : MemOk s) : NextOk (execHeartbeat d s) := by
  unfold execHeartbeat
  exact NextOk.ite h h.modDie.modDie

theorem execHeartbeatTimeout_ok {d : Fin 2} {s : State} (h : MemOk s) : NextOk (execHeartbeatTimeout d s) := by
  unfold execHeartbeatTimeout
  exact NextOk.ite h.loseDie h

theorem execSplitClaim_ok {d : Fin 2} {s : State} (h : MemOk s) : NextOk (execSplitClaim d s) := by
  unfold execSplitClaim
  split
  · exact h
  · exact NextOk.ite h (h.modDie (fun _ hc => by split <;> exact hc))

theorem execSplitClaimCheck_ok {d : Fin 2} {s : State} (h : MemOk s) : NextOk (execSplitClaimCheck d s) := by
  unfold execSplitClaimCheck
  split
  · exact h
  · exact NextOk.ite h.modDie h

theorem execSplitWon_ok {d : Fin 2} {s : State} (h : MemOk s) : NextOk (execSplitWon d s) := by
  unfold execSplitWon
  split
  · exact h
  · exact NextOk.ite h ((h.modDie.logAll.loseDie.foldl fun _ _ ht => ht.trigger).modDie)

theorem MemOk.fence {s : State} {d : Fin 2} (h : MemOk s) : MemOk (s.fence d) := by
  unfold State.fence
  extract_lets v tasks s1 s2 base s3 s4
  have h1 : MemOk s1 := h.foldl fun _ _ ht => ht.loseCore
  have h2 : MemOk s2 := h1.foldl fun _ _ ht => ht.dropFar
  clear_value s2
  have h3 : MemOk s3 := by
    refine ⟨h2.device, fun k => ?_, h2.saved, fun e => ?_, h2.dump⟩
    · simp only [s3, State.core, Fin.getElem_fin, Vector.getElem_ofFn]
      split
      · rfl
      · exact h2.cores k
    · by_cases he : e = d
      · subst he
        simp only [s3, State.die, Fin.getElem_fin, Vector.getElem_set_self]
        rfl
      · have : (s3.die e) = s2.die e := by
          simp [s3, State.die, Vector.getElem_set_ne, Fin.val_ne_of_ne (Ne.symm he)]
        exact this ▸ h2.boot e
  clear_value s3
  have h4 : MemOk s4 := by
    dsimp only [s4]
    split
    · exact h3.frame
    · exact h3
  exact h4.foldl fun _ _ ht => ht.reissue

theorem MemOk.resetGo {s : State} {d : Fin 2} {force : Bool} (h : MemOk s) : MemOk (s.resetGo d force) :=
  h.ite (h.loseDie.modDie.fence.ite h.loseDie.modDie)

theorem execDieResetGo_ok {d : Fin 2} {s : State} (h : MemOk s) : NextOk (execDieResetGo d s) := by
  unfold execDieResetGo
  exact h.resetGo

theorem execDieResetForce_ok {d : Fin 2} {s : State} (h : MemOk s) : NextOk (execDieResetForce d s) := by
  unfold execDieResetForce
  exact h.resetGo

theorem MemOk.finishLines {s : State} {k : CoreId} (h : MemOk s) : MemOk (s.finishLines k) :=
  h.foldl fun _ _ ht => ht.ite ht.putLine

theorem execDieResetQuiet_ok {d : Fin 2} {s : State} (h : MemOk s) : NextOk (execDieResetQuiet d s) := by
  unfold execDieResetQuiet
  exact (h.foldl fun _ _ ht => ht.finishLines).fence.ite h

theorem execQdeadline_ok {d : Fin 2} {s : State} (h : MemOk s) : NextOk (execQdeadline d s) := by
  unfold execQdeadline
  exact h.fence.ite h

/-! ### Power -/

theorem execPowerGrant_ok {d : Fin 2} {s : State} (h : MemOk s) : NextOk (execPowerGrant d s) := by
  unfold execPowerGrant
  exact h.frame.modDie.foldl fun _ _ ht => ht.modCore fun _ hc => by simpa using hc

theorem execQuiescePoint_ok {k : CoreId} {s : State} (h : MemOk s) : NextOk (execQuiescePoint k s) := by
  unfold execQuiescePoint
  exact NextOk.ite h h.modCore

theorem MemOk.fetchTable {s : State} {va : Nat} (h : MemOk s) : FetchedOk (s.fetchTable va) := by
  unfold State.fetchTable
  split
  · rename_i heq
    have ht : MemOk _ := h.fetchWord.of heq
    exact ht.fetchWord
  · rename_i heq
    have ht : MemOk _ := h.fetchWord.of heq
    exact ht
  · rename_i heq
    have ht : MemOk _ := h.fetchWord.of heq
    exact ht

theorem execSwpt_ok {hdr : Hdr} {a : Sel} {s : State} (h : MemOk s) : NextOk (execSwpt hdr a s) := by
  unfold execSwpt
  dsimp only
  refine issue_ok h (fun _ ht => ?_)
  split
  · exact ht
  · split
    · rename_i heq
      have hu : MemOk _ := ht.fetchTable.of heq
      exact hu
    · rename_i heq
      have hu : MemOk _ := ht.fetchTable.of heq
      exact hu.xlateTrap.state
    · rename_i heq
      have hu : MemOk _ := ht.fetchTable.of heq
      split
      · exact hu
      · exact hu

/-! ### Counters and the debug port -/

theorem MemOk.classify {s : State} {k : CoreId} (h : MemOk s) : MemOk (s.classify k) := by
  unfold State.classify
  refine MemOk.ite h (h.foldl fun t u ht => ht.modCore fun c hc => ?_)
  dsimp only
  generalize hn : (if (t.core k).frozen u = true then 3 else _ : Nat) = n
  split <;> simpa using hc

theorem execShctlGo_ok {s : State} (h : MemOk s) : NextOk (execShctlGo s) := by
  unfold execShctlGo
  have ht : MemOk { s with dies := s.dies.map fun (d : Die) => { d with sharmed := !d.lost } } := h.mapDies
  exact NextOk.next (h.ite ht.frame)

theorem execShadowLatch_ok {d : Fin 2} {s : State} (h : MemOk s) : NextOk (execShadowLatch d s) := by
  unfold execShadowLatch
  extract_lets t u
  have ht : MemOk t := h.foldl fun _ _ ht => ht.modCore
  have hu : MemOk u := ht.modDie
  exact NextOk.ite h (NextOk.next (hu.ite hu.frame))

theorem execTansyClassSummary_ok {k : CoreId} {s : State} (h : MemOk s) : NextOk (execTansyClassSummary k s) := by
  unfold execTansyClassSummary
  refine MemOk.modCore ?_
  split
  · exact h
  · exact h.tansy

theorem execTansyLostRecord_ok {d : Fin 2} {p : PartId} {s : State} (h : MemOk s) : NextOk (execTansyLostRecord d p s)
    := by
  unfold execTansyLostRecord
  exact h.ite h.modDie.tansy

theorem execIncidentTrigger_ok {d : Fin 2} {p : PartId} {s : State} (h : MemOk s) : NextOk (execIncidentTrigger d p s)
    := by
  unfold execIncidentTrigger
  exact h.trigger

theorem execTansyPostExpiry_ok {d : Fin 2} {p : PartId} {s : State} (h : MemOk s) : NextOk (execTansyPostExpiry d p s)
    := by
  unfold execTansyPostExpiry
  split
  · exact h
  · exact h.ite h.modDie

theorem execTansyResume_ok {d : Fin 2} {p : PartId} {s : State} (h : MemOk s) : NextOk (execTansyResume d p s) := by
  unfold execTansyResume
  exact h.modDie

theorem execStopreq_ok {k : CoreId} {s : State} (h : MemOk s) : NextOk (execStopreq k s) := by
  unfold execStopreq
  exact (h.modCore (fun _ hc => by simpa using hc)).ite h

theorem execDebugStop_ok {k : CoreId} {s : State} (h : MemOk s) : NextOk (execDebugStop k s) := by
  unfold execDebugStop
  exact h.modCore fun _ hc => by split <;> exact hc

theorem execRun_ok {k : CoreId} {s : State} (h : MemOk s) : NextOk (execRun k s) := by
  unfold execRun
  exact (h.modCore (fun _ hc => by simpa using hc)).ite h

theorem execStep_ok {k : CoreId} {s : State} (h : MemOk s) : NextOk (execStep k s) := by
  unfold execStep
  exact NextOk.ite h h.modCore

theorem MemOk.stepCommit {s : State} {k : CoreId} (h : MemOk s) : MemOk (s.stepCommit k) :=
  (h.releaseEffects.modCore (fun _ hc => by simpa using hc)).ite h

theorem State.deviceView_wf {s : State} {d : Fin 2} {p : PartId} (h : MemOk s) : (s.deviceView d p).wf = true :=
  Mem.wfFrom_filter _ (h.foldl fun _ _ ht => ht.applyLine).device

theorem State.dumpOf_wf {s : State} {k : CoreId} {p : PartId} {c : Core} (h : MemOk s) (hc : c.mem.wf = true) :
   
    (s.dumpOf k p c).ctx.mem.wf = true ∧ (s.dumpOf k p c).view.wf = true :=
  ⟨hc, State.deviceView_wf h⟩

theorem execDump_ok {k : CoreId} {s : State} (h : MemOk s) : NextOk (execDump k s) := by
  unfold execDump
  extract_lets c here saved
  refine NextOk.next ⟨h.device, h.cores, h.saved, h.boot, fun x hx => ?_⟩
  rcases List.mem_append.mp hx with hx | hx
  · simp only [here] at hx
    split at hx
    · split at hx
      · rw [List.mem_singleton.mp hx]
        exact State.dumpOf_wf h (h.cores k)
      · cases hx
    · cases hx
  · obtain ⟨y, hy, rfl⟩ := List.mem_map.mp hx
    exact State.dumpOf_wf h (h.saved y (List.mem_of_mem_filter hy))

/-! ### The host interface and boot -/

theorem MemOk.consume {s : State} {d : Fin 2} {p : PartId} (h : MemOk s) : MemOk (s.consume d p) := h.modDie

theorem MemOk.rejectMsg {s : State} {d : Fin 2} {p : PartId} {m : List (BitVec 8)} {reason : Nat} (h : MemOk s) :
    MemOk (s.rejectMsg d p m reason) :=
  h.consume.postOut

theorem MemOk.rejectHeads {s : State} {d : Fin 2} {p : PartId} {n : Nat} (h : MemOk s) : MemOk (s.rejectHeads d p n)
    := by
  induction n generalizing s with
  | zero => exact h
  | succ n ih =>
    unfold State.rejectHeads
    split
    · exact h
    · split
      · exact ih h.rejectMsg
      · exact h

theorem withMsg_ok {type : Nat} {d : Fin 2} {p : PartId} {s : State} {go : State → List (BitVec 8) → State} (h : MemOk s)
    (hg : ∀ t m, MemOk t → MemOk (go t m)) : NextOk (withMsg type d p s go) := by
  have ht := h.rejectHeads (d := d) (p := p) (n := s.inCount d p)
  unfold withMsg
  dsimp only
  split
  · exact ht
  · exact (hg _ _ ht).ite ht

theorem MemOk.doorbell {s : State} {d : Fin 2} {p : PartId} {itail : Nat} (h : MemOk s) : MemOk (s.doorbell d p itail)
    :=
  (h.ite h.modDie).rejectHeads.ite (h.ite h.modDie)

theorem execMailboxDoorbell_ok {d : Fin 2} {p : PartId} {itail : BitVec 16} {s : State} (h : MemOk s) : NextOk
    (execMailboxDoorbell d p itail s) := by
  unfold execMailboxDoorbell
  exact h.doorbell

theorem MemOk.flushOut {s : State} {d : Fin 2} {p : PartId} {n : Nat} (h : MemOk s) : MemOk (s.flushOut d p n) := by
  induction n generalizing s with
  | zero => exact h
  | succ n ih =>
    unfold State.flushOut
    split
    · exact h
    · exact MemOk.ite (ih h.modDie.ringOut) h

theorem MemOk.oheadWrite {s : State} {d : Fin 2} {p : PartId} {ohead : Nat} (h : MemOk s) : MemOk
    (s.oheadWrite d p ohead) :=
  h.ite h.modDie.flushOut

theorem execMailboxOheadWrite_ok {d : Fin 2} {p : PartId} {ohead : BitVec 16} {s : State} (h : MemOk s) : NextOk
    (execMailboxOheadWrite d p ohead s) := by
  unfold execMailboxOheadWrite
  exact h.oheadWrite

theorem execHello_ok {d : Fin 2} {p : PartId} {s : State} (h : MemOk s) : NextOk (execHello d p s) :=
  withMsg_ok h fun _ _ ht => ht.consume.modDie.postOut

theorem MemOk.mirror {s : State} {d : Fin 2} {r : LaunchRec} (h : MemOk s) : MemOk (s.mirror d r) := by
  unfold State.mirror
  exact h.frame.modDie

theorem execMailboxLaunch_ok {d : Fin 2} {p : PartId} {s : State} (h : MemOk s) : NextOk (execMailboxLaunch d p s) :=
    by
  refine withMsg_ok h fun t m ht => MemOk.ite ht ?_
  dsimp only
  split
  · exact ht.rejectMsg
  · exact ht.rejectMsg.ite ht.consume.mirror

theorem MemOk.replyRunning {s : State} {k : CoreId} {abort : Bool} (h : MemOk s) : MemOk (s.replyRunning k abort) :=
    by
  unfold State.replyRunning
  dsimp only
  split
  · exact h.modCore.takeTrap.ite h.modCore
  · exact h.modCore

theorem MemOk.faultReply {s : State} {d : Fin 2} {key : TaskKey} {abort : Bool} {gen no : Nat} (h : MemOk s) :
    MemOk (s.faultReply d key abort gen no) := by
  unfold State.faultReply
  extract_lets onCore leaving isSaved
  split
  · exact h.replyRunning
  · split
    · exact h.modCore
    · split
      · rename_i x heq
        extract_lets f ctx t
        have ht : MemOk t := by
          refine h.setSaved fun y hy => ?_
          obtain ⟨z, hz, rfl⟩ := List.mem_map.mp hy
          split
          · exact h.saved x (List.mem_of_find?_eq_some heq)
          · exact h.saved z hz
        exact ht.vput
      · exact h.elog

theorem execFaultReply_ok {d : Fin 2} {p : PartId} {s : State} (h : MemOk s) : NextOk (execFaultReply d p s) :=
  withMsg_ok h fun _ _ ht => ht.rejectMsg.ite ht.consume.faultReply

theorem MemOk.cancelGang {s : State} {p : PartId} {g : BitVec 16} (h : MemOk s) : MemOk (s.cancelGang p g) := by
  unfold State.cancelGang
  extract_lets s1 s2 s3
  have h1 : MemOk s1 := by
    refine h.foldl fun t k ht => ?_
    split
    · exact ht.cancelStaged.ite ht
    · exact ht
  have h2 : MemOk s2 := by
    refine h1.foldl fun t k ht => ?_
    split
    · exact (ht.modCore.ite ht.cancelActive).ite ht
    · exact ht
  have h3 : MemOk s3 := h2.foldl_mem fun _ x hx ht => ht.abortSaved (h2.saved x (List.mem_of_mem_filter hx))
  refine h3.foldl fun t d ht => ?_
  extract_lets _ _
  refine MemOk.foldl ht.modDie fun u e hu => ?_
  cases e with
  | inl _ => exact hu
  | inr b => exact hu.dropBind

theorem execCancel_ok {d : Fin 2} {p : PartId} {s : State} (h : MemOk s) : NextOk (execCancel d p s) :=
  withMsg_ok h fun _ _ ht => ht.consume.cancelGang

theorem execCounterAccess_ok {d : Fin 2} {p : PartId} {s : State} (h : MemOk s) : NextOk (execCounterAccess d p s) :=
    by
  refine withMsg_ok h fun t m ht => ?_
  extract_lets n i k x shadow mine u v c r
  have hu : MemOk u := ht.consume
  have hv : MemOk v := (hu.modCore fun _ hc => by simpa using hc).ite hu
  exact ht.rejectMsg.ite hv.postOut

theorem execTrigger_ok {d : Fin 2} {p : PartId} {s : State} (h : MemOk s) : NextOk (execTrigger d p s) :=
  withMsg_ok h fun _ _ ht => ht.consume.trigger

theorem State.core_reset (k : CoreId) : State.reset.core k = Core.reset := by
  rw [State.core, show State.reset.cores = Vector.replicate 16 Core.reset from rfl, Fin.getElem_fin, Vector.getElem_replicate]

theorem State.die_reset (d : Fin 2) : State.reset.die d = Die.reset := by
  rw [State.die, show State.reset.dies = Vector.replicate 2 Die.reset from rfl, Fin.getElem_fin, Vector.getElem_replicate]

/-! ### The reset state -/

theorem MemOk.reset : MemOk State.reset := by
  refine ⟨rfl, fun k => ?_, fun x hx => (by cases hx), fun d => ?_, fun x hx => (by cases hx)⟩
  · rw [State.core_reset]
    rfl
  · rw [State.die_reset]
    rfl

/-! ### The host interface and boot, continued -/

theorem execPowerOnReset_ok {s : State} (_ : MemOk s) : NextOk (execPowerOnReset s) := MemOk.reset.frame

theorem Die.boot_bootwin (x : Die) (phase err : Nat) : (x.boot phase err).bootwin = x.bootwin := by
  unfold Die.boot
  generalize bvSet (bvSet x.bootstat 28 3 phase) 24 4 err = b
  rfl

theorem Die.boot_wf {x : Die} (h : x.bootwin.wf = true) (phase err : Nat) : (x.boot phase err).bootwin.wf = true :=
  (congrArg Mem.wf (Die.boot_bootwin x phase err)).trans h

theorem MemOk.bootVerify {s : State} {d : Fin 2} (h : MemOk s) : MemOk (s.bootVerify d) := by
  unfold State.bootVerify
  split
  rename_i t u heq
  have hu : MemOk u := by
    cases heq
    exact h.frame
  exact hu.modDie fun x hx => Die.boot_wf hx 2 0

theorem execBootGo_ok {s : State} (h : MemOk s) : NextOk (execBootGo s) := by
  unfold execBootGo
  extract_lets image
  exact NextOk.next (h.foldl fun _ _ ht => (ht.modDie fun x _ => by exact h.boot 0).bootVerify.ite ht)

theorem MemOk.bootFail {s : State} {d : Fin 2} {err : Nat} (h : MemOk s) : MemOk (s.bootFail d err) := by
  unfold State.bootFail
  extract_lets t
  have ht : MemOk t := h.modDie fun x hx => Die.boot_wf hx 4 err
  exact ht.loseDie.ite ht

theorem MemOk.bootRun {s : State} {d : Fin 2} (h : MemOk s) : MemOk (s.bootRun d) := by
  unfold State.bootRun
  extract_lets o back t u
  have ht : MemOk t := h.modDie fun x hx => Die.boot_wf hx 3 0
  have hu : MemOk u := ht.modDie.ite ht
  exact hu.loseDie.ite hu

theorem execBootVerifyComplete_ok {d : Fin 2} {s : State} (h : MemOk s) : NextOk (execBootVerifyComplete d s) := by
  unfold execBootVerifyComplete
  split
  · exact h
  · split
    · exact h
    · split
      · exact h.bootRun
      · exact h.bootFail

theorem execBootTimeout_ok {d : Fin 2} {s : State} (h : MemOk s) : NextOk (execBootTimeout d s) := by
  unfold execBootTimeout
  exact h.bootFail.ite h

theorem execDieResetRelease_ok {d : Fin 2} {s : State} (h : MemOk s) : NextOk (execDieResetRelease d s) := by
  unfold execDieResetRelease
  extract_lets image
  exact NextOk.ite h (NextOk.next (h.modDie fun x _ => by exact h.boot _).bootVerify)

theorem execPtpEventMessage_ok {d : Fin 2} {m : PtpMsg} {s : State} (h : MemOk s) : NextOk (execPtpEventMessage d m s)
    := by
  unfold execPtpEventMessage
  exact h.modDie

theorem execHostBar2Access_ok {d : Fin 2} {p : PartId} {off : BitVec 36} {wr : Bool} {n : Fin 65} {data : BitVec 512}
    {s : State} (h : MemOk s) : NextOk (execHostBar2Access d p off wr n data s) := by
  unfold execHostBar2Access
  exact NextOk.ite (h.foldl fun _ _ ht => ht.untimedWrite) h.frame

theorem execApplicationCoreAccess_ok {pa : BitVec 40} {wr : Bool} {n : Fin 65} {data : BitVec 512} {s : State}
    (h : MemOk s) : NextOk (execApplicationCoreAccess pa wr n data s) := by
  unfold execApplicationCoreAccess
  exact NextOk.ite h.untimedWrite h.frame

theorem MemOk.writeSdcmd {s : State} {d : Fin 2} {v : BitVec 64} (h : MemOk s) : MemOk (s.writeSdcmd d v) :=
  h.modDie.ite (h.modDie.ite h.startShoot)

theorem MemOk.writeMbcfg {s : State} {d : Fin 2} {p : PartId} {v : BitVec 64} (h : MemOk s) : MemOk
    (s.writeMbcfg d p v) :=
  h.modDie.flushOut

theorem MemOk.writeMbptr {s : State} {d : Fin 2} {p : PartId} {v : BitVec 64} (h : MemOk s) : MemOk
    (s.writeMbptr d p v) :=
  h.doorbell.oheadWrite

theorem MemOk.writeReg {s : State} {d : Fin 2} {r : MReg} {v : BitVec 64} (h : MemOk s) : MemOk (s.writeReg d r v) :=
    by
  induction r generalizing s with
  | sdcmd => exact h.writeSdcmd
  | sdstat => exact h.modDie fun _ hx => by split <;> exact hx
  | ttstat => exact h.modDie fun _ hx => by split <;> exact hx
  | ttctl => exact h.modDie fun x hx => (congrArg Mem.wf (Die.writeTtctl_bootwin x v)).trans hx
  | qstep => exact h.frame.ite h
  | grpctl t => exact h.setTeam
  | grpmem t m => exact h.ite h.setTeam
  | cntalloc k => exact h.modCore.ite h
  | cntcfg k i => exact (h.modCore fun _ hc => by simpa using hc).ite h
  | cntval k i => exact h.modCore.ite h
  | shtime => exact h.frame.ite h
  | dbgctl k => exact h.modCore.ite h
  | dbgbp k i => exact h.modCore.ite h
  | mbcfg p => exact h.writeMbcfg
  | bootwin a => exact h.modDie fun _ hx => Mem.wf_writeN _ _ hx
  | slew => exact h.frame
  | discipline port => exact h.frame
  | mbptr p => exact h.writeMbptr
  | vfBar0 p off => exact h.writeMbcfg.ite (h.writeMbptr.ite h)
  | pfBar0 r ih => exact (ih h).ite h
  | _ => exact h.modDie

theorem execRegisterWrite_ok {d : Fin 2} {r : MReg} {v : BitVec 64} {s : State} (h : MemOk s) : NextOk
    (execRegisterWrite d r v s) := by
  unfold execRegisterWrite
  exact h.writeReg

/-! ### Scalar instructions -/

theorem alu_ok {op : Op} {d : Dest} {latch : Fin 4} {lat : Nat} {f : State → Word64} {s : State} (h : MemOk s) :
    NextOk (alu op d latch lat f s) := by
  unfold alu
  exact issue_ok h (fun _ ht => ht.produce)

theorem alu2_ok {hdr : Hdr} {d : Dest} {a b : Sel} {latch : Fin 4} {lat : Nat} {f : Word64 → Word64 → Word64}
    {s : State} (h : MemOk s) : NextOk (alu2 hdr d a b latch lat f s) := by
  unfold alu2
  exact alu_ok h

theorem alux2_ok {hdr : Hdr} {d : Dest} {a b : Sel} {c : Comp} {latch : Fin 4} {lat : Nat}
    {f : Word64 → Word64 → Word64} {s : State} (h : MemOk s) : NextOk (alux2 hdr d a b c latch lat f s) := by
  unfold alux2
  exact alu_ok h

theorem alux1_ok {hdr : Hdr} {d : Dest} {a : Sel} {c : Comp} {f : Word64 → Word64} {s : State} (h : MemOk s) : NextOk
    (alux1 hdr d a c f s) := by
  unfold alux1
  exact alu_ok h

theorem predOut_ok {op : Op} {ps : List (Fin 8)} {w : State → List Wr} {s : State} (h : MemOk s) : OutOk
    (predOut op ps w s) := by
  unfold predOut
  split
  · exact h
  · exact h.produce

theorem compare_ok {op : Op} {pt pf : Fin 8} {c : State → Bool} {s : State} (h : MemOk s) : NextOk
    (compare op pt pf c s) := by
  unfold compare
  exact issue_ok h (fun _ ht => predOut_ok ht)

theorem compare2_ok {hdr : Hdr} {pt pf : Fin 8} {a b : Sel} {f : Word64 → Word64 → Bool} {s : State} (h : MemOk s) :
    NextOk (compare2 hdr pt pf a b f s) := by
  unfold compare2
  exact compare_ok h

theorem compareI_ok {hdr : Hdr} {pt pf : Fin 8} {a : Sel} {imm : BitVec 22} {c : Comp} {f : Word64 → Word64 → Bool}
    {s : State} (h : MemOk s) : NextOk (compareI hdr pt pf a imm c f s) := by
  unfold compareI
  exact compare_ok h

theorem predLogic_ok {hdr : Hdr} {xd xa xb : Fin 8} {na nb : Bool} {f : Bool → Bool → Bool} {s : State} (h : MemOk s)
    : NextOk (predLogic hdr xd xa xb na nb f s) := by
  unfold predLogic
  exact issue_ok h (fun _ ht => predOut_ok ht)

theorem execAdd_ok {hdr : Hdr} {d : Dest} {a b : Sel} {s : State} (h : MemOk s) : NextOk (execAdd hdr d a b s) := by
  unfold execAdd
  exact alu2_ok h

theorem execSub_ok {hdr : Hdr} {d : Dest} {a b : Sel} {s : State} (h : MemOk s) : NextOk (execSub hdr d a b s) := by
  unfold execSub
  exact alu2_ok h

theorem execAnd_ok {hdr : Hdr} {d : Dest} {a b : Sel} {s : State} (h : MemOk s) : NextOk (execAnd hdr d a b s) := by
  unfold execAnd
  exact alu2_ok h

theorem execOr_ok {hdr : Hdr} {d : Dest} {a b : Sel} {s : State} (h : MemOk s) : NextOk (execOr hdr d a b s) := by
  unfold execOr
  exact alu2_ok h

theorem execXor_ok {hdr : Hdr} {d : Dest} {a b : Sel} {s : State} (h : MemOk s) : NextOk (execXor hdr d a b s) := by
  unfold execXor
  exact alu2_ok h

theorem execShl_ok {hdr : Hdr} {d : Dest} {a b : Sel} {s : State} (h : MemOk s) : NextOk (execShl hdr d a b s) := by
  unfold execShl
  exact alu2_ok h

theorem execShr_ok {hdr : Hdr} {d : Dest} {a b : Sel} {s : State} (h : MemOk s) : NextOk (execShr hdr d a b s) := by
  unfold execShr
  exact alu2_ok h

theorem execSra_ok {hdr : Hdr} {d : Dest} {a b : Sel} {s : State} (h : MemOk s) : NextOk (execSra hdr d a b s) := by
  unfold execSra
  exact alu2_ok h

theorem execMul_ok {hdr : Hdr} {d : Dest} {a b : Sel} {s : State} (h : MemOk s) : NextOk (execMul hdr d a b s) := by
  unfold execMul
  exact alu2_ok h

theorem execAddi_ok {hdr : Hdr} {d : Dest} {a : Sel} {imm : BitVec 6} {s : State} (h : MemOk s) : NextOk
    (execAddi hdr d a imm s) := by
  unfold execAddi
  exact alu_ok h

theorem execLi_ok {hdr : Hdr} {d : Dest} {imm : BitVec 12} {s : State} (h : MemOk s) : NextOk (execLi hdr d imm s) :=
    by
  unfold execLi
  exact alu_ok h

theorem execAddiLong_ok {hdr : Hdr} {d : Dest} {a : Sel} {imm : BitVec 22} {c : Comp} {s : State} (h : MemOk s) :
    NextOk (execAddiLong hdr d a imm c s) := by
  unfold execAddiLong
  exact alux1_ok h

theorem execAndi_ok {hdr : Hdr} {d : Dest} {a : Sel} {imm : BitVec 22} {c : Comp} {s : State} (h : MemOk s) : NextOk
    (execAndi hdr d a imm c s) := by
  unfold execAndi
  exact alux1_ok h

theorem execOri_ok {hdr : Hdr} {d : Dest} {a : Sel} {imm : BitVec 22} {c : Comp} {s : State} (h : MemOk s) : NextOk
    (execOri hdr d a imm c s) := by
  unfold execOri
  exact alux1_ok h

theorem execXori_ok {hdr : Hdr} {d : Dest} {a : Sel} {imm : BitVec 22} {c : Comp} {s : State} (h : MemOk s) : NextOk
    (execXori hdr d a imm c s) := by
  unfold execXori
  exact alux1_ok h

theorem execShli_ok {hdr : Hdr} {d : Dest} {a : Sel} {n : Fin 64} {c : Comp} {s : State} (h : MemOk s) : NextOk
    (execShli hdr d a n c s) := by
  unfold execShli
  exact alux1_ok h

theorem execShri_ok {hdr : Hdr} {d : Dest} {a : Sel} {n : Fin 64} {c : Comp} {s : State} (h : MemOk s) : NextOk
    (execShri hdr d a n c s) := by
  unfold execShri
  exact alux1_ok h

theorem execSrai_ok {hdr : Hdr} {d : Dest} {a : Sel} {n : Fin 64} {c : Comp} {s : State} (h : MemOk s) : NextOk
    (execSrai hdr d a n c s) := by
  unfold execSrai
  exact alux1_ok h

theorem execMulh_ok {hdr : Hdr} {d : Dest} {a b : Sel} {c : Comp} {s : State} (h : MemOk s) : NextOk
    (execMulh hdr d a b c s) := by
  unfold execMulh
  exact alux2_ok h

theorem execMulhu_ok {hdr : Hdr} {d : Dest} {a b : Sel} {c : Comp} {s : State} (h : MemOk s) : NextOk
    (execMulhu hdr d a b c s) := by
  unfold execMulhu
  exact alux2_ok h

theorem execMin_ok {hdr : Hdr} {d : Dest} {a b : Sel} {c : Comp} {s : State} (h : MemOk s) : NextOk
    (execMin hdr d a b c s) := by
  unfold execMin
  exact alux2_ok h

theorem execMax_ok {hdr : Hdr} {d : Dest} {a b : Sel} {c : Comp} {s : State} (h : MemOk s) : NextOk
    (execMax hdr d a b c s) := by
  unfold execMax
  exact alux2_ok h

theorem execMinu_ok {hdr : Hdr} {d : Dest} {a b : Sel} {c : Comp} {s : State} (h : MemOk s) : NextOk
    (execMinu hdr d a b c s) := by
  unfold execMinu
  exact alux2_ok h

theorem execMaxu_ok {hdr : Hdr} {d : Dest} {a b : Sel} {c : Comp} {s : State} (h : MemOk s) : NextOk
    (execMaxu hdr d a b c s) := by
  unfold execMaxu
  exact alux2_ok h

theorem execExt_ok {hdr : Hdr} {d : Dest} {a : Sel} {pos width1 : Fin 64} {c : Comp} {s : State} (h : MemOk s) :
    NextOk (execExt hdr d a pos width1 c s) := by
  unfold execExt
  exact alux1_ok h

theorem execExts_ok {hdr : Hdr} {d : Dest} {a : Sel} {pos width1 : Fin 64} {c : Comp} {s : State} (h : MemOk s) :
    NextOk (execExts hdr d a pos width1 c s) := by
  unfold execExts
  exact alux1_ok h

theorem execIns_ok {hdr : Hdr} {d : Dest} {a b : Sel} {pos width1 : Fin 64} {c : Comp} {s : State} (h : MemOk s) :
    NextOk (execIns hdr d a b pos width1 c s) := by
  unfold execIns
  exact alux2_ok h

theorem execClz_ok {hdr : Hdr} {d : Dest} {a : Sel} {c : Comp} {s : State} (h : MemOk s) : NextOk
    (execClz hdr d a c s) := by
  unfold execClz
  exact alux1_ok h

theorem execCtz_ok {hdr : Hdr} {d : Dest} {a : Sel} {c : Comp} {s : State} (h : MemOk s) : NextOk
    (execCtz hdr d a c s) := by
  unfold execCtz
  exact alux1_ok h

theorem execPopc_ok {hdr : Hdr} {d : Dest} {a : Sel} {c : Comp} {s : State} (h : MemOk s) : NextOk
    (execPopc hdr d a c s) := by
  unfold execPopc
  exact alux1_ok h

theorem execLih_ok {hdr : Hdr} {d : Dest} {a : Sel} {imm : BitVec 22} {c : Comp} {s : State} (h : MemOk s) : NextOk
    (execLih hdr d a imm c s) := by
  unfold execLih
  exact alux1_ok h

theorem execCmpeq_ok {hdr : Hdr} {pt pf : Fin 8} {a b : Sel} {s : State} (h : MemOk s) : NextOk
    (execCmpeq hdr pt pf a b s) := by
  unfold execCmpeq
  exact compare2_ok h

theorem execCmplt_ok {hdr : Hdr} {pt pf : Fin 8} {a b : Sel} {s : State} (h : MemOk s) : NextOk
    (execCmplt hdr pt pf a b s) := by
  unfold execCmplt
  exact compare2_ok h

theorem execCmpltu_ok {hdr : Hdr} {pt pf : Fin 8} {a b : Sel} {s : State} (h : MemOk s) : NextOk
    (execCmpltu hdr pt pf a b s) := by
  unfold execCmpltu
  exact compare2_ok h

theorem execCmpeqi_ok {hdr : Hdr} {pt pf : Fin 8} {a : Sel} {imm : BitVec 22} {c : Comp} {s : State} (h : MemOk s) :
    NextOk (execCmpeqi hdr pt pf a imm c s) := by
  unfold execCmpeqi
  exact compareI_ok h

theorem execCmplti_ok {hdr : Hdr} {pt pf : Fin 8} {a : Sel} {imm : BitVec 22} {c : Comp} {s : State} (h : MemOk s) :
    NextOk (execCmplti hdr pt pf a imm c s) := by
  unfold execCmplti
  exact compareI_ok h

theorem execCmpltui_ok {hdr : Hdr} {pt pf : Fin 8} {a : Sel} {imm : BitVec 22} {c : Comp} {s : State} (h : MemOk s) :
    NextOk (execCmpltui hdr pt pf a imm c s) := by
  unfold execCmpltui
  exact compareI_ok h

theorem execPand_ok {hdr : Hdr} {xd xa xb : Fin 8} {na nb : Bool} {s : State} (h : MemOk s) : NextOk
    (execPand hdr xd xa xb na nb s) := by
  unfold execPand
  exact predLogic_ok h

theorem execPor_ok {hdr : Hdr} {xd xa xb : Fin 8} {na nb : Bool} {s : State} (h : MemOk s) : NextOk
    (execPor hdr xd xa xb na nb s) := by
  unfold execPor
  exact predLogic_ok h

theorem execPxor_ok {hdr : Hdr} {xd xa xb : Fin 8} {na nb : Bool} {s : State} (h : MemOk s) : NextOk
    (execPxor hdr xd xa xb na nb s) := by
  unfold execPxor
  exact predLogic_ok h

theorem execPmov_ok {hdr : Hdr} {xd xa : Fin 8} {na : Bool} {s : State} (h : MemOk s) : NextOk
    (execPmov hdr xd xa na s) := by
  unfold execPmov
  exact predLogic_ok h

/-! ### Sequencer control -/

theorem execNop_ok {hdr : Hdr} {s : State} (h : MemOk s) : NextOk (execNop hdr s) := by
  unfold execNop
  exact issue_ok h (fun _ hc => hc)

theorem execBrk_ok {hdr : Hdr} {s : State} (h : MemOk s) : NextOk (execBrk hdr s) := by
  unfold execBrk
  exact issue_ok h (fun _ ht => (ht.modMe (fun _ hc => by simpa using hc)).ite ht)

theorem execBr_ok {hdr : Hdr} {off : BitVec 18} {s : State} (h : MemOk s) : NextOk (execBr hdr off s) := by
  unfold execBr
  exact issue_ok h (fun _ hc => hc)

theorem execBrl_ok {hdr : Hdr} {off : BitVec 18} {s : State} (h : MemOk s) : NextOk (execBrl hdr off s) := by
  unfold execBrl
  exact issue_ok h (fun _ ht => ht.produce)

theorem execJr_ok {hdr : Hdr} {d : Dest} {a : Sel} {s : State} (h : MemOk s) : NextOk (execJr hdr d a s) := by
  unfold execJr
  exact issue_ok h (fun _ ht => OutOk.ite ht.produce ht)

theorem execLoop_ok {hdr : Hdr} {x : Fin 4} {swp : Bool} {n : LoopCount} {lid : BitVec 8} {len : BitVec 18} {c : Comp}
    {s : State} (h : MemOk s) : NextOk (execLoop hdr x swp n lid len c s) := by
  unfold execLoop
  exact issue_ok h (fun _ ht => OutOk.ite ht (OutOk.ite ht.modMySeq ht.modMySeq))

theorem execCommit_ok {r : Ring} {p : Bool} {drop : BitVec 4} {tag : BitVec 8} {s : State} (h : MemOk s) : NextOk
    (execCommit r p drop tag s) := by
  unfold execCommit
  exact issue_ok h (fun _ hc => hc)

theorem execHalt_ok {r : Ring} {p : Bool} {drop : BitVec 4} {tag : BitVec 8} {s : State} (h : MemOk s) : NextOk
    (execHalt r p drop tag s) := by
  unfold execHalt
  exact issue_ok h (fun _ hc => hc)

/-! ### Dispatch of an instruction -/

theorem exec_ok {i : Instr} {s : State} (h : MemOk s) : NextOk (exec i s) := by
  unfold exec
  split
  · exact execNop_ok h
  · exact execBrk_ok h
  · exact execXfenceCore_ok h
  · exact execXfenceQuad_ok h
  · exact execXfenceDev_ok h
  · exact execXfenceSys_ok h
  · exact execCommit_ok h
  · exact execHalt_ok h
  · exact execAdd_ok h
  · exact execSub_ok h
  · exact execAnd_ok h
  · exact execOr_ok h
  · exact execXor_ok h
  · exact execShl_ok h
  · exact execShr_ok h
  · exact execSra_ok h
  · exact execMul_ok h
  · exact execAddi_ok h
  · exact execLi_ok h
  · exact execAddiLong_ok h
  · exact execAndi_ok h
  · exact execOri_ok h
  · exact execXori_ok h
  · exact execShli_ok h
  · exact execShri_ok h
  · exact execSrai_ok h
  · exact execMulh_ok h
  · exact execMulhu_ok h
  · exact execMin_ok h
  · exact execMax_ok h
  · exact execMinu_ok h
  · exact execMaxu_ok h
  · exact execExt_ok h
  · exact execExts_ok h
  · exact execIns_ok h
  · exact execClz_ok h
  · exact execCtz_ok h
  · exact execPopc_ok h
  · exact execLih_ok h
  · exact execCmpeq_ok h
  · exact execCmplt_ok h
  · exact execCmpltu_ok h
  · exact execCmpeqi_ok h
  · exact execCmplti_ok h
  · exact execCmpltui_ok h
  · exact execPand_ok h
  · exact execPor_ok h
  · exact execPxor_ok h
  · exact execPmov_ok h
  · exact execBr_ok h
  · exact execBrl_ok h
  · exact execJr_ok h
  · exact execLoop_ok h
  · exact execMfsr_ok h
  · exact execMtsr_ok h
  · exact execLd_ok h
  · exact execLdx_ok h
  · exact execLdd_ok h
  · exact execSt_ok h
  · exact execStx_ok h
  · exact execStd_ok h
  · exact execLdq_ok h
  · exact execLddq_ok h
  · exact execStq_ok h
  · exact execGather_ok h
  · exact execScatter_ok h
  · exact execAtomAdd_ok h
  · exact execAtomAnd_ok h
  · exact execAtomOr_ok h
  · exact execAtomXor_ok h
  · exact execAtomMin_ok h
  · exact execAtomMax_ok h
  · exact execAtomMinu_ok h
  · exact execAtomMaxu_ok h
  · exact execAtomSwap_ok h
  · exact execAtomCas_ok h
  · exact execPref_ok h
  · exact execPrefi_ok h
  · exact execTld_ok h
  · exact execTldw_ok h
  · exact execBank_ok h
  · exact execSyncwait_ok h
  · exact execCopy_ok h
  · exact execCopyR_ok h
  · exact execDwin_ok h
  · exact execLaunch_ok h
  · exact execYieldN_ok h
  · exact execSwpt_ok h
  · exact execGroupRank_ok h
  · exact execGroupSize_ok h
  · exact execBar_ok h
  · exact execBarw_ok h
  · exact execVadd_ok h
  · exact execVsub_ok h
  · exact execVmul_ok h
  · exact execVmulh_ok h
  · exact execVmin_ok h
  · exact execVmax_ok h
  · exact execVand_ok h
  · exact execVor_ok h
  · exact execVxor_ok h
  · exact execVshl_ok h
  · exact execVshr_ok h
  · exact execVsra_ok h
  · exact execVabs_ok h
  · exact execVneg_ok h
  · exact execVmad_ok h
  · exact execVfadd_ok h
  · exact execVfsub_ok h
  · exact execVfmul_ok h
  · exact execVfma_ok h
  · exact execVfms_ok h
  · exact execVfmin_ok h
  · exact execVfmax_ok h
  · exact execVfabs_ok h
  · exact execVfneg_ok h
  · exact execVfrcp_ok h
  · exact execVfrsq_ok h
  · exact execVcmp_ok h
  · exact execMand_ok h
  · exact execMor_ok h
  · exact execMxor_ok h
  · exact execMmov_ok h
  · exact execVsel_ok h
  · exact execVperm_ok h
  · exact execVrot_ok h
  · exact execVbcast_ok h
  · exact execVshup_ok h
  · exact execVshdn_ok h
  · exact execVcvt_ok h
  · exact execVrsum_ok h
  · exact execVrmax_ok h
  · exact execVrmin_ok h
  · exact execVmov_ok h
  · exact execVpush_ok h
  · exact execVbcs_ok h
  · exact execVmvs_ok h
  · exact execVli_ok h
  · exact execVbank_ok h
  · exact execMma_ok h
  · exact execDrain_ok h
  · exact execDispatch_ok h
  · exact execContextLoadComplete_ok h
  · exact execCommitComplete_ok h
  · exact execSaveComplete_ok h
  · exact execRegionWatchdog_ok h
  · exact execPreemptionOverdue_ok h
  · exact execCompletionSignal_ok h
  · exact execResultDue_ok h
  · exact execIcacheFill_ok h
  · exact execDeviceLoadReturn_ok h
  · exact execWakeEnd_ok h
  · exact execBankCensus_ok h
  · exact execTileReady_ok h
  · exact execMmaBLoadStart_ok h
  · exact execMmaAStreamStart_ok h
  · exact execMmaResultsFinal_ok h
  · exact execAbftCheckFinal_ok h
  · exact execDrainStart_ok h
  · exact execDrainElement_ok h
  · exact execTlbWalkComplete_ok h
  · exact execShootdownPage_ok h
  · exact execShootdownPartition_ok h
  · exact execShootdownAll_ok h
  · exact execShootdownAck_ok h
  · exact execMigrationCountHalve_ok h
  · exact execCopyStart_ok h
  · exact execCopyPiece_ok h
  · exact execRoutedPieceArrival_ok h
  · exact execCopyFinish_ok h
  · exact execTimestampProcedure_ok h
  · exact execLinePerformed_ok h
  · exact execPinTokenGrant_ok h
  · exact execAtomValueReturn_ok h
  · exact execCommitBComplete_ok h
  · exact execBarrierArrivalSend_ok h
  · exact execDieCombinerArrival_ok h
  · exact execPackageCombinerArrival_ok h
  · exact execBarrierReleaseArrival_ok h
  · exact execMemberTokenArrival_ok h
  · exact execEpisodeTimeout_ok h
  · exact execGrpctlEnable_ok h
  · exact execGrpctlDisable_ok h
  · exact execGrpctlRearm_ok h
  · exact execSlotStage_ok h
  · exact execSlotPreempt_ok h
  · exact execSlotCancela_ok h
  · exact execSlotCancels_ok h
  · exact execSlotResume_ok h
  · exact execTtSlotStart_ok h
  · exact execTtSlotEnd_ok h
  · exact execLaunchRecordPost_ok h
  · exact execQstepForward_ok h
  · exact execQstepBackward_ok h
  · exact execQstepHoldEnd_ok h
  · exact execDetectorReport_ok h
  · exact execCoreretRetreq_ok h
  · exact execMigrationPathComplete_ok h
  · exact execMigrationStage_ok h
  · exact execLaneRetire_ok h
  · exact execLaneRetrainComplete_ok h
  · exact execSplitClaim_ok h
  · exact execSplitClaimCheck_ok h
  · exact execSplitWon_ok h
  · exact execHeartbeat_ok h
  · exact execHeartbeatTimeout_ok h
  · exact execDieLost_ok h
  · exact execDieResetGo_ok h
  · exact execDieResetForce_ok h
  · exact execDieResetQuiet_ok h
  · exact execQdeadline_ok h
  · exact execPowerGrant_ok h
  · exact execQuiescePoint_ok h
  · exact execShctlGo_ok h
  · exact execShadowLatch_ok h
  · exact execTansyClassSummary_ok h
  · exact execTansyLostRecord_ok h
  · exact execIncidentTrigger_ok h
  · exact execTansyPostExpiry_ok h
  · exact execTansyResume_ok h
  · exact execStopreq_ok h
  · exact execDebugStop_ok h
  · exact execRun_ok h
  · exact execStep_ok h
  · exact execDump_ok h
  · exact execMailboxDoorbell_ok h
  · exact execMailboxOheadWrite_ok h
  · exact execHello_ok h
  · exact execMailboxLaunch_ok h
  · exact execFaultReply_ok h
  · exact execCancel_ok h
  · exact execCounterAccess_ok h
  · exact execTrigger_ok h
  · exact execPowerOnReset_ok h
  · exact execBootGo_ok h
  · exact execBootVerifyComplete_ok h
  · exact execBootTimeout_ok h
  · exact execDieResetRelease_ok h
  · exact execPtpEventMessage_ok h
  · exact execHostBar2Access_ok h
  · exact execRegisterWrite_ok h
  · exact execMmaBLoadEnd_ok h
  · exact execMmaAStreamEnd_ok h
  · exact execApplicationCoreAccess_ok h

/-! ### Speculation -/

theorem MemOk.specCompare {s : State} {k : CoreId} {i : Instr} (h : MemOk s) : MemOk (s.specCompare k i) := by
  unfold State.specCompare
  dsimp only
  split
  · exact h
  · split
    · exact h
    · split
      · rename_i heq
        have ht : MemOk _ := h.fetch.of heq
        exact ht
      · rename_i heq
        have ht : MemOk _ := h.fetch.of heq
        exact ht
      · rename_i heq
        have ht : MemOk _ := h.fetch.of heq
        split
        · exact (ht.modCore (fun _ hc => by simpa using hc)).ite ht
        · exact ht

theorem MemOk.specAfter {s : State} {k : CoreId} {q : Seq} {i : Instr} (h : MemOk s) : MemOk (s.specAfter k q i) := by
  unfold State.specAfter
  split
  · exact (h.modCore (fun _ hc => by simpa using hc)).ite h
  · exact h.specCompare
  · exact h

theorem MemOk.specStop {s : State} {k : CoreId} {x : Spec} (h : MemOk s) : MemOk (s.specStop k x) := h.modCore

theorem MemOk.specTry {s : State} {k : CoreId} {x : Spec} (h : MemOk s) : NextOk (s.specTry k x) := by
  unfold State.specTry
  dsimp only
  split
  · exact h
  · split
    · rename_i heq
      have ht : MemOk _ := h.fetch.of heq
      exact ht
    · rename_i heq
      have ht : MemOk _ := h.fetch.of heq
      exact ht.specStop
    · rename_i heq
      have ht : MemOk _ := h.fetch.of heq
      split
      · exact ht.specStop
      · split
        · exact ht.specStop
        · split
          · rename_i heq
            have hu : MemOk _ := (exec_ok ht.frame.modCore).of heq
            split
            · exact ht.specStop
            · split
              · exact ht.ite ht.specStop
              · exact ht.modCore
          · exact trivial
          · exact trivial

theorem MemOk.specCycle {s : State} {k : CoreId} {x : Spec} (h : MemOk s) : NextOk (s.specCycle k x) :=
  h.modCore.specTry

/-! ### The phases of a cycle -/

theorem MemOk.eachCore {s : State} {f : Core → Core} (h : MemOk s)
   
    (hf : ∀ c, c.mem.wf = true → (f c).mem.wf = true := by exact fun _ hc => hc) : MemOk (s.eachCore f) :=
  h.mapCores hf

theorem MemOk.tableStart {s : State} {d : Fin 2} {us : Nat} (h : MemOk s) : FstOk (s.tableStart d us) :=
  h.modDie.ite h

theorem MemOk.boundaries {s : State} (h : MemOk s) : FstOk s.boundaries :=
  FstOk.ite h.frame.tableStart.state.tableStart.state h.frame

theorem MemOk.foldCores {s : State} {f : State → CoreId → State} (h : MemOk s) (hf : ∀ t k, MemOk t → MemOk (f t k))
    :
    MemOk (s.foldCores f) :=
  h.foldl hf

theorem MemOk.evictLines {s : State} {d : Fin 2} (h : MemOk s) : MemOk (s.evictLines d) := by
  unfold State.evictLines
  extract_lets out
  have ht : MemOk (s.modDie d fun x => { x with evict := out.foldl (fun n e => max n e.2.rts) x.evict }) := h.modDie
  exact MemOk.ite h ht.frame

theorem MemOk.startWalks {s : State} {k : CoreId} (h : MemOk s) : MemOk (s.startWalks k) :=
  (h.foldl fun _ _ ht => ht.pumpWalks.pumpWalks).ite h

theorem MemOk.mail {s : State} (h : MemOk s) : FstOk s.mail := by
  unfold State.mail
  generalize (bothDies.flatMap fun d => allCores.map fun p => (d, p)) = l
  refine List.foldlRecOn (motive := FstOk) l _ (FstOk.mk h) fun r hr x _ => ?_
  obtain ⟨t, l⟩ := r
  have ht : MemOk t := hr.state
  have hf : MemOk { t with free := t.free + 1 } := ht.frame
  refine FstOk.ite hr ?_
  dsimp only
  split
  · exact hr
  · exact FstOk.mk hf

theorem MemOk.lostRecords {s : State} (h : MemOk s) : FstOk s.lostRecords := by
  unfold State.lostRecords
  generalize (bothDies.flatMap fun d => allCores.map fun p => (d, p)) = l
  refine List.foldlRecOn (motive := FstOk) l _ (FstOk.mk h) fun r hr x _ => ?_
  obtain ⟨t, l⟩ := r
  have ht : MemOk t := hr.state
  have hw : MemOk { t with watch := t.watch + 1 } := ht.frame
  exact FstOk.ite hr (FstOk.mk hw)

theorem MemOk.pumpMirrors {s : State} {d : Fin 2} (h : MemOk s) : MemOk (s.pumpMirrors d) :=
  h.modDie.foldl fun _ _ ht => ht.noteLaunch.modDie

theorem andThen_ok {o : Host.Outcome State Fault Refusal} {f : State → State} (h : NextOk o) (hf : ∀ t, MemOk t → MemOk (f t)) :
    NextOk (andThen o f) := by
  cases o with
  | next s => exact hf s h
  | fault r => trivial
  | refused r => trivial

theorem MemOk.attempted {s : State} {k : CoreId} {q : Fin 4} (h : MemOk s) : MemOk (s.attempted k q) := by
  unfold State.attempted
  dsimp only
  split
  · split
    · exact (h.modCore (fun _ hc => by simpa using hc)).sendToken
    · exact h.modCore fun _ hc => by simpa using hc
  · exact h.modCore fun _ hc => by simpa using hc

theorem MemOk.attempt {s : State} {k : CoreId} {q : Seq} (h : MemOk s) : NextOk (s.attempt k q) := by
  unfold State.attempt
  dsimp only
  split
  · rename_i heq
    have ht : MemOk _ := h.frame.fetch.of heq
    exact ht.stallWith.attempted
  · rename_i heq
    have ht : MemOk _ := h.frame.fetch.of heq
    exact ht.xlateTrap.state.trapHere.attempted
  · rename_i heq
    have ht : MemOk _ := h.frame.fetch.of heq
    split
    · exact ht.trapHere.attempted
    · exact andThen_ok (exec_ok ht) (fun _ hu => hu.specAfter.attempted)

theorem MemOk.specIssue {s : State} {k : CoreId} {y : Spec} (h : MemOk s) : NextOk (s.specIssue k y) := by
  unfold State.specIssue
  split
  · exact h.specCycle
  · split
    · rename_i heq
      have ht : MemOk _ := h.attempt.of heq
      exact NextOk.ite ht ht.specCycle
    · exact trivial
    · exact trivial

theorem MemOk.issueCycle {s : State} {k : CoreId} {q : Seq} (h : MemOk s) : NextOk (s.issueCycle k q) := by
  unfold State.issueCycle
  dsimp only
  split
  · exact h
  · split
    · exact h.modCore fun _ hc => by simpa using hc
    · split
      · exact h.modCore fun _ hc => by simpa using hc
      · split
        · exact h.modCore fun _ hc => by simpa using hc
        · split
          · exact h.modCore fun _ hc => by simpa using hc
          · split
            · exact h.modCore fun _ hc => by simpa using hc
            · split
              · exact h.specIssue
              · exact h.attempt

theorem MemOk.confirm {s : State} {k : CoreId} (h : MemOk s) : MemOk (s.confirm k) :=
  h.modCore fun _ hc => by simpa using hc

theorem MemOk.assumeWaits {s : State} {k : CoreId} (h : MemOk s) : MemOk (s.assumeWaits k) := h.modCore.ite h

theorem MemOk.settleShoots {s : State} (h : MemOk s) : MemOk s.settleShoots := by
  refine ⟨h.device, h.cores, h.saved, fun d => ?_, h.dump⟩
  unfold State.settleShoots
  simp only [State.die, Fin.getElem_fin, Vector.getElem_ofFn]
  exact ite_wf (h.boot d) (h.boot d)

theorem MemOk.overflows {s : State} {k : CoreId} (h : MemOk s) : MemOk (s.overflows k) :=
  h.foldl fun _ _ ht => ht.ite (ht.postOut.ite ht.modDie)

theorem MemOk.fabric {s : State} {k : CoreId} (h : MemOk s) : MemOk (s.fabric k) :=
  h.foldl fun _ _ ht => (ht.frame.modCore (fun _ hc => by simpa [Core.foldl_mem] using hc)).ite ht

theorem MemOk.endCore {s : State} {k : CoreId} (h : MemOk s) : MemOk (s.endCore k) := by
  unfold State.endCore
  extract_lets s1 s2 s3 s4
  have h1 : MemOk s1 := h.postTraps.modCore fun c hc => Core.settleBanks_wf hc _
  have h2 : MemOk s2 := h1.checkReady.stepCommit.settleDone
  have h3 : MemOk s3 := (h2.modCore fun c hc => (congrArg Mem.wf (Core.idleCls_mem c)).trans hc).classify
  have h4 : MemOk s4 := h3.modCore fun c hc => by split <;> simpa using hc
  exact h4.fabric.overflows

theorem MemOk.passTime {s : State} (h : MemOk s) : MemOk s.passTime := h.frame

theorem phaseStart_ok {s : State} (h : MemOk s) : FstOk (phaseStart s) := by
  unfold phaseStart
  extract_lets base t staged
  have hbase : MemOk base := h.eachCore fun _ hc => by simpa using hc
  have ht : MemOk t := hbase.mapDies
  clear_value t
  have hb := ht.boundaries
  generalize t.boundaries = r at hb
  exact FstOk.mk hb.state.frame

theorem phaseContext_ok {s : State} (h : MemOk s) : FstOk (phaseContext s) :=
  FstOk.mk (h.foldCores fun _ _ ht => ht.pumpDrains.pumpTiles)

theorem phaseMemory_ok {s : State} (h : MemOk s) : FstOk (phaseMemory s) := by
  have hs : MemOk (bothDies.foldl State.evictLines s.pumpWrites) := h.pumpWrites.foldl fun _ _ ht => ht.evictLines
  exact FstOk.mk (hs.foldCores fun _ _ ht => ht.startWalks.pumpPrefs)

theorem phaseMessages_ok {s : State} (h : MemOk s) : FstOk (phaseMessages s) := by
  unfold phaseMessages
  extract_lets rel held mig
  have hb := h.mail
  generalize s.mail = r at hb
  exact FstOk.mk hb.state

theorem phaseManage_ok {s : State} (h : MemOk s) : FstOk (phaseManage s) := by
  unfold phaseManage
  extract_lets t now
  have ht : MemOk t := h.foldl fun _ _ ht => ht.pumpMirrors
  have hb := ht.lostRecords
  generalize t.lostRecords = r at hb
  exact FstOk.mk hb.state

theorem phaseIssue_ok {s : State} (h : MemOk s) : FstOk (phaseIssue s) := by
  unfold phaseIssue
  extract_lets s1 s2 s3
  have h1 : MemOk s1 := h.foldCores fun _ _ ht => ht.pumpFills.pumpLoads.modCore fun _ hc => by simpa using hc
  have h2 : MemOk s2 := h1.settleShoots
  have h3 : MemOk s3 := h2.foldCores fun _ _ ht => ht.assumeWaits.confirm
  exact FstOk.mk h3

theorem phaseCauses_ok {s : State} (h : MemOk s) : FstOk (phaseCauses s) := by
  unfold phaseCauses
  extract_lets t
  have ht : MemOk t := h.eachCore fun _ hc => by simpa using hc
  exact FstOk.mk ht

theorem phaseCopies_ok {s : State} (h : MemOk s) : FstOk (phaseCopies s) := by
  unfold phaseCopies
  extract_lets t
  have ht : MemOk t := h.eachCore fun _ hc => Core.performStores_wf hc s.rc
  exact FstOk.mk ht

theorem phaseEnd_ok {s : State} (h : MemOk s) : FstOk (phaseEnd s) :=
  FstOk.mk (h.foldCores fun _ _ ht => ht.endCore)

/-- Every phase keeps the memories; the ones that only list actions change no state. -/
theorem phases_ok {f : Phase} (hf : f ∈ phases) {s : State} (h : MemOk s) : FstOk (f s) := by
  simp only [phases, List.mem_cons, List.not_mem_nil, or_false] at hf
  rcases hf with rfl | rfl | rfl | rfl | rfl | rfl | rfl | rfl | rfl | rfl | rfl | rfl | rfl | rfl | rfl | rfl | rfl | rfl |
    rfl | rfl | rfl | rfl | rfl
  · exact phaseStart_ok h
  · exact FstOk.mk h
  · exact phaseContext_ok h
  · exact FstOk.mk h
  · exact FstOk.mk h
  · exact FstOk.mk h
  · exact FstOk.mk h
  · exact FstOk.mk h
  · exact phaseMemory_ok h
  · exact FstOk.mk h
  · exact FstOk.mk h
  · exact FstOk.mk h.pumpTeams
  · exact phaseMessages_ok h
  · exact phaseManage_ok h
  · exact phaseIssue_ok h
  · exact FstOk.mk h
  · exact FstOk.mk h.frame
  · exact phaseCauses_ok h
  · exact FstOk.mk h
  · exact phaseCopies_ok h
  · exact FstOk.mk h
  · exact phaseEnd_ok h
  · exact FstOk.mk h.passTime

theorem MemOk.enter {s : State} (h : MemOk s) : MemOk s.enter := by
  unfold State.enter
  split
  · rename_i f heq
    have hf := phases_ok (List.mem_of_getElem? heq) h
    generalize f s = r at hf
    exact hf.state.frame
  · exact h.frame

theorem MemOk.act {s : State} {a : Action} (h : MemOk s) : NextOk (s.act a) := by
  unfold State.act
  split
  · exact h.issueCycle
  · exact h.settle
  · exact exec_ok h

/-! ### The step -/

theorem step_ok {s : State} (h : MemOk s) : NextOk (step s) := by
  unfold step
  split
  · exact h.enter
  · exact h.frame.act

/-- Settles O60: every phase keeps the memories (`MemOk.enter`), and so does every action (`MemOk.act`), instruction by
instruction. -/
theorem memoriesKept : Obligations.MemoriesKept := by
  intro s t h hst
  exact (step_ok h).of hst

end Sys2Proof.Machine
end

section
/-! SUPPORT. The state that power-on reset leaves (O59). -/

namespace Sys2Proof.Machine

/-- Settles O59: every core and every die stands at the reset value of its registers. -/
theorem resetState : Obligations.ResetState := by
  refine ⟨fun k => ?_, fun d => ?_, rfl, rfl, MemOk.reset⟩
  · rw [State.core_reset]
    refine ⟨rfl, rfl, rfl, rfl, rfl, rfl, rfl, rfl, rfl, rfl, rfl, rfl, rfl, rfl, rfl, rfl, rfl, rfl, fun i => ?_, fun i => ?_, rfl, fun i => ?_⟩
    all_goals exact Vector.getElem_replicate _
  · rw [State.die_reset]
    refine ⟨by decide, by decide, rfl, rfl, rfl, rfl, rfl, rfl, rfl, rfl, rfl, fun p => ⟨?_, ?_, ?_, ?_, ?_, ?_, ?_, ?_⟩⟩
    all_goals exact Vector.getElem_replicate _

end Sys2Proof.Machine
end

section
/-! SUPPORT. A step at a turn to issue runs the instruction that its words decode to (O58). -/

namespace Sys2Proof.Machine

theorem icSet_line (a : Nat) : icSet (a / 64 * 64) = icSet a := by
  rw [icSet, icSet, Nat.mul_div_cancel _ (by decide)]

/-- The four bytes after an address stand in its line or in a line of another set. -/
theorem icSet_next (pc : BitVec 48) : (pc + 4).toNat / 64 = pc.toNat / 64 ∨ icSet (pc + 4).toNat ≠ icSet pc.toNat := by
  have hpc := pc.isLt
  rw [BitVec.toNat_add, show (4 : BitVec 48).toNat = 4 from rfl]
  by_cases h : (pc.toNat + 4) % 2 ^ 48 / 64 = pc.toNat / 64
  · exact .inl h
  · refine .inr fun e => h ?_
    have e := congrArg Fin.val e
    simp only [icSet, Fin.val_ofNat] at e
    omega

/-- The line that an address hits holds that address, for its partition. -/
theorem Core.icLine_eq_some {c : Core} {q : Fin 4} {p : PartId} {a : Nat} {l : ICLine} (h : c.icLine q p a = some l) :
    l.part = p ∧ l.addr = a / 64 * 64 := by
  simpa using List.find?_some h

/-- Moving the line of one address to the front of its set leaves what its line and the other sets hold. -/
theorem Core.icLine_icPut {c : Core} {q : Fin 4} {p : PartId} {a b : Nat} {l : ICLine} (h : c.icLine q p a = some l)
    (hb : b / 64 = a / 64 ∨ icSet b ≠ icSet a) : (c.icPut q l).icLine q p b = c.icLine q p b := by
  obtain ⟨hp, ha⟩ := Core.icLine_eq_some h
  have hset : icSet l.addr = icSet a := by rw [ha, icSet_line]
  by_cases hab : b / 64 = a / 64
  · have hsame : icSet b = icSet a := by simp only [icSet, hab]
    have hhit : c.icLine q p b = some l := by
      rw [← h]
      simp only [Core.icLine, hsame, hab]
    rw [hhit]
    simp [Core.icLine, Core.icPut, icSet_line, hsame, hp, ha, hab]
  · have hne : icSet l.addr ≠ icSet b := fun e => (hb.resolve_left hab) (e.symm.trans hset)
    simp [Core.icLine, Core.icPut, Vector.getElem_set_ne, Fin.val_ne_of_ne hne]

theorem Core.icWord_icPut {c : Core} {q : Fin 4} {a b : Nat} {l : ICLine} (h : c.icLine q c.part a = some l)
    (hb : b / 64 = a / 64 ∨ icSet b ≠ icSet a) : (c.icPut q l).icWord q b = c.icWord q b := by
  rw [Core.icWord, Core.icWord, show (c.icPut q l).part = c.part from rfl, Core.icLine_icPut h hb]

/-- A word that the I-cache holds is fetched, and its line moves to the front of its set. -/
theorem State.fetchWord_of_icWord {s : State} {k : CoreId} {q : Fin 4} {va : Nat} {w : Word32} (spec : Bool)
    (h : (s.core k).icWord q va = some w) : ∃ l, (s.core k).icLine q (s.core k).part va = some l ∧
      s.fetchWord k q va spec = .words w 0 (s.modCore k fun c => c.icPut q l) := by
  unfold Core.icWord at h
  split at h
  · rename_i l hl
    exact ⟨l, hl, by simp only [State.fetchWord, hl, Option.some.inj h]⟩
  · cases h

/-- The words that the I-cache holds at an address are fetched, and the order of use of its lines is all that changes. -/
theorem State.fetch_of_icWord {s : State} {k : CoreId} {q : Seq} {pc : BitVec 48} {w w2 : Word32} (spec : Bool)
    (h : (s.core k).icWord q.idx pc.toNat = some w)
    (h2 : twoWord q (majOf w) = true → (s.core k).icWord q.idx (pc + 4).toNat = some w2) :
    ∃ ic, s.fetch k q pc spec = .words w (if twoWord q (majOf w) then w2 else 0) (s.setCore k { s.core k with ic := ic }) := by
  obtain ⟨l, hl, hf⟩ := State.fetchWord_of_icWord spec h
  unfold State.fetch
  rw [hf]
  by_cases htwo : twoWord q (majOf w) = true
  · have hcore : (s.modCore k fun c => c.icPut q.idx l).core k = (s.core k).icPut q.idx l := State.core_setCore_same ..
    have hw2 := h2 htwo
    rw [← Core.icWord_icPut hl (icSet_next pc), ← hcore] at hw2
    obtain ⟨l2, -, hf2⟩ := State.fetchWord_of_icWord spec hw2
    refine ⟨(((s.core k).icPut q.idx l).icPut q.idx l2).ic, ?_⟩
    simp only [htwo, if_true, hf2]
    rw [State.modCore, hcore, State.modCore, State.setCore_setCore]
    rfl
  · refine ⟨((s.core k).icPut q.idx l).ic, ?_⟩
    simp only [htwo]
    rfl

/-- A turn that nothing holds attempts the instruction. -/
theorem State.issueCycle_attempt {s : State} {k : CoreId} {q : Seq} (hmay : (s.core k).mayIssue q = true)
    (harr : ((s.core k).sq q.idx).arrival = none) (hmid : (s.core k).mid = none) (hpay : ((s.core k).sq q.idx).pay = 0)
    (hpin : (s.core k).pinned = true → s.holdsPin k = true)
    (hl : q = .l → (s.core k).halted = none ∧ (s.core k).spec = none) : s.issueCycle k q = s.attempt k q := by
  have hhalt : ¬(q = .l ∧ (s.core k).halted.isSome = true) := fun ⟨e, hs⟩ => by simp [(hl e).1] at hs
  have hheld : ¬((s.core k).pinned && !s.holdsPin k) = true := by
    cases hp : (s.core k).pinned
    · simp
    · simp [hpin hp]
  unfold State.issueCycle
  simp only [hmay, harr, hmid, hpay, hhalt, hheld, Bool.not_true, Bool.false_eq_true, Option.isSome_none, if_false, Nat.lt_irrefl]
  cases q with
  | l => rw [(hl rfl).2]
  | _ => rfl

/-- Settles O58: a turn that nothing holds attempts the instruction (`State.issueCycle_attempt`), whose words come from the
I-cache (`State.fetch_of_icWord`). -/
theorem stepRunsDecoded : Obligations.StepRunsDecoded := by
  intro s rest
  refine ⟨?_, fun i h => by rw [step, h]; rfl, fun h => by rw [step, h]⟩
  intro k q w w2 i c x hag hmay harr hmid hpay hpin hl hw hw2 hdec
  obtain ⟨ic, hf⟩ := State.fetch_of_icWord (s := { s with agenda := rest, curCore := k, curSeq := q }) (k := k) false hw hw2
  refine ⟨ic, ?_⟩
  have hstep : step s = ({ s with agenda := rest } : State).issueCycle k q := by rw [step, hag]; rfl
  rw [hstep, State.issueCycle_attempt (s := { s with agenda := rest }) hmay harr hmid hpay hpin hl]
  unfold State.attempt
  have hpc : ({ s with agenda := rest, curCore := k, curSeq := q } : State).mySeq.pc = x.pc := rfl
  simp only [hpc, hf, hdec]
  rfl

end Sys2Proof.Machine
end

section
/-! SUPPORT. Fields of words: what `bvf` reads after `bvSet`. -/

namespace Sys2Proof.Machine

/-! ### Fields of words -/

section
variable {w : Nat} (x : BitVec w) {lo len : Nat} (v : Nat)

theorem bvf_lt (lo len : Nat) : bvf x lo len < 2 ^ len := Nat.mod_lt _ (Nat.two_pow_pos len)

/-- A number by its bits below, inside and above a field. -/
theorem field_split (n lo len : Nat) :
    n = n % 2 ^ lo + 2 ^ lo * (n / 2 ^ lo % 2 ^ len) + 2 ^ (lo + len) * (n / 2 ^ (lo + len)) := by
  have h1 := Nat.mod_add_div n (2 ^ lo)
  have h2 := Nat.mod_add_div (n / 2 ^ lo) (2 ^ len)
  rw [Nat.div_div_eq_div_mul, ← Nat.pow_add] at h2
  rw [Nat.pow_add, Nat.mul_assoc, Nat.add_assoc, ← Nat.mul_add, ← Nat.pow_add, h2, h1]

/-- The bits below the end of a field. -/
theorem field_low_lt (n v lo len : Nat) : n % 2 ^ lo + 2 ^ lo * (v % 2 ^ len) < 2 ^ (lo + len) := by
  have h1 := Nat.mod_lt n (Nat.two_pow_pos lo)
  have h2 : 2 ^ lo * (v % 2 ^ len + 1) ≤ 2 ^ lo * 2 ^ len := Nat.mul_le_mul_left _ (Nat.mod_lt v (Nat.two_pow_pos len))
  rw [Nat.mul_add, Nat.mul_one] at h2
  rw [Nat.pow_add]
  omega

/-- A field written: the bits below it and above it stay. -/
theorem bvSet_toNat (h : lo + len ≤ w) : (bvSet x lo len v).toNat =
    x.toNat % 2 ^ lo + 2 ^ lo * (v % 2 ^ len) + 2 ^ (lo + len) * (x.toNat / 2 ^ (lo + len)) := by
  have hx := field_split x.toNat lo len
  have hhigh : x.toNat / 2 ^ (lo + len) < 2 ^ (w - (lo + len)) := by
    rw [Nat.div_lt_iff_lt_mul (Nat.two_pow_pos _), ← Nat.pow_add, Nat.sub_add_cancel h]
    exact x.isLt
  have hlow := field_low_lt x.toNat v lo len
  have hlt : x.toNat % 2 ^ lo + 2 ^ lo * (v % 2 ^ len) + 2 ^ (lo + len) * (x.toNat / 2 ^ (lo + len)) < 2 ^ w := by
    calc _ < 2 ^ (lo + len) * (x.toNat / 2 ^ (lo + len) + 1) := by rw [Nat.mul_add]; omega
      _ ≤ 2 ^ (lo + len) * 2 ^ (w - (lo + len)) := Nat.mul_le_mul_left _ hhigh
      _ = 2 ^ w := by rw [← Nat.pow_add, Nat.add_sub_cancel' h]
  rw [bvSet, BitVec.toNat_ofNat, bvf, Nat.mul_comm _ (2 ^ lo), Nat.mul_comm _ (2 ^ lo)]
  rw [Nat.mod_eq_of_lt] <;> omega

/-- A field reads back what was written to it. -/
theorem bvf_bvSet_same (h : lo + len ≤ w) : bvf (bvSet x lo len v) lo len = v % 2 ^ len := by
  have h1 := Nat.mod_lt x.toNat (Nat.two_pow_pos lo)
  rw [bvf, bvSet_toNat x v h, Nat.pow_add, Nat.mul_assoc, Nat.add_assoc, ← Nat.mul_add, Nat.add_mul_div_left _ _ (Nat.two_pow_pos lo),
    Nat.div_eq_of_lt h1, Nat.zero_add, Nat.add_mul_mod_self_left, Nat.mod_mod]

/-- A field above the one written stays. -/
theorem bvf_bvSet_above (h : lo + len ≤ w) {i n : Nat} (hi : lo + len ≤ i) : bvf (bvSet x lo len v) i n = bvf x i n := by
  have hdiv (y : Nat) : y / 2 ^ i = y / 2 ^ (lo + len) / 2 ^ (i - (lo + len)) := by
    rw [Nat.div_div_eq_div_mul, ← Nat.pow_add, Nat.add_sub_cancel' hi]
  have hlow := field_low_lt x.toNat v lo len
  rw [bvf, bvf, hdiv, hdiv x.toNat, bvSet_toNat x v h, Nat.add_mul_div_left _ _ (Nat.two_pow_pos _), Nat.div_eq_of_lt hlow,
    Nat.zero_add]

/-- A field below the one written stays. -/
theorem bvf_bvSet_below (h : lo + len ≤ w) {i n : Nat} (hi : i + n ≤ lo) : bvf (bvSet x lo len v) i n = bvf x i n := by
  have hfield (y : Nat) : y / 2 ^ i % 2 ^ n = y % 2 ^ lo % 2 ^ (i + n) / 2 ^ i := by
    rw [Nat.mod_mod_of_dvd _ (Nat.pow_dvd_pow 2 hi), Nat.pow_add, Nat.mod_mul_right_div_self]
  rw [bvf, bvf, hfield, hfield x.toNat, bvSet_toNat x v h, Nat.pow_add, Nat.mul_assoc, Nat.add_assoc, ← Nat.mul_add,
    Nat.add_mul_mod_self_left, Nat.mod_mod]

/-- One bit as a field. -/
theorem bvf_one (i : Nat) : bvf x i 1 = (x.getLsbD i).toNat := by
  rw [bvf, BitVec.getLsbD, Nat.testBit_eq_decide_div_mod_eq, Nat.pow_one]
  rcases Nat.mod_two_eq_zero_or_one (x.toNat / 2 ^ i) with h | h <;> simp [h]

/-- A bit that a mask keeps. -/
theorem bvf_and_mask (mask : BitVec w) {i : Nat} (h : mask.getLsbD i = true) : bvf (x &&& mask) i 1 = bvf x i 1 := by
  rw [bvf_one, bvf_one, BitVec.getLsbD_and, h, Bool.and_true]

end

end Sys2Proof.Machine
end

section
/-! SUPPORT. Writes of the management and debug registers (O53). -/

namespace Sys2Proof.Machine

/-! ### Register writes -/

section
variable {d : Fin 2} {v : BitVec 64} {s : State}

/-- The bits of a whole 64-bit register that a mask leaves. -/
theorem masked_full (mask v : BitVec 64) : masked mask v = v &&& mask := by rw [masked, BitVec.setWidth_eq]

theorem exec_registerWrite (r : MReg) : exec (.registerWrite d r v) s = .next (s.writeReg d r v) := rfl

theorem bvf_zero_sixteen (v : BitVec 64) : bvf v 0 16 = v.toNat % 65536 := congrArg (· % 65536) (Nat.div_one v.toNat)

theorem bvf_zero_twenty (v : BitVec 64) : bvf v 0 20 = v.toNat % 2 ^ 20 := congrArg (· % 2 ^ 20) (Nat.div_one v.toNat)

theorem toNat_ofNat_bvf (x : BitVec 64) (lo len : Nat) : (BitVec.ofNat len (bvf x lo len)).toNat = bvf x lo len := by
  rw [BitVec.toNat_ofNat, Nat.mod_eq_of_lt (bvf_lt x lo len)]

/-- A write of a core's register by its own die. -/
theorem writeReg_core {r : MReg} {k : CoreId} {f : Core → Core} {c : Core}
    (hr : s.writeReg d r v = if dieOf k = d then s.modCore k f else s) (hf : f (s.core k) = c) :
    exec (.registerWrite d r v) s = .next (if dieOf k = d then s.setCore k c else s) := by
  rw [exec_registerWrite, hr, State.modCore, hf]

/-- A write that changes registers of its die. -/
theorem writeReg_die {r : MReg} {f g : Die → Die} (hr : s.writeReg d r v = s.modDie d f) (hfg : ∀ x, f x = g x) :
    exec (.registerWrite d r v) s = .next (s.modDie d g) := by
  rw [exec_registerWrite, hr, funext hfg]

theorem writeReg_mbcfg {p : PartId} (h : (s.die d).mbout[p] = []) : s.writeReg d (.mbcfg p) v =
    s.modDie d fun x => { x with mbcfg := x.mbcfg.set p (masked 0x8FF000FFFFFFF000 v) } := by
  rw [State.writeReg, State.writeMbcfg, State.die_modDie_same]
  simp only [h, List.length_nil, State.flushOut]

theorem writeReg_migthresh : (s.writeReg d .migthresh v).cores = s.cores ∧
    ((s.writeReg d .migthresh v).die d).migthresh = bvSet (v.setWidth 32 &&& 0x0001FFFF) 0 16 (max 1 (v.toNat % 65536)) := by
  refine ⟨rfl, ?_⟩
  rw [State.writeReg, State.die_modDie_same, Die.writeMigthresh, bvf_zero_sixteen, masked]

theorem Core.writeCfg_eq (c : Core) (j : Fin 8) : c.writeCfg j v.toNat =
    if cntOk v.toNat then { c with
      cntcfg := c.cntcfg.set j (bvSet (v.setWidth 32 &&& 0xC00FFFFF) 24 5 (bvf c.cntcfg[j] 24 5)) } else c := by
  rw [Core.writeCfg, show BitVec.ofNat 32 v.toNat = v.setWidth 32 from rfl]

theorem Core.writeVal_eq (c : Core) (j : Fin 8) : c.writeVal j v.toNat = { c with
    cntval := c.cntval.set j (BitVec.ofNat 64 (v.toNat % 2 ^ 48 +
      (if bvf v 48 1 = 1 ∧ j ∉ c.ovfs then 0 else bvf c.cntval[j] 48 1) * 2 ^ 48))
    cntset := c.cntset ++ [j] } := by
  simp only [Core.writeVal, bvf, Bool.not_eq_true', List.contains_eq_mem, decide_eq_false_iff_not, Nat.pow_one]

theorem Core.writeDbgctl_now {c : Core} (h : c.stopped = false ∨ bvf c.dbgctl 27 1 = 0 ∨ bvf v 27 1 = 1) :
    c.writeDbgctl v = { c with
      stepOff := false
      dbgctl := bvSet (bvSet (bvSet c.dbgctl 28 1 (bvf v 28 1)) 24 2 (bvf v 24 2)) 27 1 (bvf v 27 1) } := by
  have hlate : (c.stopped && bvf c.dbgctl 27 1 == 1 && bvf v 27 1 == 0) = false := by
    rcases h with h | h | h <;> simp [h]
  simp only [Core.writeDbgctl, hlate, Bool.false_eq_true, if_false]

theorem Core.writeDbgctl_late {c : Core} (hs : c.stopped = true) (h : bvf c.dbgctl 27 1 = 1) (hv : bvf v 27 1 = 0) :
    c.writeDbgctl v = { c with
      stepOff := true
      dbgctl := bvSet (bvSet c.dbgctl 28 1 (bvf v 28 1)) 24 2 (bvf v 24 2) } := by
  have hlate : (c.stopped && bvf c.dbgctl 27 1 == 1 && bvf v 27 1 == 0) = true := by simp [hs, h, hv]
  simp only [Core.writeDbgctl, hlate, if_true]

/-- The registers of teams: fields are kept while the team is not enabled. -/
theorem writeReg_team (t : Fin 256) (m : Fin 16) :
    ((s.team t.val).en = true → s.writeReg d (.grpctl t) v = s.setTeam t.val (s.team t.val) ∧
      s.writeReg d (.grpmem t m) v = s) ∧
    ((s.team t.val).en = false →
      s.writeReg d (.grpctl t) v = s.setTeam t.val { s.team t.val with
        part := BitVec.ofNat 4 (bvf v 52 4), timeout := BitVec.ofNat 20 (bvf v 12 20), count := BitVec.ofNat 5 (bvf v 0 5) } ∧
      s.writeReg d (.grpmem t m) v = s.setTeam t.val { s.team t.val with
        mem := (s.team t.val).mem.set m { (s.team t.val).mem[m] with
          v := bvf v 31 1 == 1, task := BitVec.ofNat 4 (bvf v 20 4), gang := BitVec.ofNat 16 (bvf v 4 16) } }) := by
  refine ⟨fun h => ⟨?_, if_pos h⟩, fun h => ?_⟩
  · rw [State.writeReg, Team.fields, if_pos h]
  · have hn : ¬(s.team t.val).en = true := by simp [h]
    exact ⟨by rw [State.writeReg, Team.fields, if_neg hn], if_neg hn⟩

theorem writeReg_mbptr {p : PartId} {u : State}
    (h : exec (.mailboxDoorbell d p (BitVec.ofNat 16 (bvf v 48 16))) s = .next u) :
    exec (.registerWrite d (.mbptr p) v) s = exec (.mailboxOheadWrite d p (BitVec.ofNat 16 (bvf v 0 16))) u := by
  have h : Host.Outcome.next (s.doorbell d p (BitVec.ofNat 16 (bvf v 48 16)).toNat) = .next u := h
  rw [toNat_ofNat_bvf, Host.Outcome.next.injEq] at h
  show Host.Outcome.next ((s.doorbell d p (bvf v 48 16)).oheadWrite d p (bvf v 0 16)) =
    .next (u.oheadWrite d p (BitVec.ofNat 16 (bvf v 0 16)).toNat)
  rw [toNat_ofNat_bvf, h]

theorem eq_bootwin_of_bootWindow {r : MReg} (h : bootWindow r = true) : ∃ y, r = .bootwin y := by
  unfold bootWindow at h
  split at h
  · exact ⟨_, rfl⟩
  · cases h

theorem writeReg_pfBar0 (reg : MReg) : s.writeReg d (.pfBar0 reg) v =
    if bootWindow reg ∨ reg ∈ (s.die d).permits then s.writeReg d reg v else s := by
  simp only [State.writeReg, List.contains_eq_mem, decide_eq_true_eq]

end

/-- Settles O53, register by register: most maps are a mask of the value written (`masked_full`). -/
theorem registerWrites : Obligations.RegisterWrites := by
  intro d port p k i j e t m v a off reg on s c w wr own lower
  refine ⟨writeReg_die rfl fun x => by rw [masked_full], fun h => ?_, rfl, rfl, writeReg_die rfl fun x => by rw [bvf_zero_sixteen],
    writeReg_die rfl fun x => by rw [masked_full], writeReg_die rfl fun x => by rw [masked_full],
    writeReg_die rfl fun x => by rw [masked_full], writeReg_die rfl fun x => by rw [masked_full],
    writeReg_die rfl fun x => ?_, rfl, writeReg_die rfl fun x => by rw [masked_full], writeReg_die rfl fun x => by rw [masked_full],
    writeReg_die rfl fun x => by rw [masked_full], fun _ => writeReg_die rfl fun x => by rw [bvf_zero_twenty], rfl,
    writeReg_die rfl fun x => by rw [masked_full], writeReg_die rfl fun x => by rw [masked_full], rfl, rfl,
    fun h => writeReg_die (writeReg_mbcfg h) fun x => by rw [masked_full], rfl, rfl, ⟨_, rfl, writeReg_migthresh⟩,
    writeReg_core rfl rfl, writeReg_core rfl (Core.writeCfg_eq c j), writeReg_core rfl (Core.writeVal_eq c j), fun _ => ?_,
    ?_, fun _ => rfl, rfl, ?_, fun u => writeReg_mbptr, rfl, rfl, rfl, rfl,
    writeReg_die rfl fun x => ?_, ?_⟩
  · rw [← masked_full]
    exact (exec_registerWrite _).trans (congrArg _ (if_pos h))
  · rw [Die.writeTtctl, masked_full, bvf_bvSet_above _ _ (by decide) (by decide), bvf_and_mask v _ (by decide)]
  · exact ⟨fun h => writeReg_core rfl (Core.writeDbgctl_now h), fun hs h hv => writeReg_core rfl (Core.writeDbgctl_late hs h hv)⟩
  · simp only [own]
    rw [← masked_full]
    exact writeReg_core rfl rfl
  · obtain ⟨hon, hoff⟩ := writeReg_team (d := d) (v := v) (s := s) t m
    exact ⟨fun h => ⟨fun _ => congrArg _ (hon h).1, congrArg _ (hon h).2⟩,
      fun h => ⟨fun _ => congrArg _ (hoff h).1, congrArg _ (hoff h).2⟩⟩
  · simp only [bne, decide_not]
    rfl
  · refine ⟨fun h => ?_, fun h => ?_, fun h0 h8 => ?_, ?_, fun h => ?_, fun h hb => ?_⟩
    · exact congrArg _ (if_pos h)
    · subst h
      exact congrArg _ rfl
    · exact congrArg _ ((if_neg h0).trans (if_neg h8))
    · exact congrArg Host.Outcome.next ((writeReg_pfBar0 _).trans (if_pos (.inl rfl)))
    · exact congrArg Host.Outcome.next ((writeReg_pfBar0 _).trans (if_pos (.inr h)))
    · refine congrArg Host.Outcome.next ((writeReg_pfBar0 _).trans (if_neg ?_))
      rintro (hw | hp)
      · obtain ⟨y, rfl⟩ := eq_bootwin_of_bootWindow hw
        exact hb y rfl
      · exact h hp

end Sys2Proof.Machine
end

section
/-! SUPPORT. Decoded words and their encodings (O57). -/

namespace Sys2Proof.Machine

/-! ### Fields of instruction words -/

theorem fld_lt (w : Word32) (lo len : Nat) : fld w lo len < 2 ^ len := Nat.mod_lt _ (Nat.two_pow_pos len)

theorem toNat_ofNat_fld (w : Word32) (lo len : Nat) : (BitVec.ofNat len (fld w lo len)).toNat = fld w lo len := by
  rw [BitVec.toNat_ofNat, Nat.mod_eq_of_lt (fld_lt w lo len)]

theorem bit_bitAt (w : Word32) (i : Nat) : bit (bitAt w i) = fld w i 1 := by
  have h := fld_lt w i 1
  unfold bit bitAt
  by_cases h1 : fld w i 1 = 1
  · simp [h1]
  · have h0 : fld w i 1 = 0 := by omega
    simp [h0]

theorem f4_val (w : Word32) (lo : Nat) : (f4 w lo).val = fld w lo 2 := Nat.mod_eq_of_lt (fld_lt w lo 2)
theorem f8_val (w : Word32) (lo : Nat) : (f8 w lo).val = fld w lo 3 := Nat.mod_eq_of_lt (fld_lt w lo 3)
theorem f16_val (w : Word32) (lo : Nat) : (f16 w lo).val = fld w lo 4 := Nat.mod_eq_of_lt (fld_lt w lo 4)
theorem f32_val (w : Word32) (lo : Nat) : (f32 w lo).val = fld w lo 5 := Nat.mod_eq_of_lt (fld_lt w lo 5)
theorem f64_val (w : Word32) (lo : Nat) : (f64 w lo).val = fld w lo 6 := Nat.mod_eq_of_lt (fld_lt w lo 6)

/-- Two neighbouring fields as one. -/
theorem fld_append (w : Word32) (lo m n : Nat) : fld w lo (m + n) = fld w (lo + m) n * 2 ^ m + fld w lo m := by
  rw [fld, fld, fld, Nat.pow_add 2 m n, Nat.mod_mul, Nat.pow_add 2 lo m, ← Nat.div_div_eq_div_mul, Nat.mul_comm, Nat.add_comm]

theorem fld_all (w : Word32) : fld w 0 32 = w.toNat := by
  rw [fld, Nat.pow_zero, Nat.div_one, Nat.mod_eq_of_lt w.isLt]

theorem Ring.bits_ringOf (w : Word32) : (ringOf w).bits = fld w 28 4 * 2 ^ 28 := by
  have h1 : fld w 28 4 = fld w 31 1 * 2 ^ 3 + fld w 28 3 := fld_append w 28 3 1
  have h2 : fld w 28 3 = fld w 30 1 * 2 ^ 2 + fld w 28 2 := fld_append w 28 2 1
  have h3 : fld w 28 2 = fld w 29 1 * 2 ^ 1 + fld w 28 1 := fld_append w 28 1 1
  simp only [Ring.bits, ringOf, bit_bitAt]
  omega

/-- A word by its top byte, its major and its operand fields. -/
theorem toNat_eq_fields (w : Word32) : w.toNat = fld w 28 4 * 2 ^ 28 + fld w 24 4 * 2 ^ 24 + majOf w * 2 ^ 18 + fld w 0 18 := by
  have h := fld_all w
  have h1 : fld w 0 32 = fld w 18 14 * 2 ^ 18 + fld w 0 18 := fld_append w 0 18 14
  have h2 : fld w 18 14 = fld w 24 8 * 2 ^ 6 + fld w 18 6 := fld_append w 18 6 8
  have h3 : fld w 24 8 = fld w 28 4 * 2 ^ 4 + fld w 24 4 := fld_append w 24 4 4
  unfold majOf
  omega

/-- The first word of an instruction from its major and operand fields. -/
theorem enc1_eq {w : Word32} {maj ops : Nat} (hm : majOf w = maj) (hops : ops = fld w 0 18) : enc1 (hdrOf w) maj ops = w := by
  have hw := toNat_eq_fields w
  have hguard : fld w 24 4 = fld w 27 1 * 2 ^ 3 + fld w 24 3 := fld_append w 24 3 1
  rw [enc1, hdrOf, Ring.bits_ringOf, bit_bitAt, f8_val, ← hm, hops,
    show fld w 28 4 * 2 ^ 28 + fld w 27 1 * 2 ^ 27 + fld w 24 3 * 2 ^ 24 + majOf w * 2 ^ 18 + fld w 0 18 = w.toNat by omega,
    BitVec.ofNat_toNat, BitVec.setWidth_eq]

theorem encR_eq {w : Word32} {maj ops : Nat} (hm : majOf w = maj) (hguard : fld w 24 4 = 0) (hops : ops = fld w 0 18) :
    encR (ringOf w) maj ops = w := by
  have hw := toNat_eq_fields w
  rw [encR, Ring.bits_ringOf, ← hm, hops, show fld w 28 4 * 2 ^ 28 + majOf w * 2 ^ 18 + fld w 0 18 = w.toNat by omega,
    BitVec.ofNat_toNat, BitVec.setWidth_eq]

/-- A second word from its fields below the signals. -/
theorem enc2_eq {w : Word32} {x : Nat} (h30 : fld w 30 2 = 0) (hx : x = fld w 0 28) : enc2 (compOf w) x = w := by
  have h1 : fld w 0 32 = fld w 28 4 * 2 ^ 28 + fld w 0 28 := fld_append w 0 28 4
  have h2 : fld w 28 4 = fld w 30 2 * 2 ^ 2 + fld w 28 2 := fld_append w 28 2 2
  have h3 : fld w 28 2 = fld w 29 1 * 2 ^ 1 + fld w 28 1 := fld_append w 28 1 1
  have hw := fld_all w
  rw [enc2, compOf, bit_bitAt, bit_bitAt, hx,
    show fld w 29 1 * 2 ^ 29 + fld w 28 1 * 2 ^ 28 + fld w 0 28 = w.toNat by omega, BitVec.ofNat_toNat, BitVec.setWidth_eq]

/-! ### Codes -/

theorem Sel.ofCode_eq_some {q : Seq} {n : Nat} {a : Sel} (h : Sel.ofCode q n = some a) : a.ok q = true ∧ a.code = n := by
  unfold Sel.ofCode at h
  extract_lets x at h
  cases hx : x with
  | none => simp [hx] at h
  | some y =>
    obtain ⟨hok, rfl⟩ : y.ok q = true ∧ y = a := by simpa [hx] using h
    refine ⟨hok, ?_⟩
    simp only [x] at hx
    split_ifs at hx <;> cases hx <;> simp only [Sel.code, Fin.val_ofNat] <;> omega

theorem Dest.code_destOf {w : Word32} (h : destOk w = true) : (destOf w).code = fD w := by
  have hsplit : fD w = fld w 17 1 * 2 ^ 5 + fld w 12 5 := fld_append w 12 5 1
  have hlt := fld_lt w 17 1
  unfold destOk bitAt at h
  unfold destOf bitAt
  by_cases hl : fld w 17 1 = 1
  · simp_all [Dest.code]
  · have : fld w 17 1 = 0 := by omega
    simp [this, Dest.code, hsplit, f32_val]

theorem Fate.ofCode_eq_some {n : Nat} {y : Fate} (h : Fate.ofCode n = some y) : y.code = n := by
  unfold Fate.ofCode at h
  split at h <;> cases h <;> rfl

theorem SupplyReq.ofCode_eq_some {n : Nat} {y : SupplyReq} (h : SupplyReq.ofCode n = some y) : y.code = n := by
  unfold SupplyReq.ofCode at h
  split at h <;> cases h <;> rfl

theorem Sz.ofCode_eq_some {n : Nat} {y : Sz} (h : Sz.ofCode n = some y) : y.code = n := by
  unfold Sz.ofCode at h
  split at h <;> cases h <;> rfl

theorem Esz.ofCode_eq_some {n : Nat} {y : Esz} (h : Esz.ofCode n = some y) : y.code = n := by
  unfold Esz.ofCode at h
  split at h <;> cases h <;> rfl

theorem VITy.ofCode_eq_some {n : Nat} {y : VITy} (h : VITy.ofCode n = some y) : y.code = n := by
  unfold VITy.ofCode at h
  split at h <;> cases h <;> rfl

theorem VFTy.ofCode_eq_some {n : Nat} {y : VFTy} (h : VFTy.ofCode n = some y) : y.code = n := by
  unfold VFTy.ofCode at h
  split at h <;> cases h <;> rfl

theorem VTy.ofCode_eq_some {n : Nat} {y : VTy} (h : VTy.ofCode n = some y) : y.code = n := by
  unfold VTy.ofCode at h
  split at h <;> cases h <;> rfl

theorem VCond.ofCode_eq_some {n : Nat} {y : VCond} (h : VCond.ofCode n = some y) : y.code = n := by
  unfold VCond.ofCode at h
  split at h <;> cases h <;> rfl

theorem Fmt.ofCode_eq_some {n : Nat} {y : Fmt} (h : Fmt.ofCode n = some y) : y.code = n := by
  unfold Fmt.ofCode at h
  split at h <;> cases h <;> rfl

theorem RMode.ofCode_eq_some {n : Nat} {y : RMode} (h : RMode.ofCode n = some y) : y.code = n := by
  unfold RMode.ofCode at h
  split at h <;> cases h <;> rfl

theorem Scope.code_ofCode (w : Word32) (lo : Nat) : (Scope.ofCode (fld w lo 2)).code = fld w lo 2 := by
  have h := fld_lt w lo 2
  generalize fld w lo 2 = n at h
  interval_cases n <;> rfl

theorem Scope.far_ofCode {w : Word32} {lo : Nat} (h2 : 2 ≤ fld w lo 2) : (Scope.ofCode (fld w lo 2)).far = true := by
  have h := fld_lt w lo 2
  generalize fld w lo 2 = n at h h2
  interval_cases n <;> rfl

/-! ### What a decoder's result says of its words -/

/-- An instruction decoded is well formed, and its encoding is the words. -/
def Reads (q : Seq) (ws : List Word32) (r : DecRes) : Prop := ∀ i, r = .ok i → i.wf q = true ∧ encode i = ws

section
variable {q : Seq} {ws : List Word32} {w w2 : Word32} {k : DecRes} {e : DecodeErr} {i : Instr} {b : Bool}

theorem Reads.error : Reads q ws (.error e) := by
  intro i h
  cases h

theorem Reads.ok (hwf : i.wf q = true) (henc : encode i = ws) : Reads q ws (.ok i) := by
  intro j h
  cases h
  exact ⟨hwf, henc⟩

theorem Reads.chk (h : b = true → Reads q ws k) : Reads q ws (chk b e k) := by
  unfold Sys2Proof.chk
  split
  · exact h ‹_›
  · exact Reads.error

theorem Reads.second (h : fld w2 30 2 = 0 → Reads q ws k) : Reads q ws (second w2 k) := Reads.chk fun hb => h (by simpa using hb)

theorem Reads.withVal {α : Type} {x : Option α} {k : α → DecRes} (h : ∀ y, x = some y → Reads q ws (k y)) :
    Reads q ws (withVal x k) := by
  cases x with
  | none => exact Reads.error
  | some y => exact h y rfl

theorem Reads.withSel {n : Nat} {k : Sel → DecRes} (h : ∀ a, a.ok q = true → a.code = n → Reads q ws (k a)) :
    Reads q ws (withSel q n k) :=
  Reads.withVal fun a ha => h a (Sel.ofCode_eq_some ha).1 (Sel.ofCode_eq_some ha).2

/-- One word. -/
theorem Reads.one {maj x : Nat} (hm : majOf w = maj) (hwf : i.wf q = true) (henc : encode i = [enc1 (hdrOf w) maj x])
    (hx : x = fld w 0 18) : Reads q [w] (.ok i) :=
  Reads.ok hwf (by rw [henc, enc1_eq hm hx])

/-- Two words. -/
theorem Reads.two {maj x y : Nat} (hm : majOf w = maj) (h30 : fld w2 30 2 = 0) (hwf : i.wf q = true)
    (henc : encode i = [enc1 (hdrOf w) maj x, enc2 (compOf w2) y]) (hx : x = fld w 0 18) (hy : y = fld w2 0 28) :
    Reads q [w, w2] (.ok i) :=
  Reads.ok hwf (by rw [henc, enc1_eq hm hx, enc2_eq h30 hy])

end

/-! ### Operand layouts -/

section
variable {w w2 : Word32}

theorem ops_rrr {d a b : Nat} (hd : d = fD w) (ha : a = fA w) (hb : b = fB w) : rrr d a b = fld w 0 18 := by
  have h1 : fld w 0 18 = fld w 6 12 * 2 ^ 6 + fld w 0 6 := fld_append w 0 6 12
  have h2 : fld w 6 12 = fld w 12 6 * 2 ^ 6 + fld w 6 6 := fld_append w 6 6 6
  rw [hd, ha, hb, rrr, fD, fA, fB]
  omega

/-- Field D as two register numbers of three bits. -/
theorem fD_split (w : Word32) : fD w = fld w 15 3 * 2 ^ 3 + fld w 12 3 := fld_append w 12 3 3

/-- The RRP layout (R48). -/
theorem ops_rrp {a b : Nat} (ha : a = fA w) (hb : b = fB w) :
    (f8 w 15).val * 2 ^ 15 + (f8 w 12).val * 2 ^ 12 + a * 2 ^ 6 + b = fld w 0 18 := by
  rw [← ops_rrr (w := w) rfl ha hb, rrr, fD_split, f8_val, f8_val]
  omega

/-- The layouts with a latch or channel number in bits [17:16]. -/
theorem ops_x {x a b : Nat} (hx : x = fld w 16 2) (h12 : fld w 12 4 = 0) (ha : a = fA w) (hb : b = fB w) :
    x * 2 ^ 16 + a * 2 ^ 6 + b = fld w 0 18 := by
  have hd : fD w = fld w 16 2 * 2 ^ 4 + fld w 12 4 := fld_append w 12 4 2
  rw [← ops_rrr (w := w) rfl ha hb, rrr, hd, hx, h12]
  omega

/-- Field A and B as one number. -/
theorem ops_d {d n : Nat} (hd : d = fD w) (hn : n = fld w 0 12) : d * 2 ^ 12 + n = fld w 0 18 := by
  have h : fld w 0 18 = fld w 12 6 * 2 ^ 12 + fld w 0 12 := fld_append w 0 12 6
  rw [hd, hn, fD, h]

theorem opImm_eq {op n : Nat} (hop : fld w 22 6 = op) (hn : n = fld w 0 22) : opImm op n = fld w 0 28 := by
  have h : fld w 0 28 = fld w 22 6 * 2 ^ 22 + fld w 0 22 := fld_append w 0 22 6
  rw [opImm, ← hop, hn, h]

end

/-! ### The common map (R54 to R61) -/

section
variable {q : Seq} {w w2 : Word32}

theorem decMisc_reads (hm : majOf w = 0) : Reads q [w] (decMisc w) := by
  have z {i : Instr} {n : Nat} (hn : fB w = n) (hwf : i.wf q = true) (henc : encode i = [enc1 (hdrOf w) 0 n]) :
      Reads q [w] (chk (fld w 6 12 == 0) .reserved (.ok i)) := by
    refine Reads.chk fun h => Reads.one hm hwf henc ?_
    have hz : fld w 6 12 = 0 := by simpa using h
    have hs : fld w 0 18 = fld w 6 12 * 2 ^ 6 + fld w 0 6 := fld_append w 0 6 12
    rw [hs, hz, ← hn, fB, Nat.zero_mul, Nat.zero_add]
  unfold decMisc
  dsimp only
  split
  · exact z ‹_› rfl rfl
  · exact z ‹_› rfl rfl
  · exact z ‹_› rfl rfl
  · exact z ‹_› rfl rfl
  · exact z ‹_› rfl rfl
  · exact z ‹_› rfl rfl
  · exact Reads.error

theorem decCommit_reads (hm : majOf w = 1) : Reads q [w] (decCommit q w) := by
  unfold decCommit
  refine Reads.chk fun h => Reads.chk fun hdrop => ?_
  obtain ⟨hguard, h14⟩ : fld w 24 4 = 0 ∧ fld w 14 4 = 0 := by simpa using h
  have h1 : fld w 0 18 = fld w 14 4 * 2 ^ 14 + fld w 0 14 := fld_append w 0 14 4
  have h2 : fld w 0 14 = fld w 13 1 * 2 ^ 13 + fld w 0 13 := fld_append w 0 13 1
  have h3 : fld w 0 13 = fld w 12 1 * 2 ^ 12 + fld w 0 12 := fld_append w 0 12 1
  have h4 : fld w 0 12 = fld w 8 4 * 2 ^ 8 + fld w 0 8 := fld_append w 0 8 4
  have ops (halt : Bool) (hh : halt = bitAt w 13) :
      cmW halt (bitAt w 12) (BitVec.ofNat 4 (fld w 8 4)) (BitVec.ofNat 8 (fld w 0 8)) = fld w 0 18 := by
    rw [cmW, hh, bit_bitAt, bit_bitAt, toNat_ofNat_fld, toNat_ofNat_fld]
    omega
  split
  · rename_i hh
    exact Reads.ok hdrop (congrArg (fun x => [x]) (encR_eq hm hguard (ops true hh.symm)))
  · rename_i hh
    exact Reads.ok hdrop (congrArg (fun x => [x]) (encR_eq hm hguard (ops false (by simpa using hh))))

theorem decRRR_reads {maj : Nat} {f : Hdr → Dest → Sel → Sel → Instr} (hm : majOf w = maj)
    (hwf : ∀ h d a b, (f h d a b).wf q = (a.ok q && b.ok q))
    (henc : ∀ h d a b, encode (f h d a b) = [enc1 h maj (rrr d.code a.code b.code)]) : Reads q [w] (decRRR q w f) := by
  refine Reads.chk fun hd => Reads.withSel fun a ha hac => Reads.withSel fun b hb hbc => ?_
  exact Reads.one hm (by rw [hwf, ha, hb]; rfl) (henc ..) (ops_rrr (Dest.code_destOf hd) hac hbc)

theorem decAlux_reads (hm : majOf w = 13) : Reads q [w, w2] (decAlux q w w2) := by
  unfold decAlux
  extract_lets h c d imm one two sh bf z fits
  have hone {ok : Bool} {k : Sel → DecRes} (hk : destOk w = true → fB w = 0 → ok = true → fld w2 30 2 = 0 →
      ∀ a, a.ok q = true → a.code = fA w → Reads q [w, w2] (k a)) : Reads q [w, w2] (one ok k) := by
    refine Reads.chk fun hc => Reads.second fun h30 => Reads.withSel fun a ha hac => ?_
    obtain ⟨⟨hd, hB⟩, hok⟩ : (destOk w = true ∧ fB w = 0) ∧ ok = true := by simpa using hc
    exact hk hd hB hok h30 a ha hac
  have htwo {ok : Bool} {k : Sel → Sel → DecRes} (hk : destOk w = true → ok = true → fld w2 30 2 = 0 →
      ∀ a b, a.ok q = true → a.code = fA w → b.ok q = true → b.code = fB w → Reads q [w, w2] (k a b)) :
      Reads q [w, w2] (two ok k) := by
    refine Reads.chk fun hc => Reads.second fun h30 => Reads.withSel fun a ha hac => Reads.withSel fun b hb hbc => ?_
    obtain ⟨hd, hok⟩ : destOk w = true ∧ ok = true := by simpa using hc
    exact hk hd hok h30 a b ha hac hb hbc
  have himm : imm.toNat = fld w2 0 22 := toNat_ofNat_fld w2 0 22
  have hsh (hok : sh = true) : (f64 w2 0).val = fld w2 0 22 := by
    have h0 : fld w2 6 16 = 0 := by simpa [sh] using hok
    have h1 : fld w2 0 22 = fld w2 6 16 * 2 ^ 6 + fld w2 0 6 := fld_append w2 0 6 16
    rw [f64_val, h1, h0, Nat.zero_mul, Nat.zero_add]
  have hz (hok : z = true) : 0 = fld w2 0 22 := (eq_of_beq hok).symm
  have hbf (hok : bf = true) : (f64 w2 6).val * 2 ^ 6 + (f64 w2 0).val = fld w2 0 22 := by
    have h0 : fld w2 12 10 = 0 := by simpa [bf] using hok
    have h1 : fld w2 0 22 = fld w2 12 10 * 2 ^ 12 + fld w2 0 12 := fld_append w2 0 12 10
    have h2 : fld w2 0 12 = fld w2 6 6 * 2 ^ 6 + fld w2 0 6 := fld_append w2 0 6 6
    rw [f64_val, f64_val, h1, h0, h2, Nat.zero_mul, Nat.zero_add]
  have one_ok {ok : Bool} {f : Sel → Instr} {op n : Nat} (hop : fld w2 22 6 = op) (hwf : ∀ a, (f a).wf q = a.ok q)
      (henc : ∀ a, encode (f a) = [enc1 h 13 (rrr d.code a.code 0), enc2 c (opImm op n)]) (hn : ok = true → n = fld w2 0 22) :
      Reads q [w, w2] (one ok fun a => .ok (f a)) :=
    hone fun hd hB hok h30 a ha hac => Reads.two hm h30 ((hwf a).trans ha) (henc a) (ops_rrr (Dest.code_destOf hd) hac hB.symm)
      (opImm_eq hop (hn hok))
  have two_ok {f : Sel → Sel → Instr} {op : Nat} (hop : fld w2 22 6 = op) (hwf : ∀ a b, (f a b).wf q = (a.ok q && b.ok q))
      (henc : ∀ a b, encode (f a b) = [enc1 h 13 (rrr d.code a.code b.code), enc2 c (opImm op 0)]) :
      Reads q [w, w2] (two z fun a b => .ok (f a b)) :=
    htwo fun hd hok h30 a b ha hac hb hbc => Reads.two hm h30 (by rw [hwf, ha, hb]; rfl) (henc a b)
      (ops_rrr (Dest.code_destOf hd) hac hbc) (opImm_eq hop (hz hok))
  have hfits (hf : decide (fld w2 0 6 + fld w2 6 6 + 1 ≤ 64) = true) :
      decide ((f64 w2 0).val + (f64 w2 6).val + 1 ≤ 64) = true := by rwa [f64_val, f64_val]
  have ext_ok {f : Sel → Instr} {op : Nat} (hop : fld w2 22 6 = op)
      (hwf : ∀ a, (f a).wf q = (a.ok q && decide ((f64 w2 0).val + (f64 w2 6).val + 1 ≤ 64)))
      (henc : ∀ a, encode (f a) =
        [enc1 h 13 (rrr d.code a.code 0), enc2 c (opImm op ((f64 w2 6).val * 2 ^ 6 + (f64 w2 0).val))]) :
      Reads q [w, w2] (one bf fun a => fits (f a)) :=
    hone fun hd hB hok h30 a ha hac => Reads.chk fun hf => Reads.two hm h30 (by rw [hwf, ha, hfits hf]; rfl) (henc a)
      (ops_rrr (Dest.code_destOf hd) hac hB.symm) (opImm_eq hop (hbf hok))
  split
  · exact one_ok ‹_› (fun _ => rfl) (fun _ => rfl) fun _ => himm
  · exact one_ok ‹_› (fun _ => rfl) (fun _ => rfl) fun _ => himm
  · exact one_ok ‹_› (fun _ => rfl) (fun _ => rfl) fun _ => himm
  · exact one_ok ‹_› (fun _ => rfl) (fun _ => rfl) fun _ => himm
  · exact one_ok ‹_› (fun _ => rfl) (fun _ => rfl) hsh
  · exact one_ok ‹_› (fun _ => rfl) (fun _ => rfl) hsh
  · exact one_ok ‹_› (fun _ => rfl) (fun _ => rfl) hsh
  · exact two_ok ‹_› (fun _ _ => rfl) fun _ _ => rfl
  · exact two_ok ‹_› (fun _ _ => rfl) fun _ _ => rfl
  · exact two_ok ‹_› (fun _ _ => rfl) fun _ _ => rfl
  · exact two_ok ‹_› (fun _ _ => rfl) fun _ _ => rfl
  · exact two_ok ‹_› (fun _ _ => rfl) fun _ _ => rfl
  · exact two_ok ‹_› (fun _ _ => rfl) fun _ _ => rfl
  · exact ext_ok ‹_› (fun _ => rfl) fun _ => rfl
  · exact ext_ok ‹_› (fun _ => rfl) fun _ => rfl
  · refine htwo fun hd hok h30 a b ha hac hb hbc => Reads.chk fun hf => ?_
    exact Reads.two hm h30 (by rw [Instr.wf, ha, hb, hfits hf]; rfl) rfl (ops_rrr (Dest.code_destOf hd) hac hbc)
      (opImm_eq ‹_› (hbf hok))
  · exact one_ok ‹_› (fun _ => rfl) (fun _ => rfl) hz
  · exact one_ok ‹_› (fun _ => rfl) (fun _ => rfl) hz
  · exact one_ok ‹_› (fun _ => rfl) (fun _ => rfl) hz
  · exact one_ok ‹_› (fun _ => rfl) (fun _ => rfl) fun _ => himm
  · exact Reads.error

theorem decCmp_reads {maj : Nat} {f : Hdr → Fin 8 → Fin 8 → Sel → Sel → Instr} (hm : majOf w = maj)
    (hwf : ∀ h t e a b, (f h t e a b).wf q = (a.ok q && b.ok q))
    (henc : ∀ h t e a b, encode (f h t e a b) =
      [enc1 h maj (t.val * 2 ^ 15 + e.val * 2 ^ 12 + a.code * 2 ^ 6 + b.code)]) : Reads q [w] (decCmp q w f) := by
  refine Reads.withSel fun a ha hac => Reads.withSel fun b hb hbc => ?_
  exact Reads.one hm (by rw [hwf, ha, hb]; rfl) (henc ..) (ops_rrp hac hbc)

theorem decCmpi_reads (hm : majOf w = 17) : Reads q [w, w2] (decCmpi q w w2) := by
  unfold decCmpi
  extract_lets k
  have hk {f : Hdr → Fin 8 → Fin 8 → Sel → BitVec 22 → Comp → Instr} {op : Nat} (hop : fld w2 22 6 = op)
      (hwf : ∀ h t e a n c, (f h t e a n c).wf q = a.ok q)
      (henc : ∀ h t e a n c, encode (f h t e a n c) =
        [enc1 h 17 (t.val * 2 ^ 15 + e.val * 2 ^ 12 + a.code * 2 ^ 6), enc2 c (opImm op n.toNat)]) :
      Reads q [w, w2] (k f) := by
    refine Reads.chk fun hB => Reads.second fun h30 => Reads.withSel fun a ha hac => ?_
    have hB : fB w = 0 := by simpa using hB
    have ops : opImm op (BitVec.ofNat 22 (fld w2 0 22)).toNat = fld w2 0 28 := by
      rw [toNat_ofNat_fld]
      exact opImm_eq hop rfl
    exact Reads.two hm h30 ((hwf ..).trans ha) (henc _ _ _ _ _ _) ((Nat.add_zero _).symm.trans (ops_rrp hac hB.symm)) ops
  split
  · exact hk ‹_› (fun _ _ _ _ _ _ => rfl) fun _ _ _ _ _ _ => rfl
  · exact hk ‹_› (fun _ _ _ _ _ _ => rfl) fun _ _ _ _ _ _ => rfl
  · exact hk ‹_› (fun _ _ _ _ _ _ => rfl) fun _ _ _ _ _ _ => rfl
  · exact Reads.error

/-- The PL layout (R48). -/
theorem plW_eq {op xb : Nat} {nb : Bool} (hop : fld w 15 3 = op) (h9 : fld w 9 3 = 0) (h0 : fld w 0 1 = 0)
    (hxb : xb = fld w 3 3) (hnb : bit nb = fld w 1 1) :
    plW op (f8 w 12).val (f8 w 6).val xb (bitAt w 2) nb = fld w 0 18 := by
  have h1 : fld w 0 18 = fld w 15 3 * 2 ^ 15 + fld w 0 15 := fld_append w 0 15 3
  have h2 : fld w 0 15 = fld w 12 3 * 2 ^ 12 + fld w 0 12 := fld_append w 0 12 3
  have h3 : fld w 0 12 = fld w 9 3 * 2 ^ 9 + fld w 0 9 := fld_append w 0 9 3
  have h4 : fld w 0 9 = fld w 6 3 * 2 ^ 6 + fld w 0 6 := fld_append w 0 6 3
  have h5 : fld w 0 6 = fld w 3 3 * 2 ^ 3 + fld w 0 3 := fld_append w 0 3 3
  have h6 : fld w 0 3 = fld w 2 1 * 2 ^ 2 + fld w 0 2 := fld_append w 0 2 1
  have h7 : fld w 0 2 = fld w 1 1 * 2 ^ 1 + fld w 0 1 := fld_append w 0 1 1
  rw [plW, f8_val, f8_val, hxb, hnb, bit_bitAt]
  omega

theorem decPl_reads {mask : Bool} (hm : majOf w = if mask then 27 else 18) (hq : mask = true → q = .c) :
    Reads q [w] (decPl w mask) := by
  unfold decPl
  extract_lets h d a b na nb z
  have hz {k : DecRes} (hk : fld w 9 3 = 0 → fld w 0 1 = 0 → Reads q [w] k) : Reads q [w] (z k) := by
    refine Reads.chk fun hc => ?_
    obtain ⟨h9, h0⟩ : fld w 9 3 = 0 ∧ fld w 0 1 = 0 := by simpa using hc
    exact hk h9 h0
  have ops {op : Nat} (hop : fld w 15 3 = op) (h9 : fld w 9 3 = 0) (h0 : fld w 0 1 = 0) :
      plW op d.val a.val b.val na nb = fld w 0 18 := plW_eq hop h9 h0 (f8_val w 3) (bit_bitAt w 1)
  have mov (hop : fld w 15 3 = 3) (h9 : fld w 9 3 = 0) (h0 : fld w 0 1 = 0) (hc : (b == 0 && !nb) = true) :
      plW 3 d.val a.val 0 na false = fld w 0 18 := by
    obtain ⟨hb, hnb⟩ : b = 0 ∧ nb = false := by simpa using hc
    refine plW_eq hop h9 h0 ?_ ?_
    · rw [← f8_val w 3, show f8 w 3 = 0 from hb]
      rfl
    · rw [← bit_bitAt w 1, show bitAt w 1 = false from hnb]
  cases mask with
  | false =>
    split
    · exact hz fun h9 h0 => Reads.one hm rfl rfl (ops ‹_› h9 h0)
    · exact hz fun h9 h0 => Reads.one hm rfl rfl (ops ‹_› h9 h0)
    · exact hz fun h9 h0 => Reads.one hm rfl rfl (ops ‹_› h9 h0)
    · exact hz fun h9 h0 => Reads.chk fun hc => Reads.one hm rfl rfl (mov ‹_› h9 h0 hc)
    · exact Reads.error
  | true =>
    obtain rfl := hq rfl
    split
    · exact hz fun h9 h0 => Reads.one hm rfl rfl (ops ‹_› h9 h0)
    · exact hz fun h9 h0 => Reads.one hm rfl rfl (ops ‹_› h9 h0)
    · exact hz fun h9 h0 => Reads.one hm rfl rfl (ops ‹_› h9 h0)
    · exact hz fun h9 h0 => Reads.chk fun hc => Reads.one hm rfl rfl (mov ‹_› h9 h0 hc)
    · exact Reads.error

theorem decLoop_reads (hm : majOf w = 22) : Reads q [w, w2] (decLoop q w w2) := by
  unfold decLoop
  extract_lets fin
  refine Reads.chk fun hc => Reads.second fun h30 => ?_
  obtain ⟨⟨h12, h18⟩, hB⟩ : (fld w 12 2 = 0 ∧ fld w2 18 2 = 0) ∧ (bitAt w 14 = true ∨ fB w = 0) := by simpa using hc
  have hfin {n : LoopCount} (hn : n.ok q = true) (hops : lpW (f4 w 16) (bitAt w 15) n = fld w 0 18) :
      Reads q [w, w2] (fin n) := by
    refine Reads.chk fun hlen => Reads.two hm h30 ?_ rfl hops ?_
    · have hne : BitVec.ofNat 18 (fld w2 0 18) ≠ 0#18 := fun e => by
        have := congrArg BitVec.toNat e
        rw [toNat_ofNat_fld] at this
        simp [this] at hlen
      simp [Instr.wf, hn, hne]
    · have h1 : fld w2 0 28 = fld w2 20 8 * 2 ^ 20 + fld w2 0 20 := fld_append w2 0 20 8
      have h2 : fld w2 0 20 = fld w2 18 2 * 2 ^ 18 + fld w2 0 18 := fld_append w2 0 18 2
      rw [toNat_ofNat_fld, toNat_ofNat_fld]
      omega
  have h1 : fld w 0 18 = fld w 16 2 * 2 ^ 16 + fld w 0 16 := fld_append w 0 16 2
  have h2 : fld w 0 16 = fld w 15 1 * 2 ^ 15 + fld w 0 15 := fld_append w 0 15 1
  have h3 : fld w 0 15 = fld w 14 1 * 2 ^ 14 + fld w 0 14 := fld_append w 0 14 1
  have h4 : fld w 0 14 = fld w 12 2 * 2 ^ 12 + fld w 0 12 := fld_append w 0 12 2
  have h5 : fld w 0 12 = fld w 6 6 * 2 ^ 6 + fld w 0 6 := fld_append w 0 6 6
  split
  · rename_i hi
    have hi : fld w 14 1 = 1 := by rw [← bit_bitAt, hi]; rfl
    refine hfin rfl ?_
    rw [lpW, f4_val, bit_bitAt, toNat_ofNat_fld]
    omega
  · rename_i hi
    have hi0 : fld w 14 1 = 0 := by rw [← bit_bitAt, Bool.eq_false_of_not_eq_true hi]; rfl
    have hB : fB w = 0 := hB.resolve_left hi
    refine Reads.withSel fun a ha hac => hfin ha ?_
    rw [fB] at hB
    rw [lpW, f4_val, bit_bitAt, hac, fA]
    omega

/-- The words that a decoder has read. -/
def wordsOf (q : Seq) (w w2 : Word32) : List Word32 := if twoWord q (majOf w) then [w, w2] else [w]

theorem Reads.ofOne {n : Nat} {r : DecRes} (hm : majOf w = n) (hn : twoWord q n = false) (h : Reads q [w] r) :
    Reads q (wordsOf q w w2) r := by
  rw [wordsOf, hm, hn]
  exact h

theorem Reads.ofTwo {n : Nat} {r : DecRes} (hm : majOf w = n) (hn : twoWord q n = true) (h : Reads q [w, w2] r) :
    Reads q (wordsOf q w w2) r := by
  rw [wordsOf, hm, hn]
  exact h

theorem twoWord_of_lt {n : Nat} (h : n < 24) : twoWord q n = [13, 17, 22].contains n := by
  interval_cases n <;> cases q <;> rfl

theorem decCommon_reads (hlt : majOf w < 24) : Reads q (wordsOf q w w2) (decCommon q (majOf w) w w2) := by
  have one {n : Nat} {r : DecRes} (hm : majOf w = n) (hn : [13, 17, 22].contains n = false) (h : Reads q [w] r) :
      Reads q (wordsOf q w w2) r := Reads.ofOne hm ((twoWord_of_lt (hm ▸ hlt)).trans hn) h
  have two {n : Nat} {r : DecRes} (hm : majOf w = n) (hn : [13, 17, 22].contains n = true) (h : Reads q [w, w2] r) :
      Reads q (wordsOf q w w2) r := Reads.ofTwo hm ((twoWord_of_lt (hm ▸ hlt)).trans hn) h
  unfold decCommon
  dsimp only
  split
  · exact one ‹_› rfl (decMisc_reads ‹_›)
  · exact one ‹_› rfl (decCommit_reads ‹_›)
  · exact one ‹_› rfl (decRRR_reads ‹_› (fun _ _ _ _ => rfl) fun _ _ _ _ => rfl)
  · exact one ‹_› rfl (decRRR_reads ‹_› (fun _ _ _ _ => rfl) fun _ _ _ _ => rfl)
  · exact one ‹_› rfl (decRRR_reads ‹_› (fun _ _ _ _ => rfl) fun _ _ _ _ => rfl)
  · exact one ‹_› rfl (decRRR_reads ‹_› (fun _ _ _ _ => rfl) fun _ _ _ _ => rfl)
  · exact one ‹_› rfl (decRRR_reads ‹_› (fun _ _ _ _ => rfl) fun _ _ _ _ => rfl)
  · exact one ‹_› rfl (decRRR_reads ‹_› (fun _ _ _ _ => rfl) fun _ _ _ _ => rfl)
  · exact one ‹_› rfl (decRRR_reads ‹_› (fun _ _ _ _ => rfl) fun _ _ _ _ => rfl)
  · exact one ‹_› rfl (decRRR_reads ‹_› (fun _ _ _ _ => rfl) fun _ _ _ _ => rfl)
  · exact one ‹_› rfl (decRRR_reads ‹_› (fun _ _ _ _ => rfl) fun _ _ _ _ => rfl)
  · exact one ‹_› rfl (Reads.chk fun hd => Reads.withSel fun a ha hac =>
      Reads.one ‹_› ha rfl (ops_rrr (Dest.code_destOf hd) hac (toNat_ofNat_fld w 0 6)))
  · exact one ‹_› rfl (Reads.chk fun hd => Reads.one ‹_› rfl rfl (ops_d (Dest.code_destOf hd) (toNat_ofNat_fld w 0 12)))
  · exact two ‹_› rfl (decAlux_reads ‹_›)
  · exact one ‹_› rfl (decCmp_reads ‹_› (fun _ _ _ _ _ => rfl) fun _ _ _ _ _ => rfl)
  · exact one ‹_› rfl (decCmp_reads ‹_› (fun _ _ _ _ _ => rfl) fun _ _ _ _ _ => rfl)
  · exact one ‹_› rfl (decCmp_reads ‹_› (fun _ _ _ _ _ => rfl) fun _ _ _ _ _ => rfl)
  · exact two ‹_› rfl (decCmpi_reads ‹_›)
  · exact one ‹_› rfl (decPl_reads ‹_› fun h => by cases h)
  · exact one ‹_› rfl (Reads.one ‹_› rfl rfl (toNat_ofNat_fld w 0 18))
  · exact one ‹_› rfl (Reads.one ‹_› rfl rfl (toNat_ofNat_fld w 0 18))
  · refine one ‹_› rfl (Reads.chk fun hc => Reads.withSel fun a ha hac => ?_)
    obtain ⟨hd, hB⟩ : destOk w = true ∧ fB w = 0 := by simpa using hc
    exact Reads.one ‹_› ha rfl (ops_rrr (Dest.code_destOf hd) hac hB.symm)
  · exact two ‹_› rfl (decLoop_reads ‹_›)
  · refine one ‹_› rfl ?_
    have h1 : fld w 0 18 = fld w 17 1 * 2 ^ 17 + fld w 0 17 := fld_append w 0 17 1
    have h2 : fld w 0 17 = fld w 12 5 * 2 ^ 12 + fld w 0 12 := fld_append w 0 12 5
    have h17 := bit_bitAt w 17
    split
    · rename_i hi
      rw [hi] at h17
      refine Reads.one ‹_› rfl rfl ?_
      rw [f32_val, toNat_ofNat_fld, h1, h2, ← h17, bit, if_pos rfl, Nat.one_mul, Nat.add_assoc]
    · rename_i hi
      rw [Bool.eq_false_of_not_eq_true hi] at h17
      refine Reads.one ‹_› rfl rfl ?_
      rw [f32_val, toNat_ofNat_fld, h1, h2, ← h17, bit, if_neg (by decide), Nat.zero_mul, Nat.zero_add]
  · exact Reads.error

end

/-! ### The words of accesses (R65) -/

section
variable {q : Seq} {ws : List Word32} {w w2 : Word32}

theorem memW_eq {f : Fate} {esz : Nat} (hf : f.code = fld w 26 2) (he : esz = fld w 24 2) :
    memW f esz (BitVec.ofNat 24 (fld w 0 24)) = fld w 0 28 := by
  have h1 : fld w 0 28 = fld w 24 4 * 2 ^ 24 + fld w 0 24 := fld_append w 0 24 4
  have h2 : fld w 24 4 = fld w 26 2 * 2 ^ 2 + fld w 24 2 := fld_append w 24 2 2
  rw [memW, hf, he, toNat_ofNat_fld]
  omega

theorem devW_eq {flag : Bool} (h24 : fld w 24 1 = 0) (hflag : bit flag = fld w 25 1) :
    devW (Scope.ofCode (fld w 26 2)) flag (BitVec.ofNat 24 (fld w 0 24)) = fld w 0 28 := by
  have h1 : fld w 0 28 = fld w 24 4 * 2 ^ 24 + fld w 0 24 := fld_append w 0 24 4
  have h2 : fld w 24 4 = fld w 26 2 * 2 ^ 2 + fld w 24 2 := fld_append w 24 2 2
  have h3 : fld w 24 2 = fld w 25 1 * 2 ^ 1 + fld w 24 1 := fld_append w 24 1 1
  rw [devW, Scope.code_ofCode, hflag, toNat_ofNat_fld]
  omega

theorem Reads.withMem {ok : Bool} {k : Fate → BitVec 24 → DecRes} (h : ok = true → fld w2 30 2 = 0 →
      ∀ f : Fate, memW f 0 (BitVec.ofNat 24 (fld w2 0 24)) = fld w2 0 28 → Reads q ws (k f (BitVec.ofNat 24 (fld w2 0 24)))) :
    Reads q ws (withMem ok w2 k) := by
  refine Reads.chk fun hc => Reads.second fun h30 => Reads.withVal fun f hf => ?_
  obtain ⟨hok, h24⟩ : ok = true ∧ fld w2 24 2 = 0 := by simpa using hc
  exact h hok h30 f (memW_eq (Fate.ofCode_eq_some hf) h24.symm)

theorem Reads.withDev {ok : Bool} {k : Scope → Bool → BitVec 24 → DecRes} (h : ok = true → fld w2 30 2 = 0 →
      ∀ sc : Scope, sc.far = true → (∀ flag, bit flag = fld w2 25 1 → devW sc flag (BitVec.ofNat 24 (fld w2 0 24)) = fld w2 0 28) →
        Reads q ws (k sc (bitAt w2 25) (BitVec.ofNat 24 (fld w2 0 24)))) :
    Reads q ws (withDev ok w2 k) := by
  refine Reads.chk fun hc => Reads.second fun h30 => Reads.chk fun hs => ?_
  obtain ⟨hok, h24⟩ : ok = true ∧ fld w2 24 1 = 0 := by simpa using hc
  exact h hok h30 _ (Scope.far_ofCode (by simpa using hs)) fun flag hflag => devW_eq h24 hflag

/-- A size with the reserved bits below it. -/
theorem sz_fB {z : Sz} (hz : z.code = fld w 3 3) (h0 : fld w 0 3 = 0) : z.code * 2 ^ 3 = fB w := by
  have h : fB w = fld w 3 3 * 2 ^ 3 + fld w 0 3 := fld_append w 0 3 3
  rw [h, hz, h0, Nat.add_zero]

/-- A number of three bits in field D. -/
theorem f8_fD (h15 : fld w 15 3 = 0) : (f8 w 12).val = fD w := by
  rw [f8_val, fD_split, h15, Nat.zero_mul, Nat.zero_add]

theorem decGs_reads {maj : Nat} {qOk : Bool} {bOk : Sel → Bool} {f : Hdr → Fin 8 → Sel → Sel → Fate → Esz → BitVec 24 → Comp → Instr}
    (hm : majOf w = maj) (hwf : ∀ h n a b ft ez off c, qOk = true → n.val = fld w 12 3 → a.ok q = true → b.ok q = true →
      bOk b = true → (f h n a b ft ez off c).wf q = true)
    (henc : ∀ h n a b ft ez off c, encode (f h n a b ft ez off c) =
      [enc1 h maj (rrr n.val a.code b.code), enc2 c (memW ft ez.code off)]) : Reads q [w, w2] (decGs q w w2 qOk bOk f) := by
  refine Reads.chk fun h15 => Reads.second fun h30 => Reads.chk fun hq => Reads.withSel fun a ha hac =>
    Reads.withSel fun b hb hbc => Reads.chk fun hbq => Reads.withVal fun ft hft => Reads.withVal fun ez hez => ?_
  have h15 : fld w 15 3 = 0 := by simpa using h15
  exact Reads.two hm h30 (hwf _ _ _ _ _ _ _ _ hq (f8_val w 12) ha hb hbq) (henc _ _ _ _ _ _ _ _) (ops_rrr (f8_fD h15) hac hbc)
    (memW_eq (Fate.ofCode_eq_some hft) (Esz.ofCode_eq_some hez))

/-- The ATOM word (R65). -/
theorem atomW_eq {op cmp : Nat} (hop : fld w 24 4 = op) (h0 : fld w 0 13 = 0) (hcmp : cmp = fld w 18 6) :
    atomW op cmp ⟨Scope.ofCode (fld w 16 2), bitAt w 15, bitAt w 14, bitAt w 13⟩ = fld w 0 28 := by
  have h1 : fld w 0 28 = fld w 24 4 * 2 ^ 24 + fld w 0 24 := fld_append w 0 24 4
  have h2 : fld w 0 24 = fld w 18 6 * 2 ^ 18 + fld w 0 18 := fld_append w 0 18 6
  have h3 : fld w 0 18 = fld w 16 2 * 2 ^ 16 + fld w 0 16 := fld_append w 0 16 2
  have h4 : fld w 0 16 = fld w 15 1 * 2 ^ 15 + fld w 0 15 := fld_append w 0 15 1
  have h5 : fld w 0 15 = fld w 14 1 * 2 ^ 14 + fld w 0 14 := fld_append w 0 14 1
  have h6 : fld w 0 14 = fld w 13 1 * 2 ^ 13 + fld w 0 13 := fld_append w 0 13 1
  rw [atomW, Scope.code_ofCode, bit_bitAt, bit_bitAt, bit_bitAt, hcmp]
  omega

/-- The atomic operations of R65 without a compare value: their conditions and their words. -/
theorem atomOp_reads {op : Nat} {g : Hdr → Dest → Sel → Sel → AtomF → Comp → Instr} (hg : atomOp op = some g) :
    (∀ h d a b f c, (g h d a b f c).wf q = ((q == .k || q == .s) && a.ok q && b.ok q && f.scope != .core)) ∧
      ∀ h d a b f c, encode (g h d a b f c) = [enc1 h 35 (rrr d.code a.code b.code), enc2 c (atomW op 0 f)] := by
  unfold atomOp at hg
  split at hg <;> cases hg <;> exact ⟨fun _ _ _ _ _ _ => rfl, fun _ _ _ _ _ _ => rfl⟩

theorem decAtom_reads (hm : majOf w = 35) (hq : (q == .k || q == .s) = true) : Reads q [w, w2] (decAtom q w w2) := by
  unfold decAtom
  extract_lets f op
  split
  · rename_i hop
    refine Reads.chk fun hc => Reads.second fun h30 => Reads.withSel fun a ha hac => Reads.withSel fun b hb hbc =>
      Reads.withSel fun c hcmp hcc => Reads.chk fun hs => ?_
    obtain ⟨hd, h0⟩ : destOk w = true ∧ fld w2 0 13 = 0 := by simpa using hc
    exact Reads.two hm h30 (by rw [Instr.wf, hq, ha, hb, hcmp, hs]; rfl) rfl (ops_rrr (Dest.code_destOf hd) hac hbc)
      (atomW_eq hop h0 hcc)
  · split
    · exact Reads.error
    · rename_i g hg
      obtain ⟨hwf, henc⟩ := atomOp_reads (q := q) hg
      refine Reads.chk fun hc => Reads.second fun h30 => Reads.withSel fun a ha hac => Reads.withSel fun b hb hbc =>
        Reads.chk fun hs => ?_
      obtain ⟨⟨hd, h0⟩, h18⟩ : (destOk w = true ∧ fld w2 0 13 = 0) ∧ fld w2 18 6 = 0 := by simpa using hc
      exact Reads.two hm h30 (by rw [hwf, hq, ha, hb, hs]; rfl) (henc _ _ _ _ _ _) (ops_rrr (Dest.code_destOf hd) hac hbc)
        (atomW_eq rfl h0 h18.symm)

end

/-! ### The maps of K, L and S (R63 to R65) -/

section
variable {q : Seq} {w w2 : Word32} {n : Nat}

theorem twoWord_of_ge (hok : majorOk q n = true) (hc : q ≠ .c) (h : 24 ≤ n) : twoWord q n =
    [25, 26, 27, 29, 30, 31, 32, 33, 34, 35, 36, 37, 38, 39, 41, 42, 43, 44].contains n := by
  have hn : [13, 17, 22].contains n = false := by
    simp
    omega
  simp only [twoWord, hok, hn]
  cases q with
  | c => exact absurd rfl hc
  | _ => rfl

/-- The majors that L alone has. -/
theorem eq_l_of_majorOk (hok : majorOk q n = true) (hc : q ≠ .c)
    (hn : [24, 25, 26, 27, 32, 34, 36, 38, 39, 41].contains n = true) : q = .l := by
  cases q with
  | l => rfl
  | c => exact absurd rfl hc
  | _ =>
    simp [majorOk] at hok hn
    omega

/-- The majors that S alone has. -/
theorem eq_s_of_majorOk (hok : majorOk q n = true) (hc : q ≠ .c) (hn : [28, 29, 30, 31, 43].contains n = true) : q = .s := by
  cases q with
  | s => rfl
  | c => exact absurd rfl hc
  | _ =>
    simp [majorOk] at hok hn
    omega

/-- The majors that K alone has. -/
theorem eq_k_of_majorOk (hok : majorOk q n = true) (hc : q ≠ .c) (hn : [44, 45, 46, 47].contains n = true) : q = .k := by
  cases q with
  | k => rfl
  | c => exact absurd rfl hc
  | _ =>
    simp [majorOk] at hok hn
    omega

/-- The majors that K and S share. -/
theorem ks_of_majorOk (hok : majorOk q n = true) (hc : q ≠ .c) (hn : [33, 35, 42].contains n = true) :
    (q == .k || q == .s) = true := by
  cases q with
  | k => rfl
  | s => rfl
  | c => exact absurd rfl hc
  | l =>
    simp [majorOk] at hok hn
    omega

theorem decAccess_reads (hok : majorOk q (majOf w) = true) (hc : q ≠ .c) (h24 : 24 ≤ majOf w) :
    Reads q (wordsOf q w w2) (decAccess q (majOf w) w w2) := by
  have one {n : Nat} {r : DecRes} (hm : majOf w = n)
      (hn : [25, 26, 27, 29, 30, 31, 32, 33, 34, 35, 36, 37, 38, 39, 41, 42, 43, 44].contains n = false) (h : Reads q [w] r) :
      Reads q (wordsOf q w w2) r := Reads.ofOne hm ((twoWord_of_ge (hm ▸ hok) hc (hm ▸ h24)).trans hn) h
  have two {n : Nat} {r : DecRes} (hm : majOf w = n)
      (hn : [25, 26, 27, 29, 30, 31, 32, 33, 34, 35, 36, 37, 38, 39, 41, 42, 43, 44].contains n = true) (h : Reads q [w, w2] r) :
      Reads q (wordsOf q w w2) r := Reads.ofTwo hm ((twoWord_of_ge (hm ▸ hok) hc (hm ▸ h24)).trans hn) h
  have hl {n : Nat} (hm : majOf w = n) (hn : [24, 25, 26, 27, 32, 34, 36, 38, 39, 41].contains n = true) : (q == .l) = true :=
    beq_iff_eq.mpr (eq_l_of_majorOk (hm ▸ hok) hc hn)
  have hs {n : Nat} (hm : majOf w = n) (hn : [28, 29, 30, 31, 43].contains n = true) : (q == .s) = true :=
    beq_iff_eq.mpr (eq_s_of_majorOk (hm ▸ hok) hc hn)
  have hks {n : Nat} (hm : majOf w = n) (hn : [33, 35, 42].contains n = true) : (q == .k || q == .s) = true :=
    ks_of_majorOk (hm ▸ hok) hc hn
  unfold decAccess
  extract_lets h d c qx qx0 ls ss
  have hls (hc : ls = true) : destOk w = true ∧ fld w 0 3 = 0 := by simpa [ls] using hc
  have hss (hc : ss = true) : fld w 0 3 = 0 := by simpa [ss] using hc
  have hqx0 (hc : qx0 = true) : fld w 15 3 = 0 ∧ fB w = 0 := by simpa [qx0, qx] using hc
  have hlow (hc : decide (fld w 12 3 < 6) = true) : decide ((f8 w 12).val < 6) = true := by rwa [f8_val]
  have hhigh (hc : decide (6 ≤ fld w 12 3) = true) : decide (6 ≤ (f8 w 12).val) = true := by rwa [f8_val]
  split
  · rename_i hm
    refine one hm rfl (Reads.chk fun hc => Reads.withSel fun a ha hac => Reads.withVal fun z hz => ?_)
    obtain ⟨hd, h0⟩ := hls hc
    exact Reads.one hm (by rw [Instr.wf, hl hm rfl, ha]; rfl) rfl
      (ops_rrr (Dest.code_destOf hd) hac (sz_fB (Sz.ofCode_eq_some hz) h0))
  · rename_i hm
    refine two hm rfl (Reads.withMem fun hc h30 f hf => Reads.withSel fun a ha hac => Reads.withVal fun z hz => ?_)
    obtain ⟨hd, h0⟩ := hls hc
    exact Reads.two hm h30 (by rw [Instr.wf, hl hm rfl, ha]; rfl) rfl
      (ops_rrr (Dest.code_destOf hd) hac (sz_fB (Sz.ofCode_eq_some hz) h0)) hf
  · rename_i hm
    refine two hm rfl (Reads.withMem fun hc h30 f hf => Reads.chk fun hn => Reads.withSel fun a ha hac => ?_)
    obtain ⟨h15, hB⟩ := hqx0 hc
    exact Reads.two hm h30 (by rw [Instr.wf, hl hm rfl, hlow hn, ha]; rfl) rfl (ops_rrr (f8_fD h15) hac hB.symm) hf
  · rename_i hm
    refine two hm rfl (decGs_reads hm (fun _ n a b _ _ _ _ hn hnv ha hb _ => ?_) fun _ _ _ _ _ _ _ _ => rfl)
    rw [Instr.wf, hl hm rfl, hnv, hn, ha, hb]
    rfl
  · rename_i hm
    refine one hm rfl (Reads.chk fun h0 => Reads.withSel fun v hv hvc => Reads.withSel fun a ha hac => Reads.withVal fun z hz =>
      Reads.chk fun hst => ?_)
    exact Reads.one hm (by rw [Instr.wf, hs hm rfl, hv, ha, hst]; rfl) rfl
      (ops_rrr hvc hac (sz_fB (Sz.ofCode_eq_some hz) (hss h0)))
  · rename_i hm
    refine two hm rfl (Reads.withMem fun h0 h30 f hf => Reads.withSel fun v hv hvc => Reads.withSel fun a ha hac =>
      Reads.withVal fun z hz => Reads.chk fun hst => ?_)
    exact Reads.two hm h30 (by rw [Instr.wf, hs hm rfl, hv, ha, hst]; rfl) rfl
      (ops_rrr hvc hac (sz_fB (Sz.ofCode_eq_some hz) (hss h0))) hf
  · rename_i hm
    refine two hm rfl (Reads.withMem fun hc h30 f hf => Reads.chk fun hn => Reads.withSel fun a ha hac => ?_)
    obtain ⟨h15, hB⟩ := hqx0 hc
    exact Reads.two hm h30 (by rw [Instr.wf, hs hm rfl, hhigh hn, ha]; rfl) rfl (ops_rrr (f8_fD h15) hac hB.symm) hf
  · rename_i hm
    refine two hm rfl (decGs_reads hm (fun _ n a b _ _ _ _ hn hnv ha hb hbq => ?_) fun _ _ _ _ _ _ _ _ => rfl)
    rw [Instr.wf, hs hm rfl, hnv, hn, ha, hb, hbq]
    rfl
  · rename_i hm
    refine two hm rfl (Reads.withDev fun hc h30 sc hsc hdev => Reads.withSel fun a ha hac => Reads.withVal fun z hz => ?_)
    obtain ⟨hd, h0⟩ := hls hc
    exact Reads.two hm h30 (by rw [Instr.wf, hl hm rfl, ha, hsc]; rfl) rfl
      (ops_rrr (Dest.code_destOf hd) hac (sz_fB (Sz.ofCode_eq_some hz) h0)) (hdev _ (bit_bitAt w2 25))
  · rename_i hm
    refine two hm rfl (Reads.withDev fun h0 h30 sc hsc hdev => Reads.withSel fun v hv hvc => Reads.withSel fun a ha hac =>
      Reads.withVal fun z hz => Reads.chk fun hst => ?_)
    exact Reads.two hm h30 (by rw [Instr.wf, hks hm rfl, hv, ha, hst, hsc]; rfl) rfl
      (ops_rrr hvc hac (sz_fB (Sz.ofCode_eq_some hz) (hss h0))) (hdev _ (bit_bitAt w2 25))
  · rename_i hm
    refine two hm rfl (Reads.withDev fun hc h30 sc hsc hdev => Reads.chk fun hn => Reads.withSel fun a ha hac => ?_)
    obtain ⟨h15, hB⟩ := hqx0 hc
    exact Reads.two hm h30 (by rw [Instr.wf, hl hm rfl, hlow hn, ha, hsc]; rfl) rfl (ops_rrr (f8_fD h15) hac hB.symm)
      (hdev _ (bit_bitAt w2 25))
  · rename_i hm
    exact two hm rfl (decAtom_reads hm (hks hm rfl))
  · rename_i hm
    refine two hm rfl (Reads.withDev fun hc h30 sc hsc hdev => Reads.withSel fun a ha hac => ?_)
    obtain ⟨⟨hq, h12⟩, h25⟩ : (qx0 = true ∧ fld w 12 3 = 0) ∧ fld w2 25 1 = 0 := by simpa using hc
    obtain ⟨h15, hB⟩ := hqx0 hq
    have hD : 0 = fD w := by
      rw [fD_split, h15, h12]
      rfl
    exact Reads.two hm h30 (by rw [Instr.wf, hl hm rfl, ha, hsc]; rfl) rfl (ops_rrr hD hac hB.symm) (hdev false h25.symm)
  · rename_i hm
    refine two hm rfl (Reads.chk fun hz => Reads.second fun h30 => Reads.withSel fun a ha hac => ?_)
    obtain ⟨h12, hB⟩ : fld w 12 4 = 0 ∧ fB w = 0 := by simpa using hz
    have hne : (q != .c) = true := by simpa using hc
    have hoff : (f16 w2 24).val * 2 ^ 24 + (BitVec.ofNat 24 (fld w2 0 24)).toNat = fld w2 0 28 := by
      rw [f16_val, toNat_ofNat_fld]
      exact (fld_append w2 0 24 4).symm
    exact Reads.two hm h30 (by rw [Instr.wf, hne, ha]; rfl) rfl
      ((Nat.add_zero _).symm.trans (ops_x (f4_val w 16) h12 hac hB.symm)) hoff
  · rename_i hm
    refine two hm rfl (Reads.withMem fun hc h30 f hf => Reads.withSel fun a ha hac => ?_)
    obtain ⟨h15, hB⟩ := hqx0 hc
    exact Reads.two hm h30 (by rw [Instr.wf, hl hm rfl, ha]; rfl) rfl (ops_rrr (f8_fD h15) hac hB.symm) hf
  · rename_i hm
    refine two hm rfl (Reads.chk fun hc => Reads.second fun h30 => Reads.withSel fun a ha hac => Reads.withSel fun b hb hbc =>
      Reads.withVal fun ft hft => ?_)
    obtain ⟨h15, h24⟩ : fld w 15 3 = 0 ∧ fld w2 24 2 = 0 := by simpa [qx] using hc
    refine Reads.two hm h30 (by rw [Instr.wf, hl hm rfl, ha, hb]; rfl) rfl (ops_rrr (f8_fD h15) hac hbc) ?_
    have h1 : fld w2 0 28 = fld w2 26 2 * 2 ^ 26 + fld w2 0 26 := fld_append w2 0 26 2
    have h2 : fld w2 0 26 = fld w2 24 2 * 2 ^ 24 + fld w2 0 24 := fld_append w2 0 24 2
    have h3 : fld w2 0 24 = fld w2 12 12 * 2 ^ 12 + fld w2 0 12 := fld_append w2 0 12 12
    rw [Fate.ofCode_eq_some hft, toNat_ofNat_fld, toNat_ofNat_fld]
    omega
  · exact Reads.error

theorem decControl_reads (hok : majorOk q (majOf w) = true) (hc : q ≠ .c) (h24 : 24 ≤ majOf w) :
    Reads q (wordsOf q w w2) (decControl q (majOf w) w w2) := by
  have one {n : Nat} {r : DecRes} (hm : majOf w = n)
      (hn : [25, 26, 27, 29, 30, 31, 32, 33, 34, 35, 36, 37, 38, 39, 41, 42, 43, 44].contains n = false) (h : Reads q [w] r) :
      Reads q (wordsOf q w w2) r := Reads.ofOne hm ((twoWord_of_ge (hm ▸ hok) hc (hm ▸ h24)).trans hn) h
  have two {n : Nat} {r : DecRes} (hm : majOf w = n)
      (hn : [25, 26, 27, 29, 30, 31, 32, 33, 34, 35, 36, 37, 38, 39, 41, 42, 43, 44].contains n = true) (h : Reads q [w, w2] r) :
      Reads q (wordsOf q w w2) r := Reads.ofTwo hm ((twoWord_of_ge (hm ▸ hok) hc (hm ▸ h24)).trans hn) h
  have hk {n : Nat} (hm : majOf w = n) (hn : [44, 45, 46, 47].contains n = true) : (q == .k) = true :=
    beq_iff_eq.mpr (eq_k_of_majorOk (hm ▸ hok) hc hn)
  have hne : (q != .c) = true := by simpa using hc
  have nonzero {lo len : Nat} {u : Word32} (h : (fld u lo len != 0) = true) : (BitVec.ofNat len (fld u lo len) != 0) = true := by
    refine bne_iff_ne.mpr fun e => ?_
    have e := congrArg BitVec.toNat e
    rw [toNat_ofNat_fld] at e
    simp [e] at h
  unfold decControl
  extract_lets h d c
  split
  · rename_i hm
    refine one hm rfl (Reads.chk fun hD => Reads.withSel fun a ha hac => Reads.withVal fun st hst => ?_)
    have hD : fD w = 0 := by simpa using hD
    refine Reads.one hm (by rw [Instr.wf, hne, ha]; rfl) rfl ?_
    have hB : fB w = fld w 4 2 * 2 ^ 4 + fld w 0 4 := fld_append w 0 4 2
    rw [← ops_rrr hD.symm hac rfl, rrr, hB, SupplyReq.ofCode_eq_some hst, f16_val]
    omega
  · rename_i hm
    refine two hm rfl (Reads.chk fun hc => Reads.second fun h30 => Reads.withSel fun a ha hac => Reads.withSel fun b hb hbc => ?_)
    obtain ⟨hd, h24⟩ : destOk w = true ∧ fld w2 24 4 = 0 := by simpa using hc
    have hl : (q == .l) = true := beq_iff_eq.mpr (eq_l_of_majorOk (hm ▸ hok) ‹_› rfl)
    refine Reads.two hm h30 (by rw [Instr.wf, hl, ha, hb]; rfl) rfl (ops_rrr (Dest.code_destOf hd) hac hbc) ?_
    have h1 : fld w2 0 28 = fld w2 24 4 * 2 ^ 24 + fld w2 0 24 := fld_append w2 0 24 4
    rw [toNat_ofNat_fld, h1, h24, Nat.zero_mul, Nat.zero_add]
  · rename_i hm
    refine two hm rfl (Reads.chk fun hc => Reads.second fun h30 => Reads.chk fun hreg => Reads.withSel fun a ha hac => ?_)
    obtain ⟨⟨h12, hB⟩, h0⟩ : (fld w 12 4 = 0 ∧ fB w = 0) ∧ fld w2 0 23 = 0 := by simpa using hc
    have hks : (q == .k || q == .s) = true := ks_of_majorOk (hm ▸ hok) ‹_› rfl
    have hcopy : copyRegOk a = true := by
      have hreg : 1 ≤ fA w ∧ fA w ≤ 28 := by simpa using hreg
      rw [← hac] at hreg
      cases a with
      | reg r => exact decide_eq_true hreg
      | _ => simp only [Sel.code] at hreg; omega
    have hy {rt : Bool} (hrt : bit rt = fld w2 23 1) :
        cpyW ⟨Scope.ofCode (fld w2 26 2), bitAt w2 25, bitAt w2 24⟩ rt = fld w2 0 28 := by
      have h1 : fld w2 0 28 = fld w2 26 2 * 2 ^ 26 + fld w2 0 26 := fld_append w2 0 26 2
      have h2 : fld w2 0 26 = fld w2 25 1 * 2 ^ 25 + fld w2 0 25 := fld_append w2 0 25 1
      have h3 : fld w2 0 25 = fld w2 24 1 * 2 ^ 24 + fld w2 0 24 := fld_append w2 0 24 1
      have h4 : fld w2 0 24 = fld w2 23 1 * 2 ^ 23 + fld w2 0 23 := fld_append w2 0 23 1
      rw [cpyW, Scope.code_ofCode, bit_bitAt, bit_bitAt, hrt]
      omega
    have hx : (f4 w 16).val * 2 ^ 16 + a.code * 2 ^ 6 = fld w 0 18 :=
      (Nat.add_zero _).symm.trans (ops_x (f4_val w 16) h12 hac hB.symm)
    have h23 := bit_bitAt w2 23
    split
    · rename_i hi
      rw [hi] at h23
      exact Reads.two hm h30 (by rw [Instr.wf, hks, hcopy]; rfl) rfl hx (hy h23)
    · rename_i hi
      rw [Bool.eq_false_of_not_eq_true hi] at h23
      exact Reads.two hm h30 (by rw [Instr.wf, hks, hcopy]; rfl) rfl hx (hy h23)
  · rename_i hm
    refine two hm rfl (Reads.chk fun hc => Reads.second fun h30 => Reads.withSel fun a ha hac => Reads.withSel fun b hb hbc =>
      Reads.chk fun hlen => ?_)
    obtain ⟨h12, h24⟩ : fld w 12 4 = 0 ∧ fld w2 24 4 = 0 := by simpa using hc
    have hs : (q == .s) = true := beq_iff_eq.mpr (eq_s_of_majorOk (hm ▸ hok) ‹_› rfl)
    refine Reads.two hm h30 (by rw [Instr.wf, hs, ha, hb, nonzero hlen]; rfl) rfl (ops_x (f4_val w 16) h12 hac hbc) ?_
    have h1 : fld w2 0 28 = fld w2 24 4 * 2 ^ 24 + fld w2 0 24 := fld_append w2 0 24 4
    rw [toNat_ofNat_fld, h1, h24, Nat.zero_mul, Nat.zero_add]
  · rename_i hm
    refine two hm rfl (Reads.chk fun hc => Reads.second fun h30 => Reads.withSel fun a ha hac => ?_)
    obtain ⟨⟨hD, hB⟩, h0⟩ : (fD w = 0 ∧ fB w = 0) ∧ fld w2 0 28 = 0 := by simpa using hc
    exact Reads.two hm h30 (by rw [Instr.wf, hk hm rfl, ha]; rfl) rfl (ops_rrr hD.symm hac hB.symm) h0.symm
  · rename_i hm
    split
    · rename_i hB
      refine one hm rfl (Reads.chk fun hc => ?_)
      obtain ⟨hD, hA⟩ : fD w = 0 ∧ fA w = 0 := by simpa using hc
      exact Reads.one hm (hk hm rfl) rfl (ops_rrr hD.symm hA.symm hB.symm)
    · rename_i hB
      refine one hm rfl (Reads.chk fun hc => Reads.withSel fun a ha hac => ?_)
      have hD : fD w = 0 := by simpa using hc
      exact Reads.one hm (by rw [Instr.wf, hk hm rfl, ha]; rfl) rfl (ops_rrr hD.symm hac hB.symm)
    · exact Reads.error
  · rename_i hm
    split
    · exact one hm rfl (Reads.chk fun hd => Reads.withSel fun a ha hac =>
        Reads.one hm (by rw [Instr.wf, hk hm rfl, ha]; rfl) rfl (ops_rrr (Dest.code_destOf hd) hac (Eq.symm ‹_›)))
    · exact one hm rfl (Reads.chk fun hd => Reads.withSel fun a ha hac =>
        Reads.one hm (by rw [Instr.wf, hk hm rfl, ha]; rfl) rfl (ops_rrr (Dest.code_destOf hd) hac (Eq.symm ‹_›)))
    · exact Reads.error
  · rename_i hm
    split
    · refine one hm rfl (Reads.chk fun hc => Reads.withSel fun a ha hac => ?_)
      have hD : fD w = 0 := by simpa using hc
      exact Reads.one hm (by rw [Instr.wf, hk hm rfl, ha]; rfl) rfl (ops_rrr hD.symm hac (Eq.symm ‹_›))
    · exact one hm rfl (Reads.chk fun hd => Reads.withSel fun a ha hac =>
        Reads.one hm (by rw [Instr.wf, hk hm rfl, ha]; rfl) rfl (ops_rrr (Dest.code_destOf hd) hac (Eq.symm ‹_›)))
    · exact Reads.error
  · exact Reads.error

end

/-! ### The map of C (R66 to R69) -/

section
variable {w w2 : Word32}

theorem decVi_reads (hm : majOf w = 24) : Reads .c [w, w2] (decVi .c w w2) := by
  unfold decVi
  extract_lets h d c sat base noC two plain one
  have hbase {k : VITy → DecRes} (hk : destOk w = true → fld w2 30 2 = 0 → ∀ t : VITy,
      (∀ {op x : Nat} {b : Bool}, fld w2 22 6 = op → bit b = fld w2 18 1 → x = fld w2 10 6 → viW op t b x = fld w2 0 28) →
        Reads .c [w, w2] (k t)) : Reads .c [w, w2] (base k) := by
    refine Reads.chk fun hc => Reads.second fun h30 => Reads.withVal fun t ht => ?_
    obtain ⟨⟨hd, h16⟩, h0⟩ : (destOk w = true ∧ fld w2 16 2 = 0) ∧ fld w2 0 10 = 0 := by simpa using hc
    refine hk hd h30 t fun {op x b} hop hb hx => ?_
    have h1 : fld w2 0 28 = fld w2 22 6 * 2 ^ 22 + fld w2 0 22 := fld_append w2 0 22 6
    have h2 : fld w2 0 22 = fld w2 19 3 * 2 ^ 19 + fld w2 0 19 := fld_append w2 0 19 3
    have h3 : fld w2 0 19 = fld w2 18 1 * 2 ^ 18 + fld w2 0 18 := fld_append w2 0 18 1
    have h4 : fld w2 0 18 = fld w2 16 2 * 2 ^ 16 + fld w2 0 16 := fld_append w2 0 16 2
    have h5 : fld w2 0 16 = fld w2 10 6 * 2 ^ 10 + fld w2 0 10 := fld_append w2 0 10 6
    rw [viW, VITy.ofCode_eq_some ht, hb, hx]
    omega
  have hsat : bit sat = fld w2 18 1 := bit_bitAt w2 18
  have hnoC {k : DecRes} (hk : 0 = fld w2 10 6 → Reads .c [w, w2] k) : Reads .c [w, w2] (noC k) :=
    Reads.chk fun hc => hk (eq_of_beq hc).symm
  have htwo {k : VITy → Sel → Sel → DecRes} (hk : destOk w = true → fld w2 30 2 = 0 → ∀ (t : VITy) (a b : Sel),
      (∀ {op : Nat} {s : Bool}, fld w2 22 6 = op → bit s = fld w2 18 1 → viW op t s 0 = fld w2 0 28) →
        a.ok .c = true → b.ok .c = true → rrr d.code a.code b.code = fld w 0 18 → Reads .c [w, w2] (k t a b)) :
      Reads .c [w, w2] (two k) :=
    hbase fun hd h30 t hw => hnoC fun h10 => Reads.withSel fun a ha hac => Reads.withSel fun b hb hbc =>
      hk hd h30 t a b (fun hop hs => hw hop hs h10) ha hb (ops_rrr (Dest.code_destOf hd) hac hbc)
  have two_ok {f : VITy → Sel → Sel → Instr} {op : Nat} (hop : fld w2 22 6 = op)
      (hwf : ∀ t a b, (f t a b).wf .c = (a.ok .c && b.ok .c))
      (henc : ∀ t a b, encode (f t a b) = [enc1 h 24 (rrr d.code a.code b.code), enc2 c (viW op t sat 0)]) :
      Reads .c [w, w2] (two fun t a b => .ok (f t a b)) :=
    htwo fun hd h30 t a b hw ha hb hops => Reads.two hm h30 (by rw [hwf, ha, hb]; rfl) (henc t a b) hops (hw hop hsat)
  have plain_ok {f : Hdr → Dest → Sel → Sel → VITy → Comp → Instr} {op : Nat} (hop : fld w2 22 6 = op)
      (hwf : ∀ h d a b t c, (f h d a b t c).wf .c = (a.ok .c && b.ok .c))
      (henc : ∀ h d a b t c, encode (f h d a b t c) = [enc1 h 24 (rrr d.code a.code b.code), enc2 c (viW op t false 0)]) :
      Reads .c [w, w2] (plain f) := by
    refine htwo fun hd h30 t a b hw ha hb hops => Reads.chk fun hs => ?_
    have hs : sat = false := by simpa using hs
    exact Reads.two hm h30 (by rw [hwf, ha, hb]; rfl) (henc _ _ _ _ _ _) hops (hw hop (hs ▸ hsat))
  have one_ok {f : Hdr → Dest → Sel → VITy → Bool → Comp → Instr} {op : Nat} (hop : fld w2 22 6 = op)
      (hwf : ∀ h d a t s c, (f h d a t s c).wf .c = (a.ok .c && t.signed))
      (henc : ∀ h d a t s c, encode (f h d a t s c) = [enc1 h 24 (rrr d.code a.code 0), enc2 c (viW op t s 0)]) :
      Reads .c [w, w2] (one f) :=
    hbase fun hd h30 t hw => hnoC fun h10 => Reads.chk fun hB => Reads.withSel fun a ha hac => Reads.chk fun ht =>
      Reads.two hm h30 (by rw [hwf, ha, ht]; rfl) (henc _ _ _ _ _ _)
        (ops_rrr (Dest.code_destOf hd) hac (eq_of_beq hB).symm) (hw hop hsat h10)
  split
  · exact two_ok ‹_› (fun _ _ _ => rfl) fun _ _ _ => rfl
  · exact two_ok ‹_› (fun _ _ _ => rfl) fun _ _ _ => rfl
  · exact two_ok ‹_› (fun _ _ _ => rfl) fun _ _ _ => rfl
  · exact plain_ok ‹_› (fun _ _ _ _ _ _ => rfl) fun _ _ _ _ _ _ => rfl
  · exact plain_ok ‹_› (fun _ _ _ _ _ _ => rfl) fun _ _ _ _ _ _ => rfl
  · exact plain_ok ‹_› (fun _ _ _ _ _ _ => rfl) fun _ _ _ _ _ _ => rfl
  · exact plain_ok ‹_› (fun _ _ _ _ _ _ => rfl) fun _ _ _ _ _ _ => rfl
  · exact plain_ok ‹_› (fun _ _ _ _ _ _ => rfl) fun _ _ _ _ _ _ => rfl
  · exact plain_ok ‹_› (fun _ _ _ _ _ _ => rfl) fun _ _ _ _ _ _ => rfl
  · exact plain_ok ‹_› (fun _ _ _ _ _ _ => rfl) fun _ _ _ _ _ _ => rfl
  · exact plain_ok ‹_› (fun _ _ _ _ _ _ => rfl) fun _ _ _ _ _ _ => rfl
  · exact plain_ok ‹_› (fun _ _ _ _ _ _ => rfl) fun _ _ _ _ _ _ => rfl
  · exact one_ok ‹_› (fun _ _ _ _ _ _ => rfl) fun _ _ _ _ _ _ => rfl
  · exact one_ok ‹_› (fun _ _ _ _ _ _ => rfl) fun _ _ _ _ _ _ => rfl
  · exact hbase fun hd h30 t hw => Reads.withSel fun a ha hac => Reads.withSel fun b hb hbc => Reads.withSel fun x hx hxc =>
      Reads.two hm h30 (by rw [Instr.wf, ha, hb, hx]; rfl) rfl (ops_rrr (Dest.code_destOf hd) hac hbc) (hw ‹_› hsat hxc)
  · exact Reads.error

theorem decVf_reads (hm : majOf w = 25) : Reads .c [w, w2] (decVf .c w w2) := by
  unfold decVf
  extract_lets h d c base noC two three one
  have hbase {k : VFTy → RMode → DecRes} (hk : destOk w = true → fld w2 30 2 = 0 → ∀ (t : VFTy) (rm : RMode),
      (∀ {op x : Nat}, fld w2 22 6 = op → x = fld w2 10 6 → vfW op t rm x = fld w2 0 28) → (rm != .rna) = true →
        Reads .c [w, w2] (k t rm)) : Reads .c [w, w2] (base k) := by
    refine Reads.chk fun hc => Reads.second fun h30 => Reads.withVal fun t ht => Reads.withVal fun rm hrm =>
      Reads.chk fun hna => ?_
    obtain ⟨hd, h0⟩ : destOk w = true ∧ fld w2 0 10 = 0 := by simpa using hc
    refine hk hd h30 t rm (fun {op x} hop hx => ?_) hna
    have h1 : fld w2 0 28 = fld w2 22 6 * 2 ^ 22 + fld w2 0 22 := fld_append w2 0 22 6
    have h2 : fld w2 0 22 = fld w2 19 3 * 2 ^ 19 + fld w2 0 19 := fld_append w2 0 19 3
    have h3 : fld w2 0 19 = fld w2 16 3 * 2 ^ 16 + fld w2 0 16 := fld_append w2 0 16 3
    have h4 : fld w2 0 16 = fld w2 10 6 * 2 ^ 10 + fld w2 0 10 := fld_append w2 0 10 6
    rw [vfW, VFTy.ofCode_eq_some ht, RMode.ofCode_eq_some hrm, hx]
    omega
  have hnoC {k : DecRes} (hk : 0 = fld w2 10 6 → Reads .c [w, w2] k) : Reads .c [w, w2] (noC k) :=
    Reads.chk fun hc => hk (eq_of_beq hc).symm
  have two_ok {f : Hdr → Dest → Sel → Sel → VFTy → RMode → Comp → Instr} {op : Nat} (hop : fld w2 22 6 = op)
      (hwf : ∀ h d a b t rm c, (f h d a b t rm c).wf .c = (a.ok .c && b.ok .c && rm != .rna))
      (henc : ∀ h d a b t rm c, encode (f h d a b t rm c) = [enc1 h 25 (rrr d.code a.code b.code), enc2 c (vfW op t rm 0)]) :
      Reads .c [w, w2] (two f) :=
    hbase fun hd h30 t rm hw hna => hnoC fun h10 => Reads.withSel fun a ha hac => Reads.withSel fun b hb hbc =>
      Reads.two hm h30 (by rw [hwf, ha, hb, hna]; rfl) (henc _ _ _ _ _ _ _) (ops_rrr (Dest.code_destOf hd) hac hbc) (hw hop h10)
  have three_ok {f : Hdr → Dest → Sel → Sel → Sel → VFTy → RMode → Comp → Instr} {op : Nat} (hop : fld w2 22 6 = op)
      (hwf : ∀ h d a b x t rm c, (f h d a b x t rm c).wf .c = (a.ok .c && b.ok .c && x.ok .c && rm != .rna))
      (henc : ∀ h d a b x t rm c, encode (f h d a b x t rm c) =
        [enc1 h 25 (rrr d.code a.code b.code), enc2 c (vfW op t rm x.code)]) : Reads .c [w, w2] (three f) :=
    hbase fun hd h30 t rm hw hna => Reads.withSel fun a ha hac => Reads.withSel fun b hb hbc => Reads.withSel fun x hx hxc =>
      Reads.two hm h30 (by rw [hwf, ha, hb, hx, hna]; rfl) (henc _ _ _ _ _ _ _ _) (ops_rrr (Dest.code_destOf hd) hac hbc)
        (hw hop hxc)
  have one_ok {f : Hdr → Dest → Sel → VFTy → RMode → Comp → Instr} {op : Nat} (hop : fld w2 22 6 = op)
      (hwf : ∀ h d a t rm c, (f h d a t rm c).wf .c = (a.ok .c && rm != .rna))
      (henc : ∀ h d a t rm c, encode (f h d a t rm c) = [enc1 h 25 (rrr d.code a.code 0), enc2 c (vfW op t rm 0)]) :
      Reads .c [w, w2] (one f) :=
    hbase fun hd h30 t rm hw hna => hnoC fun h10 => Reads.chk fun hB => Reads.withSel fun a ha hac =>
      Reads.two hm h30 (by rw [hwf, ha, hna]; rfl) (henc _ _ _ _ _ _)
        (ops_rrr (Dest.code_destOf hd) hac (eq_of_beq hB).symm) (hw hop h10)
  split
  · exact two_ok ‹_› (fun _ _ _ _ _ _ _ => rfl) fun _ _ _ _ _ _ _ => rfl
  · exact two_ok ‹_› (fun _ _ _ _ _ _ _ => rfl) fun _ _ _ _ _ _ _ => rfl
  · exact two_ok ‹_› (fun _ _ _ _ _ _ _ => rfl) fun _ _ _ _ _ _ _ => rfl
  · exact three_ok ‹_› (fun _ _ _ _ _ _ _ _ => rfl) fun _ _ _ _ _ _ _ _ => rfl
  · exact three_ok ‹_› (fun _ _ _ _ _ _ _ _ => rfl) fun _ _ _ _ _ _ _ _ => rfl
  · exact two_ok ‹_› (fun _ _ _ _ _ _ _ => rfl) fun _ _ _ _ _ _ _ => rfl
  · exact two_ok ‹_› (fun _ _ _ _ _ _ _ => rfl) fun _ _ _ _ _ _ _ => rfl
  · exact one_ok ‹_› (fun _ _ _ _ _ _ => rfl) fun _ _ _ _ _ _ => rfl
  · exact one_ok ‹_› (fun _ _ _ _ _ _ => rfl) fun _ _ _ _ _ _ => rfl
  · exact one_ok ‹_› (fun _ _ _ _ _ _ => rfl) fun _ _ _ _ _ _ => rfl
  · exact one_ok ‹_› (fun _ _ _ _ _ _ => rfl) fun _ _ _ _ _ _ => rfl
  · exact Reads.error

theorem decVcmp_reads (hm : majOf w = 26) : Reads .c [w, w2] (decVcmp .c w w2) := by
  unfold decVcmp
  split
  · exact Reads.error
  · rename_i cd hcd
    refine Reads.chk fun h0 => Reads.second fun h30 => Reads.withVal fun t ht => Reads.withSel fun a ha hac =>
      Reads.withSel fun b hb hbc => Reads.chk fun hun => ?_
    have h0 : fld w2 0 20 = 0 := by simpa using h0
    refine Reads.two hm h30 (by rw [Instr.wf, ha, hb, hun]; rfl) rfl (ops_rrp hac hbc) ?_
    have h1 : fld w2 0 28 = fld w2 24 4 * 2 ^ 24 + fld w2 0 24 := fld_append w2 0 24 4
    have h2 : fld w2 0 24 = fld w2 20 4 * 2 ^ 20 + fld w2 0 20 := fld_append w2 0 20 4
    rw [VCond.ofCode_eq_some hcd, VTy.ofCode_eq_some ht]
    omega

theorem decVp_reads (hm : majOf w = 29) : Reads .c [w, w2] (decVp .c w w2) := by
  unfold decVp
  extract_lets h d c base shift
  have hbase {k : Sel → DecRes} (hk : destOk w = true → fld w2 30 2 = 0 → fld w2 0 16 = 0 → ∀ a, a.ok .c = true →
      a.code = fA w → Reads .c [w, w2] (k a)) : Reads .c [w, w2] (base k) := by
    refine Reads.chk fun hc => Reads.second fun h30 => Reads.withSel fun a ha hac => ?_
    obtain ⟨hd, h0⟩ : destOk w = true ∧ fld w2 0 16 = 0 := by simpa using hc
    exact hk hd h30 h0 a ha hac
  have word {op : Nat} (hop : fld w2 22 6 = op) (h0 : fld w2 0 16 = 0) :
      op * 2 ^ 22 + fld w2 16 6 * 2 ^ 16 = fld w2 0 28 := by
    have h1 : fld w2 0 28 = fld w2 22 6 * 2 ^ 22 + fld w2 0 22 := fld_append w2 0 22 6
    have h2 : fld w2 0 22 = fld w2 16 6 * 2 ^ 16 + fld w2 0 16 := fld_append w2 0 16 6
    rw [h1, h2, hop, h0, Nat.add_zero]
  have shift_ok {f : Hdr → Dest → Sel → Fin 64 → Comp → Instr} {op : Nat} (hop : fld w2 22 6 = op)
      (hwf : ∀ h d a n c, (f h d a n c).wf .c = a.ok .c)
      (henc : ∀ h d a n c, encode (f h d a n c) = [enc1 h 29 (rrr d.code a.code 0), enc2 c (op * 2 ^ 22 + n.val * 2 ^ 16)]) :
      Reads .c [w, w2] (shift f) :=
    hbase fun hd h30 h0 a ha hac => Reads.chk fun hB => Reads.two hm h30 ((hwf ..).trans ha) (henc _ _ _ _ _)
      (ops_rrr (Dest.code_destOf hd) hac (eq_of_beq hB).symm) (by rw [f64_val]; exact word hop h0)
  split
  · refine hbase fun hd h30 h0 a ha hac => Reads.withSel fun b hb hbc => Reads.chk fun hn => ?_
    have hn : fld w2 16 6 = 0 := by simpa using hn
    refine Reads.two hm h30 (by rw [Instr.wf, ha, hb]; rfl) rfl (ops_rrr (Dest.code_destOf hd) hac hbc) ?_
    rw [← word ‹_› h0, hn]
    rfl
  · exact shift_ok ‹_› (fun _ _ _ _ _ => rfl) fun _ _ _ _ _ => rfl
  · exact shift_ok ‹_› (fun _ _ _ _ _ => rfl) fun _ _ _ _ _ => rfl
  · exact shift_ok ‹_› (fun _ _ _ _ _ => rfl) fun _ _ _ _ _ => rfl
  · exact shift_ok ‹_› (fun _ _ _ _ _ => rfl) fun _ _ _ _ _ => rfl
  · exact Reads.error

theorem decVred_reads (hm : majOf w = 31) : Reads .c [w, w2] (decVred .c w w2) := by
  unfold decVred
  extract_lets k
  have hk {f : Hdr → Dest → Sel → VTy → Comp → Instr} {op : Nat} (hop : fld w2 22 6 = op)
      (hwf : ∀ h d a t c, (f h d a t c).wf .c = a.ok .c)
      (henc : ∀ h d a t c, encode (f h d a t c) = [enc1 h 31 (rrr d.code a.code 0), enc2 c (op * 2 ^ 22 + t.code * 2 ^ 18)]) :
      Reads .c [w, w2] (k f) := by
    refine Reads.chk fun hc => Reads.second fun h30 => Reads.withVal fun t ht => Reads.withSel fun a ha hac => ?_
    obtain ⟨⟨hd, hB⟩, h0⟩ : (destOk w = true ∧ fB w = 0) ∧ fld w2 0 18 = 0 := by simpa using hc
    refine Reads.two hm h30 ((hwf ..).trans ha) (henc _ _ _ _ _) (ops_rrr (Dest.code_destOf hd) hac hB.symm) ?_
    have h1 : fld w2 0 28 = fld w2 22 6 * 2 ^ 22 + fld w2 0 22 := fld_append w2 0 22 6
    have h2 : fld w2 0 22 = fld w2 18 4 * 2 ^ 18 + fld w2 0 18 := fld_append w2 0 18 4
    rw [VTy.ofCode_eq_some ht, h1, h2, hop, h0, Nat.add_zero]
  split
  · exact hk ‹_› (fun _ _ _ _ _ => rfl) fun _ _ _ _ _ => rfl
  · exact hk ‹_› (fun _ _ _ _ _ => rfl) fun _ _ _ _ _ => rfl
  · exact hk ‹_› (fun _ _ _ _ _ => rfl) fun _ _ _ _ _ => rfl
  · exact Reads.error

theorem decVmove_reads (hm : majOf w = 32) : Reads .c [w] (decVmove .c w) := by
  unfold decVmove
  extract_lets h d k
  have hk {f : Hdr → Dest → Sel → Instr} {op : Nat} (hB : fB w = op) (hwf : ∀ h d a, (f h d a).wf .c = a.ok .c)
      (henc : ∀ h d a, encode (f h d a) = [enc1 h 32 (rrr d.code a.code op)]) : Reads .c [w] (k f) :=
    Reads.chk fun hd => Reads.withSel fun a ha hac =>
      Reads.one hm ((hwf ..).trans ha) (henc ..) (ops_rrr (Dest.code_destOf hd) hac hB.symm)
  split
  · exact hk ‹_› (fun _ _ _ => rfl) fun _ _ _ => rfl
  · rename_i hB
    refine Reads.chk fun h15 => Reads.chk fun hn => Reads.withSel fun a ha hac => ?_
    have h15 : fld w 15 3 = 0 := by simpa using h15
    have hn : decide (6 ≤ (f8 w 12).val) = true := by rwa [f8_val]
    exact Reads.one hm (by rw [Instr.wf, ha, hn]; rfl) rfl (ops_rrr (f8_fD h15) hac hB.symm)
  · exact hk ‹_› (fun _ _ _ => rfl) fun _ _ _ => rfl
  · exact hk ‹_› (fun _ _ _ => rfl) fun _ _ _ => rfl
  · exact Reads.error

/-- The MD word (R69). -/
theorem mdW_mdOf (h0 : fld w 0 10 = 0) : mdW (mdOf w) = fld w 0 28 := by
  have h1 : fld w 0 28 = fld w 22 6 * 2 ^ 22 + fld w 0 22 := fld_append w 0 22 6
  have h2 : fld w 0 22 = fld w 21 1 * 2 ^ 21 + fld w 0 21 := fld_append w 0 21 1
  have h3 : fld w 0 21 = fld w 20 1 * 2 ^ 20 + fld w 0 20 := fld_append w 0 20 1
  have h4 : fld w 0 20 = fld w 16 4 * 2 ^ 16 + fld w 0 16 := fld_append w 0 16 4
  have h5 : fld w 0 16 = fld w 15 1 * 2 ^ 15 + fld w 0 15 := fld_append w 0 15 1
  have h6 : fld w 0 15 = fld w 14 1 * 2 ^ 14 + fld w 0 14 := fld_append w 0 14 1
  have h7 : fld w 0 14 = fld w 12 2 * 2 ^ 12 + fld w 0 12 := fld_append w 0 12 2
  have h8 : fld w 0 12 = fld w 10 2 * 2 ^ 10 + fld w 0 10 := fld_append w 0 10 2
  rw [mdW, mdOf, Scope.code_ofCode, bit_bitAt, bit_bitAt, bit_bitAt, bit_bitAt, f64_val, f16_val, f4_val]
  omega

/-- The majors of two words in C. -/
theorem twoWord_c {n : Nat} (hok : majorOk .c n = true) (h : 24 ≤ n) :
    twoWord .c n = [24, 25, 26, 28, 29, 30, 31, 36, 37].contains n := by
  have hn : [13, 17, 22].contains n = false := by
    simp
    omega
  simp only [twoWord, hok, hn, Bool.true_and, Bool.false_or]

theorem decCompute_reads (hok : majorOk .c (majOf w) = true) (h24 : 24 ≤ majOf w) :
    Reads .c (wordsOf .c w w2) (decCompute .c (majOf w) w w2) := by
  have one {n : Nat} {r : DecRes} (hm : majOf w = n) (hn : [24, 25, 26, 28, 29, 30, 31, 36, 37].contains n = false)
      (h : Reads .c [w] r) : Reads .c (wordsOf .c w w2) r := Reads.ofOne hm ((twoWord_c (hm ▸ hok) (hm ▸ h24)).trans hn) h
  have two {n : Nat} {r : DecRes} (hm : majOf w = n) (hn : [24, 25, 26, 28, 29, 30, 31, 36, 37].contains n = true)
      (h : Reads .c [w, w2] r) : Reads .c (wordsOf .c w w2) r := Reads.ofTwo hm ((twoWord_c (hm ▸ hok) (hm ▸ h24)).trans hn) h
  unfold decCompute
  extract_lets h d c
  split
  · exact two ‹_› rfl (decVi_reads ‹_›)
  · exact two ‹_› rfl (decVf_reads ‹_›)
  · exact two ‹_› rfl (decVcmp_reads ‹_›)
  · exact one ‹_› rfl (decPl_reads ‹_› fun _ => rfl)
  · rename_i hm
    refine two hm rfl (Reads.chk fun hc => Reads.second fun h30 => Reads.withSel fun a ha hac => Reads.withSel fun b hb hbc => ?_)
    obtain ⟨hd, h0⟩ : destOk w = true ∧ fld w2 0 24 = 0 := by simpa using hc
    refine Reads.two hm h30 (by rw [Instr.wf, ha, hb]; rfl) rfl (ops_rrr (Dest.code_destOf hd) hac hbc) ?_
    have h1 : fld w2 0 28 = fld w2 25 3 * 2 ^ 25 + fld w2 0 25 := fld_append w2 0 25 3
    have h2 : fld w2 0 25 = fld w2 24 1 * 2 ^ 24 + fld w2 0 24 := fld_append w2 0 24 1
    rw [f8_val, bit_bitAt, h1, h2, h0, Nat.add_zero]
  · exact two ‹_› rfl (decVp_reads ‹_›)
  · rename_i hm
    refine two hm rfl (Reads.chk fun hc => Reads.second fun h30 => Reads.withVal fun x hx => Reads.withVal fun y hy =>
      Reads.withVal fun rm hrm => Reads.withSel fun a ha hac => Reads.chk fun hcv => ?_)
    obtain ⟨⟨hd, hB⟩, h0⟩ : (destOk w = true ∧ fB w = 0) ∧ fld w2 0 16 = 0 := by simpa using hc
    have hwf : (Instr.vcvt h d a x y rm (bitAt w2 16) c).wf .c = true := by
      rw [Instr.wf, ha]
      exact hcv
    refine Reads.two hm h30 hwf rfl (ops_rrr (Dest.code_destOf hd) hac hB.symm) ?_
    have h1 : fld w2 0 28 = fld w2 24 4 * 2 ^ 24 + fld w2 0 24 := fld_append w2 0 24 4
    have h2 : fld w2 0 24 = fld w2 20 4 * 2 ^ 20 + fld w2 0 20 := fld_append w2 0 20 4
    have h3 : fld w2 0 20 = fld w2 17 3 * 2 ^ 17 + fld w2 0 17 := fld_append w2 0 17 3
    have h4 : fld w2 0 17 = fld w2 16 1 * 2 ^ 16 + fld w2 0 16 := fld_append w2 0 16 1
    rw [Fmt.ofCode_eq_some hx, Fmt.ofCode_eq_some hy, RMode.ofCode_eq_some hrm, bit_bitAt]
    omega
  · exact two ‹_› rfl (decVred_reads ‹_›)
  · exact one ‹_› rfl (decVmove_reads ‹_›)
  · exact one ‹_› rfl (Reads.chk fun hd => Reads.one ‹_› rfl rfl (ops_d (Dest.code_destOf hd) (toNat_ofNat_fld w 0 12)))
  · rename_i hm
    refine one hm rfl (Reads.chk fun h6 => Reads.withVal fun st hst => Reads.chk fun hmask => ?_)
    have h6 : fld w 6 12 = 0 := by simpa using h6
    have hne : (BitVec.ofNat 4 (fld w 0 4) != 0) = true := by
      refine bne_iff_ne.mpr fun e => ?_
      have e := congrArg BitVec.toNat e
      rw [toNat_ofNat_fld] at e
      simp [e] at hmask
    refine Reads.one hm (by rw [Instr.wf, hne]; rfl) rfl ?_
    have h1 : fld w 0 18 = fld w 6 12 * 2 ^ 6 + fld w 0 6 := fld_append w 0 6 12
    have h2 : fld w 0 6 = fld w 4 2 * 2 ^ 4 + fld w 0 4 := fld_append w 0 4 2
    rw [SupplyReq.ofCode_eq_some hst, toNat_ofNat_fld, h1, h2, h6, Nat.zero_mul, Nat.zero_add]
  · rename_i hm
    refine two hm rfl (Reads.chk fun hc => Reads.second fun h30 => Reads.chk fun hmd => ?_)
    obtain ⟨h6, h0⟩ : fld w 6 3 = 0 ∧ fld w2 0 10 = 0 := by simpa using hc
    refine Reads.two hm h30 (by rw [Instr.wf, hmd]; rfl) rfl ?_ (mdW_mdOf h0)
    have h1 : fld w 0 18 = fld w 16 2 * 2 ^ 16 + fld w 0 16 := fld_append w 0 16 2
    have h2 : fld w 0 16 = fld w 15 1 * 2 ^ 15 + fld w 0 15 := fld_append w 0 15 1
    have h3 : fld w 0 15 = fld w 12 3 * 2 ^ 12 + fld w 0 12 := fld_append w 0 12 3
    have h4 : fld w 0 12 = fld w 9 3 * 2 ^ 9 + fld w 0 9 := fld_append w 0 9 3
    have h5 : fld w 0 9 = fld w 6 3 * 2 ^ 6 + fld w 0 6 := fld_append w 0 6 3
    rw [f4_val, f8_val, f8_val, f64_val, bit_bitAt]
    omega
  · rename_i hm
    refine two hm rfl (Reads.chk fun hc => Reads.second fun h30 => Reads.chk fun hmd => ?_)
    obtain ⟨hw, h0⟩ : fld w 0 16 = 0 ∧ fld w2 0 10 = 0 := by simpa using hc
    refine Reads.two hm h30 (by rw [Instr.wf]; exact hmd) rfl ?_ (mdW_mdOf h0)
    have h1 : fld w 0 18 = fld w 16 2 * 2 ^ 16 + fld w 0 16 := fld_append w 0 16 2
    rw [f4_val, h1, hw, Nat.add_zero]
  · exact Reads.error

end

/-- Settles O57, map by map: each decoder reads no word but those of the instruction it gives (`Reads`). -/
theorem decodedWordsAreTheirs : Obligations.DecodedWordsAreTheirs := by
  intro q w w2
  show Reads q (wordsOf q w w2) (decode q w w2)
  unfold decode
  extract_lets maj
  split
  · rename_i hok
    split
    · exact decCommon_reads ‹_›
    · rename_i hge
      have h24 : 24 ≤ majOf w := Nat.le_of_not_lt hge
      split
      · exact decCompute_reads hok h24
      · rename_i hq
        split
        · exact decAccess_reads hok hq h24
        · exact decControl_reads hok hq h24
  · exact Reads.error

end Sys2Proof.Machine
end

section
/-! SUPPORT. The loss and the reset of a die (O47). -/

namespace Sys2Proof.Machine

/-! ### What the loss of a die does not set of a die's registers -/

/-- The registers of a die that a loss, a reset and a boot write: all but the steps named below leave them. -/
def Die.mark (x : Die) : Bool × BitVec 32 × BitVec 64 × Nat × BitVec 32 := (x.lost, x.flstat, x.rstctl, x.rstphase, x.bootstat)

/-- The marks of both dies, and the clock. -/
def State.marks (s : State) := (s.dies.map Die.mark, s.qns)

theorem State.mark_eq {s t : State} (h : t.marks = s.marks) (d : Fin 2) : (t.die d).mark = (s.die d).mark := by
  have hd := congrArg (fun m => m.1[d]) h
  simpa [State.marks, State.die] using hd

theorem State.qtime_eq {s t : State} (h : t.marks = s.marks) : t.qtime = s.qtime :=
  congrArg (fun m => m.2 / 16) h

theorem State.marks_of {s t : State} (h : t.dies = s.dies) (hq : t.qns = s.qns) : t.marks = s.marks := by
  rw [State.marks, State.marks, h, hq]

theorem State.set_marks (s : State) (d : Fin 2) {x : Die} (h : x.mark = (s.die d).mark) :
    (s.dies.set d x).map Die.mark = s.dies.map Die.mark := by
  ext i hi : 1
  simp only [Vector.getElem_map, Vector.getElem_set]
  split
  · next e => subst e; rw [h]; rfl
  · rfl

theorem State.modDie_marks (s : State) (d : Fin 2) (f : Die → Die) (hf : ∀ x, (f x).mark = x.mark) :
    (s.modDie d f).marks = s.marks :=
  congrArg (·, s.qns) (State.set_marks s d (hf _))

/-- A fold of steps that change no mark changes none. -/
theorem State.foldl_marks {α : Type} (f : State → α → State) (hf : ∀ s x, (f s x).marks = s.marks) (l : List α) (s : State) :
    (l.foldl f s).marks = s.marks := by
  induction l generalizing s with
  | nil => rfl
  | cons x l ih => rw [List.foldl_cons, ih, hf]

@[simp] theorem State.modCore_marks (s : State) (k : CoreId) (f : Core → Core) : (s.modCore k f).marks = s.marks := rfl

@[simp] theorem State.dropClaims_marks (s : State) (k : CoreId) : (s.dropClaims k).marks = s.marks := rfl

@[simp] theorem State.dropPin_marks (s : State) (k : CoreId) : (s.dropPin k).marks = s.marks := rfl

@[simp] theorem State.setTeam_marks (s : State) (t : Nat) (x : Team) : (s.setTeam t x).marks = s.marks := rfl

@[simp] theorem State.setGran_marks (s : State) (g : Gran) (x : GranSt) : (s.setGran g x).marks = s.marks := by
  unfold State.setGran; split <;> rfl

@[simp] theorem State.acceptWrite_marks (s : State) (ring : Bool) (pa : Nat) (bs : List (BitVec 8)) :
    (s.acceptWrite ring pa bs).marks = s.marks := by
  unfold State.acceptWrite
  dsimp only
  split
  · exact State.foldl_marks _ (fun s i => State.setGran_marks s _ _) _ _
  · rfl

@[simp] theorem State.writeAs_marks (s : State) (ring : Bool) (pa : Nat) (bs : List (BitVec 8)) :
    (s.writeAs ring pa bs).marks = s.marks := by
  unfold State.writeAs
  split
  · rfl
  · split
    · refine State.foldl_marks _ (fun s x => ?_) _ _
      split
      · rfl
      · exact State.acceptWrite_marks ..
    · exact State.acceptWrite_marks ..

@[simp] theorem State.ringWrite_marks (s : State) (pa : Nat) (bs : List (BitVec 8)) : (s.ringWrite pa bs).marks = s.marks :=
  State.writeAs_marks ..

theorem State.ite_marks (c : Prop) (i : Decidable c) {a b s : State} (ha : a.marks = s.marks) (hb : b.marks = s.marks) :
    (@ite State c i a b).marks = s.marks := by
  split <;> assumption

@[simp] theorem State.tansy_marks (s : State) (d : Fin 2) (p : PartId) (type core unit : Nat) (gang : BitVec 16)
    (task gen : Nat) (body : List (BitVec 8)) : (s.tansy d p type core unit gang task gen body).marks = s.marks := by
  unfold State.tansy
  simp only []
  refine State.ite_marks _ _ rfl (State.ite_marks _ _ ?_ ?_)
  · exact State.modDie_marks _ _ _ (by intro _; rfl)
  · exact (State.modDie_marks _ _ _ (by intro _; rfl)).trans (State.ringWrite_marks ..)

@[simp] theorem State.trigger_marks (s : State) (d : Fin 2) (p : PartId) (source cause : Nat) (w : TrigAt) :
    (s.trigger d p source cause w).marks = s.marks := by
  unfold State.trigger
  dsimp only
  exact State.ite_marks _ _ (State.tansy_marks ..) ((State.modDie_marks _ _ _ (by intro _; rfl)).trans (State.tansy_marks ..))

@[simp] theorem State.elog_marks (s : State) (d : Fin 2) (p : PartId) (r : List (BitVec 8)) :
    (s.elog d p r).marks = s.marks := by
  unfold State.elog
  dsimp only
  refine (State.tansy_marks ..).trans ((State.modDie_marks _ _ _ (by intro _; rfl)).trans ?_)
  exact State.ite_marks _ _ (State.ringWrite_marks ..) rfl

@[simp] theorem State.ringOut_marks (s : State) (d : Fin 2) (p : PartId) (m : List (BitVec 8)) :
    (s.ringOut d p m).marks = s.marks := by
  unfold State.ringOut
  dsimp only
  exact (State.modDie_marks _ _ _ (by intro _; rfl)).trans (State.ringWrite_marks ..)

@[simp] theorem State.postOut_marks (s : State) (d : Fin 2) (p : PartId) (type : Nat) (body : List (BitVec 8)) :
    (s.postOut d p type body).marks = s.marks := by
  unfold State.postOut
  dsimp only
  refine State.ite_marks _ _ (State.ringOut_marks ..) (State.ite_marks _ _ ?_ (State.elog_marks ..))
  exact State.modDie_marks _ _ _ (by intro _; rfl)

@[simp] theorem State.status_marks (s : State) (d : Fin 2) (code part : Nat) (gang : BitVec 16) (task cause : Nat)
    (tag : BitVec 16) (gen : Nat) : (s.status d code part gang task cause tag gen).marks = s.marks := State.postOut_marks ..

@[simp] theorem State.contextEvent_marks (s : State) (k : CoreId) (key : TaskKey) (gen : BitVec 32) (event code : Nat) :
    (s.contextEvent k key gen event code).marks = s.marks := State.tansy_marks ..

@[simp] theorem State.gangEnd_marks (s : State) (key : TaskKey) (aborted : Bool) : (s.gangEnd key aborted).marks = s.marks := by
  unfold State.gangEnd State.marks
  simp only [Vector.map_map]
  rfl

@[simp] theorem State.sendToken_marks (s : State) (k : CoreId) (key : TaskKey) (ev : Nat) :
    (s.sendToken k key ev).marks = s.marks := by
  unfold State.sendToken; split <;> rfl

@[simp] theorem State.endEpisode_marks (s : State) (t status : Nat) : (s.endEpisode t status).marks = s.marks := by
  unfold State.endEpisode
  dsimp only
  refine State.foldl_marks _ (fun s m => ?_) _ s
  split <;> rfl

@[simp] theorem State.applyToken_marks (s : State) (k : CoreId) (key : TaskKey) (ev t : Nat) :
    (s.applyToken k key ev t).marks = s.marks := by
  unfold State.applyToken State.testEpisode
  dsimp only
  split
  · rfl
  · refine State.ite_marks _ _ rfl (State.ite_marks _ _ (State.endEpisode_marks ..) ?_)
    exact State.ite_marks _ _ (State.endEpisode_marks ..) rfl

@[simp] theorem State.breakTeams_marks (s : State) (k : CoreId) (key : TaskKey) : (s.breakTeams k key).marks = s.marks :=
  State.foldl_marks _ (fun _ _ => State.applyToken_marks ..) _ _

@[simp] theorem State.lostTokens_marks (s : State) (l : Fin 2) : (s.lostTokens l).marks = s.marks := by
  refine State.foldl_marks _ (fun s m => ?_) _ s
  split
  · exact State.ite_marks _ _ (State.foldl_marks _ (fun _ _ => State.applyToken_marks ..) _ _) rfl
  all_goals rfl

@[simp] theorem State.logAll_marks (s : State) (d : Fin 2) (kind : Nat) (en : Bool) : (s.logAll d kind en).marks = s.marks :=
  State.foldl_marks _ (fun _ _ => State.ite_marks _ _ rfl (State.elog_marks ..)) _ _

@[simp] theorem State.refuse_marks (s : State) (k : CoreId) (b : Bind) (code : Nat) : (s.refuse k b code).marks = s.marks := by
  unfold State.refuse
  dsimp only
  have h1 : ∀ u : State, (if b.part < 16 then u.status (dieOf k) code b.part b.gang b.task 0 b.tag 0 else u).marks = u.marks :=
    fun u => State.ite_marks _ _ (State.status_marks ..) rfl
  have h2 : ∀ u : State, (if b.table then u.gangEnd b.key true else u).marks = u.marks :=
    fun u => State.ite_marks _ _ (State.gangEnd_marks ..) rfl
  exact State.ite_marks _ _ ((h2 _).trans (h1 _)) ((h2 _).trans (h1 _))

@[simp] theorem State.refetch_marks (s : State) (k : CoreId) : (s.refetch k).marks = s.marks := by
  unfold State.refetch
  split
  · split
    · split <;> rfl
    · rfl
  · rfl

@[simp] theorem State.dropWaits_marks (s : State) (hit : Waiter → Bool) : (s.dropWaits hit).marks = s.marks := by
  unfold State.dropWaits
  split <;> rfl

@[simp] theorem State.rollback_marks (s : State) (k : CoreId) (keep : Bool) : (s.rollback k keep).marks = s.marks := by
  unfold State.rollback
  dsimp only
  have h : ∀ (u : State) c, ((((u.setCore k c).dropClaims k).dropWaits ((s.core k).ends k)).refetch k).marks = u.marks :=
    fun u c => (State.refetch_marks ..).trans (State.dropWaits_marks ..)
  refine State.ite_marks _ _ ((h _ _).trans ?_) ((h _ _).trans ?_) <;> exact State.ite_marks _ _ rfl rfl

@[simp] theorem State.takeTrap_marks (s : State) (k : CoreId) (r : Rep) : (s.takeTrap k r).marks = s.marks := by
  unfold State.takeTrap
  dsimp only
  split
  · rfl
  · exact State.ite_marks _ _ rfl (State.rollback_marks ..)

@[simp] theorem State.postTraps_marks (s : State) (k : CoreId) : (s.postTraps k).marks = s.marks := by
  unfold State.postTraps
  refine State.ite_marks _ _ rfl (State.foldl_marks _ (fun s r => ?_) _ s)
  exact State.ite_marks _ _ ((State.trigger_marks ..).trans (State.elog_marks ..)) (State.elog_marks ..)

@[simp] theorem State.abortTask_marks (s : State) (k : CoreId) (code : Nat) : (s.abortTask k code).marks = s.marks := by
  unfold State.abortTask
  split
  · rfl
  · simp

@[simp] theorem State.loseContext_marks (s : State) (l : Fin 2) (k : CoreId) (m : LossMode) :
    (s.loseContext l k m).marks = s.marks := by
  unfold State.loseContext
  split
  · rfl
  · dsimp only
    have h1 : (if decide (dieOf k = l) = true ∧ m = .fatal then s
      else ((s.modCore k fun c => { c with rolled := false }).takeTrap k ⟨0x0D, 0x81, none, 0, 0, 0, 0, 0, 0, 0⟩).postTraps k).marks
        = s.marks := State.ite_marks _ _ rfl (by simp)
    refine State.ite_marks _ _ (by simpa using h1) (State.ite_marks _ _ ?_ ?_) <;> simpa using h1

@[simp] theorem State.loseWork_marks (s : State) (v : Fin 2) (k : CoreId) (t : LostTask) (gen : BitVec 32) :
    (s.loseWork v k t gen).marks = s.marks := by
  simp [State.loseWork]

@[simp] theorem State.loseFinishing_marks (s : State) (v : Fin 2) (k : CoreId) : (s.loseFinishing v k).marks = s.marks := by
  rw [State.loseFinishing, State.modCore_marks]
  exact State.foldl_marks _ (fun _ _ => State.loseWork_marks ..) _ _

@[simp] theorem State.loseStaged_marks (s : State) (v : Fin 2) (k : CoreId) : (s.loseStaged v k).marks = s.marks := by
  rw [State.loseStaged, State.modCore_marks]
  exact State.foldl_marks _ (fun _ _ => State.loseWork_marks ..) _ _

@[simp] theorem State.dropLine_marks (s : State) (k : CoreId) (l : CBLine) : (s.dropLine k l).marks = s.marks := by
  unfold State.dropLine
  dsimp only
  refine (State.dropWaits_marks ..).trans ?_
  have h : ∀ u : State, (if l.pinned then u.freePin k else u).marks = u.marks := fun u => State.ite_marks _ _ rfl rfl
  refine (h _).trans ?_
  split
  · rfl
  · exact State.ite_marks _ _ rfl (State.ite_marks _ _ (State.setGran_marks ..) rfl)

@[simp] theorem State.tearLine_marks (s : State) (d : Fin 2) (k : CoreId) (l : CBLine) : (s.tearLine d k l).marks = s.marks :=
  (State.elog_marks ..).trans (State.dropLine_marks ..)

@[simp] theorem State.tearFrom_marks (s : State) (v : Fin 2) (k : CoreId) (all : Bool) (l : CBLine) :
    (s.tearFrom v k all l).marks = s.marks :=
  State.ite_marks _ _ rfl (State.ite_marks _ _ (State.tearLine_marks ..) (State.dropLine_marks ..))

@[simp] theorem State.loseCore_marks (s : State) (v : Fin 2) (all : Bool) (k : CoreId) : (s.loseCore v all k).marks = s.marks := by
  unfold State.loseCore
  dsimp only
  rw [State.dropWaits_marks, State.dropPin_marks, State.modCore_marks, State.dropClaims_marks, State.loseStaged_marks,
    State.loseFinishing_marks]
  exact State.foldl_marks _ (fun _ _ => State.tearFrom_marks ..) _ _

@[simp] theorem State.splitCore_marks (s : State) (v : Fin 2) (k : CoreId) : (s.splitCore v k).marks = s.marks := by
  unfold State.splitCore
  dsimp only
  rw [State.dropPin_marks, State.dropClaims_marks, State.loseStaged_marks, State.loseFinishing_marks]
  exact State.foldl_marks _ (fun _ _ => State.ite_marks _ _ (State.tearLine_marks ..) rfl) _ _

@[simp] theorem State.refuseStale_marks (s : State) (l : Fin 2) (k : CoreId) : (s.refuseStale l k).marks = s.marks := by
  unfold State.refuseStale
  split
  · rfl
  · split
    · rfl
    · exact State.ite_marks _ _ rfl (State.ite_marks _ _ (State.refuse_marks ..) rfl)

@[simp] theorem State.abortSaved_marks (s : State) (x : Saved) (code : Nat) : (s.abortSaved x code).marks = s.marks := by
  simp only [State.abortSaved, State.gangEnd_marks, State.sendToken_marks, State.contextEvent_marks, State.status_marks]
  rfl

@[simp] theorem State.loseSaved_marks (s : State) (l : Fin 2) (x : Saved) : (s.loseSaved l x).marks = s.marks :=
  State.ite_marks _ _ ((State.breakTeams_marks ..).trans (State.abortSaved_marks ..)) (State.abortSaved_marks ..)

@[simp] theorem State.dropAimed_marks (s : State) (l : Fin 2) (k : CoreId) : (s.dropAimed l k).marks = s.marks := by
  refine State.foldl_marks _ (fun s x => State.foldl_marks _ (fun s m => ?_) _ s) _ s
  exact State.ite_marks _ _ ((State.dropWaits_marks ..).trans (State.modCore_marks ..)) rfl

@[simp] theorem State.dropFar_marks (s : State) (l : Fin 2) (torn : Bool) (k : CoreId) : (s.dropFar l torn k).marks = s.marks := by
  unfold State.dropFar
  dsimp only
  rw [State.modCore_marks, State.dropAimed_marks]
  refine State.foldl_marks _ (fun s y => ?_) _ s
  exact State.ite_marks _ _ (State.ite_marks _ _ (State.tearLine_marks ..) (State.dropLine_marks ..)) rfl

@[simp] theorem State.takeOver_marks (s : State) : s.takeOver.marks = s.marks := by
  unfold State.takeOver
  extract_lets u w old
  rw [State.modDie_marks _ _ _ (by intro _; simp only [Die.mark]), State.modDie_marks _ _ _ (by intro _; rfl)]
  exact State.foldl_marks _ (fun s x => State.ite_marks _ _ ((State.setTeam_marks ..).trans (State.endEpisode_marks ..)) rfl) _ s

@[simp] theorem State.reissue_marks (s : State) (v : Fin 2) (t : LostTask) : (s.reissue v t).marks = s.marks :=
  State.modDie_marks _ _ _ (by intro _; rfl)

/-! ### What a loss leaves of the cores that it does not take -/

@[simp] theorem State.gangEnd_cores (s : State) (key : TaskKey) (aborted : Bool) : (s.gangEnd key aborted).cores = s.cores := rfl

@[simp] theorem State.reissue_cores (s : State) (v : Fin 2) (t : LostTask) : (s.reissue v t).cores = s.cores := rfl

@[simp] theorem State.contextEvent_cores (s : State) (k : CoreId) (key : TaskKey) (gen : BitVec 32) (event code : Nat) :
    (s.contextEvent k key gen event code).cores = s.cores := State.tansy_cores ..

@[simp] theorem State.sendToken_cores (s : State) (k : CoreId) (key : TaskKey) (ev : Nat) :
    (s.sendToken k key ev).cores = s.cores := by
  unfold State.sendToken; split <;> rfl

@[simp] theorem State.endEpisode_cores (s : State) (t status : Nat) : (s.endEpisode t status).cores = s.cores := by
  unfold State.endEpisode
  dsimp only
  refine State.foldl_cores _ (fun s m => ?_) _ s
  split <;> rfl

@[simp] theorem State.applyToken_cores (s : State) (k : CoreId) (key : TaskKey) (ev t : Nat) :
    (s.applyToken k key ev t).cores = s.cores := by
  unfold State.applyToken State.testEpisode
  dsimp only
  split
  · rfl
  · refine State.ite_cores _ _ rfl (State.ite_cores _ _ (State.endEpisode_cores ..) ?_)
    exact State.ite_cores _ _ (State.endEpisode_cores ..) rfl

@[simp] theorem State.breakTeams_cores (s : State) (k : CoreId) (key : TaskKey) : (s.breakTeams k key).cores = s.cores :=
  State.foldl_cores _ (fun _ _ => State.applyToken_cores ..) _ _

@[simp] theorem State.lostTokens_cores (s : State) (l : Fin 2) : (s.lostTokens l).cores = s.cores := by
  refine State.foldl_cores _ (fun s m => ?_) _ s
  split
  · exact State.ite_cores _ _ (State.foldl_cores _ (fun _ _ => State.applyToken_cores ..) _ _) rfl
  all_goals rfl

@[simp] theorem State.logAll_cores (s : State) (d : Fin 2) (kind : Nat) (en : Bool) : (s.logAll d kind en).cores = s.cores :=
  State.foldl_cores _ (fun _ _ => State.ite_cores _ _ rfl (State.elog_cores ..)) _ _

@[simp] theorem State.loseWork_cores (s : State) (v : Fin 2) (k : CoreId) (t : LostTask) (gen : BitVec 32) :
    (s.loseWork v k t gen).cores = s.cores := by
  simp [State.loseWork]

@[simp] theorem State.loseSaved_cores (s : State) (l : Fin 2) (x : Saved) : (s.loseSaved l x).cores = s.cores := by
  have h : (s.abortSaved x 6).cores = s.cores := by simp [State.abortSaved]
  exact State.ite_cores _ _ ((State.breakTeams_cores ..).trans h) h

/-- A context as a loss finds it: its task, its sequencers and what it touched. -/
def Core.ctx (c : Core) : Option TaskSt × Vector SeqSt 4 × BitVec 2 := (c.task, c.seqs, c.touched)

/-- From `s` to `t` the contexts of the cores in `C` stay, and the lines in the commit buffers of those in `B`. -/
structure State.Still (C B : CoreId → Prop) (s t : State) : Prop where
  ctx : ∀ j, C j → (t.core j).ctx = (s.core j).ctx
  cb : ∀ j, B j → (t.core j).cb = (s.core j).cb

section
variable {C B C' B' : CoreId → Prop} {s t u : State}

theorem State.Still.of_cores (h : t.cores = s.cores) : State.Still C B s t := by
  have hj : ∀ j, t.core j = s.core j := fun j => by rw [State.core, State.core, h]
  exact ⟨fun j _ => by rw [hj], fun j _ => by rw [hj]⟩

theorem State.Still.refl : State.Still C B s s := .of_cores rfl

theorem State.Still.trans (h : State.Still C B s t) (h' : State.Still C B t u) : State.Still C B s u :=
  ⟨fun j c => (h'.ctx j c).trans (h.ctx j c), fun j b => (h'.cb j b).trans (h.cb j b)⟩

theorem State.Still.mono (h : State.Still C B s t) (hC : ∀ j, C' j → C j) (hB : ∀ j, B' j → B j) : State.Still C' B' s t :=
  ⟨fun j c => h.ctx j (hC j c), fun j b => h.cb j (hB j b)⟩

theorem State.Still.ite {c : Prop} {i : Decidable c} {a b : State} (ha : State.Still C B s a) (hb : State.Still C B s b) :
    State.Still C B s (@ite State c i a b) := by
  split <;> assumption

theorem State.Still.foldl {α : Type} {f : State → α → State} (l : List α) (hf : ∀ s, ∀ x ∈ l, State.Still C B s (f s x))
    (s : State) : State.Still C B s (l.foldl f s) := by
  induction l generalizing s with
  | nil => exact .refl
  | cons x l ih =>
    exact (hf s x List.mem_cons_self).trans (ih (fun s y hy => hf s y (List.mem_cons_of_mem _ hy)) _)

/-- A change of one core leaves the others. -/
theorem State.Still.modCore (s : State) (k : CoreId) (f : Core → Core) : State.Still (· ≠ k) (· ≠ k) s (s.modCore k f) := by
  have h : ∀ j, j ≠ k → (s.modCore k f).core j = s.core j := fun j hj => State.core_setCore_other _ _ hj
  exact ⟨fun j hj => by rw [h j hj], fun j hj => by rw [h j hj]⟩

/-- A change of one core that leaves its context leaves every context. -/
theorem State.Still.modCore_lines (s : State) (k : CoreId) (f : Core → Core) (hf : ∀ c, (f c).ctx = c.ctx) :
    State.Still (fun _ => True) (· ≠ k) s (s.modCore k f) := by
  refine ⟨fun j _ => ?_, (State.Still.modCore s k f).cb⟩
  by_cases h : j = k
  · rw [h, State.modCore, State.core_setCore_same, hf]
  · exact (State.Still.modCore s k f).ctx j h

/-- A change of one core that leaves its context and its lines leaves all of them. -/
theorem State.Still.modCore_all (s : State) (k : CoreId) (f : Core → Core) (hf : ∀ c, (f c).ctx = c.ctx)
    (hb : ∀ c, (f c).cb = c.cb) : State.Still C B s (s.modCore k f) := by
  refine ⟨fun j _ => (State.Still.modCore_lines s k f hf).ctx j trivial, fun j _ => ?_⟩
  by_cases h : j = k
  · rw [h, State.modCore, State.core_setCore_same, hb]
  · exact (State.Still.modCore s k f).cb j h

theorem State.Still.mapCores (s : State) (f : Core → Core) (hf : ∀ c, (f c).ctx = c.ctx) (hb : ∀ c, (f c).cb = c.cb)
    (h : t.cores = s.cores.map f) : State.Still C B s t := by
  have hj : ∀ j, t.core j = f (s.core j) := fun j => by simp [State.core, h]
  exact ⟨fun j _ => by rw [hj, hf], fun j _ => by rw [hj, hb]⟩

theorem State.Still.dropPin (s : State) (k : CoreId) : State.Still C B s (s.dropPin k) := .of_cores rfl

theorem State.Still.dropClaims (s : State) (k : CoreId) : State.Still C B s (s.dropClaims k) := .of_cores rfl

theorem State.Still.dropWaits (s : State) (hit : Waiter → Bool) : State.Still C B s (s.dropWaits hit) := by
  exact ⟨fun j _ => by rw [State.dropWaits_core]; rfl, fun j _ => by rw [State.dropWaits_core]⟩

theorem State.Still.refetch (s : State) (k : CoreId) : State.Still C B s (s.refetch k) := by
  exact ⟨fun j _ => by rw [State.refetch_core]; rfl, fun j _ => by rw [State.refetch_core]⟩

theorem State.Still.rollback (s : State) (k : CoreId) (keep : Bool) : State.Still (· ≠ k) (· ≠ k) s (s.rollback k keep) := by
  unfold State.rollback
  extract_lets c busy c1 c2 u v
  have hu : State.Still (· ≠ k) (· ≠ k) s u := .ite .refl (.of_cores rfl)
  have hc : State.Still (· ≠ k) (· ≠ k) u ((u.setCore k c2).dropClaims k) :=
    (State.Still.modCore u k fun _ => c2).trans (.of_cores rfl)
  have hv : State.Still (· ≠ k) (· ≠ k) s v := ((hu.trans hc).trans (.dropWaits ..)).trans (.refetch ..)
  exact .ite hv (hv.trans (.of_cores rfl))

theorem State.Still.takeTrap (s : State) (k : CoreId) (r : Rep) : State.Still (· ≠ k) (· ≠ k) s (s.takeTrap k r) := by
  unfold State.takeTrap
  dsimp only
  split
  · exact .refl
  · exact .ite .refl ((State.Still.rollback ..).trans (.modCore ..))

theorem State.Still.postTraps (s : State) (k : CoreId) : State.Still C B s (s.postTraps k) := by
  unfold State.postTraps
  extract_lets l u
  have hu : u.cores = s.cores :=
    State.foldl_cores _ (fun s r => State.ite_cores _ _ ((State.trigger_cores ..).trans (State.elog_cores ..))
      (State.elog_cores ..)) _ s
  refine .ite .refl ((State.Still.of_cores hu).trans ?_)
  exact (State.Still.modCore_all u k _ (by intro _; rfl) (by intro _; rfl)).trans (.dropPin ..)

theorem State.Still.abortTask (s : State) (k : CoreId) (code : Nat) : State.Still (· ≠ k) (· ≠ k) s (s.abortTask k code) := by
  unfold State.abortTask
  split
  · exact .refl
  · dsimp only
    refine ((State.Still.rollback s k false).trans (.modCore _ k Core.freed)).trans (.of_cores ?_)
    rw [State.gangEnd_cores, State.sendToken_cores, State.contextEvent_cores, State.status_cores]

/-- A loss takes the context of one core. -/
theorem State.Still.loseContext (s : State) (l : Fin 2) (k : CoreId) (m : LossMode) :
    State.Still (· ≠ k) (· ≠ k) s (s.loseContext l k m) := by
  unfold State.loseContext
  split
  · exact .refl
  · extract_lets there u v gen w z
    have hu : State.Still (· ≠ k) (· ≠ k) s u :=
      .ite .refl (((State.Still.modCore s k _).trans (.takeTrap ..)).trans (.postTraps ..))
    refine .ite ((hu.trans (State.Still.modCore u k _ : State.Still _ _ u v)).trans (.of_cores ?_)) ?_
    · rw [State.gangEnd_cores, State.breakTeams_cores, State.contextEvent_cores, State.status_cores]
    · have hz := hu.trans (State.Still.abortTask u k 6)
      exact .ite (hz.trans (.of_cores (State.breakTeams_cores ..))) hz

theorem State.Still.dropLine (s : State) (k : CoreId) (l : CBLine) :
    State.Still (fun _ => True) (· ≠ k) s (s.dropLine k l) := by
  unfold State.dropLine
  extract_lets u v
  have hv : v.cores = u.cores := by
    unfold v
    split
    · rfl
    · exact State.ite_cores _ _ rfl (State.ite_cores _ _ (State.setGran_cores ..) rfl)
  have hu : State.Still (fun _ => True) (· ≠ k) s u := State.Still.modCore_lines s k _ (by intro _; rfl)
  refine (hu.trans (.of_cores ?_)).trans (.dropWaits ..)
  exact State.ite_cores _ _ hv hv

theorem State.Still.tearLine (s : State) (d : Fin 2) (k : CoreId) (l : CBLine) :
    State.Still (fun _ => True) (· ≠ k) s (s.tearLine d k l) :=
  (State.Still.dropLine s k l).trans (.of_cores (State.elog_cores ..))

theorem State.Still.tearFrom (s : State) (v : Fin 2) (k : CoreId) (all : Bool) (l : CBLine) :
    State.Still (fun _ => True) (· ≠ k) s (s.tearFrom v k all l) :=
  .ite .refl (.ite (.tearLine ..) (.dropLine ..))

theorem State.Still.loseFinishing (s : State) (v : Fin 2) (k : CoreId) : State.Still C B s (s.loseFinishing v k) :=
  (State.Still.of_cores (State.foldl_cores _ (fun _ _ => State.loseWork_cores ..) _ s)).trans
    (State.Still.modCore_all _ k _ (by intro _; rfl) (by intro _; rfl))

theorem State.Still.loseStaged (s : State) (v : Fin 2) (k : CoreId) : State.Still C B s (s.loseStaged v k) :=
  (State.Still.of_cores (State.foldl_cores _ (fun _ _ => State.loseWork_cores ..) _ s)).trans
    (State.Still.modCore_all _ k _ (by intro _; rfl) (by intro _; rfl))

theorem State.Still.loseCore (s : State) (v : Fin 2) (all : Bool) (k : CoreId) :
    State.Still (fun _ => True) (· ≠ k) s (s.loseCore v all k) := by
  unfold State.loseCore
  extract_lets u w
  have hu : State.Still (fun _ => True) (· ≠ k) s u := .foldl _ (fun _ _ _ => .tearFrom ..) s
  have hw : State.Still (fun _ => True) (· ≠ k) s w := (hu.trans (.loseFinishing ..)).trans (.loseStaged ..)
  refine (((hw.trans (.dropClaims w k)).trans (State.Still.modCore_lines _ k _ ?_)).trans (.dropPin ..)).trans (.dropWaits ..)
  intro _
  rfl

theorem State.Still.refuse (s : State) (k : CoreId) (b : Bind) (code : Nat) : State.Still C B s (s.refuse k b code) := by
  unfold State.refuse
  extract_lets u v w
  have hw : w.cores = u.cores :=
    (State.ite_cores _ _ rfl rfl : w.cores = v.cores).trans (State.ite_cores _ _ (State.status_cores ..) rfl)
  have hu : State.Still C B s u := State.Still.modCore_all s k _ (by intro _; rfl) (by intro _; rfl)
  exact .ite (hu.trans (.of_cores hw)) (hu.trans (.of_cores hw))

theorem State.Still.refuseStale (s : State) (l : Fin 2) (k : CoreId) : State.Still C B s (s.refuseStale l k) := by
  unfold State.refuseStale
  split
  · exact .refl
  · split
    · exact .refl
    · exact .ite .refl (.ite (.refuse ..) (State.Still.modCore_all s k _ (by intro _; rfl) (by intro _; rfl)))

theorem State.Still.dropAimed (s : State) (l : Fin 2) (k : CoreId) : State.Still C B s (s.dropAimed l k) := by
  refine .foldl _ (fun s x _ => .foldl _ (fun s m _ => .ite ?_ .refl) s) s
  exact (State.Still.modCore_all s k _ (by intro _; rfl) (by intro _; rfl)).trans (.dropWaits ..)

theorem State.Still.dropFar (s : State) (l : Fin 2) (torn : Bool) (k : CoreId) :
    State.Still (fun _ => True) (· ≠ k) s (s.dropFar l torn k) := by
  unfold State.dropFar
  extract_lets u
  have hu : State.Still (fun _ => True) (· ≠ k) s u :=
    .foldl _ (fun s y _ => .ite (.ite (.tearLine ..) (.dropLine ..)) .refl) s
  exact (hu.trans (.dropAimed ..)).trans (State.Still.modCore_all _ k _ (by intro _; rfl) (by intro _; rfl))

theorem State.Still.takeOver (s : State) : State.Still C B s s.takeOver := by
  unfold State.takeOver
  extract_lets u w old
  have hu : u.cores = s.cores :=
    State.foldl_cores _ (fun s x => State.ite_cores _ _ ((State.setTeam_cores ..).trans (State.endEpisode_cores ..)) rfl) _ s
  have hw : State.Still C B u w := .mapCores u _ (by intro _; rfl) (by intro _; rfl) rfl
  exact ((State.Still.of_cores hu).trans hw).trans (.of_cores rfl)

end

/-! ### The loss of a die -/

theorem mem_coresOf : ∀ (d : Fin 2) (k : CoreId), k ∈ coresOf d ↔ dieOf k = d := by decide

theorem otherDie_ne : ∀ d : Fin 2, d ≠ otherDie d := by decide

theorem dieOf_ne_other : ∀ (d : Fin 2) (k : CoreId), dieOf k = d → dieOf k ≠ otherDie d := by decide

/-- A fold keeps what its steps keep. -/
theorem State.foldl_keeps {α : Type} {f : State → α → State} {P : State → Prop} (keep : ∀ s y, P s → P (f s y)) (l : List α) {s : State}
    (h : P s) : P (l.foldl f s) := by
  induction l generalizing s with
  | nil => exact h
  | cons x l ih => exact ih (keep s x h)

/-- A fold whose step at `x` brings about `P`, under `I`, with steps that keep both, brings about `P` when `x` is met. -/
theorem State.foldl_brings {α : Type} {f : State → α → State} {I P : State → Prop} {x : α} (at_ : ∀ s, I s → P (f s x))
    (keepI : ∀ s y, I s → I (f s y)) (keep : ∀ s y, P s → P (f s y)) {l : List α} (hx : x ∈ l) {s : State} (h : I s) :
    P (l.foldl f s) := by
  induction l generalizing s with
  | nil => cases hx
  | cons y l ih =>
    rcases List.mem_cons.mp hx with rfl | hy
    · exact State.foldl_keeps keep l (at_ s h)
    · exact ih hy (keepI s y h)

theorem Core.ctx_task {c e : Core} (h : c.ctx = e.ctx) : c.task = e.task := congrArg Prod.fst h

theorem Core.ctx_touched {c e : Core} (h : c.ctx = e.ctx) : c.touched = e.touched := congrArg (fun x => x.2.2) h

theorem Core.ctx_sq {c e : Core} (h : c.ctx = e.ctx) (q : Fin 4) : c.sq q = e.sq q := congrArg (fun x => x.2.1[q]) h

theorem State.core_of_cores {s t : State} (h : t.cores = s.cores) (k : CoreId) : t.core k = s.core k := by
  rw [State.core, State.core, h]

theorem State.abortTask_task (s : State) (k : CoreId) (code : Nat) : ((s.abortTask k code).core k).task = none := by
  unfold State.abortTask
  split
  · assumption
  · dsimp only
    rw [State.core_of_cores (State.gangEnd_cores ..), State.core_of_cores (State.sendToken_cores ..),
      State.core_of_cores (State.contextEvent_cores ..), State.core_of_cores (State.status_cores ..), State.modCore,
      State.core_setCore_same]
    rfl

theorem State.loseContext_of_none {s : State} {k : CoreId} (h : (s.core k).task = none) (l : Fin 2) (m : LossMode) :
    s.loseContext l k m = s := by
  unfold State.loseContext
  rw [h]

/-- A loss that is no split brain leaves no task at the core. -/
theorem State.loseContext_task (s : State) (l : Fin 2) (k : CoreId) {m : LossMode} (hm : m ≠ .split) :
    ((s.loseContext l k m).core k).task = none := by
  unfold State.loseContext
  split
  · assumption
  · extract_lets there u v gen w z
    rw [if_neg (fun h => hm h.2)]
    have hz : (z.core k).task = none := State.abortTask_task u k 6
    split
    · rw [State.core_of_cores (State.breakTeams_cores ..)]
      exact hz
    · exact hz

theorem State.loseContext_keeps_none {s : State} {j : CoreId} (h : (s.core j).task = none) (l : Fin 2) (k : CoreId)
    (m : LossMode) : ((s.loseContext l k m).core j).task = none := by
  by_cases hj : j = k
  · subst hj
    rwa [State.loseContext_of_none h]
  · rw [Core.ctx_task ((State.Still.loseContext s l k m).ctx j hj), h]

theorem State.loseCore_cb (s : State) (v : Fin 2) (all : Bool) (k : CoreId) : ((s.loseCore v all k).core k).cb = [] := by
  unfold State.loseCore
  extract_lets u w
  rw [State.dropWaits_core, State.core_of_cores (State.dropPin_cores ..), State.modCore, State.core_setCore_same]

/-- What a loss does to the cores: the contexts of the lost die's cores, their lines, and the contexts that touched the die. -/
def State.loseContexts (s : State) (l : Fin 2) (m : LossMode) : State :=
  let s := (coresOf l).foldl (fun s k => s.loseContext l k m) s
  let s := (coresOf l).foldl (fun s k =>
    match m with
    | .fatal => s.loseCore (otherDie l) false k
    | .split => s.splitCore (otherDie l) k
    | .reset => s.loseStaged (otherDie l) k) s
  (coresOf (otherDie l)).foldl (fun s k => if bvf (s.core k).touched l.val 1 = 1 then s.loseContext l k m else s) s

/-- Beside that a loss leaves every context, and the lines of the lost die's cores. -/
theorem State.loseDie_loseContexts {s : State} {l : Fin 2} (h : (s.die l).lost = false) (m : LossMode) :
    ∃ u : State, State.Still (fun _ => True) (fun _ => True) s u ∧
      State.Still (fun _ => True) (fun k => dieOf k = l) (u.loseContexts l m) (s.loseDie l m) := by
  unfold State.loseDie
  rw [if_neg (by simp [h])]
  extract_lets v tasks adopted s1 s2 s3 s4 s5 s6 s7 s8 s9 s10 s11 s12 s13 s14 s15 x s16 s17
  refine ⟨s6, ?_, ?_⟩
  · have h1 : State.Still (fun _ => True) (fun _ => True) s s1 := .of_cores (State.lostTokens_cores ..)
    have h2 : State.Still (fun _ => True) (fun _ => True) s1 s2 :=
      .ite (.mapCores s1 Core.markOld (by intro _; rfl) (by intro _; rfl) rfl) .refl
    have h5 : s5.cores = s2.cores := State.logAll_cores ..
    have h6 : s6.cores = s5.cores := State.foldl_cores _ (fun _ _ => State.trigger_cores ..) _ _
    exact (h1.trans h2).trans (.of_cores (h6.trans h5))
  · change State.Still _ _ s9 _
    have h10 : State.Still (fun _ => True) (fun k => dieOf k = l) s9 s10 := .foldl _ (fun _ _ _ => .refuseStale ..) s9
    have h11 : s11.cores = s10.cores := State.foldl_cores _ (fun _ _ => State.loseSaved_cores ..) _ _
    have h12 : State.Still (fun _ => True) (fun k => dieOf k = l) s11 s12 :=
      .foldl _ (fun s k hk => (State.Still.dropFar s l false k).mono (fun _ => id)
        fun j hj e => dieOf_ne_other l j hj (e ▸ (mem_coresOf v k).mp hk)) s11
    have h13 : State.Still (fun _ => True) (fun k => dieOf k = l) s11 s13 := .ite .refl (h12.trans (.of_cores rfl))
    have h14 : State.Still (fun _ => True) (fun k => dieOf k = l) s13 s14 :=
      .mapCores s13 _ (by intro _; rfl) (by intro _; rfl) rfl
    have h15 : State.Still (fun _ => True) (fun k => dieOf k = l) s14 s15 := .ite (.takeOver s14) .refl
    have h17 : s17.cores = s15.cores := rfl
    exact (((h10.trans (.of_cores h11)).trans h13).trans (h14.trans h15)).trans
      (.of_cores ((State.foldl_cores _ (fun _ _ => State.reissue_cores ..) _ _).trans h17))

theorem State.modDie_marks_congr {s t : State} (h : t.marks = s.marks) (d : Fin 2) (f : Die → Die)
    (hf : ∀ x y : Die, x.mark = y.mark → (f x).mark = (f y).mark) : (t.modDie d f).marks = (s.modDie d f).marks := by
  have hq : t.qns = s.qns := congrArg Prod.snd h
  refine Prod.ext (Vector.ext fun i hi => ?_) hq
  have hi := State.mark_eq h ⟨i, hi⟩
  have hd := hf _ _ (State.mark_eq h d)
  simp only [State.marks, State.modDie, Vector.getElem_map, Vector.getElem_set]
  split
  · exact hd
  · exact hi

/-- Of the marks a loss sets that the die is lost, and the word of the loss in the other die's FLSTAT. -/
theorem State.loseDie_marks {s : State} {l : Fin 2} (h : (s.die l).lost = false) (m : LossMode) :
    (s.loseDie l m).marks = ((s.modDie l fun x => { x with lost := true }).modDie (otherDie l) fun x =>
      { x with flstat := bvSet (bvSet x.flstat 29 1 1) 30 1 1 }).marks := by
  unfold State.loseDie
  rw [if_neg (by simp [h])]
  extract_lets v tasks adopted s1 s2 s3 s4 s5 s6 s7 s8 s9 s10 s11 s12 s13 s14 s15 x s16 s17
  have h2 : s2.marks = s.marks := (State.ite_marks _ _ rfl rfl : s2.marks = s1.marks).trans (State.lostTokens_marks ..)
  have h4 : s4.marks = _ := State.modDie_marks_congr (State.modDie_marks_congr h2 l (fun x => { x with lost := true })
    (by intro x y e; injections; simp_all [Die.mark])) v (fun x => { x with flstat := bvSet (bvSet x.flstat 29 1 1) 30 1 1 })
    (by intro x y e; injections; simp_all [Die.mark])
  rw [← h4]
  have h6 : s6.marks = s4.marks := (State.foldl_marks _ (fun _ _ => State.trigger_marks ..) _ _).trans (State.logAll_marks ..)
  clear_value s6
  have h7 : s7.marks = s6.marks := State.foldl_marks _ (fun _ _ => State.loseContext_marks ..) _ _
  have h8 : s8.marks = s7.marks := by
    refine State.foldl_marks _ (fun s k => ?_) _ _
    cases m with
    | fatal => exact State.loseCore_marks ..
    | split => exact State.splitCore_marks ..
    | reset => exact State.loseStaged_marks ..
  have h9 : s9.marks = s8.marks := State.foldl_marks _ (fun _ _ => State.ite_marks _ _ (State.loseContext_marks ..) rfl) _ _
  have h10 : s10.marks = s9.marks := State.foldl_marks _ (fun _ _ => State.refuseStale_marks ..) _ _
  have h11 : s11.marks = s10.marks := State.foldl_marks _ (fun _ _ => State.loseSaved_marks ..) _ _
  clear_value s11
  have h12 : s12.marks = s11.marks := State.foldl_marks _ (fun _ _ => State.dropFar_marks ..) _ _
  clear_value s12
  have h13 : s13.marks = s11.marks := State.ite_marks _ _ rfl ((State.marks_of (s := s12) rfl rfl).trans h12)
  have h14 : s14.marks = s13.marks := State.marks_of rfl rfl
  clear_value s14
  have h15 : s15.marks = s14.marks := State.ite_marks _ _ (State.takeOver_marks ..) rfl
  clear_value s15
  have h16 : s16.marks = s15.marks :=
    congrArg (·, s15.qns) (State.set_marks s15 v rfl)
  clear_value s16
  have h17 : s17.marks = s16.marks := State.modDie_marks _ _ _ (by intro _; rfl)
  clear_value s17
  rw [State.foldl_marks _ (fun _ _ => State.reissue_marks ..), h17, h16, h15, h14, h13, h11, h10, h9, h8, h7, h6]

/-! ### The contexts after a loss -/

/-- The step of `State.loseContexts` at a core of the survivor. -/
def State.loseTouched (l : Fin 2) (m : LossMode) (s : State) (k : CoreId) : State :=
  if bvf (s.core k).touched l.val 1 = 1 then s.loseContext l k m else s

/-- The step of `State.loseContexts` at a core of the lost die, after its context. -/
def State.loseLines (l : Fin 2) (m : LossMode) (s : State) (k : CoreId) : State :=
  match m with
  | .fatal => s.loseCore (otherDie l) false k
  | .split => s.splitCore (otherDie l) k
  | .reset => s.loseStaged (otherDie l) k

section
variable (s : State) (l : Fin 2) {m : LossMode} (hm : m ≠ .split)

theorem State.loseContexts_eq (m : LossMode) : s.loseContexts l m =
    (coresOf (otherDie l)).foldl (State.loseTouched l m) ((coresOf l).foldl (State.loseLines l m)
      ((coresOf l).foldl (fun s k => s.loseContext l k m) s)) := rfl

theorem State.Still.loseTouched (m : LossMode) (k : CoreId) : State.Still (· ≠ k) (· ≠ k) s (State.loseTouched l m s k) :=
  .ite (.loseContext ..) .refl

theorem State.loseTouched_keeps_none (m : LossMode) (k : CoreId) {j : CoreId} (h : (s.core j).task = none) :
    ((State.loseTouched l m s k).core j).task = none := by
  unfold State.loseTouched
  split
  · exact State.loseContext_keeps_none h l k m
  · exact h

include hm

theorem State.Still.loseLines (k : CoreId) : State.Still (fun _ => True) (· ≠ k) s (State.loseLines l m s k) := by
  cases m with
  | fatal => exact .loseCore ..
  | split => exact absurd rfl hm
  | reset => exact .loseStaged ..

theorem State.Still.loseLines_die : State.Still (fun _ => True) (fun j => dieOf j ≠ l) s ((coresOf l).foldl (State.loseLines l m) s) :=
  .foldl _ (fun s k hk => (State.Still.loseLines s l hm k).mono (fun _ => id)
    fun _ hj e => hj (e ▸ (mem_coresOf l k).mp hk)) s

/-- No task stays at a core of the lost die. -/
theorem State.loseContexts_task {k : CoreId} (hk : dieOf k = l) : ((s.loseContexts l m).core k).task = none := by
  rw [State.loseContexts_eq]
  refine State.foldl_keeps (P := fun t => (t.core k).task = none) (fun s j h => State.loseTouched_keeps_none s l m j h) _ ?_
  rw [Core.ctx_task ((State.Still.loseLines_die _ l hm).ctx k trivial)]
  exact State.foldl_brings (I := fun _ => True) (P := fun t => (t.core k).task = none) (x := k)
    (fun s _ => State.loseContext_task s l k hm) (fun _ _ => id) (fun s j h => State.loseContext_keeps_none h l j m)
    ((mem_coresOf l k).mpr hk) trivial

/-- Before the survivor's turn the contexts of its cores are as they were. -/
theorem State.loseContexts_other {k : CoreId} (hk : dieOf k ≠ l) : (((coresOf l).foldl (State.loseLines l m)
    ((coresOf l).foldl (fun s k => s.loseContext l k m) s)).core k).ctx = (s.core k).ctx := by
  rw [(State.Still.loseLines_die _ l hm).ctx k trivial]
  refine (State.Still.foldl (C := (dieOf · ≠ l)) (B := (dieOf · ≠ l)) _ (fun s j hj => ?_) s).ctx k hk
  have h : ∀ i, dieOf i ≠ l → i ≠ j := fun i hi e => hi (e ▸ (mem_coresOf l j).mp hj)
  exact (State.Still.loseContext s l j m).mono h h

/-- No task stays at a core of the survivor whose context touched the lost die. -/
theorem State.loseContexts_touched {k : CoreId} (hk : dieOf k = otherDie l) (ht : bvf (s.core k).touched l.val 1 = 1) :
    ((s.loseContexts l m).core k).task = none := by
  rw [State.loseContexts_eq]
  have ho : dieOf k ≠ l := fun e => dieOf_ne_other l k e hk
  refine State.foldl_brings (x := k) (I := fun t => (t.core k).task = none ∨ bvf (t.core k).touched l.val 1 = 1)
    (P := fun t => (t.core k).task = none) (fun t h => ?_) (fun t j h => ?_)
    (fun t j h => State.loseTouched_keeps_none t l m j h) ((mem_coresOf _ k).mpr hk) (.inr ?_)
  · rcases h with h | h
    · exact State.loseTouched_keeps_none t l m k h
    · rw [State.loseTouched, if_pos h]
      exact State.loseContext_task t l k hm
  · rcases h with h | h
    · exact .inl (State.loseTouched_keeps_none t l m j h)
    · by_cases hj : k = j
      · subst hj
        rw [State.loseTouched, if_pos h]
        exact .inl (State.loseContext_task t l k hm)
      · rw [Core.ctx_touched ((State.Still.loseTouched t l m j).ctx k hj)]
        exact .inr h
  · rwa [Core.ctx_touched (State.loseContexts_other s l hm ho)]

/-- A context of the survivor that has not touched the lost die is left alone. -/
theorem State.loseContexts_untouched {k : CoreId} (hk : dieOf k = otherDie l) (ht : bvf (s.core k).touched l.val 1 = 0) :
    ((s.loseContexts l m).core k).ctx = (s.core k).ctx := by
  rw [State.loseContexts_eq]
  have ho : dieOf k ≠ l := fun e => dieOf_ne_other l k e hk
  refine State.foldl_keeps (P := fun t => (t.core k).ctx = (s.core k).ctx) (fun t j h => ?_) _
    (State.loseContexts_other s l hm ho)
  by_cases hj : k = j
  · subst hj
    rw [State.loseTouched, Core.ctx_touched h, ht, if_neg (by decide), h]
  · rw [(State.Still.loseTouched t l m j).ctx k hj, h]

end

/-- The fatal loss of a die leaves no line in the commit buffers of its cores. -/
theorem State.loseContexts_cb (s : State) {l : Fin 2} {k : CoreId} (hk : dieOf k = l) :
    ((s.loseContexts l .fatal).core k).cb = [] := by
  rw [State.loseContexts_eq, (State.Still.foldl (C := fun _ => False) (B := (dieOf · = l)) _ (fun s j hj => ?_) _).cb k hk]
  · refine State.foldl_brings (I := fun _ => True) (P := fun t => (t.core k).cb = []) (x := k)
      (fun s _ => State.loseCore_cb s _ false k) (fun _ _ => id) (fun s j h => ?_) ((mem_coresOf l k).mpr hk) trivial
    by_cases hj : k = j
    · subst hj
      exact State.loseCore_cb s _ false k
    · exact ((State.Still.loseCore s (otherDie l) false j).cb k hj).trans h
  · exact (State.Still.loseTouched s l .fatal j).mono (fun _ => False.elim)
      fun i hi e => dieOf_ne_other l i hi (e ▸ (mem_coresOf _ j).mp hj)

/-! ### The fence -/

section
variable (s : State) (d : Fin 2)

/-- The fence leaves the registers of the die at their reset values, the die lost until it is released. -/
theorem State.fence_mark : ((s.fence d).die d).mark = ({ Die.reset with lost := true, rstphase := 5 } : Die).mark := by
  unfold State.fence
  extract_lets v tasks s1 s2 x s3 s4
  rw [State.mark_eq (State.foldl_marks _ (fun _ _ => State.reissue_marks ..) _ s4)]
  have h3 : s3.die d = { Die.reset with lost := true, rstphase := 5 } := by simp [s3, State.die, x]
  clear_value s3
  have h4 : s4.marks = s3.marks := State.ite_marks _ _ (State.marks_of rfl rfl) rfl
  rw [State.mark_eq h4, h3]

theorem State.fence_core {k : CoreId} (hk : dieOf k = d) : (s.fence d).core k = Core.reset := by
  unfold State.fence
  extract_lets v tasks s1 s2 x s3 s4
  rw [State.core_of_cores (State.foldl_cores _ (fun _ _ => State.reissue_cores ..) _ s4)]
  have h4 : s4.cores = s3.cores := State.ite_cores _ _ rfl rfl
  rw [State.core_of_cores h4]
  simp [s3, State.core, hk]

theorem State.fence_rstphase : ((s.fence d).die d).rstphase = 5 := congrArg (fun m => m.2.2.2.1) (State.fence_mark s d)

theorem State.fence_lost : ((s.fence d).die d).lost = true := congrArg Prod.fst (State.fence_mark s d)

end

/-! ### The obligation -/

section
variable {s : State} {l : Fin 2} (h : (s.die l).lost = false) (m : LossMode)
include h

theorem State.loseDie_lost : ((s.loseDie l m).die l).lost = true := by
  have hm := State.mark_eq (State.loseDie_marks h m) l
  rw [State.die_modDie_other _ _ (otherDie_ne l), State.die_modDie_same] at hm
  exact congrArg Prod.fst hm

theorem State.loseDie_rstctl : ((s.loseDie l m).die l).rstctl = (s.die l).rstctl := by
  have hm := State.mark_eq (State.loseDie_marks h m) l
  rw [State.die_modDie_other _ _ (otherDie_ne l), State.die_modDie_same] at hm
  exact congrArg (fun m => m.2.2.1) hm

theorem State.loseDie_flstat : bvf ((s.loseDie l m).die (otherDie l)).flstat 30 1 = 1 := by
  have hm := congrArg (fun m => m.2.1) (State.mark_eq (State.loseDie_marks h m) (otherDie l))
  rw [State.die_modDie_same] at hm
  rw [show ((s.loseDie l m).die (otherDie l)).flstat = _ from hm]
  exact bvf_bvSet_same _ _ (by decide)

theorem State.loseDie_qtime : (s.loseDie l m).qtime = s.qtime :=
  (State.qtime_eq (State.loseDie_marks h m)).trans rfl

theorem State.loseDie_task {m : LossMode} (hm : m ≠ .split) {k : CoreId} (hk : dieOf k = l) :
    ((s.loseDie l m).core k).task = none := by
  obtain ⟨u, -, ht⟩ := State.loseDie_loseContexts h m
  rw [Core.ctx_task (ht.ctx k trivial), State.loseContexts_task u l hm hk]

end

/-- R363, R364: a die that is lost runs no context on, and takes with it the contexts of the survivor that touched it. -/
theorem State.loseDie_fatal {s : State} {d : Fin 2} (h : (s.die d).lost = false) :
    let t := s.loseDie d .fatal
    (t.die d).lost = true ∧ bvf (t.die (otherDie d)).flstat 30 1 = 1 ∧
      (∀ k, dieOf k = d → (t.core k).task = none ∧ (t.core k).cb = []) ∧
      (∀ k, dieOf k = otherDie d → bvf (s.core k).touched d.val 1 = 1 → (t.core k).task = none) ∧
      ∀ k, dieOf k = otherDie d → bvf (s.core k).touched d.val 1 = 0 →
        (t.core k).task = (s.core k).task ∧ ∀ q, (t.core k).sq q = (s.core k).sq q := by
  obtain ⟨u, hu, ht⟩ := State.loseDie_loseContexts h .fatal
  have hm : LossMode.fatal ≠ .split := by decide
  refine ⟨State.loseDie_lost h _, State.loseDie_flstat h _, fun k hk => ⟨State.loseDie_task h hm hk, ?_⟩,
    fun k hk ht1 => ?_, fun k hk ht0 => ?_⟩
  · rw [ht.cb k hk, State.loseContexts_cb u hk]
  · rw [← Core.ctx_touched (hu.ctx k trivial)] at ht1
    rw [Core.ctx_task (ht.ctx k trivial), State.loseContexts_touched u d hm hk ht1]
  · rw [← Core.ctx_touched (hu.ctx k trivial)] at ht0
    have hc := ((ht.ctx k trivial).trans (State.loseContexts_untouched u d hm hk ht0)).trans (hu.ctx k trivial)
    exact ⟨Core.ctx_task hc, Core.ctx_sq hc⟩

/-- R365: a reset takes the die and waits for its transactions until its deadline. -/
theorem State.resetGo_waits {s : State} {d : Fin 2} (hp : (s.die d).rstphase = 0) (h : (s.die d).lost = false) :
    let t := s.resetGo d false
    (t.die d).rstphase = 2 ∧ (t.die d).lost = true ∧
      (t.die d).rstQdl = s.qtime + 1000 * bvf (s.die d).rstctl 0 20 ∧ ∀ k, dieOf k = d → (t.core k).task = none := by
  have e : s.resetGo d false = (s.loseDie d .reset).modDie d fun x =>
      { x with rstphase := 2, rstQdl := (s.loseDie d .reset).qtime + 1000 * bvf x.rstctl 0 20 } := by
    simp [State.resetGo, hp]
  rw [e]
  dsimp only
  rw [State.die_modDie_same]
  refine ⟨rfl, State.loseDie_lost h _, ?_, fun k hk => State.loseDie_task h (by decide) hk⟩
  dsimp only
  rw [State.loseDie_qtime h, State.loseDie_rstctl h]

theorem State.resetGo_force {s : State} {d : Fin 2} (hp : (s.die d).rstphase = 0) : s.resetGo d true =
    ((s.loseDie d .reset).modDie d fun x =>
      { x with rstphase := 2, rstQdl := (s.loseDie d .reset).qtime + 1000 * bvf x.rstctl 0 20 }).fence d := by
  simp [State.resetGo, hp]

/-! ### The start of a verification -/

theorem Die.boot_phase (x : Die) (p e : Nat) : bvf (x.boot p e).bootstat 28 3 = p % 2 ^ 3 := by
  rw [Die.boot, bvf_bvSet_above _ _ (by decide) (by decide), bvf_bvSet_same _ _ (by decide)]

theorem Die.boot_err (x : Die) (p e : Nat) : bvf (x.boot p e).bootstat 24 4 = e % 2 ^ 4 := by
  rw [Die.boot, bvf_bvSet_same _ _ (by decide)]

section
variable (s : State) (d : Fin 2)

theorem State.bootVerify_die : (s.bootVerify d).die d =
    { ((s.die d).boot 2 0) with bootDue := some (s.rc + 1 + Config.freeDelay s.free) } := State.die_modDie_same ..

theorem State.bootVerify_phase : bvf ((s.bootVerify d).die d).bootstat 28 3 = 2 := by
  rw [State.bootVerify_die]
  dsimp only
  rw [Die.boot_phase]
  rfl

theorem State.bootVerify_bootwin : ((s.bootVerify d).die d).bootwin = (s.die d).bootwin := by
  rw [State.bootVerify_die]
  dsimp only
  rw [Die.boot_bootwin]

theorem State.bootVerify_other {e : Fin 2} (h : e ≠ d) : (s.bootVerify d).die e = s.die e := State.die_modDie_other _ _ h

end

/-- A die whose boot image `w` is set and given to the verification, R406. -/
theorem State.bootVerify_boots (s : State) (d : Fin 2) (w : Mem) :
    let t := (s.modDie d fun x => { x with bootwin := w }).bootVerify d
    (∃ n, (t.die d).bootDue = some n ∧ s.rc < n) ∧ bvf (t.die d).bootstat 28 3 = 2 ∧ (t.die d).bootwin = w ∧
      t.cores = s.cores := by
  refine ⟨⟨s.rc + 1 + Config.freeDelay s.free, ?_, ?_⟩, State.bootVerify_phase .., ?_, rfl⟩
  · rw [State.bootVerify_die]
    rfl
  · rw [Nat.add_right_comm]
    exact Nat.lt_succ_of_le (Nat.le_add_right ..)
  · rw [State.bootVerify_bootwin, State.die_modDie_same]

/-- R409: a release gives the die the other die's image to verify. -/
theorem exec_dieResetRelease {s : State} {d : Fin 2} (hp : (s.die d).rstphase = 5) (hb : bvf (s.die d).bootstat 28 3 ≠ 2) :
    exec (.dieResetRelease d) s =
      .next ((s.modDie d fun x => { x with bootwin := (s.die (otherDie d)).bootwin }).bootVerify d) :=
  if_neg (by simp [hp, hb])

theorem exec_dieResetQuiet {s : State} {d : Fin 2} (hp : (s.die d).rstphase = 2) (hb : s.feldsparBusy = false) :
    exec (.dieResetQuiet d) s = .next (((coresOf d).foldl State.finishLines s).fence d) := by
  change execDieResetQuiet d s = _
  rw [execDieResetQuiet, if_pos ⟨hp, hb⟩]

theorem exec_qdeadline {s : State} {d : Fin 2} (hp : (s.die d).rstphase = 2) (hq : (s.die d).rstQdl ≤ s.qtime) :
    exec (.qdeadline d) s = .next (s.fence d) := by
  change execQdeadline d s = _
  rw [execQdeadline, if_pos ⟨hp, hq⟩]

/-- Settles O47: the loss of a die keeps its frame function by function, and a reset ends in the fence. -/
theorem dieLossAndReset : Obligations.DieLossAndReset := by
  intro d s o
  refine ⟨fun h => ⟨_, rfl, State.loseDie_fatal h⟩, fun hp h => ⟨⟨_, rfl, State.resetGo_waits hp h⟩, ?_⟩, fun hp hb => ?_,
    fun hp hb => ?_, fun hp hq => ?_, fun hp hb => ?_⟩
  · exact ⟨_, congrArg Host.Outcome.next (State.resetGo_force hp), State.fence_rstphase _ d, State.fence_lost _ d, fun k => State.fence_core _ d⟩
  · exact ⟨_, exec_dieResetQuiet hp hb, State.fence_rstphase _ d, fun k => State.fence_core _ d⟩
  · exact congrArg _ (if_neg (by simp [hb]))
  · exact ⟨_, exec_qdeadline hp hq, State.fence_rstphase s d, fun k => State.fence_core s d⟩
  · obtain ⟨⟨n, hdue, hlt⟩, hrest⟩ := State.bootVerify_boots s d (s.die (otherDie d)).bootwin
    exact ⟨_, n, exec_dieResetRelease hp hb, hdue, hlt, hrest⟩

end Sys2Proof.Machine
end

section
/-! SUPPORT. Power-on reset, boot, and accesses from outside the cores (O52). -/

namespace Sys2Proof.Machine

/-! ### The image of die 0 goes to every die (R406) -/

/-- The turn of die `e` in `execBootGo`, with die 0's image `w`. -/
def State.bootStart (w : Mem) (s : State) (e : Fin 2) : State :=
  if bvf (s.die e).bootstat 28 3 = 1 ∧ (s.die e).rstphase = 0 then (s.modDie e fun x => { x with bootwin := w }).bootVerify e
  else s

theorem exec_bootGo (s : State) :
    exec .bootGo s = .next (State.bootStart (s.die 0).bootwin (State.bootStart (s.die 0).bootwin s 0) 1) := rfl

section
variable (w : Mem) (s : State)

theorem State.bootStart_other {d e : Fin 2} (h : d ≠ e) : (State.bootStart w s e).die d = s.die d := by
  unfold State.bootStart
  split
  · rw [State.bootVerify_other _ _ h, State.die_modDie_other _ _ h]
  · rfl

@[simp] theorem State.bootStart_cores (e : Fin 2) : (State.bootStart w s e).cores = s.cores := by
  unfold State.bootStart; split <;> rfl

@[simp] theorem State.bootStart_rc (e : Fin 2) : (State.bootStart w s e).rc = s.rc := by
  unfold State.bootStart; split <;> rfl

theorem State.bootStart_same {d : Fin 2} (hb : bvf (s.die d).bootstat 28 3 = 1) (hr : (s.die d).rstphase = 0) :
    State.bootStart w s d = (s.modDie d fun x => { x with bootwin := w }).bootVerify d := if_pos ⟨hb, hr⟩

end

theorem exec_bootGo_boots {d : Fin 2} {s : State} (hb : bvf (s.die d).bootstat 28 3 = 1) (hr : (s.die d).rstphase = 0) :
    ∃ (t : State) (e : Nat), exec .bootGo s = .next t ∧ (t.die d).bootDue = some e ∧ s.rc < e ∧
      bvf (t.die d).bootstat 28 3 = 2 ∧ (t.die d).bootwin = (s.die 0).bootwin ∧ t.cores = s.cores := by
  rw [exec_bootGo]
  generalize (s.die 0).bootwin = w
  match d, hb, hr with
  | 0, hb, hr =>
    obtain ⟨⟨n, hdue, hlt⟩, hph, hwin, -⟩ := State.bootVerify_boots s 0 w
    have h0 : (State.bootStart w (State.bootStart w s 0) 1).die 0 = ((s.modDie 0 fun x => { x with bootwin := w }).bootVerify 0).die 0 := by
      rw [State.bootStart_other _ _ (by decide), State.bootStart_same w s hb hr]
    rw [← h0] at hdue hph hwin
    exact ⟨_, n, rfl, hdue, hlt, hph, hwin, by rw [State.bootStart_cores, State.bootStart_cores]⟩
  | 1, hb, hr =>
    have h1 : (State.bootStart w s 0).die 1 = s.die 1 := State.bootStart_other _ _ (by decide)
    rw [← h1] at hb hr
    obtain ⟨⟨n, hdue, hlt⟩, hph, hwin, -⟩ := State.bootVerify_boots (State.bootStart w s 0) 1 w
    rw [State.bootStart_rc] at hlt
    rw [← State.bootStart_same w _ hb hr] at hdue hph hwin
    exact ⟨_, n, rfl, hdue, hlt, hph, hwin, by rw [State.bootStart_cores, State.bootStart_cores]⟩

/-! ### The end of a verification, and its deadline (R406 to R408) -/

theorem bootErr_lt (d : Fin 2) (w : Mem) : bootErr d w < 16 := by
  unfold bootErr
  extract_lets
  split
  · decide
  · split
    · decide
    · split
      · decide
      · split
        · decide
        · split <;> decide

theorem eq_of_ne_otherDie : ∀ l e : Fin 2, e ≠ otherDie l → e = l := by decide

theorem State.loseDie_bootstat (s : State) (l : Fin 2) (m : LossMode) (e : Fin 2) :
    ((s.loseDie l m).die e).bootstat = (s.die e).bootstat := by
  cases h : (s.die l).lost with
  | true => rw [State.loseDie, if_pos h]
  | false =>
    have hm := congrArg (fun m => m.2.2.2.2) (State.mark_eq (State.loseDie_marks h m) e)
    refine Eq.trans hm ?_
    by_cases he : e = otherDie l
    · subst he
      rw [State.die_modDie_same, State.die_modDie_other _ _ (otherDie_ne l).symm]
      rfl
    · obtain rfl := eq_of_ne_otherDie l e he
      rw [State.die_modDie_other _ _ he, State.die_modDie_same]
      rfl

/-- A failed boot leaves its error in BOOTSTAT, whether or not the failure loses the die. -/
theorem State.bootFail_bootstat (s : State) (d : Fin 2) (err : Nat) :
    ((s.bootFail d err).die d).bootstat = ((s.die d).boot 4 err).bootstat := by
  unfold State.bootFail
  extract_lets u
  have hu : (u.die d).bootstat = ((s.die d).boot 4 err).bootstat := by rw [State.die_modDie_same]
  split
  · rw [State.loseDie_bootstat, hu]
  · exact hu

theorem State.bootFail_fails (s : State) (d : Fin 2) {err : Nat} (h : err < 16) :
    bvf ((s.bootFail d err).die d).bootstat 28 3 = 4 ∧ bvf ((s.bootFail d err).die d).bootstat 24 4 = err := by
  rw [State.bootFail_bootstat, Die.boot_phase, Die.boot_err]
  exact ⟨rfl, Nat.mod_eq_of_lt h⟩

theorem State.bootFail_bootDue {s : State} {d : Fin 2} (h : bvf (s.die (otherDie d)).bootstat 28 3 < 3) (err : Nat) :
    ((s.bootFail d err).die d).bootDue = none := by
  unfold State.bootFail
  extract_lets u
  have ho : u.die (otherDie d) = s.die (otherDie d) := State.die_modDie_other _ _ (otherDie_ne d).symm
  rw [ho, if_neg (by omega), State.die_modDie_same]

/-- A die whose image passes runs it. -/
theorem State.bootRun_runs {s : State} {d : Fin 2} (h : bvf (s.die (otherDie d)).bootstat 28 3 < 3) :
    ((s.bootRun d).die d).bootDue = none ∧ bvf ((s.bootRun d).die d).bootstat 28 3 = 3 ∧
      bvf ((s.bootRun d).die d).bootstat 24 4 = 0 ∧ ((s.bootRun d).die d).lost = false := by
  unfold State.bootRun
  extract_lets o back u v
  have hd : v.die d = u.die d := by
    unfold v
    split
    · exact State.die_modDie_other _ _ (otherDie_ne d)
    · rfl
  have ho : (v.die o).bootstat = (s.die o).bootstat := by
    have hu : u.die o = s.die o := State.die_modDie_other _ _ (otherDie_ne d).symm
    unfold v
    split
    · rw [State.die_modDie_same, hu]
    · rw [hu]
  have h4 : bvf (s.die o).bootstat 28 3 < 3 := h
  rw [ho, if_neg (by omega), hd, State.die_modDie_same]
  dsimp only
  refine ⟨rfl, ?_, ?_, rfl⟩
  · rw [bvf_bvSet_above _ _ (by decide) (by decide), bvf_bvSet_above _ _ (by decide) (by decide), bvf_bvSet_same _ _ (by decide)]
    rfl
  · rw [bvf_bvSet_above _ _ (by decide) (by decide), bvf_bvSet_same _ _ (by decide)]
    rfl

section
variable {d : Fin 2} {s : State}

theorem exec_bootVerifyComplete {e : Nat} (he : (s.die d).bootDue = some e) (hle : e ≤ s.rc)
    (hb : bvf (s.die d).bootstat 28 3 = 2) : exec (.bootVerifyComplete d) s =
      .next (if bootErr d (s.die d).bootwin = 0 then s.bootRun d else s.bootFail d (bootErr d (s.die d).bootwin)) := by
  change execBootVerifyComplete d s = _
  unfold execBootVerifyComplete
  rw [he]
  dsimp only
  rw [if_neg (by omega)]
  split
  · next h0 => rw [if_pos h0]
  · next h0 => rw [if_neg h0]

theorem exec_bootVerifyComplete_ends {e : Nat} (he : (s.die d).bootDue = some e) (hle : e ≤ s.rc)
    (hb : bvf (s.die d).bootstat 28 3 = 2) (ho : bvf (s.die (otherDie d)).bootstat 28 3 < 3) :
    ∃ t : State, exec (.bootVerifyComplete d) s = .next t ∧ (t.die d).bootDue = none ∧
      (bootErr d (s.die d).bootwin = 0 →
        bvf (t.die d).bootstat 28 3 = 3 ∧ bvf (t.die d).bootstat 24 4 = 0 ∧ (t.die d).lost = false) ∧
      (bootErr d (s.die d).bootwin ≠ 0 →
        bvf (t.die d).bootstat 28 3 = 4 ∧ bvf (t.die d).bootstat 24 4 = bootErr d (s.die d).bootwin) := by
  refine ⟨_, exec_bootVerifyComplete he hle hb, ?_⟩
  by_cases h0 : bootErr d (s.die d).bootwin = 0
  · rw [if_pos h0]
    obtain ⟨hdue, hruns⟩ := State.bootRun_runs ho
    exact ⟨hdue, fun _ => hruns, fun h => absurd h0 h⟩
  · rw [if_neg h0]
    exact ⟨State.bootFail_bootDue ho _, fun h => absurd h h0, fun _ => State.bootFail_fails s d (bootErr_lt d _)⟩

theorem exec_bootTimeout (hb : bvf (s.die d).bootstat 28 3 = 1) (hr : (s.die d).rstphase = 0) (hq : 10000000000 ≤ s.qtime) :
    exec (.bootTimeout d) s = .next (s.bootFail d 6) :=
  congrArg Host.Outcome.next (if_pos ⟨hb, hr, hq⟩)

theorem exec_bootTimeout_early (hq : s.qtime < 10000000000) : exec (.bootTimeout d) s = .next s :=
  congrArg Host.Outcome.next (if_neg (by omega))

end

/-! ### Bytes written from outside the cores -/

theorem leBytes_length (n x : Nat) : (leBytes n x).length = n := by
  induction n generalizing x with
  | zero => rfl
  | succ n ih => rw [leBytes, List.length_cons, ih]

theorem leBytes_getElem (n x i : Nat) (h : i < (leBytes n x).length) : (leBytes n x)[i] = BitVec.ofNat 8 (x / 256 ^ i) := by
  induction n generalizing x i with
  | zero => simp [leBytes] at h
  | succ n ih =>
    cases i with
    | zero => simp [leBytes, BitVec.toNat_eq]
    | succ i =>
      simp only [leBytes, List.getElem_cons_succ]
      rw [ih, Nat.div_div_eq_div_mul, Nat.pow_succ']

/-- A write of bytes, as reads see it. -/
theorem Mem.read_writeN {m : Mem} (x y : Nat) (bs : List (BitVec 8)) (h : m.wf = true) :
    (m.writeN x bs).read y = if hy : x ≤ y ∧ y < x + bs.length then bs[y - x] else m.read y := by
  split
  · next hy =>
    have hi : y - x < bs.length := by omega
    rw [← Mem.read_writeN_in x (y - x) bs h hi, show x + (y - x) = y by omega]
  · exact Mem.read_writeN_out x y bs h (by omega)

theorem Mem.readN_length (m : Mem) (a n : Nat) : (m.readN a n).length = n := by
  induction n generalizing a with
  | zero => rfl
  | succ n ih => rw [Mem.readN, List.length_cons, ih]

@[simp] theorem State.setGran_mem (s : State) (g : Gran) (x : GranSt) : (s.setGran g x).mem = s.mem := by
  unfold State.setGran; split <;> rfl

/-- A fold of steps that leave the device memory leaves it. -/
theorem State.foldl_mem {α : Type} (f : State → α → State) (hf : ∀ s x, (f s x).mem = s.mem) (l : List α) (s : State) :
    (l.foldl f s).mem = s.mem := by
  induction l generalizing s with
  | nil => rfl
  | cons x l ih => rw [List.foldl_cons, ih, hf]

theorem State.acceptWrite_mem (s : State) (ring : Bool) (pa : Nat) (bs : List (BitVec 8)) :
    (s.acceptWrite ring pa bs).mem = s.mem.writeN pa bs := by
  unfold State.acceptWrite
  dsimp only
  split
  · exact State.foldl_mem _ (fun s i => State.setGran_mem s _ _) _ _
  · rfl

/-- A write that no claim holds up changes the device memory alone of what is read here. -/
theorem State.untimedWrite_mem {s : State} {pa : Nat} {bs : List (BitVec 8)} (h : s.writeHeld pa bs.length = false) :
    (s.untimedWrite pa bs).mem = s.mem.writeN pa bs := by
  unfold State.untimedWrite State.writeAs
  split
  · next he => rw [List.isEmpty_iff.mp he]; rfl
  · rw [h, if_neg (by decide), State.acceptWrite_mem]

section
variable (data : BitVec 512) {n : Nat} (hn : n ≤ 64)
include hn

theorem vBytes_take_length : ((vBytes data).take n).length = n := by
  rw [List.length_take, vBytes, leBytes_length]
  exact min_eq_left hn

omit hn in
theorem vBytes_take_getElem {i : Nat} (h : i < ((vBytes data).take n).length) :
    ((vBytes data).take n)[i] = BitVec.ofNat 8 (data.toNat / 256 ^ i) := by
  rw [List.getElem_take]
  exact leBytes_getElem ..

/-- An access from outside the cores writes the bytes it names and no others (R397). -/
theorem State.untimedWrite_vBytes {s : State} (hs : MemOk s) {pa : Nat} (h : s.writeHeld pa n = false) (a : Nat) :
    (s.untimedWrite pa ((vBytes data).take n)).mem.read a =
      if pa ≤ a ∧ a < pa + n then BitVec.ofNat 8 (data.toNat / 256 ^ (a - pa)) else s.mem.read a := by
  have hl := vBytes_take_length data hn
  rw [State.untimedWrite_mem (by rwa [hl]), Mem.read_writeN pa a _ hs.device]
  simp only [hl]
  split
  · exact vBytes_take_getElem data _
  · rfl

end

/-- The bytes of one line are one part. -/
theorem lineParts_one {pa : Nat} {bs : List (BitVec 8)} (h0 : 0 < bs.length) (h : pa % 64 + bs.length ≤ 64) :
    lineParts pa bs = [(pa, bs)] := by
  have hr : (pa + bs.length - 1) / 64 + 1 - pa / 64 = 1 := by omega
  have hlo : max pa (pa / 64 * 64) = pa := by omega
  simp [lineParts, hr, hlo, List.take_of_length_le (show bs.length ≤ (pa / 64 + 1) * 64 - pa by omega)]

/-- While a claim holds its line, a write waits there (log 44). -/
theorem State.untimedWrite_held {s : State} {pa : Nat} {bs : List (BitVec 8)} (h0 : 0 < bs.length) (h : pa % 64 + bs.length ≤ 64)
    (hw : s.writeHeld pa bs.length = true) : s.untimedWrite pa bs = { s with heldw := s.heldw ++ [(pa, bs, false)] } := by
  have he : bs.isEmpty = false := by
    rw [List.isEmpty_eq_false_iff]
    exact List.ne_nil_of_length_pos h0
  simp [State.untimedWrite, State.writeAs, lineParts_one h0 h, hw, he]

/-! ### BAR2 over one range -/

theorem bar2Runs_one {lo hi off n : Nat} (h : off + n ≤ hi + 1 - lo) (h0 : 0 < n) :
    bar2Runs off n [(lo, hi)] 0 = [(lo + off, 0, n)] := by
  have hmin : min (off + n) (0 + (hi + 1 - lo)) = off + n := by omega
  simp only [bar2Runs, Nat.max_zero, hmin]
  rw [if_pos (by omega)]
  simp

theorem placeBytes_all {bs new : List (BitVec 8)} (h : new.length = bs.length) : placeBytes bs 0 new = new := by
  simp [placeBytes, h]

section
variable {d : Fin 2} {p : PartId} {off : BitVec 36} {n : Fin 65} {s : State} {lo hi : Nat}
  (hr : s.allotRanges d p = [(lo, hi)]) (h : off.toNat + n.val ≤ hi + 1 - lo) (h36 : off.toNat + n.val ≤ 2 ^ 36)
  (h0 : 0 < n.val)
include hr h h36 h0

theorem bar2Runs_allot : bar2Runs off.toNat (min n.val (2 ^ 36 - off.toNat)) (s.allotRanges d p) 0 =
    [(lo + off.toNat, 0, n.val)] := by
  rw [hr, min_eq_left (by omega), bar2Runs_one h h0]

theorem exec_hostBar2Access_write (data : BitVec 512) : exec (.hostBar2Access d p off true n data) s =
    .next (s.untimedWrite (lo + off.toNat) ((vBytes data).take n.val)) := by
  change execHostBar2Access d p off true n data s = _
  unfold execHostBar2Access
  rw [bar2Runs_allot hr h h36 h0]
  rfl

theorem exec_hostBar2Access_read (data : BitVec 512) : exec (.hostBar2Access d p off false n data) s =
    .next { s with bar2 := s.mem.readN (lo + off.toNat) n.val } := by
  change execHostBar2Access d p off false n data s = _
  unfold execHostBar2Access
  rw [bar2Runs_allot hr h h36 h0]
  dsimp only [List.foldl]
  rw [placeBytes_all (by rw [Mem.readN_length, List.length_replicate])]
  rfl

end

/-- Settles O52: each action by its outcome; a boot that fails keeps its error through the loss of the die. -/
theorem bootAndAccesses : Obligations.BootAndAccesses := by
  intro d p off pa n data s x o
  have hn : n.val ≤ 64 := by omega
  have hl : ((vBytes data).take n.val).length = n.val := vBytes_take_length data hn
  refine ⟨rfl, exec_bootGo_boots, fun e => exec_bootVerifyComplete_ends, fun hb hr hq => ?_, fun _ => exec_bootTimeout_early,
    fun hs lo hi hr h h36 h0 => ⟨fun hw => ?_, exec_hostBar2Access_read hr h h36 h0 data⟩,
    fun hs => ⟨fun hw => ?_, fun hw h0 h => ?_, rfl⟩⟩
  · exact ⟨_, exec_bootTimeout hb hr hq, State.bootFail_fails s d (by decide)⟩
  · exact ⟨_, exec_hostBar2Access_write hr h h36 h0 data, State.untimedWrite_cores .., State.untimedWrite_vBytes data hn hs hw⟩
  · exact ⟨_, rfl, State.untimedWrite_cores .., State.untimedWrite_vBytes data hn hs hw⟩
  · rw [← hl] at hw h0 h
    exact congrArg Host.Outcome.next (State.untimedWrite_held h0 h hw)

end Sys2Proof.Machine
end

section
/-! SUPPORT. What a rollback and a trap leave of every core, and what the causes of an rc come to (O33, O31). -/

namespace Sys2Proof.Machine

-- Proofs elaborated at once ask for more threads than the memory limit has stacks for.
set_option Elab.async false

/-! ### A rollback and a trap -/

/-- The stage predicates of a loop change the predicates alone. -/
theorem SeqSt.stage_eq (q : SeqSt) : ∃ p, q.stage = { q with p := p } := by
  unfold SeqSt.stage
  split
  · exact ⟨q.p, rfl⟩
  · exact ⟨_, rfl⟩

/-- A sequencer after a rollback (R32). -/
theorem Core.rollback_sq (c : Core) (k : CoreId) (q : Fin 4) : ∃ p, (c.rollback k).sq q = { c.sq q with
    pc := c.cut.pcs[q], h := c.cut.loops[q], live := c.cut.lives[q], p := p, b := Vector.replicate 4 0, arrival := none
    pend := [], stall := none, pay := 0, fresh := q == 0 && c.cut.gen != 0 } := by
  obtain ⟨p, hp⟩ := SeqSt.stage_eq { c.sq q with
    pc := c.cut.pcs[q], h := c.cut.loops[q], live := c.cut.lives[q], b := Vector.replicate 4 0, arrival := none
    pend := [], stall := none, pay := 0, fresh := false }
  refine ⟨p, ?_⟩
  have hq : (c.rollback k).sq q = { (c.sq q).rollback c.cut.pcs[q] c.cut.loops[q] c.cut.lives[q] with
      fresh := q == 0 && c.cut.gen != 0 } := Vector.getElem_ofFn _
  rw [hq, SeqSt.rollback, hp]

/-- A core as it was, but that waits are gone from its banks. -/
def Core.LessWaits (c d : Core) : Prop :=
  d = { c with banks := d.banks } ∧
    ∀ b, ∃ w, d.bank b = { c.bank b with waiters := w } ∧ ∀ z ∈ w, z ∈ (c.bank b).waiters

theorem Core.LessWaits.refl (c : Core) : c.LessWaits c := ⟨rfl, fun b => ⟨(c.bank b).waiters, rfl, fun _ hz => hz⟩⟩

/-- A bank after waits are withdrawn from every bank. -/
theorem alGet_filterWaiters (l : List (Nat × BankSt)) (p : Waiter → Bool) (b : Nat) :
    alGet (l.map fun e => (e.1, { e.2 with waiters := e.2.waiters.filter p })) b BankSt.reset =
      { alGet l b BankSt.reset with waiters := (alGet l b BankSt.reset).waiters.filter p } := by
  rw [alGet_map fun x : BankSt => { x with waiters := x.waiters.filter p }]
  split
  · rfl
  · rename_i h
    rw [alGet_none _ _ _ (Bool.eq_false_iff.mpr h)]
    rfl

theorem State.dropWaits_lessWaits (s : State) (hit : Waiter → Bool) (j : CoreId) :
    (s.core j).LessWaits ((s.dropWaits hit).core j) := by
  unfold State.dropWaits
  split
  · have hj : ({ s with cores := s.cores.map fun c => { c with
        banks := c.banks.map fun b => (b.1, { b.2 with waiters := b.2.waiters.filter fun w => !hit w }) } } : State).core j =
        { s.core j with
          banks := (s.core j).banks.map fun b => (b.1, { b.2 with waiters := b.2.waiters.filter fun w => !hit w }) } := by
      simp only [State.core, Fin.getElem_fin, Vector.getElem_map]
    rw [hj]
    exact ⟨rfl, fun b => ⟨_, alGet_filterWaiters .., fun _ hz => List.mem_of_mem_filter hz⟩⟩
  · exact .refl _

theorem State.refetch_other (s : State) {k j : CoreId} (h : j ≠ k) : (s.refetch k).core j = s.core j := by
  unfold State.refetch
  split
  · split
    · split
      · exact modCore_core_other _ _ h
      · rfl
    · rfl
  · rfl

/-- A rollback of a core takes its waits from the banks of the others. -/
theorem State.rollback_other (s : State) {k j : CoreId} (keep : Bool) (h : j ≠ k) :
    (s.core j).LessWaits ((s.rollback k keep).core j) := by
  unfold State.rollback
  extract_lets c busy c1 c2 u v
  have hu : ∀ i, u.core i = s.core i := fun i => by
    simp only [u]
    split <;> rfl
  have hc : ((u.setCore k c2).dropClaims k).core j = s.core j := (State.core_setCore_other u c2 h).trans (hu j)
  have hv : v.core j = (((u.setCore k c2).dropClaims k).dropWaits (c.ends k)).core j := State.refetch_other _ h
  have hr : (if keep = true then v else v.dropPin k).core j = v.core j := by split <;> rfl
  rw [hr, hv, ← hc]
  exact State.dropWaits_lessWaits ..

section
variable {s : State} {k : CoreId} {r : Rep} {y : TaskSt}

/-- A core that takes a trap: rolled back, Held, with its report. -/
theorem State.takeTrap_core_eq (h : (s.core k).task = some y) (hr : (s.core k).rolled = false) : ∃ b m a p,
    (s.takeTrap k r).core k = { (s.core k).rollback k with
      banks := b, mid := m, acc := a, pinned := p
      task := some { y with phase := .held, cause := BitVec.ofNat 8 r.cause }
      report := some ((s.core k).record k r), trapped := [(s.core k).record k r] } := by
  obtain ⟨b, m, a, hb⟩ := State.rollback_core s k true
  refine ⟨b, m, a, ((s.core k).rollback k).pinned && true, ?_⟩
  simp only [State.takeTrap, h, hr, Bool.false_eq_true, if_false, modCore_core_same, hb]

theorem State.takeTrap_of_rolled (h : (s.core k).rolled = true) : s.takeTrap k r = s := by
  unfold State.takeTrap
  dsimp only
  split
  · rfl
  · exact if_pos h

theorem State.takeTrap_other {j : CoreId} (hj : j ≠ k) : (s.core j).LessWaits ((s.takeTrap k r).core j) := by
  unfold State.takeTrap
  dsimp only
  split
  · exact .refl _
  · split
    · exact .refl _
    · rw [modCore_core_other _ _ hj]
      exact State.rollback_other s true hj

end

/-- Settles O33: the core by `State.takeTrap_core_eq`, the others by `State.takeTrap_other`. -/
theorem takingATrap : Obligations.TakingATrap := by
  intro k s r y c ht
  refine ⟨State.takeTrap_of_rolled, fun hr => ?_⟩
  obtain ⟨b, m, a, p, hu⟩ := State.takeTrap_core_eq (r := r) ht hr
  intro u
  have hsq (q : Fin 4) : u.sq q = (c.rollback k).sq q := (congrArg (fun x : Core => x.sq q) hu).trans rfl
  have hu : u = _ := hu
  clear_value u
  subst hu
  refine ⟨rfl, rfl, rfl, rfl, rfl, rfl, rfl, rfl, rfl, fun x => ?_, rfl, rfl, rfl, rfl, rfl, rfl, fun x => Vector.getElem_ofFn _,
    fun q => ?_, fun _ => rfl, fun j hj => State.takeTrap_other hj⟩
  · exact congrArg QueueSt.ents (Vector.getElem_replicate _)
  · obtain ⟨p, hp⟩ := Core.rollback_sq c k q
    rw [hsq, hp]
    exact ⟨rfl, rfl, rfl, rfl, rfl, rfl, rfl⟩

end Sys2Proof.Machine
end

section
/-! SUPPORT. What records, counts, loads and rollbacks leave of the package: its time, its teams and its saved contexts. -/

namespace Sys2Proof.Machine

-- Proofs elaborated at once ask for more threads than the memory limit has stacks for.
set_option Elab.async false

/-- The rc, the group table and the saved contexts. -/
def State.scene (s : State) := (s.rc, s.teams, s.saved)

theorem State.rc_eq {s t : State} (h : t.scene = s.scene) : t.rc = s.rc := congrArg Prod.fst h

theorem State.teams_eq {s t : State} (h : t.scene = s.scene) : t.teams = s.teams := congrArg (fun x => x.2.1) h

theorem State.saved_eq {s t : State} (h : t.scene = s.scene) : t.saved = s.saved := congrArg (fun x => x.2.2) h

theorem State.foldl_scene {α : Type} (f : State → α → State) (hf : ∀ s x, (f s x).scene = s.scene) (l : List α) (s : State) :
    (l.foldl f s).scene = s.scene := by
  induction l generalizing s with
  | nil => rfl
  | cons x l ih => rw [List.foldl_cons, ih, hf]

theorem State.ite_scene (c : Prop) (i : Decidable c) {a b s : State} (ha : a.scene = s.scene) (hb : b.scene = s.scene) :
    (@ite State c i a b).scene = s.scene := by
  split <;> assumption

@[simp] theorem State.setCore_scene (s : State) (k : CoreId) (c : Core) : (s.setCore k c).scene = s.scene := rfl

@[simp] theorem State.modDie_scene (s : State) (d : Fin 2) (f : Die → Die) : (s.modDie d f).scene = s.scene := rfl

@[simp] theorem State.dropClaims_scene (s : State) (k : CoreId) : (s.dropClaims k).scene = s.scene := rfl

@[simp] theorem State.dropPin_scene (s : State) (k : CoreId) : (s.dropPin k).scene = s.scene := rfl

/-! ### Writes and records -/

theorem State.setGran_scene (s : State) (g : Gran) (x : GranSt) : (s.setGran g x).scene = s.scene :=
  State.ite_scene _ _ rfl rfl

theorem State.acceptWrite_scene (s : State) (ring : Bool) (pa : Nat) (bs : List (BitVec 8)) :
    (s.acceptWrite ring pa bs).scene = s.scene :=
  State.ite_scene _ _ (State.foldl_scene _ (fun _ _ => State.setGran_scene ..) _ _) rfl

theorem State.ringWrite_scene (s : State) (pa : Nat) (bs : List (BitVec 8)) : (s.ringWrite pa bs).scene = s.scene := by
  refine State.ite_scene _ _ rfl (State.ite_scene _ _ (State.foldl_scene _ (fun _ _ => ?_) _ _) (State.acceptWrite_scene ..))
  exact State.ite_scene _ _ rfl (State.acceptWrite_scene ..)

theorem State.tansy_scene (s : State) (d : Fin 2) (p : PartId) (type core unit : Nat) (gang : BitVec 16) (task gen : Nat)
    (body : List (BitVec 8)) : (s.tansy d p type core unit gang task gen body).scene = s.scene := by
  unfold State.tansy
  dsimp only
  refine State.ite_scene _ _ rfl (State.ite_scene _ _ rfl ?_)
  exact (State.modDie_scene ..).trans (State.ringWrite_scene ..)

theorem State.contextEvent_scene (s : State) (k : CoreId) (key : TaskKey) (gen : BitVec 32) (event code : Nat) :
    (s.contextEvent k key gen event code).scene = s.scene := State.tansy_scene ..

theorem State.elog_scene (s : State) (d : Fin 2) (p : PartId) (r : List (BitVec 8)) : (s.elog d p r).scene = s.scene :=
  (State.tansy_scene ..).trans ((State.modDie_scene ..).trans (State.ite_scene _ _ (State.ringWrite_scene ..) rfl))

theorem State.commitTrace_scene (s : State) (k : CoreId) (tag : BitVec 8) (p halt : Bool) (ts : Nat) (pcs : Vector (BitVec 48) 4) :
    (s.commitTrace k tag p halt ts pcs).scene = s.scene := by
  unfold State.commitTrace
  split
  · rfl
  · refine (State.foldl_scene _ (fun s r => ?_) _ _).trans (State.tansy_scene ..)
    split
    · exact State.ite_scene _ _ (State.tansy_scene ..) rfl
    · rfl

/-! ### Rollbacks -/

theorem State.refetch_scene (s : State) (k : CoreId) : (s.refetch k).scene = s.scene := by
  unfold State.refetch
  split
  · split
    · split <;> rfl
    · rfl
  · rfl

theorem State.dropWaits_scene (s : State) (hit : Waiter → Bool) : (s.dropWaits hit).scene = s.scene :=
  State.ite_scene _ _ rfl rfl

theorem State.rollback_scene (s : State) (k : CoreId) (keep : Bool) : (s.rollback k keep).scene = s.scene := by
  unfold State.rollback
  extract_lets c busy c1 c2 u v
  have hu : u.scene = s.scene := State.ite_scene _ _ rfl rfl
  have hv : v.scene = s.scene := (State.refetch_scene ..).trans ((State.dropWaits_scene ..).trans
    ((State.dropClaims_scene ..).trans ((State.setCore_scene ..).trans hu)))
  exact State.ite_scene _ _ hv ((State.dropPin_scene ..).trans hv)

/-! ### The requests of a load -/

theorem State.migCount_scene (s : State) (k : CoreId) (p : PartId) (pa : Nat) (nomig : Bool) :
    (s.migCount k p pa nomig).scene = s.scene := by
  unfold State.migCount
  extract_lets s1
  have h1 : s1.scene = s.scene := State.ite_scene _ _ rfl rfl
  exact State.ite_scene _ _ h1 h1

theorem State.walkCount_scene (s : State) (k : CoreId) (p : PartId) (va : Nat) : (s.walkCount k p va).scene = s.scene :=
  State.foldl_scene _ (fun _ _ => State.migCount_scene ..) _ _

theorem State.vcount_scene (s : State) (k : CoreId) (p : PartId) (kind : AccKind) (fuel va n : Nat) :
    (s.vcount k p kind fuel va n).scene = s.scene := by
  induction fuel generalizing s va n with
  | zero => rfl
  | succ fuel ih =>
    unfold State.vcount
    refine State.ite_scene _ _ rfl ((ih ..).trans ?_)
    split
    · exact (State.foldl_scene _ (fun _ _ => State.migCount_scene ..) _ _).trans (State.walkCount_scene ..)
    · exact State.walkCount_scene ..

theorem State.loadCount_scene (s : State) (k : CoreId) (b : Bind) : (s.loadCount k b).scene = s.scene :=
  State.foldl_scene _ (fun _ _ => State.vcount_scene ..) _ _

/-! ### The world switch and the routes -/

theorem State.cntRequests_scene (s : State) (k : CoreId) (p : PartId) (a : Nat) (of_ : Fin 8 → Bool) :
    (s.cntRequests k p a of_).scene = s.scene :=
  State.ite_scene _ _ ((State.migCount_scene ..).trans (State.ite_scene _ _ (State.migCount_scene ..) rfl))
    (State.ite_scene _ _ (State.migCount_scene ..) rfl)

theorem State.worldSwitch_scene (s : State) (k : CoreId) (q : PartId) : (s.worldSwitch k q).scene = s.scene := by
  unfold State.worldSwitch
  extract_lets c s1 blk s2 read
  have h1 : s1.scene = s.scene := by
    simp only [s1]
    split
    · rfl
    · split
      · rfl
      · exact (State.foldl_scene _ (fun _ _ => State.ite_scene _ _ (State.ringWrite_scene ..) rfl) _ _).trans
          (State.cntRequests_scene ..)
  have h2 : s2.scene = s1.scene := by
    simp only [s2]
    generalize blk = o
    cases o with
    | none => rfl
    | some a => exact State.cntRequests_scene ..
  exact State.ite_scene _ _ rfl (h2.trans h1)

/-- A route regenerated takes at most a free choice. -/
theorem State.regenRoute_free (s : State) (ret : BitVec 32) (k t : CoreId) (r : BitVec 32) :
    ∃ n, (s.regenRoute ret k t r).2 = { s with free := n } := by
  unfold State.regenRoute
  extract_lets try_
  split
  · exact ⟨s.free, rfl⟩
  · split
    · exact ⟨s.free, rfl⟩
    · exact ⟨s.free + 1, rfl⟩

theorem State.fixEntries_free (s : State) (j k : CoreId) (idx : Nat) (l : List (BitVec 32)) :
    ∃ n, (s.fixEntries j k idx l).2 = { s with free := n } := by
  induction l generalizing s with
  | nil => exact ⟨s.free, rfl⟩
  | cons r l ih =>
    unfold State.fixEntries
    dsimp only
    obtain ⟨m, hm⟩ := State.regenRoute_free s (s.die (dieOf j)).linkuse j k r
    split
    · exact ih s
    · split
      all_goals
        rename_i e
        rw [e] at hm
        obtain ⟨n, hn⟩ := ih { s with free := m }
        exact ⟨n, by rw [← hn, ← hm]⟩

theorem State.fixRoutes_scene (s : State) (k : CoreId) (key : TaskKey) : (s.fixRoutes k key).scene = s.scene := by
  refine State.foldl_scene _ (fun s j => ?_) _ _
  split
  · refine State.ite_scene _ _ ?_ rfl
    obtain ⟨n, hn⟩ := State.fixEntries_free s j k key.idx.toNat ((s.core j).rte.toList.take (s.core j).nrte)
    exact (congrArg State.scene hn).trans rfl
  · rfl

end Sys2Proof.Machine
end

section
/-! SUPPORT. The causes of an rc taken together, and the region's events (O31). -/

namespace Sys2Proof.Machine

-- Proofs elaborated at once ask for more threads than the memory limit has stacks for.
set_option Elab.async false

/-! ### The causes of an rc -/

/-- What `State.settle` ends with: the causes met at issue are forgotten, and a request takes a Held task or a barrier wait. -/
def State.takeRequests (s : State) (k : CoreId) : State :=
  let t := s.modCore k fun c => { c with detected := [] }
  (match (t.core k).task with
  | some y => if y.phase = TaskPhase.held ∧ (t.core k).preempt.isSome then t.beginSave k 2 else t
  | none => t).preemptWait k

section
variable {s : State} {k : CoreId}

theorem State.preemptWait_of_none (h : (s.core k).preempt = none) : s.preemptWait k = s := by
  unfold State.preemptWait
  split
  · rfl
  · split
    · rfl
    · simp [h]

theorem State.takeRequests_of_none (h : (s.core k).preempt = none) :
    s.takeRequests k = s.modCore k fun c => { c with detected := [] } := by
  have ht : ((s.modCore k fun c => { c with detected := [] }).core k).preempt = none := by rw [modCore_core_same, h]
  unfold State.takeRequests
  dsimp only
  split
  · rw [ht, if_neg (by simp), State.preemptWait_of_none ht]
  · exact State.preemptWait_of_none ht

theorem State.settle_of_rolled (h : (s.core k).rolled = true) : s.settle k = s.takeRequests k := by
  unfold State.settle
  simp only [h, true_or, if_true]
  rfl

section
variable (hr : (s.core k).rolled = false) (hrun : (s.core k).isRunning = true) (ha : (s.core k).allArrived = false) {q : Fin 4}
include hr hrun ha

/-- Cause 0x05 is taken as a trap. -/
theorem State.settle_watchdog (hc : firstCause (s.core k).causes = some (5, q)) :
    ∃ r : Rep, r.cause = 5 ∧ s.settle k = (s.takeTraps k r []).takeRequests k := by
  refine ⟨(s.core k).causeRep (5, q) (secMask (s.core k).causes 5), rfl, ?_⟩
  unfold State.settle
  simp only [hr, hrun, ha, hc, Bool.false_eq_true, Bool.not_true, or_self, if_false, Nat.reduceEqDiff,
    List.map_nil]
  generalize s.takeTraps k _ _ = t
  rfl

/-- Cause 0x06 alone is logged, rolls back and saves (R40). -/
theorem State.settle_overdue (hc : firstCause (s.core k).causes = some (6, q)) : s.settle k =
    (((s.logCore k ((s.core k).causeRep (6, q) 0)).rollback k false).beginSave k 2).takeRequests k := by
  unfold State.settle
  simp only [hr, hrun, ha, hc, Bool.false_eq_true, Bool.not_true, or_self, if_false]
  generalize ((s.logCore k _).rollback k false).beginSave k 2 = t
  rfl

end

theorem State.takeTraps_core (hr : (s.core k).rolled = false) (r : Rep) (l : List Rep) :
    ∃ w, (s.takeTraps k r l).core k = { (s.takeTrap k r).core k with trapped := w } :=
  ⟨_, by rw [State.takeTraps, hr, if_neg (by decide), modCore_core_same]⟩

theorem Core.causes_before_rendezvous {c : Core} (ha : c.allArrived = false) (hd : c.detected = []) :
    c.causes = (if c.watchdogDue then [(5, c.longest)] else []) ++ if c.preemptDue then [(6, 0)] else [] := by
  simp [Core.causes, ha, hd]

theorem Core.isRunning_of_task {c : Core} {y : TaskSt} (ht : c.task = some y) (hp : y.phase = .running) : c.isRunning = true := by
  simp [Core.isRunning, ht, hp]

/-! ### A save begun -/

theorem State.beginSave_core (s : State) (k : CoreId) (depth : Nat) : ∃ e, s.rc < e ∧ (s.beginSave k depth).core k =
    { (s.core k).retainPending with
      task := (s.core k).task.map fun t => { t with phase := .saving e depth }, preempt := none, spec := none } := by
  refine ⟨s.rc + 1 + s.drawDelay.1, by omega, ?_⟩
  exact modCore_core_same ..

end

/-! ### The events -/

section
variable {k : CoreId} {s : State} {y : TaskSt} (ht : (s.core k).task = some y) (hp : y.phase = .running)
  (hr : (s.core k).rolled = false) (ha : (s.core k).allArrived = false) (hd : (s.core k).detected = [])
include ht hp hr ha hd

/-- The watchdog's trap (R38). -/
theorem exec_regionWatchdog_due (hw : (s.core k).rgnmax.toNat ≤ (s.core k).rgncnt.toNat) (hn : (s.core k).preempt = none) :
    ∃ t : State, exec (.regionWatchdog k) s = .next t ∧
      (t.core k).task = some { y with phase := .held, cause := 5 } ∧ (t.core k).cut = (s.core k).cut ∧
      (t.core k).gen = (s.core k).gen ∧ ∀ q : Fin 4, ((t.core k).sq q).pc = (s.core k).cut.pcs[q] := by
  have hrun := Core.isRunning_of_task ht hp
  have hdue : (s.core k).watchdogDue = true := by simp [Core.watchdogDue, hrun, hw]
  have hpre : (s.core k).preemptDue = false := by simp [Core.preemptDue, hn]
  have hc : firstCause (s.core k).causes = some (5, (s.core k).longest) := by
    rw [Core.causes_before_rendezvous ha hd, hdue, hpre]
    rfl
  obtain ⟨r, hcause, hset⟩ := State.settle_watchdog hr hrun ha hc
  obtain ⟨w, hw⟩ := State.takeTraps_core hr r []
  obtain ⟨b, m, a, p, hu⟩ := State.takeTrap_core_eq (r := r) ht hr
  rw [hu] at hw
  rw [State.takeRequests_of_none (by rw [hw]; exact hn)] at hset
  refine ⟨s.settle k, congrArg Host.Outcome.next (if_pos hdue), ?_⟩
  rw [hset, modCore_core_same, hw, hcause]
  refine ⟨rfl, rfl, rfl, fun q => ?_⟩
  obtain ⟨p, hq⟩ := Core.rollback_sq (s.core k) k q
  exact congrArg SeqSt.pc hq

/-- A request that has stayed pending for the region's limit (R40 path 3). -/
theorem exec_preemptionOverdue_due (hm : (s.core k).mid = none) (hw : (s.core k).rgncnt.toNat < (s.core k).rgnmax.toNat) {n : Nat}
    (hn : (s.core k).preempt = some n) (hle : (s.core k).rgnmax.toNat ≤ n) :
    ∃ (t : State) (e : Nat), exec (.preemptionOverdue k) s = .next t ∧ s.rc < e ∧
      (t.core k).task = some { y with phase := .saving e 2 } ∧ (t.core k).preempt = none ∧
      (t.core k).cut = (s.core k).cut ∧ ∀ q : Fin 4, ((t.core k).sq q).pc = (s.core k).cut.pcs[q] := by
  have hrun := Core.isRunning_of_task ht hp
  have hdue : (s.core k).watchdogDue = false := by simp [Core.watchdogDue, hw]
  have hpre : (s.core k).preemptDue = true := by simp [Core.preemptDue, hrun, ha, hn, hle, hm]
  have hc : firstCause (s.core k).causes = some (6, 0) := by
    rw [Core.causes_before_rendezvous ha hd, hdue, hpre]
    rfl
  have hset := State.settle_overdue hr hrun ha hc
  generalize hlog : s.logCore k ((s.core k).causeRep (6, 0) 0) = l at hset
  have hl : l.core k = s.core k := State.core_of_cores (hlog ▸ State.logCore_cores ..) k
  have hrc : (l.rollback k false).rc = s.rc :=
    State.rc_eq ((State.rollback_scene ..).trans (hlog ▸ State.elog_scene ..))
  obtain ⟨b, m, a, hu⟩ := State.rollback_core l k false
  obtain ⟨e, he, hv⟩ := State.beginSave_core (l.rollback k false) k 2
  rw [hu, hl] at hv
  rw [State.takeRequests_of_none (by rw [hv])] at hset
  refine ⟨s.settle k, e, congrArg Host.Outcome.next (if_pos hpre), hrc ▸ he, ?_⟩
  rw [hset, modCore_core_same, hv]
  refine ⟨congrArg (Option.map fun t : TaskSt => { t with phase := .saving e 2 }) ht, rfl, rfl, fun q => ?_⟩
  obtain ⟨p, hq⟩ := Core.rollback_sq (s.core k) k q
  exact congrArg SeqSt.pc hq

end

theorem exec_completionSignal (k : CoreId) (x : Fin 8) (s : State) : exec (.completionSignal k x) s = .next (s.modCore k fun c =>
    if c.offered.contains x && c.sigRoom [] x then
      { c with offered := c.offered.erase x, tok := c.tok.set x (c.tok[x] + 1), signalled := c.signalled.set x true }
    else c) := rfl

/-- A counter raised in this rc has no room for a second signal. -/
theorem Core.sigRoom_of_signalled {c : Core} {x : Fin 8} (h : c.signalled[x] = true) (waits : List (Fin 8)) :
    c.sigRoom waits x = false := by
  unfold Core.sigRoom
  rw [h]
  rfl

/-- Settles O31: the events of a region by what their causes come to, a signal by the room of its counter. -/
theorem regionEvents : Obligations.RegionEvents := by
  intro k x s y c
  refine ⟨fun ht hp hr ha hd hm => ⟨exec_regionWatchdog_due ht hp hr ha hd, fun hw => ?_,
    fun hw n => exec_preemptionOverdue_due ht hp hr ha hd hm hw⟩, fun hx _ hroom => ?_, fun hs => ?_⟩
  · have hdue : c.watchdogDue = false := by simp [Core.watchdogDue, hw]
    exact congrArg Host.Outcome.next (if_neg (by rw [hdue]; decide))
  · have hgrant : (c.offered.contains x && c.sigRoom [] x) = true := by simp [hx, hroom]
    rw [exec_completionSignal, State.modCore, if_pos hgrant]
  · have hroom := Core.sigRoom_of_signalled hs []
    rw [exec_completionSignal, State.modCore, hroom, Bool.and_false, if_neg (by decide), State.setCore_self]

end Sys2Proof.Machine
end

section
/-! SUPPORT. The commit of a region, what it releases, and commit B (O30). -/

namespace Sys2Proof.Machine

-- Proofs elaborated at once ask for more threads than the memory limit has stacks for.
set_option Elab.async false

/-! ### The region's effects released -/

/-- A line released at a timestamp, with a tag, to arrive at an rc (R30 step 2). -/
def CBLine.released (y : CBLine) (ts : Nat) (tag : BitVec 8) (a : Nat) : CBLine :=
  { y with cur := false, ts := ts, tag := tag, at_ := a }

/-- The release of the lines that are the region's own and whose numbers `f` gives an arrival. -/
def Core.releaseBy (c : Core) (ts : Nat) (tag : BitVec 8) (f : Nat → Option Nat) (y : CBLine) : CBLine :=
  if c.ownLine y then ((f y.id).map (y.released ts tag)).getD y else y

/-- A core whose region's effects are released (R30 steps 2 and 3). -/
def Core.released (c : Core) (ts : Nat) (tag : BitVec 8) (f : Nat → Option Nat) : Core :=
  { c.releaseCopies with
    cb := c.cb.map (c.releaseBy ts tag f)
    lbuf := c.lbuf.map fun l => { l with cur := l.cur && !c.ownId l.id } }

/-- The region's own lines of one number released. -/
def Core.releaseNumber (c : Core) (ts : Nat) (tag : BitVec 8) (i a : Nat) : Core :=
  { c with cb := c.cb.map fun y => if y.id = i ∧ c.ownLine y = true then y.released ts tag a else y }

/-- When a line released now may be performed (R163, R372). -/
def State.lineArrives (s : State) (k : CoreId) (l : CBLine) : Nat :=
  if (s.core k).changing && farHome k l.home l.addr then s.rc else s.rc + 1 + s.drawDelay.1

/-- The step of `State.releaseEffects` for one line. -/
def State.releaseLine (k : CoreId) (ts : Nat) (tag : BitVec 8) (s : State) (l : CBLine) : State :=
  if (s.core k).ownLine l then s.drawDelay.2.modCore k fun c => c.releaseNumber ts tag l.id (s.lineArrives k l) else s

theorem State.lineArrives_le (s : State) (k : CoreId) (l : CBLine) : s.rc ≤ s.lineArrives k l := by
  unfold State.lineArrives
  split <;> omega

section
variable (c : Core) (ts : Nat) (tag : BitVec 8) (f : Nat → Option Nat) {y : CBLine}

theorem Core.ownLine_released (y : CBLine) (a : Nat) : c.ownLine (y.released ts tag a) = false := rfl

theorem Core.releaseBy_of_not_own (h : c.ownLine y = false) : c.releaseBy ts tag f y = y := by
  rw [Core.releaseBy, h, if_neg (by decide)]

theorem Core.releaseBy_of_own (h : c.ownLine y = true) : c.releaseBy ts tag f y = ((f y.id).map (y.released ts tag)).getD y := by
  rw [Core.releaseBy, h, if_pos rfl]

/-- A further release, after those of `f`. -/
theorem Core.releaseBy_step (i a : Nat) (y : CBLine) :
    (if (c.releaseBy ts tag f y).id = i ∧ c.ownLine (c.releaseBy ts tag f y) = true then (c.releaseBy ts tag f y).released ts tag a
      else c.releaseBy ts tag f y) = c.releaseBy ts tag (fun j => (f j).or (if j = i then some a else none)) y := by
  cases ho : c.ownLine y with
  | false => simp [Core.releaseBy_of_not_own, ho]
  | true =>
    rw [Core.releaseBy_of_own c ts tag _ ho, Core.releaseBy_of_own c ts tag _ ho]
    cases hf : f y.id with
    | none => by_cases hi : y.id = i <;> simp [hi, ho]
    | some b => simp [Core.ownLine_released]

end

/-- From `s` to `t` core k's lines numbered in `f` are released, each to arrive from this rc on. -/
structure State.Releases (k : CoreId) (ts : Nat) (tag : BitVec 8) (f : Nat → Option Nat) (s t : State) : Prop where
  core : t.core k = { s.core k with cb := (s.core k).cb.map ((s.core k).releaseBy ts tag f) }
  others : ∀ j, j ≠ k → t.core j = s.core j
  rc : t.rc = s.rc
  late : ∀ i a, f i = some a → s.rc ≤ a

section
variable {k : CoreId} {ts : Nat} {tag : BitVec 8} {f : Nat → Option Nat} {s t : State}

theorem State.Releases.refl (s : State) : State.Releases k ts tag (fun _ => none) s s where
  core := by
    have h : (s.core k).releaseBy ts tag (fun _ => none) = id := funext fun _ => ite_self _
    rw [h, List.map_id]
  others _ _ := rfl
  rc := rfl
  late _ _ h := nomatch h

theorem State.Releases.line (h : State.Releases k ts tag f s t) (l : CBLine) : ∃ g,
    State.Releases k ts tag g s (State.releaseLine k ts tag t l) ∧ (∀ i, (f i).isSome → (g i).isSome) ∧
      ((s.core k).ownLine l = true → (g l.id).isSome) := by
  have hown : (t.core k).ownLine l = (s.core k).ownLine l := by rw [h.core]; rfl
  unfold State.releaseLine
  rw [hown]
  split
  · have hle : s.rc ≤ t.lineArrives k l := h.rc ▸ t.lineArrives_le k l
    generalize t.lineArrives k l = a at hle
    refine ⟨fun j => (f j).or (if j = l.id then some a else none), ⟨?_, fun j hj => ?_, h.rc, fun i b hi => ?_⟩, fun i hi => ?_,
      fun _ => by simp⟩
    · have hd : t.drawDelay.2.core k = t.core k := rfl
      rw [modCore_core_same, hd, h.core, Core.releaseNumber, List.map_map]
      exact congrArg (fun b : List CBLine => { s.core k with cb := b }) (List.map_congr_left fun y _ => Core.releaseBy_step ..)
    · exact (modCore_core_other _ _ hj).trans (h.others j hj)
    · rcases Option.or_eq_some_iff.mp hi with hf | ⟨-, hb⟩
      · exact h.late i b hf
      · split at hb
        · exact Option.some.inj hb ▸ hle
        · cases hb
    · simp [hi]
  · rename_i ho
    exact ⟨f, h, fun _ hi => hi, fun h => absurd h ho⟩

theorem State.Releases.lines (h : State.Releases k ts tag f s t) (l : List CBLine) : ∃ g,
    State.Releases k ts tag g s (l.foldl (State.releaseLine k ts tag) t) ∧ (∀ i, (f i).isSome → (g i).isSome) ∧
      ∀ y ∈ l, (s.core k).ownLine y = true → (g y.id).isSome := by
  induction l generalizing f t with
  | nil => exact ⟨f, h, fun _ hi => hi, fun _ hy => nomatch hy⟩
  | cons y l ih =>
    obtain ⟨g, hg, hfg, hy⟩ := h.line y
    obtain ⟨g', hg', hgg', hl⟩ := ih hg
    refine ⟨g', hg', fun i hi => hgg' i (hfg i hi), fun z hz ho => ?_⟩
    rcases List.mem_cons.mp hz with rfl | hz
    · exact hgg' _ (hy ho)
    · exact hl z hz ho

end

/-- What a release leaves (R30 steps 2 and 3): every line of the region's own is released. -/
theorem State.releaseEffects_core (s : State) (k : CoreId) (ts : Nat) (tag : BitVec 8) : ∃ f,
    (∀ y ∈ (s.core k).cb, (s.core k).ownLine y = true → (f y.id).isSome) ∧ (∀ i a, f i = some a → s.rc ≤ a) ∧
      (s.releaseEffects k ts tag).core k = (s.core k).released ts tag f ∧
      ∀ j, j ≠ k → (s.releaseEffects k ts tag).core j = s.core j := by
  obtain ⟨f, hf, -, hl⟩ := (State.Releases.refl (ts := ts) (tag := tag) (k := k) s).lines (s.core k).cb
  refine ⟨f, hl, hf.late, ?_⟩
  generalize ht : (s.core k).cb.foldl (State.releaseLine k ts tag) s = t at hf
  generalize hu : (t.core k).lbuf.foldl (fun s l =>
    if l.cur && (s.core k).ownId l.id then s.cmdHere k 11 4 0 else s) t = u
  have hcores : u.cores = t.cores := by
    rw [← hu]
    refine State.foldl_cores _ (fun s l => State.ite_cores _ _ ?_ rfl) _ t
    unfold State.cmdHere
    split
    · exact State.tansy_cores ..
    · rfl
  have heq : s.releaseEffects k ts tag = u.modCore k fun c => { c.releaseCopies with
      lbuf := c.lbuf.map fun (l : LaunchEnt) => { l with cur := l.cur && !c.ownId l.id } } := by
    rw [← hu, ← ht]
    rfl
  rw [heq, modCore_core_same, State.core_of_cores hcores, hf.core]
  refine ⟨rfl, fun j hj => ?_⟩
  rw [modCore_core_other _ _ hj, State.core_of_cores hcores, hf.others j hj]

/-! ### The core of a commit -/

/-- A counter event changes the counters alone. -/
theorem Core.count_keeps {α : Type} (g : Core → α) (c : Core) (event unit arg : Nat) (exact : Bool)
    (hg : ∀ (c : Core) v o, g { c with cntval := v, ovfs := o } = g c := by exact fun _ _ _ => rfl) :
    g (c.count event unit arg exact) = g c := by
  rw [Core.count, countFor_core, hg]

section
variable (c : Core) (k : CoreId) (tag : BitVec 8) (p : Bool) (drop : BitVec 4)

@[simp] theorem Core.commit_gen : (c.commit k tag p drop).gen = c.gen + 1 := Core.count_keeps Core.gen ..
@[simp] theorem Core.commit_task : (c.commit k tag p drop).task = c.task := Core.count_keeps Core.task ..
@[simp] theorem Core.commit_preempt : (c.commit k tag p drop).preempt = c.preempt := Core.count_keeps Core.preempt ..
@[simp] theorem Core.commit_fmterr : (c.commit k tag p drop).fmterr = c.fmterr ||| c.fmtpend := Core.count_keeps Core.fmterr ..
@[simp] theorem Core.commit_fmtpend : (c.commit k tag p drop).fmtpend = 0 := Core.count_keeps Core.fmtpend ..
@[simp] theorem Core.commit_retrycnt : (c.commit k tag p drop).retrycnt = 0 := Core.count_keeps Core.retrycnt ..
@[simp] theorem Core.commit_drainpos : (c.commit k tag p drop).drainpos = 0 := Core.count_keeps Core.drainpos ..
@[simp] theorem Core.commit_reads : (c.commit k tag p drop).reads = [] := Core.count_keeps Core.reads ..
@[simp] theorem Core.commit_rgncnt : (c.commit k tag p drop).rgncnt = if p then 0 else c.rgncnt :=
  Core.count_keeps Core.rgncnt ..
@[simp] theorem Core.commit_stepBase : (c.commit k tag p drop).stepBase = none := Core.count_keeps Core.stepBase ..
@[simp] theorem Core.commit_raise : (c.commit k tag p drop).raise = c.raise ++ c.commitSignals :=
  Core.count_keeps Core.raise ..
@[simp] theorem Core.commit_goOff : (c.commit k tag p drop).goOff = (c.applyOff drop).goOff := Core.count_keeps Core.goOff ..
@[simp] theorem Core.commit_cb : (c.commit k tag p drop).cb = c.cb := Core.count_keeps Core.cb ..
@[simp] theorem Core.commit_lbuf : (c.commit k tag p drop).lbuf = c.lbuf := Core.count_keeps Core.lbuf ..
@[simp] theorem Core.commit_chans : (c.commit k tag p drop).chans = c.chans := Core.count_keeps Core.chans ..
@[simp] theorem Core.commit_finishing : (c.commit k tag p drop).finishing = c.finishing := Core.count_keeps Core.finishing ..

theorem Core.commit_sq (q : Fin 4) : (c.commit k tag p drop).sq q = { c.sq q with
    pc := c.nextPcs[q], live := if c.switches then [] else (c.sq q).live, arrival := none, fresh := q == 0 } :=
  (Core.count_keeps (fun u : Core => u.sq q) ..).trans (Vector.getElem_ofFn _)

theorem Core.commit_cut_gen : (c.commit k tag p drop).cut.gen = c.gen + 1 := Core.count_keeps (fun u : Core => u.cut.gen) ..
theorem Core.commit_cut_tag : (c.commit k tag p drop).cut.tag = tag := Core.count_keeps (fun u : Core => u.cut.tag) ..
theorem Core.commit_cut_p : (c.commit k tag p drop).cut.p = p := Core.count_keeps (fun u : Core => u.cut.p) ..
theorem Core.commit_cut_pcs : (c.commit k tag p drop).cut.pcs = c.nextPcs := Core.count_keeps (fun u : Core => u.cut.pcs) ..

end

/-! ### The arrivals -/

section
variable {c : Core}

theorem Core.mem_arrivals {q : Fin 4} {a : Arrival} : (q, a) ∈ c.arrivals ↔ (c.sq q).arrival = some a := by
  have hq : q ∈ allSeqs := by revert q; decide
  simp [Core.arrivals, hq]

theorem Core.arrival_of_mem {x : Fin 4 × Arrival} (h : x ∈ c.arrivals) : (c.sq x.1).arrival = some x.2 := Core.mem_arrivals.mp h

/-- Without a switch the counters of the cut are those after the arrivals. -/
theorem Core.nextPcs_of_not_switches (h : c.switches = false) : c.nextPcs = Vector.ofFn fun q : Fin 4 => (c.sq q).pc := by
  unfold Core.nextPcs
  have hnone : ∀ a ∈ c.arrivals, ∀ t, a.2.kind ≠ .swpt t := by
    intro a ha t e
    have hsw := List.any_eq_false.mp h a ha
    rw [e] at hsw
    exact hsw rfl
  split
  · rename_i t ht
    obtain ⟨a, ha, hat⟩ := List.exists_of_findSome?_eq_some ht
    cases e : a.2.kind with
    | swpt l => exact absurd e (hnone a ha l)
    | _ => rw [e] at hat; cases hat
  · rfl

section
variable {q : Fin 4} {l : List (BitVec 48)} (hq : (c.sq q).arrival.map Arrival.kind = some (.swpt l))
include hq

theorem Core.switches_of_swpt : c.switches = true := by
  obtain ⟨a, ha, hk⟩ := Option.map_eq_some_iff.mp hq
  refine List.any_eq_true.mpr ⟨(q, a), Core.mem_arrivals.mpr ha, ?_⟩
  simp only [hk]

/-- At a switch point the counters of the cut are the table's (R377). -/
theorem Core.nextPcs_of_swpt (ho : ∀ j : Fin 4, j ≠ q → ∀ a, (c.sq j).arrival = some a → a.kind = .commit) :
    c.nextPcs = Vector.ofFn fun j : Fin 4 => l.getD (4 * c.level.toNat + j.val) 0 := by
  obtain ⟨a, ha, hk⟩ := Option.map_eq_some_iff.mp hq
  unfold Core.nextPcs
  split
  · rename_i t ht
    obtain ⟨x, hx, hxt⟩ := List.exists_of_findSome?_eq_some ht
    have hxa := Core.arrival_of_mem hx
    by_cases hj : x.1 = q
    · rw [hj, ha] at hxa
      obtain rfl := Option.some.inj hxa
      rw [hk] at hxt
      cases hxt
      rfl
    · rw [ho x.1 hj x.2 hxa] at hxt
      cases hxt
  · rename_i hnone
    have := List.findSome?_eq_none_iff.mp hnone (q, a) (Core.mem_arrivals.mpr ha)
    simp only [hk] at this
    cases this

end

/-- C's drop mask at a rendezvous (R195). -/
def Core.dropMask (c : Core) : BitVec 4 :=
  match (c.sq 2).arrival with
  | some a => a.drop
  | none => 0

theorem Core.bvf_dropMask (i : Nat) : bvf c.dropMask i 1 = 1 ↔ ∃ a, (c.sq 2).arrival = some a ∧ bvf a.drop i 1 = 1 := by
  unfold Core.dropMask
  cases (c.sq 2).arrival <;> simp [bvf]

/-- The moves to off that a commit leaves to be made (R30 step 4, R195). -/
theorem Core.mem_applyOff (drop : BitVec 4) (n : Nat) : n ∈ (c.applyOff drop).goOff ↔
    (∃ b, (n, b) ∈ c.banks ∧ b.pendOff = true) ∨ 256 ≤ n ∧ n < 260 ∧ bvf drop (n - 256) 1 = 1 := by
  simp only [Core.applyOff, List.mem_dedup, List.mem_append, List.mem_map, List.mem_filter, List.mem_range, Prod.exists,
    beq_iff_eq]
  refine or_congr ⟨?_, ?_⟩ ⟨?_, ?_⟩
  · rintro ⟨_, b, h, rfl⟩
    exact ⟨b, h⟩
  · rintro ⟨b, h⟩
    exact ⟨n, b, h, rfl⟩
  · rintro ⟨i, ⟨hi, hd⟩, rfl⟩
    exact ⟨by omega, by omega, by rwa [Nat.add_sub_cancel_left]⟩
  · rintro ⟨h1, h2, hd⟩
    exact ⟨n - 256, ⟨by omega, hd⟩, by omega⟩

end

/-! ### The commit of a region -/

theorem Core.released_nextPcs (c : Core) (ts : Nat) (tag : BitVec 8) (f : Nat → Option Nat) :
    (c.released ts tag f).nextPcs = c.nextPcs := rfl

theorem Core.released_switches (c : Core) (ts : Nat) (tag : BitVec 8) (f : Nat → Option Nat) :
    (c.released ts tag f).switches = c.switches := rfl

/-- The timestamp that a commit gives the region's lines (R295). -/
def Core.commitTime (c : Core) : Nat :=
  match c.ts with
  | .done t => t
  | .idle => 0
  | .claiming _ => 0

theorem State.commitTrace_cores (s : State) (k : CoreId) (tag : BitVec 8) (p halt : Bool) (ts : Nat) (pcs : Vector (BitVec 48) 4) :
    (s.commitTrace k tag p halt ts pcs).cores = s.cores := by
  unfold State.commitTrace
  split
  · rfl
  · refine (State.foldl_cores _ (fun s r => ?_) _ _).trans (State.tansy_cores ..)
    split
    · exact State.ite_cores _ _ (State.tansy_cores ..) rfl
    · rfl

/-- The timestamp that a commit releases the region's lines at: that of its procedure, or PTS where it has none (R295). -/
def Core.releaseTime (c : Core) : Nat := if c.commitTime = 0 then c.pts else c.commitTime

/-- The state of a commit with its record traced and the region's effects released. -/
def State.commitReleased (s : State) (k : CoreId) (x : Fin 4 × Arrival) : State :=
  let c := s.core k
  (s.commitTrace k x.2.tag x.2.p (c.arrivals.any fun a => a.2.kind == .halt) c.commitTime c.nextPcs).releaseEffects k
    c.releaseTime x.2.tag

/-- The state of a commit, with the tag and P of its first explicit arrival. -/
def State.committed (s : State) (k : CoreId) (x : Fin 4 × Arrival) : State :=
  let t := (s.commitReleased k x).modCore k fun c => c.commit k x.2.tag x.2.p (s.core k).dropMask
  if (s.core k).pinned then t.unpin k else t

theorem State.unpin_core (s : State) (k j : CoreId) : (s.unpin k).core j = s.core j := rfl

section
variable (s : State) (k : CoreId) (x : Fin 4 × Arrival)

theorem State.commitReleased_core : ∃ f,
    (∀ y ∈ (s.core k).cb, (s.core k).ownLine y = true → (f y.id).isSome) ∧ (∀ i a, f i = some a → s.rc ≤ a) ∧
      (s.commitReleased k x).core k = (s.core k).released (s.core k).releaseTime x.2.tag f ∧
      ∀ j, j ≠ k → (s.commitReleased k x).core j = s.core j := by
  unfold State.commitReleased
  dsimp only
  generalize hw : s.commitTrace k x.2.tag x.2.p _ _ _ = w
  have hcore (j : CoreId) : w.core j = s.core j := State.core_of_cores (hw ▸ State.commitTrace_cores ..) j
  have hrc : w.rc = s.rc := hw ▸ State.rc_eq (State.commitTrace_scene ..)
  have h := State.releaseEffects_core w k (s.core k).releaseTime x.2.tag
  simpa only [hcore, hrc] using h

theorem State.committed_core {t : Core} (h : (s.commitReleased k x).core k = t) :
    (s.committed k x).core k = t.commit k x.2.tag x.2.p (s.core k).dropMask := by
  subst h
  unfold State.committed
  dsimp only
  split
  · rw [State.unpin_core, modCore_core_same]
  · rw [modCore_core_same]

theorem State.committed_other {j : CoreId} (hj : j ≠ k) : (s.committed k x).core j = s.core j := by
  obtain ⟨-, -, -, -, h⟩ := s.commitReleased_core k x
  rw [← h j hj]
  unfold State.committed
  dsimp only
  split
  · rw [State.unpin_core, modCore_core_other _ _ hj]
  · rw [modCore_core_other _ _ hj]

end

section
variable {k : CoreId} {s : State} {x : Fin 4 × Arrival} {rest : List (Fin 4 × Arrival)}
  (hready : (s.core k).ready = true) (hrun : (s.core k).isRunning = true) (hheld : (s.core k).held = false)
  (hpre : (s.core k).preempt = none) (hx : (s.core k).explicit = x :: rest)
include hready hrun hheld hpre hx

/-- A ready commit completes (R30); with HALT arrivals the task finishes. -/
theorem exec_commitComplete : exec (.commitComplete k) s = .next
    (if (s.core k).arrivals.any fun a => a.2.kind == .halt then (s.committed k x).finishTask k else s.committed k x) := by
  obtain ⟨f, -, -, hcore, -⟩ := s.commitReleased_core k x
  have hp : ((s.committed k x).core k).preempt = none := by
    rw [State.committed_core s k x hcore, Core.commit_preempt]
    exact hpre
  have hexec : exec (.commitComplete k) s =
      if (s.core k).arrivals.any fun a => a.2.kind == .halt then .next ((s.committed k x).finishTask k)
      else match ((s.committed k x).core k).mid with
        | some _ => .next ((s.committed k x).preemptWait k)
        | none => .next (if x.2.p && ((s.committed k x).core k).preempt.isSome && !((s.committed k x).core k).stopped then
            (s.committed k x).beginSave k 2 else s.committed k x) := by
    change execCommitComplete k s = _
    unfold execCommitComplete
    simp only [hready, hrun, hheld, hx]
    rfl
  rw [hexec]
  split
  · rfl
  · split
    · rw [State.preemptWait_of_none hp]
    · rw [hp, Option.isSome_none, Bool.and_false, Bool.false_and, if_neg (by decide)]

end

/-- What a commit leaves of the effects of a region (R30): all released outside a debug step, the moves to off to be made, and the
arrivals' signals to be raised. -/
def Core.EffectsReleased (c : Core) (rc : Nat) (tag : BitVec 8) (u : Core) : Prop :=
  (c.stepBase = none →
    (∃ ts, (∀ n, 0 < n → c.ts = .done n → ts = n) ∧ (c.ts = .idle → ts = c.pts) ∧
      (u.cb.map fun l => { l with at_ := 0 }) =
        c.cb.map fun l => if l.cur then { l with cur := false, ts := ts, tag := tag, at_ := 0 } else { l with at_ := 0 }) ∧
    (∀ l ∈ u.cb, l ∈ c.cb ∨ rc ≤ l.at_) ∧
    (u.lbuf = c.lbuf.map fun l => { l with cur := false }) ∧
    (∀ z : Fin 4, (u.chans[z].map fun m => (m.id, m.cur, m.regs)) = (c.chans[z]).map fun m => (m.id, false, m.regs))) ∧
  (∀ n, n ∈ u.goOff ↔ (∃ b, (n, b) ∈ c.banks ∧ b.pendOff = true) ∨
    ∃ a, (c.sq 2).arrival = some a ∧ 256 ≤ n ∧ n < 260 ∧ bvf a.drop (n - 256) 1 = 1) ∧
  u.raise = c.raise ++ c.commitSignals

section
variable {c : Core} {rc : Nat} {tag : BitVec 8}

theorem Core.releaseTime_done {n : Nat} (hn : 0 < n) (h : c.ts = .done n) :
    c.releaseTime = n := by
  have ht : c.commitTime = n := by rw [Core.commitTime, h]
  rw [Core.releaseTime, ht, if_neg (by omega)]

theorem Core.releaseTime_idle (h : c.ts = .idle) : c.releaseTime = c.pts := by
  have ht : c.commitTime = 0 := by rw [Core.commitTime, h]
  rw [Core.releaseTime, ht, if_pos rfl]

theorem Core.ownId_of_stepBase (h : c.stepBase = none) (i : Nat) : c.ownId i = true := by rw [Core.ownId, h]; rfl

theorem Core.ownLine_of_stepBase (h : c.stepBase = none) (l : CBLine) : c.ownLine l = l.cur := by
  rw [Core.ownLine, Core.ownId_of_stepBase h, Bool.and_true]

section
variable {f : Nat → Option Nat} (ts : Nat)

theorem Core.releaseBy_at_zero (h : c.stepBase = none) {y : CBLine} (hy : c.ownLine y = true → (f y.id).isSome) :
    ({ c.releaseBy ts tag f y with at_ := 0 } : CBLine) =
      if y.cur then { y with cur := false, ts := ts, tag := tag, at_ := 0 } else { y with at_ := 0 } := by
  have hcur := Core.ownLine_of_stepBase h y
  cases ho : c.ownLine y with
  | true =>
    obtain ⟨a, ha⟩ := Option.isSome_iff_exists.mp (hy ho)
    rw [Core.releaseBy_of_own _ _ _ _ ho, ha, ← hcur, ho]
    rfl
  | false =>
    rw [Core.releaseBy_of_not_own _ _ _ _ ho, if_neg (by rw [← hcur, ho]; decide)]

theorem Core.releaseBy_late (hlate : ∀ i a, f i = some a → rc ≤ a) (y : CBLine) :
    c.releaseBy ts tag f y = y ∨ rc ≤ (c.releaseBy ts tag f y).at_ := by
  cases ho : c.ownLine y with
  | false => exact .inl (Core.releaseBy_of_not_own _ _ _ _ ho)
  | true =>
    rw [Core.releaseBy_of_own _ _ _ _ ho]
    cases hf : f y.id with
    | none => exact .inl rfl
    | some a => exact .inr (hlate _ _ hf)

end

theorem Core.effectsReleased_commit {f : Nat → Option Nat} (hown : ∀ y ∈ c.cb, c.ownLine y = true → (f y.id).isSome)
    (hlate : ∀ i a, f i = some a → rc ≤ a) (k : CoreId) (p : Bool) : c.EffectsReleased rc tag
      ((c.released c.releaseTime tag f).commit k tag p c.dropMask) := by
  refine ⟨fun h => ⟨⟨_, fun n => Core.releaseTime_done, Core.releaseTime_idle, ?_⟩, fun l hl => ?_, ?_, fun z => ?_⟩, fun n => ?_, ?_⟩
  · rw [Core.commit_cb, Core.released, List.map_map]
    exact List.map_congr_left fun y hy => Core.releaseBy_at_zero _ h (hown y hy)
  · rw [Core.commit_cb] at hl
    obtain ⟨y, hy, rfl⟩ := List.mem_map.mp hl
    rcases Core.releaseBy_late c.releaseTime hlate y with e | hl
    · exact .inl (e.symm ▸ hy)
    · exact .inr hl
  · rw [Core.commit_lbuf]
    exact List.map_congr_left fun l _ => by rw [Core.ownId_of_stepBase h, Bool.not_true, Bool.and_false]
  · rw [Core.commit_chans]
    simp only [Core.released, Core.releaseCopies, Fin.getElem_fin, Vector.getElem_map, List.map_map]
    exact List.map_congr_left fun m _ => by simp [Core.ownId_of_stepBase h]
  · rw [Core.commit_goOff, Core.mem_applyOff, Core.bvf_dropMask]
    exact or_congr .rfl ⟨fun ⟨h1, h2, a, ha, hd⟩ => ⟨a, ha, h1, h2, hd⟩, fun ⟨a, ha, h1, h2, hd⟩ => ⟨h1, h2, a, ha, hd⟩⟩
  · exact Core.commit_raise ..

/-- A task that finishes leaves its released effects (R112). -/
theorem Core.EffectsReleased.freed {u : Core} (h : c.EffectsReleased rc tag u) (l : List Finishing) :
    c.EffectsReleased rc tag { u.freed with finishing := l } := by
  obtain ⟨hrel, hoff, hraise⟩ := h
  refine ⟨fun hs => ?_, hoff, hraise⟩
  obtain ⟨hcb, hat, hlbuf, hchans⟩ := hrel hs
  refine ⟨hcb, hat, hlbuf, fun z => (?_ : _ = _).trans (hchans z)⟩
  simp [Core.freed, Function.comp_def]

end

/-- A task among those whose released work still runs (R112). -/
def TaskSt.finished (y : TaskSt) (gen : BitVec 32) : Finishing :=
  ⟨y.part, y.gang, y.idx, y.tag, gen, y.table, y.gsize, y.image, y.save, y.regs⟩

/-- The core after HALT (R112). -/
theorem State.finishTask_core {s : State} {k : CoreId} {y : TaskSt} (h : (s.core k).task = some y) :
    (s.finishTask k).core k = { (s.core k).freed with
      finishing := (s.core k).finishing ++ [y.finished (s.core k).gen] } := by
  unfold State.finishTask
  rw [h]
  exact modCore_core_same ..

/-- A ready commit, with HALT arrivals and without. -/
theorem commitCompletes : Claims.CommitCompletes := by
  intro k s x rest y c released ending hready ht hp hheld hpre hx
  have hrun := Core.isRunning_of_task ht hp
  have hexec := exec_commitComplete hready hrun hheld hpre hx
  obtain ⟨f, hown, hlate, hrel, -⟩ := s.commitReleased_core k x
  have hcore := State.committed_core s k x hrel
  have heff := Core.effectsReleased_commit (tag := x.2.tag) hown hlate k x.2.p
  rw [← hcore] at heff
  have hsignals : c.commitSignals = c.arrivals.flatMap fun a => match a.2.kind with
      | .commit => ringSigs a.1 a.2.ring
      | .swpt _ => ringSigs a.1 a.2.ring
      | _ => [] := by
    refine congrArg (List.flatMap · c.arrivals) (funext fun a => ?_)
    cases a.2.kind <;> rfl
  have hending : ∀ {u : Core}, c.EffectsReleased s.rc x.2.tag u → ending u := fun ⟨hrel, hoff, hraise⟩ =>
    ⟨hrel, hoff, hraise.trans (congrArg (c.raise ++ ·) hsignals)⟩
  refine ⟨fun hhalt => ?_, fun ⟨a, ha, hhalt⟩ => ?_⟩
  · have hno : c.arrivals.any (fun a => a.2.kind == .halt) = false := by
      simpa using hhalt
    rw [hno, if_neg (by decide)] at hexec
    refine ⟨_, hexec, ?_⟩
    have hend := hending heff
    rw [hcore] at hend ⊢
    intro u
    have hsq : ∀ q, u.sq q = _ := fun q => Core.commit_sq ..
    refine ⟨Core.commit_gen .., Core.commit_cut_gen .., Core.commit_cut_tag .., Core.commit_cut_p .., Core.commit_task ..,
      Core.commit_fmterr .., Core.commit_fmtpend .., Core.commit_retrycnt .., Core.commit_drainpos .., Core.commit_reads ..,
      Core.commit_rgncnt .., hend, Core.commit_stepBase .., fun q => ?_, fun hsw q => ?_, fun q l ho hq j => ?_,
      fun _ => State.committed_other s k x⟩
    · rw [hsq, Core.commit_cut_pcs]
      exact ⟨rfl, rfl, rfl, rfl, rfl⟩
    · rw [hsq, Core.released_nextPcs, Core.released_switches, Core.nextPcs_of_not_switches hsw, hsw]
      exact ⟨Vector.getElem_ofFn _, rfl⟩
    · rw [hsq, Core.released_nextPcs, Core.released_switches, Core.nextPcs_of_swpt hq ho, Core.switches_of_swpt hq]
      exact ⟨Vector.getElem_ofFn _, rfl⟩
  · have hyes : c.arrivals.any (fun a => a.2.kind == .halt) = true := List.any_eq_true.mpr ⟨a, ha, by simpa using hhalt⟩
    rw [hyes, if_pos rfl] at hexec
    have htask : ((s.committed k x).core k).task = some y := by
      rw [hcore, Core.commit_task]
      exact ht
    have hfin := State.finishTask_core htask
    have hend : ending (((s.committed k x).finishTask k).core k) := hending (hfin ▸ heff.freed _)
    refine ⟨_, y.finished ((s.committed k x).core k).gen, hexec, ?_, ?_, rfl, rfl, rfl, rfl, hend⟩
    · rw [hfin]
      rfl
    · rw [hfin, hcore]
      exact congrArg (· ++ _) (Core.commit_finishing ..)

/-! ### Commit B -/

section
variable (c : Core) (m : Mid)

@[simp] theorem Core.commitB_gen : (c.commitB m).gen = c.gen + 1 := Core.count_keeps Core.gen ..
@[simp] theorem Core.commitB_mid : (c.commitB m).mid = none := Core.count_keeps Core.mid ..
@[simp] theorem Core.commitB_task : (c.commitB m).task = c.task := Core.count_keeps Core.task ..
@[simp] theorem Core.commitB_raise : (c.commitB m).raise = c.raise ++ ringSigs m.seqr m.ring := Core.count_keeps Core.raise ..
@[simp] theorem Core.commitB_offered : (c.commitB m).offered = c.offered ++ compSigs m.seqr m.comp :=
  Core.count_keeps Core.offered ..
@[simp] theorem Core.commitB_retrycnt : (c.commitB m).retrycnt = 0 := Core.count_keeps Core.retrycnt ..
@[simp] theorem Core.commitB_preempt : (c.commitB m).preempt = c.preempt := Core.count_keeps Core.preempt ..
@[simp] theorem Core.commitB_rolled : (c.commitB m).rolled = c.rolled := Core.count_keeps Core.rolled ..

theorem Core.commitB_cut : (c.commitB m).cut = { c.cut with gen := c.gen + 1, eng := c.eng, p := m.p } :=
  Core.count_keeps Core.cut ..

theorem Core.commitB_pts {w : BarWait} {st v : Nat} (hw : m.wait = .inr w) (hr : w.released = some (st, v)) :
    (c.commitB m).pts = max c.pts v := by
  refine (Core.count_keeps Core.pts ..).trans ?_
  simp only [hw, hr]

theorem Core.commitB_sq (q : Fin 4) : ∃ b, (c.commitB m).sq q = { c.sq q with fresh := b } := by
  have h : (c.commitB m).sq q = (c.modSeq 0 fun q => { q with fresh := true }).sq q :=
    Core.count_keeps (fun u : Core => u.sq q) ..
  by_cases hq : q = 0
  · subst hq
    exact ⟨true, h.trans (modSeq_sq_same ..)⟩
  · exact ⟨_, h.trans (modSeq_sq_other _ _ hq)⟩

end

section
variable {k : CoreId} {s : State} {m : Mid}

/-- The state in which commit B is recorded. -/
def State.committedB (s : State) (k : CoreId) (m : Mid) : State :=
  (s.commitTrace k (s.core k).cut.tag m.p false 0 (s.core k).cut.pcs).modCore k fun c => c.commitB m

theorem State.committedB_core (s : State) (k : CoreId) (m : Mid) : (s.committedB k m).core k = (s.core k).commitB m := by
  rw [State.committedB, modCore_core_same, State.core_of_cores (State.commitTrace_cores ..)]

section
variable {n : Nat} (hm : (s.core k).mid = some m) (hn : m.doneAt = some n) (hle : n ≤ s.rc) (hrun : (s.core k).isRunning = true)
  (hheld : (s.core k).held = false) (hpre : (s.core k).preempt = none)
include hm hn hle hrun hheld

theorem exec_commitBComplete_of_trap {cause : Nat} (ht : m.trap = some cause) : ∃ r : Rep, r.cause = cause ∧
    exec (.commitBComplete k) s = .next (((s.committedB k m).takeTrap k r).settle k) := by
  let w := (s.core k).wordsAt m.seqr m.pc
  refine ⟨Rep.trap cause m.seqr 0 m.pc.toNat w.1 w.2 0, rfl, ?_⟩
  change execCommitBComplete k s = _
  have hlt : ¬ s.rc < n := by omega
  unfold execCommitBComplete
  simp only [hm, hn, hlt, hrun, hheld, ht]
  rfl

include hpre

theorem exec_commitBComplete (ht : m.trap = none) : exec (.commitBComplete k) s = .next (s.committedB k m) := by
  have hp : ((s.committedB k m).core k).preempt = none := by rw [State.committedB_core, Core.commitB_preempt, hpre]
  have hlt : ¬ s.rc < n := by omega
  have hexec : exec (.commitBComplete k) s = .next
      (if m.p && ((s.committedB k m).core k).preempt.isSome && !((s.committedB k m).core k).stopped then
        (s.committedB k m).beginSave k 2 else s.committedB k m) := by
    change execCommitBComplete k s = _
    unfold execCommitBComplete
    simp only [hm, hn, hlt, hrun, hheld, ht]
    rfl
  rw [hexec, hp, Option.isSome_none, Bool.and_false, Bool.false_and, if_neg (by decide)]

end

theorem exec_atomValueReturn {w : AtomWait} {v : Word64} {n : Nat} (hm : (s.core k).mid = some m) (hw : m.wait = .inl w)
    (hd : m.doneAt = none) (hr : w.returned = some (v, n)) (hle : n ≤ s.rc) : exec (.atomValueReturn k) s = .next (s.setCore k
      { (s.core k).modSeq m.seqr fun q => { q with
          pend := q.pend ++ [⟨(s.core k).nextId, .rc (s.rc + 1), destWr w.d 2 v, compNone⟩] } with
        nextId := (s.core k).nextId + 1, mid := some { m with doneAt := some (s.rc + 22) } }) := by
  change execAtomValueReturn k s = _
  unfold execAtomValueReturn
  simp only [hm, hw, hd, hr, hle, if_true]
  rfl

/-- The trap of a barrier released with a status (R345). -/
theorem Mid.trap_of_status {w : BarWait} {st v : Nat} (hw : m.wait = .inr w) (hr : w.released = some (st, v))
    (hs : w.status = false) (hst : st = 1 ∨ st = 2) : m.trap = some (0x70 + st) := by
  unfold Mid.trap
  rcases hst with rfl | rfl <;> simp only [hw, hr, hs] <;> rfl

end

/-- Commit B, with a release that traps and without one. -/
theorem commitBCompletes : Claims.CommitB := by
  intro k s m y c hm ht hp
  have hrun := Core.isRunning_of_task ht hp
  refine ⟨fun w v n hw hd hr hle => exec_atomValueReturn hm hw hd hr hle, fun n hn hle hheld hpre hrolled => ⟨fun htrap => ?_,
    fun w st v hw hr hs hst => ?_⟩⟩
  · refine ⟨_, exec_commitBComplete hm hn hle hrun hheld hpre htrap, ?_⟩
    rw [State.committedB_core]
    have hcut := Core.commitB_cut c m
    refine ⟨Core.commitB_gen .., congrArg Cut.gen hcut, (congrArg Cut.pcs hcut).trans rfl, (congrArg Cut.tag hcut).trans rfl,
      congrArg Cut.p hcut, Core.commitB_mid .., Core.commitB_task .., Core.commitB_raise .., Core.commitB_offered .., Core.commitB_retrycnt ..,
      fun w st v hw hr => Core.commitB_pts _ _ hw hr, fun q => ?_⟩
    obtain ⟨b, hb⟩ := Core.commitB_sq c m q
    rw [hb]
    exact ⟨rfl, rfl⟩
  · obtain ⟨r, hcause, hexec⟩ := exec_commitBComplete_of_trap hm hn hle hrun hheld (Mid.trap_of_status hw hr hs hst)
    have hB := State.committedB_core s k m
    obtain ⟨b, d, a, p, hu⟩ := State.takeTrap_core_eq (s := s.committedB k m) (k := k) (r := r) (y := y)
      (by rw [hB, Core.commitB_task]; exact ht) (by rw [hB, Core.commitB_rolled]; exact hrolled)
    have hroll : (((s.committedB k m).takeTrap k r).core k).rolled = true := by rw [hu]; rfl
    have hnone : (((s.committedB k m).takeTrap k r).core k).preempt = none := by
      rw [hu, hB]
      exact (Core.commitB_preempt c m).trans hpre
    refine ⟨_, hexec, ?_⟩
    rw [State.settle_of_rolled hroll, State.takeRequests_of_none hnone, modCore_core_same, hu, hB, hcause]
    exact ⟨rfl, Core.commitB_gen .., congrArg Cut.gen (Core.commitB_cut c m)⟩

/-- Settles O30: the commit by `exec_commitComplete` and `State.committed_core`, commit B by `exec_commitBComplete`. -/
theorem commits : Obligations.Commits := ⟨commitCompletes, commitBCompletes⟩

end Sys2Proof.Machine
end

section
/-! SUPPORT. The dispatch of a staged record: the context it installs (O28). -/

namespace Sys2Proof.Machine

-- Proofs elaborated at once ask for more threads than the memory limit has stacks for.
set_option Elab.async false

/-! ### What a transfer sets up -/

/-- A core with other banks, and with bytes and v registers lost with them. -/
def Core.Banked (c d : Core) : Prop :=
  ∃ b v m n, d = { c with banks := b, v := v, mem := m, notes := n } ∧ (c.v = Vector.replicate 32 0 → v = Vector.replicate 32 0)

section
variable {c d e : Core}

theorem Core.Banked.refl (c : Core) : c.Banked c := ⟨c.banks, c.v, c.mem, c.notes, rfl, id⟩

theorem Core.Banked.trans (h : c.Banked d) (h' : d.Banked e) : c.Banked e := by
  obtain ⟨b, v, m, n, rfl, hv⟩ := h
  obtain ⟨b', v', m', n', rfl, hv'⟩ := h'
  exact ⟨b', v', m', n', rfl, fun h => hv' (hv h)⟩

theorem Core.Banked.v_zero (h : c.Banked d) (hc : c.v = Vector.replicate 32 0) : d.v = Vector.replicate 32 0 := by
  obtain ⟨b, v, m, n, rfl, hv⟩ := h
  exact hv hc

/-- Everything but banks, v registers, local store and notes is as it was. -/
theorem Core.Banked.keeps (h : c.Banked d) {α : Type} (g : Core → α)
    (hg : ∀ (c : Core) b v m n, g { c with banks := b, v := v, mem := m, notes := n } = g c := by exact fun _ _ _ _ _ => rfl) :
    g d = g c := by
  obtain ⟨b, v, m, n, rfl, -⟩ := h
  exact hg c b v m n

theorem Core.modBank_banked (c : Core) (k : Nat) (f : BankSt → BankSt) : c.Banked (c.modBank k f) :=
  ⟨_, c.v, c.mem, c.notes, rfl, id⟩

theorem Core.loseBank_banked (c : Core) (k : Nat) : c.Banked (c.loseBank k) := by
  unfold Core.loseBank
  split
  · exact ⟨c.banks, c.v, _, c.notes, rfl, id⟩
  · refine ⟨c.banks, _, c.mem, _, rfl, fun h => ?_⟩
    ext i hi : 1
    simp only [Vector.getElem_ofFn, h, Fin.getElem_fin, Vector.getElem_replicate, ite_self]

theorem Core.bankRecord_banked (c : Core) (r : Nat × Nat × Nat) : c.Banked (c.bankRecord r) := by
  unfold Core.bankRecord
  induction List.range r.2.1 generalizing c with
  | nil => exact .refl c
  | cons i l ih =>
    refine Core.Banked.trans ?_ (ih _)
    dsimp only
    split
    · exact c.modBank_banked ..
    · exact c.modBank_banked ..
    · exact (c.modBank_banked ..).trans (Core.loseBank_banked ..)

theorem Core.bankRecords_banked (c : Core) (l : List (Nat × Nat × Nat)) : c.Banked (l.foldl Core.bankRecord c) := by
  induction l generalizing c with
  | nil => exact .refl c
  | cons r l ih => exact (c.bankRecord_banked r).trans (ih _)

end

/-! ### A new task's context -/

section
variable (c : Core) (k : CoreId) (b : Bind) (x : Image) (regs : List (BitVec 8))

/-- The context of a new task before its image's bank records (R23, R125, R142). -/
def Core.launchBase : Core := c.launch k b { x with banks := [] } regs

theorem Core.launch_banked : (c.launchBase k b x regs).Banked (c.launch k b x regs) := Core.bankRecords_banked ..

theorem Core.launch_sq (q : Fin 4) : (c.launch k b x regs).sq q = { SeqSt.reset with
    pc := BitVec.ofNat 48 (x.entries.getD q.val 0), s := Vector.ofFn fun r : Fin 32 => initReg regs q r } := by
  refine ((c.launch_banked k b x regs).keeps fun u => u.sq q).trans ?_
  simp [Core.launchBase, Core.launch, Core.sq]

theorem Core.launch_cut_pcs (q : Fin 4) : (c.launch k b x regs).cut.pcs[q] = BitVec.ofNat 48 (x.entries.getD q.val 0) := by
  refine ((c.launch_banked k b x regs).keeps fun u => u.cut.pcs[q]).trans ?_
  simp [Core.launchBase, Core.launch]

/-! ### The context of a node-boundary resume -/

variable (o : Core)

/-- The context of a node-boundary resume before its image's bank records (R314). -/
def Core.resumeBase : Core := c.nodeResume k b { x with banks := [] } regs o

theorem Core.nodeResume_banked : (c.resumeBase k b x regs o).Banked (c.nodeResume k b x regs o) := Core.bankRecords_banked ..

theorem Core.nodeResume_sq (q : Fin 4) : (c.nodeResume k b x regs o).sq q = { SeqSt.reset with
    pc := o.cut.pcs[q]
    s := Vector.ofFn fun r : Fin 32 => if q = 0 ∧ 1 ≤ r.val ∧ r.val ≤ 8 then ((o.sq 0).s)[r] else initReg regs q r } := by
  refine ((c.nodeResume_banked k b x regs o).keeps fun u => u.sq q).trans ?_
  simp [Core.resumeBase, Core.nodeResume, Core.sq]

/-- A scalar register of a node-boundary resume: K's s1 to s8 are the recorded ones (R314). -/
theorem initReg_or_saved {q : Fin 4} {r : Fin 32} {v : Word64} :
    (if q = 0 ∧ 1 ≤ r.val ∧ r.val ≤ 8 then v else initReg regs q r) = if r = 0 then 0 else if q = 0 ∧ r.val ≤ 8 then v else
      BitVec.ofNat 64 (leNat ((regs.drop (256 * q.val + 8 * r.val)).take 8)) := by
  by_cases hr : r = 0
  · subst hr
    simp [initReg]
  · have hpos : 1 ≤ r.val := Nat.one_le_iff_ne_zero.mpr fun h => hr (Fin.ext h)
    simp [initReg, hr, hpos, field]

theorem Core.restore_sq (rc : Nat) (q : Fin 4) : (c.restore k rc b x o).sq q = { o.sq q with
    b := Vector.replicate 4 0, arrival := none, pend := [], stall := none, pay := 0, fresh := q == 0 && o.gen != 0 } :=
  Vector.getElem_ofFn _

theorem Core.restore_acc (rc : Nat) (a : Fin 4) : (c.restore k rc b x o).acc[a] = { o.acc[a] with dirty := false } :=
  Vector.getElem_map ..

theorem Core.restore_tile (rc : Nat) (i : Fin 8) : (c.restore k rc b x o).tiles[i] = { o.tiles[i] with fills := 0, reads := 0 } :=
  Vector.getElem_map ..

theorem Core.restore_v (rc : Nat) : (c.restore k rc b x o).v = o.v := rfl

/-- The cut, the masks, the special registers and the windows of a context. -/
def Core.specials (c : Core) := (c.cut, c.m, c.vl, c.fmt, c.tshape, c.abfttol, c.histp, c.fmterr, c.drainpos, c.clkdiv, c.wins)

theorem Core.restore_specials (rc : Nat) : (c.restore k rc b x o).specials = o.specials := rfl

end

/-! ### What a record that takes up a saved context returns -/

/-- The identity of a context taken up by a record on a die, with the record's limits (R314). -/
def Core.TakesUp (b : Bind) (d : Fin 2) (o u : Core) : Prop :=
  u.rgncnt = 0 ∧ u.rgnmax = BitVec.ofNat 24 (max 0x400 b.rgnlimit) ∧ u.retrylim = BitVec.ofNat 4 b.retry ∧ u.retrycnt = 0 ∧
    u.share = BitVec.ofNat 5 b.share ∧ u.gen = o.gen ∧ u.pts = o.pts ∧ u.seqid = o.seqid ∧ bvf u.touched d.val 1 = 1 ∧
    ∀ q, (u.sq q).b = Vector.replicate 4 0 ∧ (u.sq q).pend = [] ∧ (u.sq q).arrival = none

theorem bvf_or_dieBit : ∀ (x : BitVec 2) (d : Fin 2), bvf (x ||| dieBit d) d.val 1 = 1 := by decide

theorem Core.nodeResume_takesUp (c : Core) (k : CoreId) (b : Bind) (x : Image) (regs : List (BitVec 8)) (o : Core) :
    o.TakesUp b (dieOf k) (c.nodeResume k b x regs o) := by
  have h := c.nodeResume_banked k b x regs o
  refine ⟨h.keeps Core.rgncnt, h.keeps Core.rgnmax, h.keeps Core.retrylim, h.keeps Core.retrycnt, h.keeps Core.share,
    h.keeps Core.gen, h.keeps Core.pts, h.keeps Core.seqid, ?_, fun q => ?_⟩
  · rw [h.keeps Core.touched]
    exact bvf_or_dieBit ..
  · rw [Core.nodeResume_sq]
    exact ⟨rfl, rfl, rfl⟩

theorem Core.restore_takesUp (c : Core) (k : CoreId) (rc : Nat) (b : Bind) (x : Image) (o : Core) :
    o.TakesUp b (dieOf k) (c.restore k rc b x o) := by
  refine ⟨rfl, rfl, rfl, rfl, rfl, rfl, rfl, rfl, bvf_or_dieBit .., fun q => ?_⟩
  rw [Core.restore_sq]
  exact ⟨rfl, rfl, rfl⟩

/-! ### The installation -/

/-- The task that a record starts (R313), which loads until an rc. -/
def Bind.loading (b : Bind) (n stamp : Nat) : TaskSt :=
  ⟨b.pid, b.gang, BitVec.ofNat 4 b.task, b.gsize, b.tag, b.image, b.save, b.regs, b.table, .loading n, none, 0, stamp⟩

/-- A context as installed on a core (R317): it loads until rc `n`, and the core's counters and a wait fetched again may differ. -/
def Core.Installs (c : Core) (b : Bind) (members : List (Nat × Fin 16)) (n : Nat) (u : Core) : Prop :=
  ∃ cfg val part rte nrte m stamp, u = { c with
    cntcfg := cfg, cntval := val, cntpart := part, rte := rte, nrte := nrte, mid := m
    staged := none, task := some (b.loading n stamp), members := members } ∧ (c.mid = none → m = none)

section
variable {c u : Core} {b : Bind} {l : List (Nat × Fin 16)} {n : Nat} (h : c.Installs b l n u)
include h

theorem Core.Installs.task : ∃ stamp, u.task = some (b.loading n stamp) := by
  obtain ⟨_, _, _, _, _, _, stamp, rfl, _⟩ := h
  exact ⟨stamp, rfl⟩

theorem Core.Installs.staged : u.staged = none := by
  obtain ⟨_, _, _, _, _, _, _, rfl, _⟩ := h
  rfl

theorem Core.Installs.members : u.members = l := by
  obtain ⟨_, _, _, _, _, _, _, rfl, _⟩ := h
  rfl

theorem Core.Installs.mid (hm : c.mid = none) : u.mid = none := by
  obtain ⟨_, _, _, _, _, _, _, rfl, hnone⟩ := h
  exact hnone hm

/-- The rest of the context is as set up. -/
theorem Core.Installs.keeps {α : Type} (g : Core → α)
    (hg : ∀ (c : Core) cfg val part rte nrte m t l, g { c with
      cntcfg := cfg, cntval := val, cntpart := part, rte := rte, nrte := nrte, mid := m, staged := none, task := t, members := l } =
        g c := by exact fun _ _ _ _ _ _ _ _ _ => rfl) : g u = g c := by
  obtain ⟨_, _, _, _, _, _, _, rfl, _⟩ := h
  exact hg ..

end

section
variable {s t : State}

theorem State.memberships_eq (h : t.scene = s.scene) (key : TaskKey) : t.memberships key = s.memberships key := by
  rw [State.memberships, State.memberships, State.teams_eq h]

theorem State.takeSaved_eq (h : t.saved = s.saved) (b : Bind) : t.takeSaved b = s.takeSaved b := by
  rw [State.takeSaved, State.takeSaved, State.savedFor, State.savedFor, h]

/-- The routes of the gang's other tasks are checked on their cores alone. -/
theorem State.fixRoutes_core (s : State) (k : CoreId) (key : TaskKey) : (s.fixRoutes k key).core k = s.core k := by
  refine State.foldl_keeps (P := fun t => t.core k = s.core k) (fun t j ht => ?_) _ rfl
  split
  · split
    · rename_i hj
      obtain ⟨n, hn⟩ := State.fixEntries_free t j k key.idx.toNat ((t.core j).rte.toList.take (t.core j).nrte)
      refine (modCore_core_other _ _ (Ne.symm hj.1)).trans ?_
      exact (congrArg (fun u : State => u.core k) hn).trans ht
    · exact ht
  · exact ht

theorem State.refetch_of_none {k : CoreId} (h : (s.core k).mid = none) : s.refetch k = s := by
  rw [State.refetch, h]

theorem State.install_core (s : State) (k : CoreId) (b : Bind) (c : Core) (rte : List (BitVec 32)) :
    ∃ n, s.rc < n ∧ c.Installs b (s.memberships b.key) n ((s.install k b c rte).core k) ∧
      (s.install k b c rte).saved = s.takeSaved b := by
  have hw := State.worldSwitch_scene s k b.pid
  unfold State.install
  dsimp only [State.drawDelay]
  generalize s.worldSwitch k b.pid = w at hw
  generalize hu : State.setCore _ k _ = u
  have hcore := congrArg (fun t : State => t.core k) hu
  have hsaved : u.saved = s.takeSaved b := by
    rw [← hu, ← State.takeSaved_eq (State.saved_eq hw)]
    rfl
  simp only [State.core_setCore_same] at hcore
  have hmid : (u.core k).mid = c.mid := by rw [← hcore]
  have hr := State.refetch_core (u.fixRoutes k b.key) k k
  have hn : (u.core k).mid = none → (((u.fixRoutes k b.key).refetch k).core k).mid = none := fun h => by
    rw [State.refetch_of_none (by rw [State.fixRoutes_core, h]), State.fixRoutes_core, h]
  have hs : ((u.fixRoutes k b.key).refetch k).scene = u.scene := (State.refetch_scene ..).trans (State.fixRoutes_scene ..)
  generalize (u.fixRoutes k b.key).refetch k = v at hr hn hs
  rw [State.fixRoutes_core, ← hcore] at hr
  refine ⟨w.rc + 1 + Config.freeDelay w.free, by rw [State.rc_eq hw]; omega, ?_, ?_⟩
  · have hlog : ∀ r, (State.contextEvent (if b.kind = 4 then v.elog (dieOf k) b.pid r else v) k b.key
        ((if b.kind = 4 then v.elog (dieOf k) b.pid r else v).core k).gen b.kind 0).core k = v.core k := fun r =>
      State.core_of_cores ((State.contextEvent_cores ..).trans (State.ite_cores _ _ (State.elog_cores ..) rfl)) k
    rw [hlog, hr]
    exact ⟨_, _, _, _, _, _, _, by rw [← State.memberships_eq hw]; rfl, fun h => hn (hmid.trans h)⟩
  · have hlog : ∀ r, (State.contextEvent (if b.kind = 4 then v.elog (dieOf k) b.pid r else v) k b.key
        ((if b.kind = 4 then v.elog (dieOf k) b.pid r else v).core k).gen b.kind 0).scene = v.scene := fun r =>
      (State.contextEvent_scene ..).trans (State.ite_scene _ _ (State.elog_scene ..) rfl)
    rw [State.saved_eq (hlog _), State.saved_eq hs, hsaved]

end

/-! ### The dispatch -/

section
variable {k : CoreId} {s : State} {b : Bind}

theorem State.canDispatch_of_task {y : TaskSt} (h : (s.core k).task = some y) : s.canDispatch k = false := by
  unfold State.canDispatch
  dsimp only
  split
  · rfl
  · simp [h]

theorem State.routesFor_of_no_routes {x : Image} (h : x.routes = []) : s.routesFor b x = [] := by
  have hrte : x.rte = [] := by rw [Image.rte, h, List.map_nil]
  unfold State.routesFor
  split
  · exact hrte
  · exact hrte
  · split
    · rw [h, List.length_nil, List.take_zero]
    · exact hrte

theorem exec_dispatch_of_active {y : TaskSt} (h : (s.core k).task = some y) : exec (.dispatch k) s = .next s := by
  change execDispatch k s = _
  rw [execDispatch, State.canDispatch_of_task h]
  rfl

section
variable (hb : (s.core k).staged = some b) (hcan : s.canDispatch k = true)
include hb hcan

/-- A record that fails a check is refused (R318). -/
theorem exec_dispatch_refuses {code : Nat} (hcode : s.bindCode k b = some code) :
    exec (.dispatch k) s = .next (s.refuse k b code) := by
  change execDispatch k s = _
  unfold execDispatch
  simp only [hcan, hb, hcode]
  rfl

/-- A record that passes its checks installs its context (R317). -/
theorem exec_dispatch_installs (hcode : s.bindCode k b = none) {x : Image}
    (hx : s.loadImage (dieOf k) b.pid b.image.toNat (lscap - 0x200000 * b.share) = .ok x) (hr : x.routes = [])
    (hmem : (s.memberships b.key).length ≤ 4) {c : Core} (hc : s.contextFor k b x = some c) :
    ∃ (t : State) (n : Nat), exec (.dispatch k) s = .next t ∧ s.rc < n ∧
      c.Installs b (s.memberships b.key) n (t.core k) ∧ t.saved = s.takeSaved b := by
  have hlen : ¬ 4 < (s.memberships b.key).length := by omega
  have hscene := State.loadCount_scene s k b
  obtain ⟨n, hn, hcore, hsaved⟩ := (s.loadCount k b).install_core k b c []
  rw [State.rc_eq hscene] at hn
  rw [State.memberships_eq hscene] at hcore
  refine ⟨(s.loadCount k b).install k b c [], n, ?_, hn, hcore, hsaved.trans (State.takeSaved_eq (State.saved_eq hscene) b)⟩
  change execDispatch k s = _
  unfold execDispatch
  simp only [hcan, hb, hcode, hx, State.routesFor_of_no_routes hr, State.checkRoutes, hlen, hc]
  rfl

end

theorem State.refuse_eq (code : Nat) (hp : b.part < 16) (ht : b.table = false) (hk : b.kind ≠ 4) : s.refuse k b code =
    (s.modCore k fun c => { c with staged := none }).status (dieOf k) code b.part b.gang b.task 0 b.tag 0 := by
  unfold State.refuse
  simp only [hp, ht, hk, if_true, if_false, Bool.false_eq_true]

/-- What the save area holds is what is read (R331). -/
theorem State.areaBytes_of_read {d : Fin 2} {p : PartId} {base off n : Nat} {old bs : List (BitVec 8)} (hl : old.length = n)
    (hn : n < 65536) (h : s.vread d p 2 (base + off) n = some bs) : s.areaBytes d p base off old = bs := by
  rw [State.areaBytes, hl, Nat.div_eq_of_lt hn, h]
  rfl

end

/-- Staging, refusal, and the dispatch of a record of KIND 1. -/
theorem newTasks : Claims.NewTasks := by
  intro k s c
  refine ⟨fun _ => rfl, fun y => exec_dispatch_of_active, fun b code hb hcan hcode hp ht hk => ?_,
    fun b x r hb hcan hk hcode hx hr hmem hregs => ?_⟩
  · rw [exec_dispatch_refuses hb hcan hcode, State.refuse_eq code hp ht hk]
    rfl
  · have hc : s.contextFor k b x = some (c.launch k b x r) := by
      rw [State.contextFor, hk]
      exact congrArg (Option.map _) hregs
    obtain ⟨t, n, hexec, hn, hi, -⟩ := exec_dispatch_installs hb hcan hcode hx hr hmem hc
    have h := c.launch_banked k b x r
    obtain ⟨stamp, htask⟩ := hi.task
    refine ⟨t, b.loading n stamp, n, hexec, htask, rfl, rfl, rfl, rfl, rfl, hn, hi.staged,
      (hi.keeps Core.gen).trans (h.keeps Core.gen), (hi.keeps Core.rgncnt).trans (h.keeps Core.rgncnt),
      (hi.keeps Core.rgnmax).trans (h.keeps Core.rgnmax), (hi.keeps Core.retrylim).trans (h.keeps Core.retrylim),
      (hi.keeps Core.share).trans (h.keeps Core.share), hi.mid (h.keeps Core.mid), hi.members, fun q => ?_⟩
    have hsq := (hi.keeps fun u => u.sq q).trans (c.launch_sq k b x r q)
    have hcut := (hi.keeps fun u => u.cut.pcs[q]).trans (c.launch_cut_pcs k b x r q)
    dsimp only
    rw [hsq, hcut]
    exact ⟨rfl, rfl, rfl, rfl, rfl, rfl, rfl, fun i => Vector.getElem_ofFn _⟩

/-! ### The context of a restore or a migration -/

section
variable {s : State} {d : Fin 2} {b : Bind}

theorem vBytes_length {bits : Nat} (v : BitVec bits) : (vBytes v).length = bits / 8 := leBytes_length ..

theorem Core.bankMap_length (c : Core) : c.bankMap.length = 65 := leBytes_length ..

/-- The context that a restore takes up (R331): the saved one, with what the save area holds now. -/
def State.areaContext (s : State) (d : Fin 2) (b : Bind) (o : Core) : Core := o.reread (s.areaBytes d b.pid b.save.toNat)

/-- Only what the laid-out sections hold is read again. -/
theorem State.areaContext_keeps {α : Type} (g : Core → α) (s : State) (d : Fin 2) (b : Bind) (o : Core)
    (hg : ∀ (c : Core) bs f m v t mem, g { c with banks := bs, frec := f, mid := m, v := v, tiles := t, mem := mem } = g c := by
      exact fun _ _ _ _ _ _ _ => rfl) : g (s.areaContext d b o) = g o := by
  unfold State.areaContext Core.reread
  exact hg ..

theorem State.areaContext_takesUp {o u : Core} (h : (s.areaContext d b o).TakesUp b d u) : o.TakesUp b d u := by
  obtain ⟨hcnt, hmax, hlim, hretry, hshare, hgen, hpts, hid, htouched, hseqs⟩ := h
  exact ⟨hcnt, hmax, hlim, hretry, hshare, hgen.trans (State.areaContext_keeps Core.gen ..),
    hpts.trans (State.areaContext_keeps Core.pts ..), hid.trans (State.areaContext_keeps Core.seqid ..), htouched, hseqs⟩

/-- A tile is read from the save area (R207). -/
theorem State.areaContext_tile {o : Core} {i : Fin 8} {bs : List (BitVec 8)}
    (h : s.vread d b.pid 2 (b.save.toNat + (0x24000 + 16384 * i.val)) 16384 = some bs) :
    ((s.areaContext d b o).tiles[i]).data = BitVec.ofNat 131072 (leNat bs) := by
  have hi : (s.areaContext d b o).tiles[i] = { o.tiles[i] with
      data := bytesV 131072 (s.areaBytes d b.pid b.save.toNat (0x24000 + 16384 * i.val) (vBytes (o.tiles[i]).data)) } :=
    Vector.getElem_ofFn _
  rw [hi, State.areaBytes_of_read (vBytes_length _) (by decide) h, bytesV]

/-- A v register of a bank that is not off is read from the save area (R203). -/
theorem State.areaContext_v {o : Core} {r : Fin 32} {map bs : List (BitVec 8)}
    (hmap : s.vread d b.pid 2 (b.save.toNat + 0x400) 65 = some map)
    (hv : s.vread d b.pid 2 (b.save.toNat + (0x2000 + 256 * r.val)) 256 = some bs)
    (hon : leNat map / 4 ^ (256 + r.val / 8) % 4 < 2) : (s.areaContext d b o).v[r] = BitVec.ofNat 2048 (leNat bs) := by
  have hr : (s.areaContext d b o).v[r] =
      if decide (leNat (s.areaBytes d b.pid b.save.toNat 0x400 o.bankMap) / 4 ^ (256 + r.val / 8) % 4 < 2) then
        bytesV 2048 (s.areaBytes d b.pid b.save.toNat (0x2000 + 256 * r.val) (vBytes o.v[r])) else o.v[r] :=
    Vector.getElem_ofFn _
  rw [hr, State.areaBytes_of_read o.bankMap_length (by decide) hmap, if_pos (by simpa using hon),
    State.areaBytes_of_read (vBytes_length _) (by decide) hv, bytesV]

/-- A context that waits for nothing is restored so. -/
theorem Core.reread_mid {o : Core} (h : o.mid = none) (rd : Nat → List (BitVec 8) → List (BitVec 8)) : (o.reread rd).mid = none :=
  congrArg (Option.map _) h

theorem Core.restore_mid {c o : Core} {k : CoreId} {rc : Nat} {x : Image} (h : o.mid = none) : (c.restore k rc b x o).mid = none :=
  congrArg (Option.map _) h

theorem State.takeSaved_of_full {y : Saved} (hy : s.savedFor b = some y) (hs : s.saved = [y]) (hk : b.kind ≠ 3) :
    s.takeSaved b = [] := by
  simp [State.takeSaved, hy, hs, hk]

theorem State.takeSaved_of_node {y : Saved} (hy : s.savedFor b = some y) (hs : s.saved = [y]) (hk : b.kind = 3) :
    s.takeSaved b = [{ y with depth := 0 }] := by
  simp [State.takeSaved, hy, hs, hk]

end

/-- The dispatch of a record that takes up a saved context. -/
theorem returningTasks : Claims.ReturningTasks := by
  intro k s b x y c d o taken hb hcan hcode hx hr hmem hy hs
  have htaken {t : State} {e : Core} {n : Nat} (hn : s.rc < n) (hi : e.Installs b (s.memberships b.key) n (t.core k))
      (he : o.TakesUp b d e) : taken t := by
    obtain ⟨hcnt, hmax, hlim, hretry, hshare, hgen, hpts, hid, htouched, hseqs⟩ := he
    obtain ⟨stamp, htask⟩ := hi.task
    refine ⟨⟨_, n, htask, rfl, rfl, rfl, rfl, rfl, hn⟩, hi.staged, (hi.keeps Core.rgncnt).trans hcnt,
      (hi.keeps Core.rgnmax).trans hmax, (hi.keeps Core.retrylim).trans hlim, (hi.keeps Core.retrycnt).trans hretry,
      (hi.keeps Core.share).trans hshare, hi.members, (hi.keeps Core.gen).trans hgen, (hi.keeps Core.pts).trans hpts,
      (hi.keeps Core.seqid).trans hid, (hi.keeps fun u => bvf u.touched d.val 1).trans htouched, fun q => ?_⟩
    rw [hi.keeps fun u => u.sq q]
    exact hseqs q
  refine ⟨fun r hk hregs => ?_, fun hk => ?_⟩
  · let o' : Core := { o with frec := FaultRec.ofBytes (s.areaBytes d b.pid b.save.toNat 0x100 o.frec.bytes) }
    have hc : s.contextFor k b x = some (c.nodeResume k b x r o') := by
      simp only [State.contextFor, hk, hy]
      rw [hregs]
    obtain ⟨t, n, hexec, hn, hi, hsaved⟩ := exec_dispatch_installs hb hcan hcode hx hr hmem hc
    have h := c.nodeResume_banked k b x r o'
    refine ⟨t, hexec, htaken hn hi (c.nodeResume_takesUp k b x r o'), hsaved.trans (State.takeSaved_of_node hy hs hk),
      (hi.keeps fun u => u.cut.pcs).trans (h.keeps fun u => u.cut.pcs),
      (hi.keeps fun u => u.cut.tag).trans (h.keeps fun u => u.cut.tag),
      (hi.keeps fun u => u.cut.gen).trans (h.keeps fun u => u.cut.gen), hi.mid (h.keeps Core.mid),
      (hi.keeps Core.v).trans (h.v_zero rfl), (hi.keeps Core.m).trans (h.keeps Core.m), (hi.keeps Core.acc).trans (h.keeps Core.acc),
      (hi.keeps Core.tiles).trans (h.keeps Core.tiles), (hi.keeps Core.tshape).trans (h.keeps Core.tshape), fun q => ?_⟩
    rw [(hi.keeps fun u => u.sq q).trans (c.nodeResume_sq k b x r o' q)]
    exact ⟨rfl, rfl, rfl, fun i => (Vector.getElem_ofFn _).trans (initReg_or_saved r)⟩
  · have hk3 : b.kind ≠ 3 := by omega
    have hc : s.contextFor k b x = some (c.restore k s.rc b x (s.areaContext d b o)) := by
      have hmap := congrArg (Option.map fun y : Saved => c.restore k s.rc b x (s.areaContext d b y.ctx)) hy
      rcases hk with hk | hk <;> rw [State.contextFor, hk] <;> exact hmap
    obtain ⟨t, n, hexec, hn, hi, hsaved⟩ := exec_dispatch_installs hb hcan hcode hx hr hmem hc
    have hspecials := (hi.keeps Core.specials).trans ((c.restore_specials k b x _ s.rc).trans (State.areaContext_keeps Core.specials ..))
    simp only [Core.specials, Prod.mk.injEq] at hspecials
    obtain ⟨hcut, hm, hvl, hfmt, htshape, htol, hhistp, hfmterr, hpos, hclk, hwins⟩ := hspecials
    refine ⟨t, hexec, htaken hn hi (State.areaContext_takesUp (c.restore_takesUp k s.rc b x _)),
      hsaved.trans (State.takeSaved_of_full hy hs hk3), hcut, fun h => hi.mid (Core.restore_mid (Core.reread_mid h _)), hm, hvl, hfmt,
      htshape, htol, hhistp, hfmterr, hpos, hclk, hwins, fun a => ?_, fun q => ?_, fun i bs hbs => ?_, fun r map bs hmap hbs hon => ?_⟩
    · rw [(hi.keeps fun u => u.acc[a]).trans (c.restore_acc k b x _ s.rc a), State.areaContext_keeps fun u => u.acc[a]]
      exact ⟨rfl, rfl, rfl⟩
    · rw [(hi.keeps fun u => u.sq q).trans (c.restore_sq k b x _ s.rc q), State.areaContext_keeps fun u => u.sq q]
      exact ⟨rfl, rfl, rfl, rfl, rfl⟩
    · rw [(hi.keeps fun u => u.tiles[i]).trans (c.restore_tile k b x _ s.rc i)]
      exact State.areaContext_tile hbs
    · rw [(hi.keeps Core.v).trans (c.restore_v k b x _ s.rc)]
      exact State.areaContext_v hmap hbs hon

/-- Settles O28: a dispatch installs the context of its record (`exec_dispatch_installs`). -/
theorem dispatching : Obligations.Dispatching := ⟨newTasks, returningTasks⟩

end Sys2Proof.Machine
end

section
/-! SUPPORT. The words of every instruction decode to it (O56), the words of major 0 (O54), and words that the spec writes
out (O55). For each format a lemma gives the fields of its words, and the decoder of its map reads them. -/

namespace Sys2Proof

open Machine

/-! ### Fields of encoded words -/

/-- A field below a place does not see what stands at or above it. -/
theorem field_add_mul {m lo len : Nat} (h : lo + len ≤ m) (k x : Nat) :
    (k * 2 ^ m + x) / 2 ^ lo % 2 ^ len = x / 2 ^ lo % 2 ^ len := by
  obtain ⟨e, rfl⟩ := Nat.exists_eq_add_of_le h
  rw [show k * 2 ^ (lo + len + e) = 2 ^ lo * (2 ^ len * (k * 2 ^ e)) by rw [Nat.pow_add, Nat.pow_add]; ring,
    Nat.mul_add_div (Nat.two_pow_pos lo), Nat.mul_add_mod]

theorem fld_ofNat {lo len : Nat} (h : lo + len ≤ 32) (x : Nat) : fld (BitVec.ofNat 32 x) lo len = x / 2 ^ lo % 2 ^ len := by
  rw [fld, BitVec.toNat_ofNat, ← field_add_mul h (x / 2 ^ 32), Nat.div_add_mod']

theorem bit_lt (b : Bool) : bit b < 2 := by cases b <;> decide

theorem bitAt_of_fld {w : Word32} {i : Nat} {b : Bool} (h : fld w i 1 = bit b) : bitAt w i = b := by
  rw [bitAt, h]
  cases b <;> rfl

section
variable {h : Hdr} {c : Comp} {n x lo len : Nat}

/-- A field of the operands of a first word. -/
theorem fld_enc1 (hf : lo + len ≤ 18) : fld (enc1 h n x) lo len = x / 2 ^ lo % 2 ^ len := by
  have hw : h.ring.bits + bit h.gn * 2 ^ 27 + h.gp.val * 2 ^ 24 + n * 2 ^ 18 + x =
      (h.ring.bits / 2 ^ 18 + bit h.gn * 2 ^ 9 + h.gp.val * 2 ^ 6 + n) * 2 ^ 18 + x := by
    rw [Ring.bits]
    omega
  rw [enc1, hw, fld_ofNat (by omega), field_add_mul hf]

/-- A field of a second word below its signals. -/
theorem fld_enc2 (hf : lo + len ≤ 28) : fld (enc2 c x) lo len = x / 2 ^ lo % 2 ^ len := by
  have hw : bit c.sp * 2 ^ 29 + bit c.sn * 2 ^ 28 + x = (bit c.sp * 2 + bit c.sn) * 2 ^ 28 + x := by omega
  rw [enc2, hw, fld_ofNat (by omega), field_add_mul hf]

/-- A first word with operands of 18 bits has its major and its head. -/
theorem majOf_enc1 (hn : n < 64) (hx : x < 2 ^ 18) : majOf (enc1 h n x) = n := by
  have := h.gp.isLt
  rw [majOf, enc1, fld_ofNat (by decide), Ring.bits]
  omega

theorem hdrOf_enc1 (hn : n < 64) (hx : x < 2 ^ 18) : hdrOf (enc1 h n x) = h := by
  obtain ⟨⟨wp, wn, sp, sn⟩, gn, gp⟩ := h
  have h31 := bit_lt wp
  have h30 := bit_lt wn
  have h29 := bit_lt sp
  have h28 := bit_lt sn
  have h27 := bit_lt gn
  have h24 := gp.isLt
  have hgp : f8 (enc1 ⟨⟨wp, wn, sp, sn⟩, gn, gp⟩ n x) 24 = gp := by
    refine Fin.ext ?_
    rw [f8_val, enc1, fld_ofNat (by decide), Ring.bits]
    dsimp only
    omega
  rw [hdrOf, ringOf, hgp]
  congr 1
  · congr 1
    all_goals
      refine bitAt_of_fld ?_
      rw [enc1, fld_ofNat (by decide), Ring.bits]
      dsimp only
      omega
  · refine bitAt_of_fld ?_
    rw [enc1, fld_ofNat (by decide), Ring.bits]
    dsimp only
    omega

theorem compOf_enc2 (hx : x < 2 ^ 28) : compOf (enc2 c x) = c := by
  obtain ⟨sp, sn⟩ := c
  have h29 := bit_lt sp
  have h28 := bit_lt sn
  rw [compOf]
  congr 1
  all_goals
    refine bitAt_of_fld ?_
    rw [enc2, fld_ofNat (by decide)]
    dsimp only
    omega

/-- Its two highest bits are zero. -/
theorem second_enc2 (hx : x < 2 ^ 28) (k : DecRes) : second (enc2 c x) k = k := by
  have h29 := bit_lt c.sp
  have h28 := bit_lt c.sn
  have h30 : fld (enc2 c x) 30 2 = 0 := by
    rw [enc2, fld_ofNat (by decide)]
    omega
  rw [second, h30]
  rfl

theorem encR_eq_enc1 (r : Ring) : encR r n x = enc1 ⟨r, false, 0⟩ n x := by simp [encR, enc1, bit]

end

/-! ### Codes decoded -/

theorem Sel.code_lt (a : Sel) : a.code < 64 := by
  cases a <;> simp only [Sel.code] <;> omega

theorem Dest.code_lt (d : Dest) : d.code < 64 := by
  cases d <;> simp only [Dest.code] <;> omega

theorem Sel.ofCode_code {q : Seq} {a : Sel} (h : a.ok q = true) : Sel.ofCode q a.code = some a := by
  cases a with
  | reg r => simp [Sel.ofCode, Sel.code, Sel.ok]
  | latch b =>
    have h1 : ¬ 32 + b.val < 32 := by omega
    have h2 : 32 + b.val < 36 := by omega
    simp [Sel.ofCode, Sel.code, h2, Sel.ok]
  | pop m =>
    have h1 : ¬ 40 + m.val < 32 := by omega
    have h2 : ¬ 40 + m.val < 36 := by omega
    have h4 : 40 + m.val < 48 := by omega
    simp [Sel.ofCode, Sel.code, h1, h2, h4, h]
  | peek m =>
    have h1 : ¬ 48 + m.val < 32 := by omega
    have h2 : ¬ 48 + m.val < 36 := by omega
    have h3 : ¬ 48 + m.val < 40 := by omega
    have h5 : 48 + m.val < 56 := by omega
    simp [Sel.ofCode, Sel.code, h1, h2, h3, h5, h]

theorem withSel_code {q : Seq} {a : Sel} (h : a.ok q = true) (k : Sel → DecRes) : withSel q a.code k = k a := by
  rw [withSel, Sel.ofCode_code h, withVal]

theorem Fate.ofCode_code (f : Fate) : Fate.ofCode f.code = some f := by cases f <;> rfl
theorem SupplyReq.ofCode_code (r : SupplyReq) : SupplyReq.ofCode r.code = some r := by cases r <;> rfl
theorem Sz.ofCode_code (z : Sz) : Sz.ofCode z.code = some z := by cases z <;> rfl
theorem Esz.ofCode_code (z : Esz) : Esz.ofCode z.code = some z := by cases z <;> rfl
theorem VITy.ofCode_code (t : VITy) : VITy.ofCode t.code = some t := by cases t <;> rfl
theorem VFTy.ofCode_code (t : VFTy) : VFTy.ofCode t.code = some t := by cases t <;> rfl
theorem VTy.ofCode_code (t : VTy) : VTy.ofCode t.code = some t := by rcases t with t | t <;> cases t <;> rfl
theorem VCond.ofCode_code (x : VCond) : VCond.ofCode x.code = some x := by cases x <;> rfl
theorem Fmt.ofCode_code (f : Fmt) : Fmt.ofCode f.code = some f := by cases f <;> rfl
theorem RMode.ofCode_code (m : RMode) : RMode.ofCode m.code = some m := by cases m <;> rfl
theorem Scope.ofCode_code (x : Scope) : Scope.ofCode x.code = x := by cases x <;> rfl

/-! ### Instructions whose words decode to them -/

/-- The words of an instruction decode to it, and are as many as its major has. -/
def RoundTrips (q : Seq) (i : Instr) : Prop :=
  (∃ w : Word32, encode i = [w] ∧ twoWord q (majOf w) = false ∧ ∀ w2 : Word32, decode q w w2 = .ok i) ∨
    ∃ w w2 : Word32, encode i = [w, w2] ∧ twoWord q (majOf w) = true ∧ decode q w w2 = .ok i

/-- The decoder of a major in a sequencer's map. -/
def decMap (q : Seq) (n : Nat) (w w2 : Word32) : DecRes :=
  if n < 24 then decCommon q n w w2
  else match q with
    | .c => decCompute q n w w2
    | _ => if n < 40 then decAccess q n w w2 else decControl q n w w2

theorem decode_eq_decMap {q : Seq} {n : Nat} {w : Word32} (hm : majOf w = n) (hok : majorOk q n = true) (w2 : Word32) :
    decode q w w2 = decMap q n w w2 := by
  subst hm
  simp only [decode, hok]
  rfl

theorem majorOk_lt {q : Seq} {n : Nat} (h : majorOk q n = true) : n < 64 := by
  cases q <;> simp [majorOk] at h <;> omega

/-- A field within a longer one. -/
theorem fld_within {w : Word32} {m x lo len : Nat} (hx : fld w 0 m = x) (hf : lo + len ≤ m) :
    fld w lo len = x / 2 ^ lo % 2 ^ len := by
  have h := field_add_mul hf (w.toNat / 2 ^ m) (w.toNat % 2 ^ m)
  rw [Nat.div_add_mod'] at h
  rw [← hx, fld, fld, Nat.pow_zero, Nat.div_one, h]

section
variable {q : Seq} {i : Instr} {h : Hdr} {c : Comp} {n x y : Nat}

theorem RoundTrips.one (hok : majorOk q n = true) (h1 : twoWord q n = false) (hx : x < 2 ^ 18) (henc : encode i = [enc1 h n x])
    (hdec : ∀ w w2, hdrOf w = h → fld w 0 18 = x → decMap q n w w2 = .ok i) : RoundTrips q i := by
  have hm : majOf (enc1 h n x) = n := majOf_enc1 (majorOk_lt hok) hx
  refine .inl ⟨_, henc, by rwa [hm], fun w2 => ?_⟩
  rw [decode_eq_decMap hm hok]
  refine hdec _ _ (hdrOf_enc1 (majorOk_lt hok) hx) ?_
  rw [fld_enc1 (by decide), Nat.pow_zero, Nat.div_one, Nat.mod_eq_of_lt hx]

theorem RoundTrips.two (hok : majorOk q n = true) (h2 : twoWord q n = true) (hx : x < 2 ^ 18) (hy : y < 2 ^ 28)
    (henc : encode i = [enc1 h n x, enc2 c y])
    (hdec : ∀ w w2, hdrOf w = h → compOf w2 = c → fld w 0 18 = x → (∀ k, second w2 k = k) → fld w2 0 28 = y →
      decMap q n w w2 = .ok i) : RoundTrips q i := by
  have hm : majOf (enc1 h n x) = n := majOf_enc1 (majorOk_lt hok) hx
  refine .inr ⟨_, _, henc, by rwa [hm], ?_⟩
  rw [decode_eq_decMap hm hok]
  refine hdec _ _ (hdrOf_enc1 (majorOk_lt hok) hx) (compOf_enc2 hy) ?_ (second_enc2 hy) ?_
  · rw [fld_enc1 (by decide), Nat.pow_zero, Nat.div_one, Nat.mod_eq_of_lt hx]
  · rw [fld_enc2 (by decide), Nat.pow_zero, Nat.div_one, Nat.mod_eq_of_lt hy]

end

/-! ### Layouts of the first word -/

section
variable {w : Word32}

theorem rrr_lt {d a b : Nat} (hd : d < 64) (ha : a < 64) (hb : b < 64) : rrr d a b < 2 ^ 18 := by
  rw [rrr]
  omega

/-- The fields of the RRR layout (R48). -/
theorem fields_rrr {d a b : Nat} (hx : fld w 0 18 = rrr d a b) (hd : d < 64) (ha : a < 64) (hb : b < 64) :
    fD w = d ∧ fA w = a ∧ fB w = b := by
  rw [fD, fA, fB, fld_within hx (by decide), fld_within hx (by decide), fld_within hx (by decide), rrr]
  omega

/-- A destination in field D (R47). -/
theorem destOf_of_fD {d : Dest} (hD : fD w = d.code) : destOk w = true ∧ destOf w = d := by
  have hsplit : fD w = fld w 17 1 * 2 ^ 5 + fld w 12 5 := fld_append w 12 5 1
  have h17 := fld_lt w 17 1
  have h12 := fld_lt w 12 5
  cases d with
  | reg r =>
    rw [Dest.code] at hD
    have h0 : fld w 17 1 = 0 := by omega
    have hr : f32 w 12 = r := Fin.ext (by rw [f32_val]; omega)
    simp [destOk, destOf, bitAt, h0, hr]
  | latch =>
    rw [Dest.code] at hD
    have h1 : fld w 17 1 = 1 := by omega
    have h0 : fld w 12 5 = 0 := by omega
    simp [destOk, destOf, bitAt, h1, h0]

end

/-- What the decoder reads of a first word with a destination and a source, but for its field B (R47, R48). -/
structure DestWord (q : Seq) (h : Hdr) (d : Dest) (a : Sel) (w : Word32) : Prop where
  head : hdrOf w = h
  destOk : destOk w = true
  dest : destOf w = d
  source : ∀ k, withSel q (fA w) k = k a

/-- What it reads of a second word with a minor, but for its operands (R42). -/
structure MinorWord (c : Comp) (op : Nat) (w2 : Word32) : Prop where
  comp : compOf w2 = c
  high : ∀ k, second w2 k = k
  minor : fld w2 22 6 = op

section
variable {q : Seq} {i : Instr} {h : Hdr} {c : Comp} {d : Dest} {a b : Sel} {n x y : Nat}

theorem DestWord.of_rrr {w : Word32} (hh : hdrOf w = h) (hw : fld w 0 18 = rrr d.code a.code x) (ha : a.ok q = true)
    (hx : x < 64) : DestWord q h d a w ∧ fB w = x := by
  obtain ⟨hD, hA, hB⟩ := fields_rrr hw d.code_lt a.code_lt hx
  obtain ⟨hok, hof⟩ := destOf_of_fD hD
  exact ⟨⟨hh, hok, hof, fun k => by rw [hA, withSel_code ha]⟩, hB⟩

/-- One word with a destination and a source. -/
theorem RoundTrips.dest (ha : a.ok q = true) (henc : encode i = [enc1 h n (rrr d.code a.code x)])
    (hdec : ∀ w w2, DestWord q h d a w → fB w = x → decMap q n w w2 = .ok i) (hok : majorOk q n = true)
    (h1 : twoWord q n = false) (hx : x < 64) : RoundTrips q i := by
  refine .one hok h1 (rrr_lt d.code_lt a.code_lt hx) henc fun w w2 hh hw => ?_
  obtain ⟨hdest, hB⟩ := DestWord.of_rrr hh hw ha hx
  exact hdec w w2 hdest hB

/-- Two words, the first with a destination and a source. -/
theorem RoundTrips.destTwo (ha : a.ok q = true) (henc : encode i = [enc1 h n (rrr d.code a.code x), enc2 c y])
    (hdec : ∀ w w2, DestWord q h d a w → fB w = x → compOf w2 = c → (∀ k, second w2 k = k) → fld w2 0 28 = y →
      decMap q n w w2 = .ok i)
    (hok : majorOk q n = true) (h2 : twoWord q n = true) (hx : x < 64) (hy : y < 2 ^ 28) : RoundTrips q i := by
  refine .two hok h2 (rrr_lt d.code_lt a.code_lt hx) hy henc fun w w2 hh hc hw h30 hy => ?_
  obtain ⟨hdest, hB⟩ := DestWord.of_rrr hh hw ha hx
  exact hdec w w2 hdest hB hc h30 hy

/-! ### The common map (R54 to R61) -/

/-- Major 0 with its fields D and A zero (R55). -/
theorem decMisc_of_fB {w : Word32} (h6 : fld w 6 12 = 0) :
    (fB w = 0 → decMisc w = .ok (.nop (hdrOf w))) ∧ (fB w = 1 → decMisc w = .ok (.brk (hdrOf w))) ∧
      (fB w = 4 → decMisc w = .ok (.xfenceCore (hdrOf w))) ∧ (fB w = 5 → decMisc w = .ok (.xfenceQuad (hdrOf w))) ∧
      (fB w = 6 → decMisc w = .ok (.xfenceDev (hdrOf w))) ∧ (fB w = 7 → decMisc w = .ok (.xfenceSys (hdrOf w))) := by
  refine ⟨?_, ?_, ?_, ?_, ?_, ?_⟩
  all_goals
    intro hB
    simp [decMisc, chk, hB, h6]

theorem RoundTrips.misc (henc : encode i = [enc1 h 0 x]) (hx : x < 64)
    (hdec : ∀ w, hdrOf w = h → fld w 6 12 = 0 → fB w = x → decMisc w = .ok i) : RoundTrips q i := by
  refine .one rfl (twoWord_of_lt (by decide)) (by omega) henc fun w w2 hh hw => hdec w hh ?_ ?_
  · rw [fld_within hw (by decide)]
    omega
  · rw [fB, fld_within hw (by decide)]
    omega

/-- COMMIT, and HALT where `halt` holds. -/
theorem RoundTrips.arrive {r : Ring} {p : Bool} {drop : BitVec 4} {tag : BitVec 8} (hwf : (drop == 0 || q == .c) = true)
    (halt : Bool) : RoundTrips q (if halt then .halt r p drop tag else .commit r p drop tag) := by
  have hh := bit_lt halt
  have hp := bit_lt p
  have hlt : cmW halt p drop tag < 2 ^ 18 := by
    rw [cmW]
    omega
  have henc : encode (if halt then .halt r p drop tag else .commit r p drop tag) =
      [enc1 ⟨r, false, 0⟩ 1 (cmW halt p drop tag)] := by
    cases halt <;> exact congrArg (fun w => [w]) (encR_eq_enc1 r)
  refine .one rfl (twoWord_of_lt (by decide)) hlt henc fun w w2 hhdr hw => ?_
  have hr : ringOf w = r := congrArg Hdr.ring hhdr
  have h24 : fld w 24 4 = 0 := by
    have hgn : bitAt w 27 = false := congrArg Hdr.gn hhdr
    have hgp : (f8 w 24).val = 0 := congrArg (fun h => h.gp.val) hhdr
    have hs : fld w 24 4 = fld w 27 1 * 2 ^ 3 + fld w 24 3 := fld_append w 24 3 1
    rw [hs, ← bit_bitAt, hgn, ← f8_val, hgp]
    rfl
  have h14 : fld w 14 4 = 0 := by
    rw [fld_within hw (by decide), cmW]
    omega
  have h13 : bitAt w 13 = halt := bitAt_of_fld (by rw [fld_within hw (by decide), cmW]; omega)
  have h12 : bitAt w 12 = p := bitAt_of_fld (by rw [fld_within hw (by decide), cmW]; omega)
  have h8 : fld w 8 4 = drop.toNat := by
    rw [fld_within hw (by decide), cmW]
    omega
  have h0 : fld w 0 8 = tag.toNat := by
    rw [fld_within hw (by decide), cmW]
    omega
  show decCommit q w = _
  simp only [decCommit, h24, h14, h13, h12, h8, h0, hr, BitVec.ofNat_toNat, BitVec.setWidth_eq, hwf]
  rfl

/-- The RRR format with two sources (R48). -/
theorem RoundTrips.twoSources {f : Hdr → Dest → Sel → Sel → Instr} (hwf : (a.ok q && b.ok q) = true)
    (henc : encode (f h d a b) = [enc1 h n (rrr d.code a.code b.code)])
    (hdec : ∀ w w2, decMap q n w w2 = decRRR q w f) (hok : majorOk q n = true) (h1 : twoWord q n = false) :
    RoundTrips q (f h d a b) := by
  obtain ⟨ha, hb⟩ : a.ok q = true ∧ b.ok q = true := by simpa using hwf
  refine .dest ha henc (fun w w2 ⟨hh, hd, hd', hA⟩ hB => ?_) hok h1 b.code_lt
  simp only [hdec, decRRR, hd, chk, hA, hB, withSel_code hb, hh, hd', if_true]

theorem RoundTrips.addi {imm : BitVec 6} (ha : a.ok q = true) : RoundTrips q (.addi h d a imm) := by
  refine .dest ha rfl (fun w w2 ⟨hh, hd, hd', hA⟩ hB => ?_) rfl (twoWord_of_lt (by decide)) imm.isLt
  show chk (destOk w) .reserved (withSel q (fA w) _) = _
  simp [chk, *]

/-- A destination over a number of twelve bits. -/
theorem fields_d {w : Word32} {m : Nat} (hw : fld w 0 18 = d.code * 2 ^ 12 + m) (hm : m < 2 ^ 12) :
    destOk w = true ∧ destOf w = d ∧ fld w 0 12 = m := by
  have hd := d.code_lt
  obtain ⟨hok, hof⟩ := destOf_of_fD (w := w) (d := d) (by rw [fD, fld_within hw (by decide)]; omega)
  refine ⟨hok, hof, ?_⟩
  rw [fld_within hw (by decide)]
  omega

theorem RoundTrips.li {imm : BitVec 12} : RoundTrips q (.li h d imm) := by
  have hd := d.code_lt
  refine .one rfl (twoWord_of_lt (by decide)) (by omega) rfl fun w w2 hh hw => ?_
  obtain ⟨hd, hd', h0⟩ := fields_d hw imm.isLt
  show chk (destOk w) .reserved _ = _
  simp [chk, *]

/-- ALUX with one source (R59). -/
theorem RoundTrips.alux {op imm : Nat} (ha : a.ok q = true)
    (henc : encode i = [enc1 h 13 (rrr d.code a.code x), enc2 c (opImm op imm)])
    (hdec : ∀ w w2, DestWord q h d a w → fB w = x → MinorWord c op w2 → fld w2 0 22 = imm → decAlux q w w2 = .ok i)
    (himm : imm < 2 ^ 22) (hx : x < 64 := by decide) (hop : op < 64 := by decide) : RoundTrips q i := by
  refine .destTwo ha henc (fun w w2 hdest hB hc h30 hy => hdec w w2 hdest hB ⟨hc, h30, ?_⟩ ?_) rfl
    (twoWord_of_lt (by decide)) hx ?_
  · rw [fld_within hy (by decide), opImm]
    omega
  · rw [fld_within hy (by decide), opImm]
    omega
  · rw [opImm]
    omega

theorem RoundTrips.aluxTwo {op imm : Nat} (hwf : (a.ok q && b.ok q) = true)
    (henc : encode i = [enc1 h 13 (rrr d.code a.code b.code), enc2 c (opImm op imm)])
    (hdec : ∀ w w2, DestWord q h d a w → (∀ k, withSel q (fB w) k = k b) → MinorWord c op w2 → fld w2 0 22 = imm →
      decAlux q w w2 = .ok i)
    (himm : imm < 2 ^ 22) (hop : op < 64 := by decide) : RoundTrips q i := by
  obtain ⟨ha, hb⟩ : a.ok q = true ∧ b.ok q = true := by simpa using hwf
  exact .alux ha henc (fun w w2 hdest hB => hdec w w2 hdest fun k => by rw [hB, withSel_code hb]) himm b.code_lt hop

/-- A shift count in 22 bits. -/
theorem fields_shift {w : Word32} {m : Fin 64} (hy : fld w 0 22 = m.val) : fld w 6 16 = 0 ∧ f64 w 0 = m := by
  refine ⟨?_, Fin.ext ?_⟩
  · rw [fld_within hy (by decide)]
    omega
  · rw [f64_val, fld_within hy (by decide)]
    omega

/-- The place and width of a bit field in 22 bits. -/
structure BitField (pos width1 : Fin 64) (w : Word32) : Prop where
  high : fld w 12 10 = 0
  place : fld w 0 6 = pos.val
  width : fld w 6 6 = width1.val
  pos : f64 w 0 = pos
  width1 : f64 w 6 = width1

theorem BitField.of_fld {w : Word32} {pos width1 : Fin 64} (hy : fld w 0 22 = width1.val * 2 ^ 6 + pos.val) :
    BitField pos width1 w := by
  have h0 : fld w 0 6 = pos.val := by
    rw [fld_within hy (by decide)]
    omega
  have h6 : fld w 6 6 = width1.val := by
    rw [fld_within hy (by decide)]
    omega
  refine ⟨?_, h0, h6, Fin.ext ((f64_val w 0).trans h0), Fin.ext ((f64_val w 6).trans h6)⟩
  rw [fld_within hy (by decide)]
  omega

/-- The RRP layout (R48). -/
theorem fields_rrp {w : Word32} {pt pf : Fin 8} {m : Nat}
    (hw : fld w 0 18 = pt.val * 2 ^ 15 + pf.val * 2 ^ 12 + a.code * 2 ^ 6 + m)
    (hm : m < 64) : f8 w 15 = pt ∧ f8 w 12 = pf ∧ fA w = a.code ∧ fB w = m := by
  have ha := a.code_lt
  refine ⟨Fin.ext ?_, Fin.ext ?_, ?_, ?_⟩
  · rw [f8_val, fld_within hw (by decide)]
    omega
  · rw [f8_val, fld_within hw (by decide)]
    omega
  · rw [fA, fld_within hw (by decide)]
    omega
  · rw [fB, fld_within hw (by decide)]
    omega

theorem RoundTrips.cmp {f : Hdr → Fin 8 → Fin 8 → Sel → Sel → Instr} {pt pf : Fin 8} (hwf : (a.ok q && b.ok q) = true)
    (henc : encode (f h pt pf a b) = [enc1 h n (pt.val * 2 ^ 15 + pf.val * 2 ^ 12 + a.code * 2 ^ 6 + b.code)])
    (hdec : ∀ w w2, decMap q n w w2 = decCmp q w f) (hok : majorOk q n = true) (h1 : twoWord q n = false) :
    RoundTrips q (f h pt pf a b) := by
  obtain ⟨ha, hb⟩ : a.ok q = true ∧ b.ok q = true := by simpa using hwf
  have ha' := a.code_lt
  have hb' := b.code_lt
  refine .one hok h1 (by omega) henc fun w w2 hh hw => ?_
  obtain ⟨hpt, hpf, hA, hB⟩ := fields_rrp hw b.code_lt
  rw [hdec, decCmp, hA, hB, withSel_code ha, withSel_code hb, hh, hpt, hpf]

theorem RoundTrips.cmpi {op : Nat} {pt pf : Fin 8} {imm : BitVec 22} (ha : a.ok q = true)
    (henc : encode i = [enc1 h 17 (pt.val * 2 ^ 15 + pf.val * 2 ^ 12 + a.code * 2 ^ 6), enc2 c (opImm op imm.toNat)])
    (hdec : ∀ w w2, hdrOf w = h → f8 w 15 = pt → f8 w 12 = pf → (∀ k, withSel q (fA w) k = k a) → fB w = 0 →
      MinorWord c op w2 → fld w2 0 22 = imm.toNat → decCmpi q w w2 = .ok i)
    (hop : op < 64 := by decide) : RoundTrips q i := by
  have hy : opImm op imm.toNat < 2 ^ 28 := by
    rw [opImm]
    omega
  have ha' := a.code_lt
  refine .two rfl (twoWord_of_lt (by decide)) (by omega) hy henc fun w w2 hh hc hw h30 hy => ?_
  obtain ⟨hpt, hpf, hA, hB⟩ := fields_rrp (m := 0) (hw.trans (Nat.add_zero _).symm) (by decide)
  refine hdec w w2 hh hpt hpf (fun k => by rw [hA, withSel_code ha]) hB ⟨hc, h30, ?_⟩ ?_
  · rw [fld_within hy (by decide), opImm]
    omega
  · rw [fld_within hy (by decide), opImm]
    omega

/-- The fields of the PL format (R48). -/
structure LogicWord (h : Hdr) (op : Nat) (xd xa xb : Fin 8) (na nb : Bool) (w : Word32) : Prop where
  head : hdrOf w = h
  dest : f8 w 12 = xd
  first : f8 w 6 = xa
  second : f8 w 3 = xb
  notFirst : bitAt w 2 = na
  notSecond : bitAt w 1 = nb
  middle : fld w 9 3 = 0
  low : fld w 0 1 = 0
  minor : fld w 15 3 = op

/-- The PL format, of predicates or of masks. -/
theorem RoundTrips.pl {op : Nat} {xd xa xb : Fin 8} {na nb mask : Bool}
    (henc : encode i = [enc1 h n (plW op xd.val xa.val xb.val na nb)]) (hmap : ∀ w w2, decMap q n w w2 = decPl w mask)
    (hdec : ∀ w, LogicWord h op xd xa xb na nb w → decPl w mask = .ok i)
    (hok : majorOk q n = true) (h1 : twoWord q n = false) (hop : op < 8 := by decide) : RoundTrips q i := by
  have ha := bit_lt na
  have hb := bit_lt nb
  have hx : plW op xd.val xa.val xb.val na nb < 2 ^ 18 := by
    rw [plW]
    omega
  refine .one hok h1 hx henc fun w w2 hh hw => ?_
  rw [hmap]
  have field {lo len : Nat} (hf : lo + len ≤ 18) : fld w lo len =
      (op * 2 ^ 15 + xd.val * 2 ^ 12 + xa.val * 2 ^ 6 + xb.val * 2 ^ 3 + bit na * 2 ^ 2 + bit nb * 2) / 2 ^ lo % 2 ^ len :=
    fld_within hw hf
  refine hdec w ⟨hh, Fin.ext ?_, Fin.ext ?_, Fin.ext ?_, bitAt_of_fld ?_, bitAt_of_fld ?_, ?_, ?_, ?_⟩
  · rw [f8_val, field (by decide)]
    omega
  · rw [f8_val, field (by decide)]
    omega
  · rw [f8_val, field (by decide)]
    omega
  all_goals
    rw [field (by decide)]
    omega

theorem RoundTrips.br {off : BitVec 18} : RoundTrips q (.br h off) := by
  refine .one rfl (twoWord_of_lt (by decide)) off.isLt rfl fun w w2 hh hw => ?_
  show Except.ok (Instr.br (hdrOf w) (BitVec.ofNat 18 (fld w 0 18))) = _
  simp [*]

theorem RoundTrips.brl {off : BitVec 18} : RoundTrips q (.brl h off) := by
  refine .one rfl (twoWord_of_lt (by decide)) off.isLt rfl fun w w2 hh hw => ?_
  show Except.ok (Instr.brl (hdrOf w) (BitVec.ofNat 18 (fld w 0 18))) = _
  simp [*]

theorem RoundTrips.jr (ha : a.ok q = true) : RoundTrips q (.jr h d a) := by
  refine .dest ha rfl (fun w w2 ⟨hh, hd, hd', hA⟩ hB => ?_) rfl (twoWord_of_lt (by decide)) (by decide)
  show chk (destOk w && fB w == 0) .reserved (withSel q (fA w) _) = _
  simp [chk, *]

/-- The number of a special register, its scalar register, and which way the value goes. -/
theorem fields_sr {w : Word32} {r : Fin 32} {srn : BitVec 12} {t : Bool}
    (hw : fld w 0 18 = bit t * 2 ^ 17 + r.val * 2 ^ 12 + srn.toNat) : bitAt w 17 = t ∧ f32 w 12 = r ∧ fld w 0 12 = srn.toNat := by
  have ht := bit_lt t
  refine ⟨bitAt_of_fld ?_, Fin.ext ?_, ?_⟩
  · rw [fld_within hw (by decide)]
    omega
  · rw [f32_val, fld_within hw (by decide)]
    omega
  · rw [fld_within hw (by decide)]
    omega

/-- MTSR where `t` holds, and MFSR. -/
theorem RoundTrips.sr {r : Fin 32} {srn : BitVec 12} (t : Bool) : RoundTrips q (if t then .mtsr h r srn else .mfsr h r srn) := by
  have ht := bit_lt t
  have henc : encode (if t then .mtsr h r srn else .mfsr h r srn) = [enc1 h 23 (bit t * 2 ^ 17 + r.val * 2 ^ 12 + srn.toNat)] := by
    cases t <;> simp [encode, bit]
  refine .one rfl (twoWord_of_lt (by decide)) (by omega) henc fun w w2 hh hw => ?_
  obtain ⟨h17, hr, h0⟩ := fields_sr hw
  show Except.ok (if bitAt w 17 then Instr.mtsr (hdrOf w) (f32 w 12) (BitVec.ofNat 12 (fld w 0 12))
    else Instr.mfsr (hdrOf w) (f32 w 12) (BitVec.ofNat 12 (fld w 0 12))) = _
  simp [*]

/-- LOOP by its count (R60). -/
theorem RoundTrips.loop {x : Fin 4} {swp : Bool} {m : LoopCount} {lid : BitVec 8} {len : BitVec 18}
    (hwf : (m.ok q && len != 0) = true) : RoundTrips q (.loop h x swp m lid len c) := by
  obtain ⟨hm, hlen⟩ : m.ok q = true ∧ len ≠ 0 := by simpa using hwf
  have hs := bit_lt swp
  have hlt : lpW x swp m < 2 ^ 18 := by
    cases m with
    | imm k => rw [lpW]; omega
    | sel a => have := a.code_lt; rw [lpW]; omega
  refine .two rfl (twoWord_of_lt (by decide)) hlt (by omega) rfl fun w w2 hh hc hw h30 hy => ?_
  have h18 : fld w2 18 2 = 0 := by
    rw [fld_within hy (by decide)]
    omega
  have h20 : fld w2 20 8 = lid.toNat := by
    rw [fld_within hy (by decide)]
    omega
  have h0 : fld w2 0 18 = len.toNat := by
    rw [fld_within hy (by decide)]
    omega
  have hne : len.toNat ≠ 0 := fun e => hlen (BitVec.eq_of_toNat_eq e)
  show decLoop q w w2 = _
  cases m with
  | imm k =>
    rw [lpW] at hw
    have hx : f4 w 16 = x := Fin.ext (by rw [f4_val, fld_within hw (by decide)]; omega)
    have h15 : bitAt w 15 = swp := bitAt_of_fld (by rw [fld_within hw (by decide)]; omega)
    have h14 : bitAt w 14 = true := bitAt_of_fld (by rw [fld_within hw (by decide), show bit true = 1 from rfl]; omega)
    have h12 : fld w 12 2 = 0 := by
      rw [fld_within hw (by decide)]
      omega
    have hk : fld w 0 12 = k.toNat := by
      rw [fld_within hw (by decide)]
      omega
    simp [decLoop, chk, *]
  | sel a =>
    have ha := a.code_lt
    rw [lpW] at hw
    have hx : f4 w 16 = x := Fin.ext (by rw [f4_val, fld_within hw (by decide)]; omega)
    have h15 : bitAt w 15 = swp := bitAt_of_fld (by rw [fld_within hw (by decide)]; omega)
    have h14 : bitAt w 14 = false := bitAt_of_fld (by rw [fld_within hw (by decide), show bit false = 0 from rfl]; omega)
    have h12 : fld w 12 2 = 0 := by
      rw [fld_within hw (by decide)]
      omega
    have hA : fA w = a.code := by
      rw [fA, fld_within hw (by decide)]
      omega
    have hB : fB w = 0 := by
      rw [fB, fld_within hw (by decide)]
      omega
    have hsel : ∀ k, withSel q a.code k = k a := withSel_code hm
    simp [decLoop, chk, *]

end

/-! ### The words of accesses (R65) -/

section
variable {q : Seq} {i : Instr} {h : Hdr} {c : Comp} {d : Dest} {a b : Sel} {n x y : Nat} {w w2 : Word32}

theorem Fate.code_lt (f : Fate) : f.code < 4 := by cases f <;> decide
theorem Scope.code_lt (s : Scope) : s.code < 4 := by cases s <;> decide
theorem Sz.code_lt (z : Sz) : z.code < 8 := by cases z <;> decide
theorem Esz.code_lt (z : Esz) : z.code < 4 := by cases z <;> decide

theorem Scope.two_le_code {s : Scope} (h : s.far = true) : 2 ≤ s.code := by
  cases s with
  | dev => decide
  | sys => decide
  | core => exact absurd h (by decide)
  | quad => exact absurd h (by decide)

theorem memW_lt {f : Fate} {esz : Nat} {off : BitVec 24} (he : esz < 4) : memW f esz off < 2 ^ 28 := by
  have hf := f.code_lt
  rw [memW]
  omega

/-- The fields of the MEM word. -/
theorem fields_memW {f : Fate} {esz : Nat} {off : BitVec 24} (hy : fld w2 0 28 = memW f esz off) (he : esz < 4) :
    fld w2 26 2 = f.code ∧ fld w2 24 2 = esz ∧ fld w2 0 24 = off.toNat := by
  have hf := f.code_lt
  rw [fld_within hy (by decide), fld_within hy (by decide), fld_within hy (by decide), memW]
  omega

theorem withMem_memW {f : Fate} {off : BitVec 24} {k : Fate → BitVec 24 → DecRes} (h30 : ∀ k, second w2 k = k)
    (hy : fld w2 0 28 = memW f 0 off) : withMem true w2 k = k f off := by
  obtain ⟨h26, h24, h0⟩ := fields_memW hy (by decide)
  simp [withMem, chk, withVal, Fate.ofCode_code, *]

theorem devW_lt {s : Scope} {flag : Bool} {off : BitVec 24} : devW s flag off < 2 ^ 28 := by
  have hs := s.code_lt
  have hf := bit_lt flag
  rw [devW]
  omega

/-- The fields of the DEV word. -/
theorem fields_devW {s : Scope} {flag : Bool} {off : BitVec 24} (hy : fld w2 0 28 = devW s flag off) :
    fld w2 26 2 = s.code ∧ fld w2 25 1 = bit flag ∧ fld w2 24 1 = 0 ∧ fld w2 0 24 = off.toNat := by
  have hs := s.code_lt
  have hf := bit_lt flag
  rw [fld_within hy (by decide), fld_within hy (by decide), fld_within hy (by decide), fld_within hy (by decide), devW]
  omega

theorem withDev_devW {s : Scope} {flag : Bool} {off : BitVec 24} {k : Scope → Bool → BitVec 24 → DecRes} (hs : s.far = true)
    (h30 : ∀ k, second w2 k = k) (hy : fld w2 0 28 = devW s flag off) : withDev true w2 k = k s flag off := by
  obtain ⟨h26, h25, h24, h0⟩ := fields_devW hy
  have hfar := Scope.two_le_code hs
  have hb : bitAt w2 25 = flag := bitAt_of_fld h25
  simp [withDev, chk, Scope.ofCode_code, *]

/-- A size in field B with the three bits below it zero. -/
theorem fields_sz {z : Sz} (hB : fB w = z.code * 2 ^ 3) : fld w 0 3 = 0 ∧ ∀ k, withVal (Sz.ofCode (fld w 3 3)) k = k z := by
  have hz := z.code_lt
  have h3 : fld w 3 3 = z.code := by
    rw [fld_within hB (by decide)]
    omega
  refine ⟨?_, fun k => by rw [h3, Sz.ofCode_code, withVal]⟩
  rw [fld_within hB (by decide)]
  omega

theorem sz_lt (z : Sz) : z.code * 2 ^ 3 < 64 := by
  have := z.code_lt
  omega

/-! ### Local and device accesses (R63 to R65) -/

theorem RoundTrips.ld {z : Sz} (hwf : (q == .l && a.ok q) = true) : RoundTrips q (.ld h d a z) := by
  obtain ⟨rfl, ha⟩ : q = .l ∧ a.ok q = true := by simpa using hwf
  refine .dest ha rfl (fun w w2 ⟨hh, hd, hd', hA⟩ hB => ?_) rfl rfl (sz_lt z)
  obtain ⟨h0, hz⟩ := fields_sz hB
  simp [decMap, decAccess, chk, *]

theorem RoundTrips.ldx {z : Sz} {f : Fate} {off : BitVec 24} (hwf : (q == .l && a.ok q) = true) :
    RoundTrips q (.ldx h d a z f off c) := by
  obtain ⟨rfl, ha⟩ : q = .l ∧ a.ok q = true := by simpa using hwf
  refine .destTwo ha rfl (fun w w2 ⟨hh, hd, hd', hA⟩ hB hc h30 hy => ?_) rfl rfl (sz_lt z) (memW_lt (by decide))
  obtain ⟨h0, hz⟩ := fields_sz hB
  simp [decMap, decAccess, withMem_memW h30 hy, *]

theorem RoundTrips.ldd {z : Sz} {s : Scope} {acq : Bool} {off : BitVec 24} (hwf : (q == .l && a.ok q && s.far) = true) :
    RoundTrips q (.ldd h d a z s acq off c) := by
  obtain ⟨⟨rfl, ha⟩, hs⟩ : (q = .l ∧ a.ok q = true) ∧ s.far = true := by simpa using hwf
  refine .destTwo ha rfl (fun w w2 ⟨hh, hd, hd', hA⟩ hB hc h30 hy => ?_) rfl rfl (sz_lt z) devW_lt
  obtain ⟨h0, hz⟩ := fields_sz hB
  simp [decMap, decAccess, withDev_devW hs h30 hy, *]

/-- The fields of the stores' format: a value, an address and a size. -/
theorem fields_store {v : Sel} {z : Sz} (hv : v.ok q = true) (ha : a.ok q = true)
    (hw : fld w 0 18 = rrr v.code a.code (z.code * 2 ^ 3)) :
    (∀ k, withSel q (fD w) k = k v) ∧ (∀ k, withSel q (fA w) k = k a) ∧ fld w 0 3 = 0 ∧
      ∀ k, withVal (Sz.ofCode (fld w 3 3)) k = k z := by
  obtain ⟨hD, hA, hB⟩ := fields_rrr hw v.code_lt a.code_lt (sz_lt z)
  exact ⟨fun k => by rw [hD, withSel_code hv], fun k => by rw [hA, withSel_code ha], fields_sz hB⟩

theorem store_lt {v : Sel} {z : Sz} : rrr v.code a.code (z.code * 2 ^ 3) < 2 ^ 18 := rrr_lt v.code_lt a.code_lt (sz_lt z)

theorem RoundTrips.st {v : Sel} {z : Sz} (hwf : (q == .s && v.ok q && a.ok q && z.storeOk) = true) :
    RoundTrips q (.st h v a z) := by
  obtain ⟨⟨⟨rfl, hv⟩, ha⟩, hz⟩ : ((q = .s ∧ v.ok q = true) ∧ a.ok q = true) ∧ z.storeOk = true := by simpa using hwf
  refine .one rfl rfl store_lt rfl fun w w2 hh hw => ?_
  obtain ⟨hv', ha', h0, hz'⟩ := fields_store hv ha hw
  simp [decMap, decAccess, chk, *]

theorem RoundTrips.stx {v : Sel} {z : Sz} {f : Fate} {off : BitVec 24}
    (hwf : (q == .s && v.ok q && a.ok q && z.storeOk) = true) : RoundTrips q (.stx h v a z f off c) := by
  obtain ⟨⟨⟨rfl, hv⟩, ha⟩, hz⟩ : ((q = .s ∧ v.ok q = true) ∧ a.ok q = true) ∧ z.storeOk = true := by simpa using hwf
  refine .two rfl rfl store_lt (memW_lt (by decide)) rfl fun w w2 hh hc hw h30 hy => ?_
  obtain ⟨hv', ha', h0, hz'⟩ := fields_store hv ha hw
  simp [decMap, decAccess, withMem_memW h30 hy, chk, *]

theorem RoundTrips.std {v : Sel} {z : Sz} {s : Scope} {rel : Bool} {off : BitVec 24}
    (hwf : ((q == .k || q == .s) && v.ok q && a.ok q && z.storeOk && s.far) = true) :
    RoundTrips q (.std h v a z s rel off c) := by
  obtain ⟨⟨⟨⟨hq, hv⟩, ha⟩, hz⟩, hs⟩ :
      ((((q = .k ∨ q = .s) ∧ v.ok q = true) ∧ a.ok q = true) ∧ z.storeOk = true) ∧ s.far = true := by simpa using hwf
  have key (hok : majorOk q 33 = true) (h2 : twoWord q 33 = true)
      (hmap : ∀ w w2, decMap q 33 w w2 = decAccess q 33 w w2) : RoundTrips q (.std h v a z s rel off c) := by
    refine .two hok h2 store_lt devW_lt rfl fun w w2 hh hc hw h30 hy => ?_
    obtain ⟨hv', ha', h0, hz'⟩ := fields_store hv ha hw
    simp [decAccess, withDev_devW hs h30 hy, chk, *]
  rcases hq with rfl | rfl
  · exact key rfl rfl fun _ _ => rfl
  · exact key rfl rfl fun _ _ => rfl

/-- The fields of a format with a number of three bits in field D. -/
theorem fields_queue {m : Fin 8} (ha : a.ok q = true) (hw : fld w 0 18 = rrr m.val a.code x) (hx : x < 64) :
    fld w 15 3 = 0 ∧ fld w 12 3 = m.val ∧ f8 w 12 = m ∧ (∀ k, withSel q (fA w) k = k a) ∧ fB w = x := by
  obtain ⟨hD, hA, hB⟩ := fields_rrr hw (by omega) a.code_lt hx
  have hs := fD_split w
  have h12 := fld_lt w 12 3
  have hm : fld w 12 3 = m.val := by omega
  exact ⟨by omega, hm, Fin.ext ((f8_val w 12).trans hm), fun k => by rw [hA, withSel_code ha], hB⟩

theorem queue_lt {m : Fin 8} (hx : x < 64) : rrr m.val a.code x < 2 ^ 18 := rrr_lt (by omega) a.code_lt hx

theorem RoundTrips.ldq {m : Fin 8} {f : Fate} {off : BitVec 24} (hwf : (q == .l && decide (m.val < 6) && a.ok q) = true) :
    RoundTrips q (.ldq h m a f off c) := by
  obtain ⟨⟨rfl, hm⟩, ha⟩ : (q = .l ∧ m.val < 6) ∧ a.ok q = true := by simpa using hwf
  refine .two rfl rfl (queue_lt (by decide)) (memW_lt (by decide)) rfl fun w w2 hh hc hw h30 hy => ?_
  obtain ⟨h15, h12, hm', hA, hB⟩ := fields_queue ha hw (by decide)
  simp [decMap, decAccess, withMem_memW h30 hy, chk, *]

theorem RoundTrips.stq {m : Fin 8} {f : Fate} {off : BitVec 24} (hwf : (q == .s && decide (6 ≤ m.val) && a.ok q) = true) :
    RoundTrips q (.stq h m a f off c) := by
  obtain ⟨⟨rfl, hm⟩, ha⟩ : (q = .s ∧ 6 ≤ m.val) ∧ a.ok q = true := by simpa using hwf
  refine .two rfl rfl (queue_lt (by decide)) (memW_lt (by decide)) rfl fun w w2 hh hc hw h30 hy => ?_
  obtain ⟨h15, h12, hm', hA, hB⟩ := fields_queue ha hw (by decide)
  simp [decMap, decAccess, withMem_memW h30 hy, chk, *]

theorem RoundTrips.tld {m : Fin 8} {f : Fate} {off : BitVec 24} (hwf : (q == .l && a.ok q) = true) :
    RoundTrips q (.tld h m a f off c) := by
  obtain ⟨rfl, ha⟩ : q = .l ∧ a.ok q = true := by simpa using hwf
  refine .two rfl rfl (queue_lt (by decide)) (memW_lt (by decide)) rfl fun w w2 hh hc hw h30 hy => ?_
  obtain ⟨h15, h12, hm', hA, hB⟩ := fields_queue ha hw (by decide)
  simp [decMap, decAccess, withMem_memW h30 hy, *]

theorem RoundTrips.lddq {m : Fin 8} {s : Scope} {acq : Bool} {off : BitVec 24}
    (hwf : (q == .l && decide (m.val < 6) && a.ok q && s.far) = true) : RoundTrips q (.lddq h m a s acq off c) := by
  obtain ⟨⟨⟨rfl, hm⟩, ha⟩, hs⟩ : ((q = .l ∧ m.val < 6) ∧ a.ok q = true) ∧ s.far = true := by simpa using hwf
  refine .two rfl rfl (queue_lt (by decide)) devW_lt rfl fun w w2 hh hc hw h30 hy => ?_
  obtain ⟨h15, h12, hm', hA, hB⟩ := fields_queue ha hw (by decide)
  simp [decMap, decAccess, withDev_devW hs h30 hy, chk, *]

/-- GATHER and SCATTER (R158). -/
theorem decGs_words {m : Fin 8} {f : Fate} {z : Esz} {off : BitVec 24} {qOk : Bool} {bOk : Sel → Bool}
    {g : Hdr → Fin 8 → Sel → Sel → Fate → Esz → BitVec 24 → Comp → Instr} (ha : a.ok q = true) (hb : b.ok q = true)
    (hq : fld w 12 3 = m.val → qOk = true) (hbq : bOk b = true) (hw : fld w 0 18 = rrr m.val a.code b.code)
    (h30 : ∀ k, second w2 k = k) (hy : fld w2 0 28 = memW f z.code off) :
    decGs q w w2 qOk bOk g = .ok (g (hdrOf w) m a b f z off (compOf w2)) := by
  obtain ⟨h15, h12, hm, hA, hB⟩ := fields_queue ha hw b.code_lt
  obtain ⟨h26, h24, h0⟩ := fields_memW hy z.code_lt
  simp [decGs, chk, withVal, withSel_code hb, Fate.ofCode_code, Esz.ofCode_code, hq h12, *]

theorem RoundTrips.gather {m : Fin 8} {f : Fate} {z : Esz} {off : BitVec 24}
    (hwf : (q == .l && decide (m.val < 6) && a.ok q && b.ok q) = true) : RoundTrips q (.gather h m a b f z off c) := by
  obtain ⟨⟨⟨rfl, hm⟩, ha⟩, hb⟩ : ((q = .l ∧ m.val < 6) ∧ a.ok q = true) ∧ b.ok q = true := by simpa using hwf
  refine .two rfl rfl (queue_lt b.code_lt) (memW_lt z.code_lt) rfl fun w w2 hh hc hw h30 hy => ?_
  rw [← hh, ← hc]
  exact decGs_words ha hb (fun e => by simpa [e] using hm) rfl hw h30 hy

theorem RoundTrips.scatter {m : Fin 8} {f : Fate} {z : Esz} {off : BitVec 24}
    (hwf : (q == .s && decide (6 ≤ m.val) && a.ok q && b.ok q && b.isQueue) = true) :
    RoundTrips q (.scatter h m a b f z off c) := by
  obtain ⟨⟨⟨⟨rfl, hm⟩, ha⟩, hb⟩, hbq⟩ : (((q = .s ∧ 6 ≤ m.val) ∧ a.ok q = true) ∧ b.ok q = true) ∧ b.isQueue = true := by
    simpa using hwf
  refine .two rfl rfl (queue_lt b.code_lt) (memW_lt z.code_lt) rfl fun w w2 hh hc hw h30 hy => ?_
  rw [← hh, ← hc]
  exact decGs_words ha hb (fun e => by simpa [e] using hm) hbq hw h30 hy

theorem RoundTrips.tldw {m : Fin 8} {f : Fate} {row col : BitVec 12} (hwf : (q == .l && a.ok q && b.ok q) = true) :
    RoundTrips q (.tldw h m a b f row col c) := by
  obtain ⟨⟨rfl, ha⟩, hb⟩ : (q = .l ∧ a.ok q = true) ∧ b.ok q = true := by simpa using hwf
  have hf := f.code_lt
  refine .two rfl rfl (queue_lt b.code_lt) (by omega) rfl fun w w2 hh hc hw h30 hy => ?_
  obtain ⟨h15, h12, hm, hA, hB⟩ := fields_queue ha hw b.code_lt
  have h26 : fld w2 26 2 = f.code := by
    rw [fld_within hy (by decide)]
    omega
  have h24 : fld w2 24 2 = 0 := by
    rw [fld_within hy (by decide)]
    omega
  have hr : fld w2 12 12 = row.toNat := by
    rw [fld_within hy (by decide)]
    omega
  have hl : fld w2 0 12 = col.toNat := by
    rw [fld_within hy (by decide)]
    omega
  simp [decMap, decAccess, chk, withVal, withSel_code hb, Fate.ofCode_code, *]

theorem RoundTrips.pref {s : Scope} {off : BitVec 24} (hwf : (q == .l && a.ok q && s.far) = true) :
    RoundTrips q (.pref h a s off c) := by
  obtain ⟨⟨rfl, ha⟩, hs⟩ : (q = .l ∧ a.ok q = true) ∧ s.far = true := by simpa using hwf
  refine .two rfl rfl (queue_lt (m := 0) (by decide)) devW_lt rfl fun w w2 hh hc hw h30 hy => ?_
  obtain ⟨h15, (h12 : fld w 12 3 = 0), -, hA, hB⟩ := fields_queue (m := 0) ha hw (by decide)
  obtain ⟨-, (h25 : fld w2 25 1 = 0), -, -⟩ := fields_devW hy
  simp [decMap, decAccess, withDev_devW hs h30 hy, *]

/-- The layouts with a number of two bits in bits [17:16] (R48). -/
theorem fields_x {m : Fin 4} (hw : fld w 0 18 = m.val * 2 ^ 16 + a.code * 2 ^ 6 + x) (hx : x < 64) :
    fld w 12 4 = 0 ∧ f4 w 16 = m ∧ fA w = a.code ∧ fB w = x := by
  have ha := a.code_lt
  refine ⟨?_, Fin.ext ?_, ?_, ?_⟩
  · rw [fld_within hw (by decide)]
    omega
  · rw [f4_val, fld_within hw (by decide)]
    omega
  · rw [fA, fld_within hw (by decide)]
    omega
  · rw [fB, fld_within hw (by decide)]
    omega

theorem RoundTrips.prefi {m : Fin 4} {nl : Fin 16} {off : BitVec 24} (hwf : (q != .c && a.ok q) = true) :
    RoundTrips q (.prefi h m a nl off c) := by
  obtain ⟨hq, ha⟩ : q ≠ .c ∧ a.ok q = true := by simpa using hwf
  have ha' := a.code_lt
  have key (hok : majorOk q 37 = true) (h2 : twoWord q 37 = true)
      (hmap : ∀ w w2, decMap q 37 w w2 = decAccess q 37 w w2) : RoundTrips q (.prefi h m a nl off c) := by
    refine .two hok h2 (by omega) (by omega) rfl fun w w2 hh hc hw h30 hy => ?_
    obtain ⟨h12, hm, hA, hB⟩ := fields_x (m := m) (a := a) (x := 0) (by rw [hw, Nat.add_zero]) (by decide)
    have hnl : f16 w2 24 = nl := Fin.ext (by rw [f16_val, fld_within hy (by decide)]; omega)
    have h0 : fld w2 0 24 = off.toNat := by
      rw [fld_within hy (by decide)]
      omega
    simp [decAccess, chk, withSel_code ha, *]
  cases q with
  | c => exact absurd rfl hq
  | k => exact key rfl rfl fun _ _ => rfl
  | l => exact key rfl rfl fun _ _ => rfl
  | s => exact key rfl rfl fun _ _ => rfl

end

/-! ### Atomics, control, copies and windows (R63 to R65) -/

section
variable {q : Seq} {i : Instr} {h : Hdr} {c : Comp} {d : Dest} {a b : Sel} {n x y : Nat} {w w2 : Word32}

theorem atomW_lt {op m : Nat} {f : AtomF} (hop : op < 16) (hm : m < 64) : atomW op m f < 2 ^ 28 := by
  have hs := f.scope.code_lt
  have ha := bit_lt f.acq
  have hr := bit_lt f.rel
  have hd := bit_lt f.dbl
  rw [atomW]
  omega

/-- The fields of the ATOM word. -/
theorem fields_atomW {op m : Nat} {f : AtomF} (hy : fld w2 0 28 = atomW op m f) (hop : op < 16) (hm : m < 64) :
    fld w2 24 4 = op ∧ fld w2 18 6 = m ∧ fld w2 0 13 = 0 ∧ Scope.ofCode (fld w2 16 2) = f.scope ∧ bitAt w2 15 = f.acq ∧
      bitAt w2 14 = f.rel ∧ bitAt w2 13 = f.dbl := by
  have hs := f.scope.code_lt
  have ha := bit_lt f.acq
  have hr := bit_lt f.rel
  have hd := bit_lt f.dbl
  rw [atomW] at hy
  have field {lo len : Nat} (hf : lo + len ≤ 28) := fld_within (lo := lo) (len := len) hy hf
  have h16 : fld w2 16 2 = f.scope.code := by
    rw [field (by decide)]
    omega
  refine ⟨?_, ?_, ?_, by rw [h16, Scope.ofCode_code], bitAt_of_fld ?_, bitAt_of_fld ?_, bitAt_of_fld ?_⟩
  all_goals
    rw [field (by decide)]
    omega

/-- The atomics without a compare value. -/
theorem RoundTrips.atom {op : Nat} {f : AtomF} {g : Hdr → Dest → Sel → Sel → AtomF → Comp → Instr}
    (hwf : ((q == .k || q == .s) && a.ok q && b.ok q && f.scope != .core) = true)
    (henc : encode (g h d a b f c) = [enc1 h 35 (rrr d.code a.code b.code), enc2 c (atomW op 0 f)]) (hg : atomOp op = some g)
    (hop : op < 9 := by decide) : RoundTrips q (g h d a b f c) := by
  obtain ⟨⟨⟨hq, ha⟩, hb⟩, hs⟩ : (((q = .k ∨ q = .s) ∧ a.ok q = true) ∧ b.ok q = true) ∧ (f.scope != .core) = true := by
    simpa using hwf
  have key (hok : majorOk q 35 = true) (h2 : twoWord q 35 = true) (hmap : ∀ w w2, decMap q 35 w w2 = decAtom q w w2) :
      RoundTrips q (g h d a b f c) := by
    refine .destTwo ha henc (fun w w2 ⟨hh, hd, hd', hA⟩ hB hc h30 hy => ?_) hok h2 b.code_lt (atomW_lt (by omega) (by decide))
    obtain ⟨h24, h18, h0, hsc, hacq, hrel, hdbl⟩ := fields_atomW hy (by omega) (by decide)
    have hne : op ≠ 9 := by omega
    simp only [hmap, decAtom, h24, hne, hg, hd, h18, h0, hacq, hrel, hdbl, h30, hA, hB, withSel_code hb, hsc, hs, hh,
      hd', hc, if_false, chk]
    rfl
  rcases hq with rfl | rfl
  · exact key rfl rfl fun _ _ => rfl
  · exact key rfl rfl fun _ _ => rfl

theorem RoundTrips.atomCas {e : Sel} {f : AtomF}
    (hwf : ((q == .k || q == .s) && a.ok q && b.ok q && e.ok q && f.scope != .core) = true) :
    RoundTrips q (.atomCas h d a b e f c) := by
  obtain ⟨⟨⟨⟨hq, ha⟩, hb⟩, he⟩, hs⟩ :
      ((((q = .k ∨ q = .s) ∧ a.ok q = true) ∧ b.ok q = true) ∧ e.ok q = true) ∧ (f.scope != .core) = true := by
    simpa using hwf
  have key (hok : majorOk q 35 = true) (h2 : twoWord q 35 = true) (hmap : ∀ w w2, decMap q 35 w w2 = decAtom q w w2) :
      RoundTrips q (.atomCas h d a b e f c) := by
    refine .destTwo ha rfl (fun w w2 ⟨hh, hd, hd', hA⟩ hB hc h30 hy => ?_) hok h2 b.code_lt (atomW_lt (by decide) e.code_lt)
    obtain ⟨h24, h18, h0, hsc, hacq, hrel, hdbl⟩ := fields_atomW hy (by decide) e.code_lt
    simp only [hmap, decAtom, h24, hd, h18, h0, hacq, hrel, hdbl, h30, hA, hB, withSel_code hb, withSel_code he, hsc, hs,
      hh, hd', hc, if_true, chk]
    rfl
  rcases hq with rfl | rfl
  · exact key rfl rfl fun _ _ => rfl
  · exact key rfl rfl fun _ _ => rfl

theorem SupplyReq.code_lt (r : SupplyReq) : r.code < 4 := by cases r <;> decide

theorem RoundTrips.bank {r : SupplyReq} {cnt : Fin 16} (hwf : (q != .c && a.ok q) = true) : RoundTrips q (.bank h a r cnt) := by
  obtain ⟨hq, ha⟩ : q ≠ .c ∧ a.ok q = true := by simpa using hwf
  have ha' := a.code_lt
  have hr := r.code_lt
  have key (hok : majorOk q 40 = true) (h1 : twoWord q 40 = false)
      (hmap : ∀ w w2, decMap q 40 w w2 = decControl q 40 w w2) : RoundTrips q (.bank h a r cnt) := by
    refine .one hok h1 (by omega) rfl fun w w2 hh hw => ?_
    have hD : fD w = 0 := by
      rw [fD, fld_within hw (by decide)]
      omega
    have hA : fA w = a.code := by
      rw [fA, fld_within hw (by decide)]
      omega
    have h4 : fld w 4 2 = r.code := by
      rw [fld_within hw (by decide)]
      omega
    have hcnt : f16 w 0 = cnt := Fin.ext (by rw [f16_val, fld_within hw (by decide)]; omega)
    simp [decControl, chk, withSel_code ha, withVal, SupplyReq.ofCode_code, *]
  cases q with
  | c => exact absurd rfl hq
  | k => exact key rfl rfl fun _ _ => rfl
  | l => exact key rfl rfl fun _ _ => rfl
  | s => exact key rfl rfl fun _ _ => rfl

theorem RoundTrips.syncwait {off : BitVec 24} (hwf : (q == .l && a.ok q && b.ok q) = true) :
    RoundTrips q (.syncwait h d a b off c) := by
  obtain ⟨⟨rfl, ha⟩, hb⟩ : (q = .l ∧ a.ok q = true) ∧ b.ok q = true := by simpa using hwf
  refine .destTwo ha rfl (fun w w2 ⟨hh, hd, hd', hA⟩ hB hc h30 hy => ?_) rfl rfl b.code_lt (by omega)
  have h24 : fld w2 24 4 = 0 := by
    rw [fld_within hy (by decide)]
    omega
  have h0 : fld w2 0 24 = off.toNat := by
    rw [fld_within hy (by decide)]
    omega
  simp [decMap, decControl, chk, withSel_code hb, *]

/-- COPY.R where `rt` holds, and COPY. -/
theorem RoundTrips.copy {m : Fin 4} {f : CopyF} (hwf : ((q == .k || q == .s) && copyRegOk a) = true) (rt : Bool) :
    RoundTrips q (if rt then .copyR h m a f c else .copy h m a f c) := by
  obtain ⟨hq, hr⟩ : (q = .k ∨ q = .s) ∧ copyRegOk a = true := by simpa using hwf
  obtain ⟨ha, h1, h28⟩ : a.ok q = true ∧ 1 ≤ a.code ∧ a.code ≤ 28 := by
    cases a with
    | reg r => exact ⟨rfl, of_decide_eq_true hr⟩
    | latch b => exact absurd hr Bool.false_ne_true
    | pop m => exact absurd hr Bool.false_ne_true
    | peek m => exact absurd hr Bool.false_ne_true
  obtain ⟨sc, acq, rel⟩ := f
  have hsc := sc.code_lt
  have hacq := bit_lt acq
  have hrel := bit_lt rel
  have hrt := bit_lt rt
  have hlt : cpyW ⟨sc, acq, rel⟩ rt < 2 ^ 28 := by
    rw [cpyW]
    dsimp only
    omega
  have henc : encode (if rt then .copyR h m a ⟨sc, acq, rel⟩ c else .copy h m a ⟨sc, acq, rel⟩ c) =
      [enc1 h 42 (m.val * 2 ^ 16 + a.code * 2 ^ 6), enc2 c (cpyW ⟨sc, acq, rel⟩ rt)] := by
    cases rt <;> rfl
  have key (hok : majorOk q 42 = true) (h2 : twoWord q 42 = true) (hmap : ∀ w w2, decMap q 42 w w2 = decControl q 42 w w2) :
      RoundTrips q (if rt then .copyR h m a ⟨sc, acq, rel⟩ c else .copy h m a ⟨sc, acq, rel⟩ c) := by
    refine .two hok h2 (by omega) hlt henc fun w w2 hh hc hw h30 hy => ?_
    obtain ⟨h12, hm, hA, hB⟩ := fields_x (m := m) (a := a) (x := 0) (by rw [hw, Nat.add_zero]) (by decide)
    rw [cpyW] at hy
    dsimp only at hy
    have field {lo len : Nat} (hf : lo + len ≤ 28) := fld_within (lo := lo) (len := len) hy hf
    have h26 : fld w2 26 2 = sc.code := by
      rw [field (by decide)]
      omega
    have h0 : fld w2 0 23 = 0 := by
      rw [field (by decide)]
      omega
    have h25 : bitAt w2 25 = acq := bitAt_of_fld (by rw [field (by decide)]; omega)
    have h24 : bitAt w2 24 = rel := bitAt_of_fld (by rw [field (by decide)]; omega)
    have h23 : bitAt w2 23 = rt := bitAt_of_fld (by rw [field (by decide)]; omega)
    clear field hy
    simp [decControl, chk, withSel_code ha, Scope.ofCode_code, *]
  rcases hq with rfl | rfl
  · exact key rfl rfl fun _ _ => rfl
  · exact key rfl rfl fun _ _ => rfl

theorem RoundTrips.dwin {m : Fin 4} {len : BitVec 24} (hwf : (q == .s && a.ok q && b.ok q && len != 0) = true) :
    RoundTrips q (.dwin h m a b len c) := by
  obtain ⟨⟨⟨rfl, ha⟩, hb⟩, hlen⟩ : ((q = .s ∧ a.ok q = true) ∧ b.ok q = true) ∧ len ≠ 0 := by simpa using hwf
  have ha' := a.code_lt
  have hb' := b.code_lt
  refine .two rfl rfl (by omega) (by omega) rfl fun w w2 hh hc hw h30 hy => ?_
  obtain ⟨h12, hm, hA, hB⟩ := fields_x hw b.code_lt
  have h24 : fld w2 24 4 = 0 := by
    rw [fld_within hy (by decide)]
    omega
  have h0 : fld w2 0 24 = len.toNat := by
    rw [fld_within hy (by decide)]
    omega
  have hne : len.toNat ≠ 0 := fun e => hlen (BitVec.eq_of_toNat_eq e)
  simp [decMap, decControl, chk, withSel_code ha, withSel_code hb, *]

/-- One word of K with a source alone. -/
theorem RoundTrips.sourceK (hwf : (q == .k && a.ok q) = true) (henc : encode i = [enc1 h n (rrr 0 a.code x)])
    (hdec : ∀ w w2, hdrOf w = h → fD w = 0 → (∀ k, withSel .k (fA w) k = k a) → fB w = x → decMap .k n w w2 = .ok i)
    (hok : majorOk .k n = true) (h1 : twoWord .k n = false) (hx : x < 64) : RoundTrips q i := by
  obtain ⟨rfl, ha⟩ : q = .k ∧ a.ok q = true := by simpa using hwf
  refine .one hok h1 (rrr_lt (by decide) a.code_lt hx) henc fun w w2 hh hw => ?_
  obtain ⟨hD, hA, hB⟩ := fields_rrr hw (by decide) a.code_lt hx
  exact hdec w w2 hh hD (fun k => by rw [hA, withSel_code ha]) hB

theorem RoundTrips.launch (hwf : (q == .k && a.ok q) = true) : RoundTrips q (.launch h a c) := by
  obtain ⟨rfl, ha⟩ : q = .k ∧ a.ok q = true := by simpa using hwf
  refine .two rfl rfl (rrr_lt (by decide) a.code_lt (by decide)) (by decide) rfl fun w w2 hh hc hw h30 hy => ?_
  obtain ⟨hD, hA, hB⟩ := fields_rrr hw (by decide) a.code_lt (by decide)
  simp [decMap, decControl, chk, withSel_code ha, *]

theorem RoundTrips.yieldN (hwf : (q == .k) = true) : RoundTrips q (.yieldN h) := by
  obtain rfl : q = .k := by simpa using hwf
  refine .one rfl rfl (by decide) rfl fun w w2 hh hw => ?_
  obtain ⟨hD, hA, hB⟩ := fields_rrr (d := 0) (a := 0) (b := 0) hw (by decide) (by decide) (by decide)
  simp [decMap, decControl, chk, *]

theorem RoundTrips.swpt (hwf : (q == .k && a.ok q) = true) : RoundTrips q (.swpt h a) :=
  .sourceK hwf rfl (by intros; simp [decMap, decControl, chk, *]) rfl rfl (by decide)

theorem RoundTrips.bar (hwf : (q == .k && a.ok q) = true) : RoundTrips q (.bar h a) :=
  .sourceK hwf rfl (by intros; simp [decMap, decControl, chk, *]) rfl rfl (by decide)

/-- One word of K with a destination and a source. -/
theorem RoundTrips.destK (hwf : (q == .k && a.ok q) = true) (henc : encode i = [enc1 h n (rrr d.code a.code x)])
    (hdec : ∀ w w2, DestWord .k h d a w → fB w = x → decMap .k n w w2 = .ok i) (hok : majorOk .k n = true)
    (h1 : twoWord .k n = false) (hx : x < 64) : RoundTrips q i := by
  obtain ⟨rfl, ha⟩ : q = .k ∧ a.ok q = true := by simpa using hwf
  exact .dest ha henc hdec hok h1 hx

theorem RoundTrips.groupRank (hwf : (q == .k && a.ok q) = true) : RoundTrips q (.groupRank h d a) :=
  .destK hwf rfl (by rintro _ _ ⟨⟩ _; simp [decMap, decControl, chk, *]) rfl rfl (by decide)

theorem RoundTrips.groupSize (hwf : (q == .k && a.ok q) = true) : RoundTrips q (.groupSize h d a) :=
  .destK hwf rfl (by rintro _ _ ⟨⟩ _; simp [decMap, decControl, chk, *]) rfl rfl (by decide)

theorem RoundTrips.barw (hwf : (q == .k && a.ok q) = true) : RoundTrips q (.barw h d a) :=
  .destK hwf rfl (by rintro _ _ ⟨⟩ _; simp [decMap, decControl, chk, *]) rfl rfl (by decide)

end

/-! ### The map of C (R66 to R69) -/

section
variable {q : Seq} {i : Instr} {h : Hdr} {c : Comp} {d : Dest} {a b : Sel} {n x y : Nat} {w w2 : Word32}

theorem VITy.code_lt (t : VITy) : t.code < 8 := by cases t <;> decide
theorem VFTy.code_lt (t : VFTy) : t.code < 8 := by cases t <;> decide
theorem VTy.code_lt (t : VTy) : t.code < 16 := by rcases t with t | t <;> cases t <;> decide
theorem VCond.code_lt (t : VCond) : t.code < 16 := by cases t <;> decide
theorem Fmt.code_lt (t : Fmt) : t.code < 16 := by cases t <;> decide
theorem RMode.code_lt (t : RMode) : t.code < 8 := by cases t <;> decide

/-- Two words of C with a destination and a source. -/
theorem RoundTrips.destC (hwf : (q == .c && a.ok q) = true) (henc : encode i = [enc1 h n (rrr d.code a.code x), enc2 c y])
    (hdec : ∀ w w2, DestWord .c h d a w → fB w = x → compOf w2 = c → (∀ k, second w2 k = k) → fld w2 0 28 = y →
      decMap .c n w w2 = .ok i)
    (hok : majorOk .c n = true) (h2 : twoWord .c n = true) (hx : x < 64) (hy : y < 2 ^ 28) : RoundTrips q i := by
  obtain ⟨rfl, ha⟩ : q = .c ∧ a.ok q = true := by simpa using hwf
  exact .destTwo ha henc hdec hok h2 hx hy

/-- The conditions of two sources in C, apart. -/
theorem wf_two_c (hwf : (q == .c && a.ok q && b.ok q) = true) : (q == .c && a.ok q) = true ∧ b.ok .c = true := by
  obtain ⟨⟨rfl, ha⟩, hb⟩ : (q = .c ∧ a.ok q = true) ∧ b.ok q = true := by simpa using hwf
  exact ⟨ha, hb⟩

/-- What the decoder reads of a second word of the integer vector group, but for its minor and its third source (R67). -/
structure ViWord (t : VITy) (sat : Bool) (w2 : Word32) : Prop where
  type : ∀ k, withVal (VITy.ofCode (fld w2 19 3)) k = k t
  sat : bitAt w2 18 = sat
  middle : fld w2 16 2 = 0
  low : fld w2 0 10 = 0

theorem RoundTrips.vi {op : Nat} {t : VITy} {sat : Bool} (hwf : (q == .c && a.ok q) = true)
    (henc : encode i = [enc1 h 24 (rrr d.code a.code x), enc2 c (viW op t sat y)])
    (hdec : ∀ w w2, DestWord .c h d a w → fB w = x → MinorWord c op w2 → ViWord t sat w2 → fld w2 10 6 = y →
      decVi .c w w2 = .ok i)
    (hx : x < 64 := by decide) (hy : y < 64 := by decide) (hop : op < 64 := by decide) : RoundTrips q i := by
  have ht := t.code_lt
  have hs := bit_lt sat
  have hlt : viW op t sat y < 2 ^ 28 := by
    rw [viW]
    omega
  refine .destC hwf henc (fun w w2 hdest hB hc h30 hw => ?_) rfl rfl hx hlt
  rw [viW] at hw
  have field {lo len : Nat} (hf : lo + len ≤ 28) := fld_within (lo := lo) (len := len) hw hf
  have h19 : fld w2 19 3 = t.code := by
    rw [field (by decide)]
    omega
  refine hdec w w2 hdest hB ⟨hc, h30, ?_⟩ ⟨fun k => by rw [h19, VITy.ofCode_code, withVal], bitAt_of_fld ?_, ?_, ?_⟩ ?_
  all_goals
    rw [field (by decide)]
    omega

theorem RoundTrips.viTwo {op : Nat} {t : VITy} {sat : Bool} (hwf : (q == .c && a.ok q && b.ok q) = true)
    (henc : encode i = [enc1 h 24 (rrr d.code a.code b.code), enc2 c (viW op t sat 0)])
    (hdec : ∀ w w2, DestWord .c h d a w → (∀ k, withSel .c (fB w) k = k b) → MinorWord c op w2 → ViWord t sat w2 →
      fld w2 10 6 = 0 → decVi .c w w2 = .ok i) (hop : op < 64 := by decide) : RoundTrips q i := by
  obtain ⟨ha, hb⟩ := wf_two_c hwf
  exact .vi ha henc (fun w w2 hdest hB => hdec w w2 hdest fun k => by rw [hB, withSel_code hb]) b.code_lt (by decide) hop

theorem RoundTrips.vmad {e : Sel} {t : VITy} {sat : Bool} (hwf : (q == .c && a.ok q && b.ok q && e.ok q) = true) :
    RoundTrips q (.vmad h d a b e t sat c) := by
  obtain ⟨⟨⟨rfl, ha⟩, hb⟩, he⟩ : ((q = .c ∧ a.ok q = true) ∧ b.ok q = true) ∧ e.ok q = true := by simpa using hwf
  refine .vi (by simpa using ha) rfl ?_ b.code_lt e.code_lt
  rintro w w2 ⟨hh, hd, hd', hA⟩ hB ⟨hc, h30, hop⟩ ⟨ht, hs, h16, h0⟩ h10
  simp [decVi, chk, withSel_code hb, withSel_code he, *]

/-- VABS and VNEG, of a signed type. -/
theorem RoundTrips.viSigned {op : Nat} {t : VITy} {sat : Bool} (hwf : (q == .c && a.ok q && t.signed) = true)
    (henc : encode i = [enc1 h 24 (rrr d.code a.code 0), enc2 c (viW op t sat 0)])
    (hdec : ∀ w w2, DestWord .c h d a w → fB w = 0 → MinorWord c op w2 → ViWord t sat w2 → fld w2 10 6 = 0 →
      t.signed = true → decVi .c w w2 = .ok i)
    (hop : op < 64 := by decide) : RoundTrips q i := by
  obtain ⟨ha, ht⟩ : (q == .c && a.ok q) = true ∧ t.signed = true := (Bool.and_eq_true _ _).mp hwf
  exact .vi ha henc (fun w w2 hdest hB hminor hword h10 => hdec w w2 hdest hB hminor hword h10 ht) (by decide) (by decide) hop

/-- What the decoder reads of a second word of the float vector group, but for its minor and its third source (R67). -/
structure VfWord (t : VFTy) (rm : RMode) (w2 : Word32) : Prop where
  type : ∀ k, withVal (VFTy.ofCode (fld w2 19 3)) k = k t
  mode : ∀ k, withVal (RMode.ofCode (fld w2 16 3)) k = k rm
  notRna : rm ≠ .rna
  low : fld w2 0 10 = 0

theorem RoundTrips.vf {op : Nat} {t : VFTy} {rm : RMode} (hwf : (q == .c && a.ok q && rm != .rna) = true)
    (henc : encode i = [enc1 h 25 (rrr d.code a.code x), enc2 c (vfW op t rm y)])
    (hdec : ∀ w w2, DestWord .c h d a w → fB w = x → MinorWord c op w2 → VfWord t rm w2 → fld w2 10 6 = y →
      decVf .c w w2 = .ok i)
    (hx : x < 64 := by decide) (hy : y < 64 := by decide) (hop : op < 64 := by decide) : RoundTrips q i := by
  obtain ⟨ha, hrm⟩ : (q == .c && a.ok q) = true ∧ (rm != .rna) = true := (Bool.and_eq_true _ _).mp hwf
  have ht := t.code_lt
  have hr := rm.code_lt
  have hlt : vfW op t rm y < 2 ^ 28 := by
    rw [vfW]
    omega
  refine .destC ha henc (fun w w2 hdest hB hc h30 hw => ?_) rfl rfl hx hlt
  rw [vfW] at hw
  have field {lo len : Nat} (hf : lo + len ≤ 28) := fld_within (lo := lo) (len := len) hw hf
  have h19 : fld w2 19 3 = t.code := by
    rw [field (by decide)]
    omega
  have h16 : fld w2 16 3 = rm.code := by
    rw [field (by decide)]
    omega
  refine hdec w w2 hdest hB ⟨hc, h30, ?_⟩ ⟨fun k => by rw [h19, VFTy.ofCode_code, withVal],
    fun k => by rw [h16, RMode.ofCode_code, withVal], by simpa using hrm, ?_⟩ ?_
  all_goals
    rw [field (by decide)]
    omega

theorem RoundTrips.vfTwo {op : Nat} {t : VFTy} {rm : RMode} (hwf : (q == .c && a.ok q && b.ok q && rm != .rna) = true)
    (henc : encode i = [enc1 h 25 (rrr d.code a.code b.code), enc2 c (vfW op t rm y)])
    (hdec : ∀ w w2, DestWord .c h d a w → (∀ k, withSel .c (fB w) k = k b) → MinorWord c op w2 → VfWord t rm w2 →
      fld w2 10 6 = y → decVf .c w w2 = .ok i)
    (hy : y < 64 := by decide) (hop : op < 64 := by decide) : RoundTrips q i := by
  obtain ⟨⟨ha, hb⟩, hrm⟩ : ((q == .c && a.ok q) = true ∧ b.ok .c = true) ∧ (rm != .rna) = true :=
    ((Bool.and_eq_true _ _).mp hwf).imp_left wf_two_c
  exact .vf (by rw [ha, hrm]; rfl) henc (fun w w2 hdest hB => hdec w w2 hdest fun k => by rw [hB, withSel_code hb])
    b.code_lt hy hop

/-- VFMA and VFMS. -/
theorem RoundTrips.vfThree {op : Nat} {e : Sel} {t : VFTy} {rm : RMode}
    (hwf : (q == .c && a.ok q && b.ok q && e.ok q && rm != .rna) = true)
    (henc : encode i = [enc1 h 25 (rrr d.code a.code b.code), enc2 c (vfW op t rm e.code)])
    (hdec : ∀ w w2, DestWord .c h d a w → (∀ k, withSel .c (fB w) k = k b) → MinorWord c op w2 → VfWord t rm w2 →
      (∀ k, withSel .c (fld w2 10 6) k = k e) → decVf .c w w2 = .ok i)
    (hop : op < 64 := by decide) : RoundTrips q i := by
  obtain ⟨⟨hab, he⟩, hrm⟩ : ((q == .c && a.ok q && b.ok q) = true ∧ e.ok q = true) ∧ (rm != .rna) = true :=
    ((Bool.and_eq_true _ _).mp hwf).imp_left (Bool.and_eq_true _ _).mp
  obtain ⟨hac, -⟩ := wf_two_c hab
  obtain ⟨rfl, -⟩ : q = .c ∧ a.ok q = true := by simpa using hac
  exact .vfTwo (by rw [hab, hrm]; rfl) henc (fun w w2 hdest hB hminor hword h10 => hdec w w2 hdest hB hminor hword fun k => by
    rw [h10, withSel_code he]) e.code_lt hop

theorem RoundTrips.vcmp {pt pf : Fin 8} {cond : VCond} {t : VTy}
    (hwf : (q == .c && a.ok q && b.ok q && (cond != .un || t.isFloat)) = true) : RoundTrips q (.vcmp h pt pf a b cond t c) := by
  obtain ⟨⟨⟨rfl, ha⟩, hb⟩, hun⟩ : ((q = .c ∧ a.ok q = true) ∧ b.ok q = true) ∧ (cond != .un || t.isFloat) = true := by
    simpa only [Bool.and_eq_true, beq_iff_eq] using hwf
  have ha' := a.code_lt
  have hb' := b.code_lt
  have hcd := cond.code_lt
  have ht := t.code_lt
  refine .two rfl rfl (by omega) (by omega) rfl fun w w2 hh hc hw h30 hy => ?_
  obtain ⟨hpt, hpf, hA, hB⟩ := fields_rrp hw b.code_lt
  have h24 : fld w2 24 4 = cond.code := by
    rw [fld_within hy (by decide)]
    omega
  have h20 : fld w2 20 4 = t.code := by
    rw [fld_within hy (by decide)]
    omega
  have h0 : fld w2 0 20 = 0 := by
    rw [fld_within hy (by decide)]
    omega
  show decVcmp .c w w2 = _
  simp only [decVcmp, h24, VCond.ofCode_code, h0, h30, h20, VTy.ofCode_code, withVal, hA, withSel_code ha, hB, withSel_code hb, chk,
    hun, hh, hpt, hpf, hc]
  rfl

theorem RoundTrips.vsel {m : Fin 8} {ns : Bool} (hwf : (q == .c && a.ok q && b.ok q) = true) :
    RoundTrips q (.vsel h d a b m ns c) := by
  obtain ⟨ha, hb⟩ := wf_two_c hwf
  have hs := bit_lt ns
  refine .destC ha rfl (fun w w2 ⟨hh, hd, hd', hA⟩ hB hc h30 hy => ?_) rfl rfl b.code_lt (by omega)
  have h0 : fld w2 0 24 = 0 := by
    rw [fld_within hy (by decide)]
    omega
  have hm : f8 w2 25 = m := Fin.ext (by rw [f8_val, fld_within hy (by decide)]; omega)
  have hns : bitAt w2 24 = ns := bitAt_of_fld (by rw [fld_within hy (by decide)]; omega)
  simp [decMap, decCompute, chk, withSel_code hb, *]

/-- The lane moves (R68). -/
theorem RoundTrips.vp {op : Nat} {m : Fin 64} (hwf : (q == .c && a.ok q) = true)
    (henc : encode i = [enc1 h 29 (rrr d.code a.code x), enc2 c (op * 2 ^ 22 + m.val * 2 ^ 16)])
    (hdec : ∀ w w2, DestWord .c h d a w → fB w = x → MinorWord c op w2 → fld w2 16 6 = m.val → f64 w2 16 = m →
      fld w2 0 16 = 0 → decVp .c w w2 = .ok i)
    (hx : x < 64 := by decide) (hop : op < 64 := by decide) : RoundTrips q i := by
  refine .destC hwf henc (fun w w2 hdest hB hc h30 hy => ?_) rfl rfl hx (by omega)
  have h16 : fld w2 16 6 = m.val := by
    rw [fld_within hy (by decide)]
    omega
  refine hdec w w2 hdest hB ⟨hc, h30, ?_⟩ h16 (Fin.ext ((f64_val w2 16).trans h16)) ?_
  all_goals
    rw [fld_within hy (by decide)]
    omega

theorem RoundTrips.vperm (hwf : (q == .c && a.ok q && b.ok q) = true) : RoundTrips q (.vperm h d a b c) := by
  obtain ⟨ha, hb⟩ := wf_two_c hwf
  refine .vp (op := 0) (m := 0) ha rfl ?_ b.code_lt
  rintro w w2 ⟨hh, hd, hd', hA⟩ hB ⟨hc, h30, hop⟩ h16 hm h0
  simp [decVp, chk, withSel_code hb, *]

theorem RoundTrips.vcvt {t u : Fmt} {rm : RMode} {sat : Bool}
    (hwf : (q == .c && a.ok q && convertible t u && (rm != .rna || u.isInt)) = true) : RoundTrips q (.vcvt h d a t u rm sat c) := by
  obtain ⟨⟨ha, ht⟩, hrm⟩ : ((q == .c && a.ok q) = true ∧ convertible t u = true) ∧ (rm != .rna || u.isInt) = true :=
    ((Bool.and_eq_true _ _).mp hwf).imp_left (Bool.and_eq_true _ _).mp
  have h1 := t.code_lt
  have h2 := u.code_lt
  have h3 := rm.code_lt
  have h4 := bit_lt sat
  refine .destC ha rfl (fun w w2 ⟨hh, hd, hd', hA⟩ hB hc h30 hy => ?_) rfl rfl (by decide) (by omega)
  have h24 : fld w2 24 4 = t.code := by
    rw [fld_within hy (by decide)]
    omega
  have h20 : fld w2 20 4 = u.code := by
    rw [fld_within hy (by decide)]
    omega
  have h17 : fld w2 17 3 = rm.code := by
    rw [fld_within hy (by decide)]
    omega
  have h16 : bitAt w2 16 = sat := bitAt_of_fld (by rw [fld_within hy (by decide)]; omega)
  have h0 : fld w2 0 16 = 0 := by
    rw [fld_within hy (by decide)]
    omega
  simp only [decMap, decCompute, hd, hB, h0, h30, h24, h20, h17, Fmt.ofCode_code, RMode.ofCode_code, withVal, hA, ht, hrm, h16, hh,
    hd', hc, chk]
  rfl

/-- The reductions (R68). -/
theorem RoundTrips.vred {op : Nat} {t : VTy} (hwf : (q == .c && a.ok q) = true)
    (henc : encode i = [enc1 h 31 (rrr d.code a.code 0), enc2 c (op * 2 ^ 22 + t.code * 2 ^ 18)])
    (hdec : ∀ w w2, DestWord .c h d a w → fB w = 0 → MinorWord c op w2 →
      (∀ k, withVal (VTy.ofCode (fld w2 18 4)) k = k t) → fld w2 0 18 = 0 → decVred .c w w2 = .ok i)
    (hop : op < 64 := by decide) : RoundTrips q i := by
  have ht := t.code_lt
  refine .destC hwf henc (fun w w2 hdest hB hc h30 hy => ?_) rfl rfl (by decide) (by omega)
  have h18 : fld w2 18 4 = t.code := by
    rw [fld_within hy (by decide)]
    omega
  refine hdec w w2 hdest hB ⟨hc, h30, ?_⟩ (fun k => by rw [h18, VTy.ofCode_code, withVal]) ?_
  all_goals
    rw [fld_within hy (by decide)]
    omega

/-- The moves of major 32 with a destination (R68). -/
theorem RoundTrips.vmove (hwf : (q == .c && a.ok q) = true) (henc : encode i = [enc1 h 32 (rrr d.code a.code x)])
    (hdec : ∀ w, DestWord .c h d a w → fB w = x → decVmove .c w = .ok i) (hx : x < 64 := by decide) : RoundTrips q i := by
  obtain ⟨rfl, ha⟩ : q = .c ∧ a.ok q = true := by simpa using hwf
  exact .dest ha henc (fun w _ => hdec w) rfl rfl hx

theorem RoundTrips.vpush {m : Fin 8} (hwf : (q == .c && a.ok q && decide (6 ≤ m.val)) = true) : RoundTrips q (.vpush h m a) := by
  obtain ⟨⟨rfl, ha⟩, hm⟩ : (q = .c ∧ a.ok q = true) ∧ 6 ≤ m.val := by simpa using hwf
  refine .one rfl rfl (queue_lt (by decide)) rfl fun w w2 hh hw => ?_
  obtain ⟨h15, h12, hm', hA, hB⟩ := fields_queue ha hw (by decide)
  show decVmove .c w = _
  simp [decVmove, chk, *]

theorem RoundTrips.vli {imm : BitVec 12} (hwf : (q == .c) = true) : RoundTrips q (.vli h d imm) := by
  obtain rfl : q = .c := by simpa using hwf
  have hd := d.code_lt
  refine .one rfl rfl (by omega) rfl fun w w2 hh hw => ?_
  obtain ⟨hd, hd', h0⟩ := fields_d hw imm.isLt
  simp [decMap, decCompute, chk, *]

theorem RoundTrips.vbank {r : SupplyReq} {mask : BitVec 4} (hwf : (q == .c && mask != 0) = true) :
    RoundTrips q (.vbank h r mask) := by
  obtain ⟨rfl, hm⟩ : q = .c ∧ mask ≠ 0 := by simpa using hwf
  have hr := r.code_lt
  refine .one rfl rfl (by omega) rfl fun w w2 hh hw => ?_
  have h6 : fld w 6 12 = 0 := by
    rw [fld_within hw (by decide)]
    omega
  have h4 : fld w 4 2 = r.code := by
    rw [fld_within hw (by decide)]
    omega
  have h0 : fld w 0 4 = mask.toNat := by
    rw [fld_within hw (by decide)]
    omega
  have hne : mask.toNat ≠ 0 := fun e => hm (BitVec.eq_of_toNat_eq e)
  simp [decMap, decCompute, chk, withVal, SupplyReq.ofCode_code, *]

theorem mdW_lt {f : DrainF} : mdW f < 2 ^ 28 := by
  have h1 := bit_lt f.dr
  have h2 := bit_lt f.fl
  have h3 := bit_lt f.acq
  have h4 := bit_lt f.rel
  have h5 := f.scope.code_lt
  rw [mdW]
  omega

/-- The MD word (R69). -/
theorem mdOf_mdW {f : DrainF} (hy : fld w2 0 28 = mdW f) : mdOf w2 = f ∧ fld w2 0 10 = 0 := by
  obtain ⟨dprog, dr, fl, fsel, acq, rel, sc, win⟩ := f
  have h1 := bit_lt dr
  have h2 := bit_lt fl
  have h3 := bit_lt acq
  have h4 := bit_lt rel
  have h5 := sc.code_lt
  rw [mdW] at hy
  dsimp only at hy
  have field {lo len : Nat} (hf : lo + len ≤ 28) := fld_within (lo := lo) (len := len) hy hf
  have h12 : fld w2 12 2 = sc.code := by
    rw [field (by decide)]
    omega
  have hp : f64 w2 22 = dprog := Fin.ext (by rw [f64_val, field (by decide)]; omega)
  have h21 : bitAt w2 21 = dr := bitAt_of_fld (by rw [field (by decide)]; omega)
  have h20 : bitAt w2 20 = fl := bitAt_of_fld (by rw [field (by decide)]; omega)
  have hs : f16 w2 16 = fsel := Fin.ext (by rw [f16_val, field (by decide)]; omega)
  have h15 : bitAt w2 15 = acq := bitAt_of_fld (by rw [field (by decide)]; omega)
  have h14 : bitAt w2 14 = rel := bitAt_of_fld (by rw [field (by decide)]; omega)
  have hw : f4 w2 10 = win := Fin.ext (by rw [f4_val, field (by decide)]; omega)
  refine ⟨by rw [mdOf, hp, h21, h20, hs, h15, h14, h12, Scope.ofCode_code, hw], ?_⟩
  rw [field (by decide)]
  omega

theorem RoundTrips.mma {acc : Fin 4} {z : Bool} {ta tb : Fin 8} {m : Fin 64} {f : DrainF} (hwf : (q == .c && f.ok) = true) :
    RoundTrips q (.mma h acc z ta tb m f c) := by
  obtain ⟨rfl, hf⟩ : q = .c ∧ f.ok = true := by simpa using hwf
  have hz := bit_lt z
  refine .two rfl rfl (by omega) mdW_lt rfl fun w w2 hh hc hw h30 hy => ?_
  obtain ⟨hmd, h0⟩ := mdOf_mdW hy
  have hacc : f4 w 16 = acc := Fin.ext (by rw [f4_val, fld_within hw (by decide)]; omega)
  have hz' : bitAt w 15 = z := bitAt_of_fld (by rw [fld_within hw (by decide)]; omega)
  have hta : f8 w 12 = ta := Fin.ext (by rw [f8_val, fld_within hw (by decide)]; omega)
  have htb : f8 w 9 = tb := Fin.ext (by rw [f8_val, fld_within hw (by decide)]; omega)
  have hm : f64 w 0 = m := Fin.ext (by rw [f64_val, fld_within hw (by decide)]; omega)
  have h6 : fld w 6 3 = 0 := by
    rw [fld_within hw (by decide)]
    omega
  simp [decMap, decCompute, chk, *]

theorem RoundTrips.drain {acc : Fin 4} {f : DrainF} (hwf : (q == .c && f.dr && f.ok) = true) : RoundTrips q (.drain h acc f c) := by
  obtain ⟨⟨rfl, hdr⟩, hf⟩ : (q = .c ∧ f.dr = true) ∧ f.ok = true := by simpa using hwf
  refine .two rfl rfl (by omega) mdW_lt rfl fun w w2 hh hc hw h30 hy => ?_
  obtain ⟨hmd, h0⟩ := mdOf_mdW hy
  have hacc : f4 w 16 = acc := Fin.ext (by rw [f4_val, fld_within hw (by decide)]; omega)
  have hz : fld w 0 16 = 0 := by
    rw [fld_within hw (by decide)]
    omega
  simp [decMap, decCompute, chk, *]

end

section
variable {q : Seq} {i : Instr} {h : Hdr} {c : Comp} {d : Dest} {a b : Sel}

/-- The shifts of ALUX. -/
theorem RoundTrips.aluxShift {op : Nat} {m : Fin 64} (ha : a.ok q = true)
    (henc : encode i = [enc1 h 13 (rrr d.code a.code 0), enc2 c (opImm op m.val)])
    (hdec : ∀ w w2, DestWord q h d a w → fB w = 0 → MinorWord c op w2 → fld w2 6 16 = 0 → f64 w2 0 = m → decAlux q w w2 = .ok i)
    (hop : op < 64 := by decide) : RoundTrips q i := by
  refine .alux ha henc (fun w w2 hdest hB hminor hy => ?_) (by omega) (by decide) hop
  obtain ⟨h6, h0⟩ := fields_shift hy
  exact hdec w w2 hdest hB hminor h6 h0

/-- The extracts of ALUX. -/
theorem RoundTrips.aluxField {op : Nat} {pos width1 : Fin 64}
    (hwf : (a.ok q && decide (pos.val + width1.val + 1 ≤ 64)) = true)
    (henc : encode i = [enc1 h 13 (rrr d.code a.code 0), enc2 c (opImm op (width1.val * 2 ^ 6 + pos.val))])
    (hdec : ∀ w w2, DestWord q h d a w → fB w = 0 → MinorWord c op w2 → BitField pos width1 w2 →
      pos.val + width1.val + 1 ≤ 64 → decAlux q w w2 = .ok i)
    (hop : op < 64 := by decide) : RoundTrips q i := by
  obtain ⟨ha, hfit⟩ : a.ok q = true ∧ pos.val + width1.val + 1 ≤ 64 := by simpa using hwf
  exact .alux ha henc (fun w w2 hdest hB hminor hy => hdec w w2 hdest hB hminor (.of_fld hy) hfit) (by omega) (by decide) hop

theorem RoundTrips.ins {pos width1 : Fin 64} (hwf : (a.ok q && b.ok q && decide (pos.val + width1.val + 1 ≤ 64)) = true) :
    RoundTrips q (.ins h d a b pos width1 c) := by
  obtain ⟨hab, hfit⟩ : (a.ok q && b.ok q) = true ∧ pos.val + width1.val + 1 ≤ 64 := by simpa using hwf
  refine .aluxTwo hab rfl ?_ (by omega)
  rintro w w2 ⟨hh, hd, hd', hA⟩ hB ⟨hc, h30, hop⟩ hy
  obtain ⟨h12, h0, h6, hp, hw⟩ := BitField.of_fld hy
  simp [decAlux, chk, *]

/-- The PL format of masks. -/
theorem RoundTrips.plMask {op : Nat} {xd xa xb : Fin 8} {na nb : Bool} (hwf : (q == .c) = true)
    (henc : encode i = [enc1 h 27 (plW op xd.val xa.val xb.val na nb)])
    (hdec : ∀ w, LogicWord h op xd xa xb na nb w → decPl w true = .ok i) (hop : op < 8 := by decide) : RoundTrips q i := by
  obtain rfl : q = .c := by simpa using hwf
  exact .pl henc (fun _ _ => rfl) hdec rfl rfl hop
end

/-- Settles O56, instruction by instruction: the lemma of its format gives the fields of its words, and its map's decoder reads
them. -/
theorem encodingsDecode : Obligations.EncodingsDecode := by
  intro q i hwf
  show RoundTrips q i
  cases i with
  | nop h =>
    refine .misc rfl (by decide) fun w hh h6 hB => ?_
    obtain ⟨hnop, -, -, -, -, -⟩ := decMisc_of_fB h6
    exact hh ▸ hnop hB
  | brk h =>
    refine .misc rfl (by decide) fun w hh h6 hB => ?_
    obtain ⟨-, hbrk, -, -, -, -⟩ := decMisc_of_fB h6
    exact hh ▸ hbrk hB
  | xfenceCore h =>
    refine .misc rfl (by decide) fun w hh h6 hB => ?_
    obtain ⟨-, -, hcore, -, -, -⟩ := decMisc_of_fB h6
    exact hh ▸ hcore hB
  | xfenceQuad h =>
    refine .misc rfl (by decide) fun w hh h6 hB => ?_
    obtain ⟨-, -, -, hquad, -, -⟩ := decMisc_of_fB h6
    exact hh ▸ hquad hB
  | xfenceDev h =>
    refine .misc rfl (by decide) fun w hh h6 hB => ?_
    obtain ⟨-, -, -, -, hdev, -⟩ := decMisc_of_fB h6
    exact hh ▸ hdev hB
  | xfenceSys h =>
    refine .misc rfl (by decide) fun w hh h6 hB => ?_
    obtain ⟨-, -, -, -, -, hsys⟩ := decMisc_of_fB h6
    exact hh ▸ hsys hB
  | commit r p drop tag => exact .arrive hwf false
  | halt r p drop tag => exact .arrive hwf true
  | add h d a b => exact .twoSources hwf rfl (fun _ _ => rfl) rfl (twoWord_of_lt (by decide))
  | sub h d a b => exact .twoSources hwf rfl (fun _ _ => rfl) rfl (twoWord_of_lt (by decide))
  | and h d a b => exact .twoSources hwf rfl (fun _ _ => rfl) rfl (twoWord_of_lt (by decide))
  | or h d a b => exact .twoSources hwf rfl (fun _ _ => rfl) rfl (twoWord_of_lt (by decide))
  | xor h d a b => exact .twoSources hwf rfl (fun _ _ => rfl) rfl (twoWord_of_lt (by decide))
  | shl h d a b => exact .twoSources hwf rfl (fun _ _ => rfl) rfl (twoWord_of_lt (by decide))
  | shr h d a b => exact .twoSources hwf rfl (fun _ _ => rfl) rfl (twoWord_of_lt (by decide))
  | sra h d a b => exact .twoSources hwf rfl (fun _ _ => rfl) rfl (twoWord_of_lt (by decide))
  | mul h d a b => exact .twoSources hwf rfl (fun _ _ => rfl) rfl (twoWord_of_lt (by decide))
  | addi h d a imm => exact .addi hwf
  | li h d imm => exact .li
  | addiLong h d a imm c => exact .alux hwf rfl (by rintro _ _ ⟨⟩ _ ⟨⟩ _; simp [decAlux, chk, *]) imm.isLt
  | andi h d a imm c => exact .alux hwf rfl (by rintro _ _ ⟨⟩ _ ⟨⟩ _; simp [decAlux, chk, *]) imm.isLt
  | ori h d a imm c => exact .alux hwf rfl (by rintro _ _ ⟨⟩ _ ⟨⟩ _; simp [decAlux, chk, *]) imm.isLt
  | xori h d a imm c => exact .alux hwf rfl (by rintro _ _ ⟨⟩ _ ⟨⟩ _; simp [decAlux, chk, *]) imm.isLt
  | shli h d a m c => exact .aluxShift hwf rfl (by rintro _ _ ⟨⟩ _ ⟨⟩ _ _; simp [decAlux, chk, *])
  | shri h d a m c => exact .aluxShift hwf rfl (by rintro _ _ ⟨⟩ _ ⟨⟩ _ _; simp [decAlux, chk, *])
  | srai h d a m c => exact .aluxShift hwf rfl (by rintro _ _ ⟨⟩ _ ⟨⟩ _ _; simp [decAlux, chk, *])
  | mulh h d a b c => exact .aluxTwo hwf rfl (by rintro _ _ ⟨⟩ _ ⟨⟩ _; simp [decAlux, chk, *]) (by decide)
  | mulhu h d a b c => exact .aluxTwo hwf rfl (by rintro _ _ ⟨⟩ _ ⟨⟩ _; simp [decAlux, chk, *]) (by decide)
  | min h d a b c => exact .aluxTwo hwf rfl (by rintro _ _ ⟨⟩ _ ⟨⟩ _; simp [decAlux, chk, *]) (by decide)
  | max h d a b c => exact .aluxTwo hwf rfl (by rintro _ _ ⟨⟩ _ ⟨⟩ _; simp [decAlux, chk, *]) (by decide)
  | minu h d a b c => exact .aluxTwo hwf rfl (by rintro _ _ ⟨⟩ _ ⟨⟩ _; simp [decAlux, chk, *]) (by decide)
  | maxu h d a b c => exact .aluxTwo hwf rfl (by rintro _ _ ⟨⟩ _ ⟨⟩ _; simp [decAlux, chk, *]) (by decide)
  | ext h d a pos width1 c => exact .aluxField hwf rfl (by rintro _ _ ⟨⟩ _ ⟨⟩ ⟨⟩ _; simp [decAlux, chk, *])
  | exts h d a pos width1 c => exact .aluxField hwf rfl (by rintro _ _ ⟨⟩ _ ⟨⟩ ⟨⟩ _; simp [decAlux, chk, *])
  | ins h d a b pos width1 c => exact .ins hwf
  | clz h d a c => exact .alux hwf rfl (by rintro _ _ ⟨⟩ _ ⟨⟩ _; simp [decAlux, chk, *]) (by decide)
  | ctz h d a c => exact .alux hwf rfl (by rintro _ _ ⟨⟩ _ ⟨⟩ _; simp [decAlux, chk, *]) (by decide)
  | popc h d a c => exact .alux hwf rfl (by rintro _ _ ⟨⟩ _ ⟨⟩ _; simp [decAlux, chk, *]) (by decide)
  | lih h d a imm c => exact .alux hwf rfl (by rintro _ _ ⟨⟩ _ ⟨⟩ _; simp [decAlux, chk, *]) imm.isLt
  | cmpeq h pt pf a b => exact .cmp hwf rfl (fun _ _ => rfl) rfl (twoWord_of_lt (by decide))
  | cmplt h pt pf a b => exact .cmp hwf rfl (fun _ _ => rfl) rfl (twoWord_of_lt (by decide))
  | cmpltu h pt pf a b => exact .cmp hwf rfl (fun _ _ => rfl) rfl (twoWord_of_lt (by decide))
  | cmpeqi h pt pf a imm c => exact .cmpi hwf rfl (by rintro _ _ _ _ _ _ _ ⟨⟩ _; simp [decCmpi, chk, *])
  | cmplti h pt pf a imm c => exact .cmpi hwf rfl (by rintro _ _ _ _ _ _ _ ⟨⟩ _; simp [decCmpi, chk, *])
  | cmpltui h pt pf a imm c => exact .cmpi hwf rfl (by rintro _ _ _ _ _ _ _ ⟨⟩ _; simp [decCmpi, chk, *])
  | pand h xd xa xb na nb =>
    exact .pl rfl (fun _ _ => rfl) (by rintro _ ⟨⟩; simp [decPl, chk, *]) rfl (twoWord_of_lt (by decide))
  | por h xd xa xb na nb =>
    exact .pl rfl (fun _ _ => rfl) (by rintro _ ⟨⟩; simp [decPl, chk, *]) rfl (twoWord_of_lt (by decide))
  | pxor h xd xa xb na nb =>
    exact .pl rfl (fun _ _ => rfl) (by rintro _ ⟨⟩; simp [decPl, chk, *]) rfl (twoWord_of_lt (by decide))
  | pmov h xd xa na =>
    exact .pl (xb := 0) rfl (fun _ _ => rfl) (by rintro _ ⟨⟩; simp [decPl, chk, *]) rfl (twoWord_of_lt (by decide))
  | br h off => exact .br
  | brl h off => exact .brl
  | jr h d a => exact .jr hwf
  | loop h x swp m lid len c => exact .loop hwf
  | mfsr h r srn => exact .sr false
  | mtsr h r srn => exact .sr true
  | ld => exact .ld hwf
  | ldx => exact .ldx hwf
  | ldd => exact .ldd hwf
  | st => exact .st hwf
  | stx => exact .stx hwf
  | std => exact .std hwf
  | ldq => exact .ldq hwf
  | lddq => exact .lddq hwf
  | stq => exact .stq hwf
  | gather => exact .gather hwf
  | scatter => exact .scatter hwf
  | atomAdd h d a b f c => exact .atom hwf rfl rfl
  | atomAnd h d a b f c => exact .atom hwf rfl rfl
  | atomOr h d a b f c => exact .atom hwf rfl rfl
  | atomXor h d a b f c => exact .atom hwf rfl rfl
  | atomMin h d a b f c => exact .atom hwf rfl rfl
  | atomMax h d a b f c => exact .atom hwf rfl rfl
  | atomMinu h d a b f c => exact .atom hwf rfl rfl
  | atomMaxu h d a b f c => exact .atom hwf rfl rfl
  | atomSwap h d a b f c => exact .atom hwf rfl rfl
  | atomCas => exact .atomCas hwf
  | pref => exact .pref hwf
  | prefi => exact .prefi hwf
  | tld => exact .tld hwf
  | tldw => exact .tldw hwf
  | bank => exact .bank hwf
  | syncwait => exact .syncwait hwf
  | copy h x a f c => exact .copy hwf false
  | copyR h x a f c => exact .copy hwf true
  | dwin => exact .dwin hwf
  | launch => exact .launch hwf
  | yieldN => exact .yieldN hwf
  | swpt => exact .swpt hwf
  | groupRank => exact .groupRank hwf
  | groupSize => exact .groupSize hwf
  | bar => exact .bar hwf
  | barw => exact .barw hwf
  | vadd h d a b t sat c => exact .viTwo hwf rfl (by rintro _ _ ⟨⟩ _ ⟨⟩ ⟨⟩ _; simp [decVi, chk, *])
  | vsub h d a b t sat c => exact .viTwo hwf rfl (by rintro _ _ ⟨⟩ _ ⟨⟩ ⟨⟩ _; simp [decVi, chk, *])
  | vmul h d a b t sat c => exact .viTwo hwf rfl (by rintro _ _ ⟨⟩ _ ⟨⟩ ⟨⟩ _; simp [decVi, chk, *])
  | vmulh h d a b t c => exact .viTwo hwf rfl (by rintro _ _ ⟨⟩ _ ⟨⟩ ⟨⟩ _; simp [decVi, chk, *])
  | vmin h d a b t c => exact .viTwo hwf rfl (by rintro _ _ ⟨⟩ _ ⟨⟩ ⟨⟩ _; simp [decVi, chk, *])
  | vmax h d a b t c => exact .viTwo hwf rfl (by rintro _ _ ⟨⟩ _ ⟨⟩ ⟨⟩ _; simp [decVi, chk, *])
  | vand h d a b t c => exact .viTwo hwf rfl (by rintro _ _ ⟨⟩ _ ⟨⟩ ⟨⟩ _; simp [decVi, chk, *])
  | vor h d a b t c => exact .viTwo hwf rfl (by rintro _ _ ⟨⟩ _ ⟨⟩ ⟨⟩ _; simp [decVi, chk, *])
  | vxor h d a b t c => exact .viTwo hwf rfl (by rintro _ _ ⟨⟩ _ ⟨⟩ ⟨⟩ _; simp [decVi, chk, *])
  | vshl h d a b t c => exact .viTwo hwf rfl (by rintro _ _ ⟨⟩ _ ⟨⟩ ⟨⟩ _; simp [decVi, chk, *])
  | vshr h d a b t c => exact .viTwo hwf rfl (by rintro _ _ ⟨⟩ _ ⟨⟩ ⟨⟩ _; simp [decVi, chk, *])
  | vsra h d a b t c => exact .viTwo hwf rfl (by rintro _ _ ⟨⟩ _ ⟨⟩ ⟨⟩ _; simp [decVi, chk, *])
  | vabs h d a t sat c => exact .viSigned hwf rfl (by rintro _ _ ⟨⟩ _ ⟨⟩ ⟨⟩ _ _; simp [decVi, chk, *])
  | vneg h d a t sat c => exact .viSigned hwf rfl (by rintro _ _ ⟨⟩ _ ⟨⟩ ⟨⟩ _ _; simp [decVi, chk, *])
  | vmad => exact .vmad hwf
  | vfadd h d a b t rm c => exact .vfTwo hwf rfl (by rintro _ _ ⟨⟩ _ ⟨⟩ ⟨⟩ _; simp [decVf, chk, *])
  | vfsub h d a b t rm c => exact .vfTwo hwf rfl (by rintro _ _ ⟨⟩ _ ⟨⟩ ⟨⟩ _; simp [decVf, chk, *])
  | vfmul h d a b t rm c => exact .vfTwo hwf rfl (by rintro _ _ ⟨⟩ _ ⟨⟩ ⟨⟩ _; simp [decVf, chk, *])
  | vfma h d a b e t rm c => exact .vfThree hwf rfl (by rintro _ _ ⟨⟩ _ ⟨⟩ ⟨⟩ _; simp [decVf, chk, *])
  | vfms h d a b e t rm c => exact .vfThree hwf rfl (by rintro _ _ ⟨⟩ _ ⟨⟩ ⟨⟩ _; simp [decVf, chk, *])
  | vfmin h d a b t rm c => exact .vfTwo hwf rfl (by rintro _ _ ⟨⟩ _ ⟨⟩ ⟨⟩ _; simp [decVf, chk, *])
  | vfmax h d a b t rm c => exact .vfTwo hwf rfl (by rintro _ _ ⟨⟩ _ ⟨⟩ ⟨⟩ _; simp [decVf, chk, *])
  | vfabs h d a t rm c => exact .vf hwf rfl (by rintro _ _ ⟨⟩ _ ⟨⟩ ⟨⟩ _; simp [decVf, chk, *])
  | vfneg h d a t rm c => exact .vf hwf rfl (by rintro _ _ ⟨⟩ _ ⟨⟩ ⟨⟩ _; simp [decVf, chk, *])
  | vfrcp h d a t rm c => exact .vf hwf rfl (by rintro _ _ ⟨⟩ _ ⟨⟩ ⟨⟩ _; simp [decVf, chk, *])
  | vfrsq h d a t rm c => exact .vf hwf rfl (by rintro _ _ ⟨⟩ _ ⟨⟩ ⟨⟩ _; simp [decVf, chk, *])
  | vcmp => exact .vcmp hwf
  | mand h xd xa xb na nb => exact .plMask hwf rfl (by rintro _ ⟨⟩; simp [decPl, chk, *])
  | mor h xd xa xb na nb => exact .plMask hwf rfl (by rintro _ ⟨⟩; simp [decPl, chk, *])
  | mxor h xd xa xb na nb => exact .plMask hwf rfl (by rintro _ ⟨⟩; simp [decPl, chk, *])
  | mmov h xd xa na => exact .plMask (xb := 0) hwf rfl (by rintro _ ⟨⟩; simp [decPl, chk, *])
  | vsel => exact .vsel hwf
  | vperm => exact .vperm hwf
  | vrot h d a m c => exact .vp hwf rfl (by rintro _ _ ⟨⟩ _ ⟨⟩ _ _ _; simp [decVp, chk, *])
  | vbcast h d a m c => exact .vp hwf rfl (by rintro _ _ ⟨⟩ _ ⟨⟩ _ _ _; simp [decVp, chk, *])
  | vshup h d a m c => exact .vp hwf rfl (by rintro _ _ ⟨⟩ _ ⟨⟩ _ _ _; simp [decVp, chk, *])
  | vshdn h d a m c => exact .vp hwf rfl (by rintro _ _ ⟨⟩ _ ⟨⟩ _ _ _; simp [decVp, chk, *])
  | vcvt => exact .vcvt hwf
  | vrsum h d a t c => exact .vred hwf rfl (by rintro _ _ ⟨⟩ _ ⟨⟩ _ _; simp [decVred, chk, *])
  | vrmax h d a t c => exact .vred hwf rfl (by rintro _ _ ⟨⟩ _ ⟨⟩ _ _; simp [decVred, chk, *])
  | vrmin h d a t c => exact .vred hwf rfl (by rintro _ _ ⟨⟩ _ ⟨⟩ _ _; simp [decVred, chk, *])
  | vmov h d a => exact .vmove hwf rfl (by rintro _ ⟨⟩ _; simp [decVmove, chk, *])
  | vpush => exact .vpush hwf
  | vbcs h d a => exact .vmove hwf rfl (by rintro _ ⟨⟩ _; simp [decVmove, chk, *])
  | vmvs h d a => exact .vmove hwf rfl (by rintro _ ⟨⟩ _; simp [decVmove, chk, *])
  | vli => exact .vli hwf
  | vbank => exact .vbank hwf
  | mma => exact .mma hwf
  | drain => exact .drain hwf
  | _ => cases hwf

/-! ### Major 0 (R55) -/

theorem bit_getLsbD {n : Nat} (v : BitVec n) (i : Nat) : bit (v.getLsbD i) = v.toNat / 2 ^ i % 2 := by
  rw [BitVec.getLsbD, Nat.testBit_eq_decide_div_mod_eq, bit]
  have := Nat.mod_lt (v.toNat / 2 ^ i) (by decide : 0 < 2)
  by_cases h : v.toNat / 2 ^ i % 2 = 1
  · simp [h]
  · simp [show v.toNat / 2 ^ i % 2 = 0 by omega]

/-- The head that a first word's top byte holds (R41). -/
def hdrOfTop (top : BitVec 8) : Hdr :=
  ⟨⟨top.getLsbD 7, top.getLsbD 6, top.getLsbD 5, top.getLsbD 4⟩, top.getLsbD 3, Fin.ofNat 8 top.toNat⟩

/-- A word of major 0 by its top byte and its operand fields. -/
theorem append_eq_enc1 (top : BitVec 8) (ops : BitVec 18) :
    (top ++ (0#6 ++ ops) : Word32) = enc1 (hdrOfTop top) 0 ops.toNat := by
  refine BitVec.eq_of_toNat_eq ?_
  have hlow : (0#6 ++ ops).toNat = ops.toNat := by
    rw [BitVec.toNat_append, BitVec.toNat_ofNat]
    simp
  rw [BitVec.toNat_append, hlow, ← Nat.shiftLeft_add_eq_or_of_lt (by omega), Nat.shiftLeft_eq, enc1, BitVec.toNat_ofNat, Ring.bits]
  simp only [hdrOfTop, bit_getLsbD, Fin.val_ofNat]
  omega

/-- The words of major 0 that stand for no instruction. -/
theorem decMisc_error {w : Word32} (h : fld w 6 12 ≠ 0 ∨ fB w ∉ [0, 1, 4, 5, 6, 7]) :
    ∃ e : DecodeErr, decMisc w = .error e ∧ e.cause = 0x10 := by
  have z (i : Instr) (h6 : fld w 6 12 ≠ 0) :
      ∃ e : DecodeErr, chk (fld w 6 12 == 0) .reserved (.ok i) = .error e ∧ e.cause = 0x10 :=
    ⟨.reserved, by simp [chk, h6], rfl⟩
  have hB {m : Nat} (hm : fB w = m) (hin : m ∈ [0, 1, 4, 5, 6, 7]) : fld w 6 12 ≠ 0 := h.resolve_right fun hn => hn (hm ▸ hin)
  unfold decMisc
  dsimp only
  split
  · exact z _ (hB ‹_› (by decide))
  · exact z _ (hB ‹_› (by decide))
  · exact z _ (hB ‹_› (by decide))
  · exact z _ (hB ‹_› (by decide))
  · exact z _ (hB ‹_› (by decide))
  · exact z _ (hB ‹_› (by decide))
  · exact ⟨.minor, rfl, rfl⟩

/-- Settles O54: the word is that of its top byte and operand fields (`append_eq_enc1`), which `decMisc` reads. -/
theorem majorZero : Obligations.MajorZero := by
  intro q top ops w2 w h minor
  have hw : w = enc1 h 0 ops.toNat := append_eq_enc1 top ops
  have hm : majOf w = 0 := hw ▸ majOf_enc1 (by decide) ops.isLt
  have hh : hdrOf w = h := hw ▸ hdrOf_enc1 (by decide) ops.isLt
  have h6 : fld w 6 12 = ops.toNat / 64 := by
    rw [hw, fld_enc1 (by decide)]
    omega
  have hB : fB w = minor := by
    rw [hw, fB, fld_enc1 (by decide), Nat.pow_zero, Nat.div_one]
    rfl
  rw [decode_eq_decMap hm rfl]
  refine ⟨fun hz => ?_, fun hz => decMisc_error (h6.symm ▸ hB.symm ▸ hz)⟩
  rw [← hh, ← hB]
  exact decMisc_of_fB (h6.trans hz)

/-! ### The selectors (R45) -/

/-- An ADD of the selector of a code into s1, with s2. -/
theorem decode_add_selector (q : Seq) (v : Fin 64) (w2 : Word32) :
    decode q (BitVec.ofNat 32 (2 * 2 ^ 18 + 4096 + v.val * 64 + 2)) w2 =
      withSel q v.val fun a => .ok (.add ⟨⟨false, false, false, false⟩, false, 0⟩ (.reg 1) a (.reg 2)) := by
  have hx : rrr 1 v.val 2 < 2 ^ 18 := rrr_lt (by decide) v.isLt (by decide)
  have hw : BitVec.ofNat 32 (2 * 2 ^ 18 + 4096 + v.val * 64 + 2) =
      enc1 ⟨⟨false, false, false, false⟩, false, 0⟩ 2 (rrr 1 v.val 2) := by
    rw [enc1]
    congr 1
    simp only [Ring.bits, bit, rrr, Bool.false_eq_true, if_false, Fin.val_zero]
    omega
  have hops : fld (enc1 ⟨⟨false, false, false, false⟩, false, 0⟩ 2 (rrr 1 v.val 2)) 0 18 = rrr 1 v.val 2 := by
    rw [fld_enc1 (by decide), Nat.pow_zero, Nat.div_one, Nat.mod_eq_of_lt hx]
  obtain ⟨hD, hA, hB⟩ := fields_rrr hops (by decide) v.isLt (by decide)
  obtain ⟨hd, hd'⟩ := destOf_of_fD (d := .reg 1) hD
  have h2 (k : Sel → DecRes) : withSel q 2 k = k (.reg 2) := withSel_code (a := .reg 2) rfl k
  rw [hw, decode_eq_decMap (majOf_enc1 (by decide) hx) rfl]
  show decRRR q _ .add = _
  simp only [decRRR, hd, hA, hB, hd', hdrOf_enc1 (show 2 < 64 by decide) hx, h2, chk, if_true]

/-- The table of R45: the registers, the latches, and the queues that C and S pop and peek. -/
theorem Sel.ofCode_table (q : Seq) : ∀ v : Fin 64, Sel.ofCode q v.val =
    if v.val < 32 then some (.reg (Fin.ofNat 32 v.val))
    else if v.val < 36 then some (.latch (Fin.ofNat 4 v.val))
    else if (40 ≤ v.val ∧ v.val < 46 ∧ q = .c) ∨ (46 ≤ v.val ∧ v.val < 48 ∧ q = .s) then some (.pop (Fin.ofNat 8 v.val))
    else if (48 ≤ v.val ∧ v.val < 54 ∧ q = .c) ∨ (54 ≤ v.val ∧ v.val < 56 ∧ q = .s) then some (.peek (Fin.ofNat 8 v.val))
    else none := by
  cases q with
  | k => decide
  | l => decide
  | c => decide
  | s => decide

/-- Settles O55: each word is evaluated, and the selectors are those of the decoder's table (`Sel.ofCode_table`). -/
theorem wordsDecode : Obligations.WordsDecode := by
  unfold Obligations.WordsDecode
  refine ⟨rfl, rfl, rfl, rfl, rfl, rfl, rfl, rfl, rfl, rfl, rfl, rfl, rfl, rfl, fun q v => ?_⟩
  rw [decode_add_selector, withSel, Sel.ofCode_table]
  dsimp only
  split_ifs <;> rfl

end Sys2Proof
end

section
/-! SUPPORT. Taken branches (O5): where the end of an issue leaves its sequencer, whatever `Next` it is given, and the loops
that a jump leaves active. -/

namespace Sys2Proof.Machine

/-! ### The end of an issue, with or without pops -/

/-- `Light.trans` before a change that leaves the sequencers alone. -/
theorem Light.before {q : Fin 4} {c d e : Core} (h : Light q c d) (g : Light q d e) (he : e.seqs = d.seqs) : Light q c e := by
  have hs := sq_of_seqs he
  refine ⟨?_, fun b => (g.banks b).trans (h.banks b), fun j hj => (hs j).trans (h.seqs j hj),
    (hs q ▸ h.scalars :), (hs q ▸ h.latches :), fun p hp => (hs q ▸ h.preds p hp :)⟩
  have h1 := h.core
  have h2 := g.core
  generalize d = d' at *
  rw [h2, h1]

/-- What an end of an issue does to a core. -/
def Core.ended (c : Core) (k : CoreId) (rc : Nat) (q : Fin 4) (op : Op) (pops : Bool) (n : Next) (late on : Bool) : Core :=
  ((c.leave k rc q op pops n.arrives late (n.stages op.len (c.sq q))).modSeq q (n.apply op.len)).watch q on (c.sq q)

theorem retire_eq_ended (s : State) (op : Op) (pops : Bool) (n : Next) (late : Bool) :
    s.retire op pops n late = s.modMe fun c => c.ended s.curCore s.rc s.curSeq.idx op pops n late
      (bvf (s.die (dieOf s.curCore)).dbgperm c.part.val 1 == 1) := rfl

theorem ended_sq (c : Core) (k : CoreId) (rc : Nat) (q : Fin 4) (op : Op) (pops : Bool) (n : Next) (late on : Bool) :
    (c.ended k rc q op pops n late on).sq q = n.apply op.len (c.sq q) := by
  unfold Core.ended
  rw [sq_of_seqs (light_watch ..).2, modSeq_sq_same, sq_of_seqs (light_leave ..).2]

theorem light_ended (c : Core) (k : CoreId) (rc : Nat) (q : Fin 4) (op : Op) (pops : Bool) (n : Next) (late on : Bool) :
    Light q c (c.ended k rc q op pops n late on) := by
  obtain ⟨hleave, hseqs⟩ := light_leave q c k rc op pops n.arrives late (n.stages op.len (c.sq q))
  have hmove := hleave.step (light_modSeq q _ (n.apply op.len) (n.apply_s _ _) (n.apply_b _ _) (n.apply_p _ _)) hseqs
  obtain ⟨hwatch, hseqs'⟩ := light_watch q ((c.leave k rc q op pops n.arrives late (n.stages op.len (c.sq q))).modSeq q
    (n.apply op.len)) on (c.sq q)
  exact hmove.before hwatch hseqs'

theorem retire_frame (s : State) (op : Op) (pops : Bool) (n : Next) (late : Bool) :
    Frame id s (s.retire op pops n late) := by
  rw [retire_eq_ended]
  exact frame_of_light (light_ended ..) rfl rfl

theorem retire_preds (s : State) (op : Op) (pops : Bool) (n : Next) (late : Bool) :
    PredsKept s (s.retire op pops n late) := by
  rw [retire_eq_ended]
  exact preds_of_light (own := id) (light_ended ..) rfl

theorem retire_mySeq (s : State) (op : Op) (pops : Bool) (n : Next) (late : Bool) :
    (s.retire op pops n late).mySeq = n.apply op.len s.mySeq := by
  rw [retire_eq_ended]
  simp only [State.mySeq, modMe_me, modMe_curSeq, ended_sq]

/-! ### Jumps -/

@[simp] theorem jump_pay (x : SeqSt) (len pay : Nat) (a : BitVec 48) : ((Next.jump a pay).apply len x).pay = pay := rfl
@[simp] theorem jump_p (x : SeqSt) (len pay : Nat) (a : BitVec 48) : ((Next.jump a pay).apply len x).p = x.p := rfl

/-- A jump leaves the loops that hold its target, out to the first that does not (R108). -/
theorem jumped_of_apply {s t : State} {a : BitVec 48} {len pay : Nat} (x : SeqSt) (ht : t.mySeq = (Next.jump a pay).apply len x)
    (hh : x.h = s.mySeq.h) (hl : x.live = s.mySeq.live) : Jumped s t a := by
  have hlive : t.mySeq.live = s.mySeq.live.rtakeWhile fun i => (s.mySeq.h[i]).holds a := by
    rw [ht, ← hh, ← hl]; rfl
  refine ⟨by rw [ht]; rfl, by rw [ht, ← hh]; rfl, s.mySeq.live.rdropWhile fun i => (s.mySeq.h[i]).holds a, ?_, ?_, ?_⟩
  · rw [hlive, List.rdropWhile_append_rtakeWhile]
  · intro i hi
    rw [hlive] at hi
    exact List.mem_rtakeWhile_imp (p := fun i : Fin 4 => (s.mySeq.h[i]).holds a) hi
  · intro i hi
    obtain ⟨hne, rfl⟩ := List.mem_getLast?_eq_getLast hi
    simpa using List.rdropWhile_last_not _ _ hne

/-- A result in flight for the link: what of the sequencer it leaves alone. -/
theorem produce_p (s : State) (lat : Nat) (ws : List Wr) (comp : Comp) : (s.produce lat ws comp).mySeq.p = s.mySeq.p := by
  simp [State.produce, State.mySeq, Core.modSeq, Core.sq]

/-- The end of a branch that puts its link in flight. -/
theorem link_jump (s : State) (op : Op) (ws : List Wr) (a : BitVec 48) :
    let t := (s.produce 1 ws compNone).retire op true (.jump a 1) true
    Jumped s t a ∧ t.mySeq.pay = 1 ∧ InFlight 1 ws compNone s t ∧ t.mySeq.p = s.mySeq.p ∧ Frame id s t := by
  intro t
  obtain ⟨hframe, -, hfly, -, hh, hlive⟩ := produce_spec s 1 ws compNone
  have hseq : t.mySeq = (Next.jump a 1).apply op.len (s.produce 1 ws compNone).mySeq := retire_mySeq ..
  refine ⟨jumped_of_apply _ hseq hh hlive, ?_, ?_, ?_, hframe.trans (retire_frame ..)⟩
  · rw [hseq, jump_pay]
  · unfold InFlight at *
    rw [hseq, Next.apply_pend, hfly]
  · rw [hseq, jump_p, produce_p]

/-- A taken BR (R103, R104). -/
theorem exec_br {h : Hdr} {off : BitVec 18} {s : State} (g : Goes (opBr h [] []) s) :
    exec (.br h off) s =
      .next (s.retire (opBr h [] []) true (.jump (branchTarget s.mySeq.pc off) (branchCost s.curSeq.idx)) false) := by
  change execBr h off s = _
  rw [execBr, issue_goes g]

/-- A taken BRL (R103). -/
theorem exec_brl {h : Hdr} {off : BitVec 18} {s : State} (g : Goes (opBr h [] [.sreg 31]) s) :
    exec (.brl h off) s = .next ((s.produce 1 [.sreg 31 ((s.mySeq.pc + 4).setWidth 64)] compNone).retire
      (opBr h [] [.sreg 31]) true (.jump (branchTarget s.mySeq.pc off) 1) true) := by
  change execBrl h off s = _
  rw [execBrl, issue_goes g]

/-- A taken JR, by the alignment of its target (R103). -/
theorem exec_jr {h : Hdr} {d : Dest} {a : Sel} {s : State} (g : Goes (opBr h [a] (destRes d)) s) :
    exec (.jr h d a) s = if ((s.val [a] 0).setWidth 48).toNat % 4 = 0 then
        .next ((s.produce 1 (destWr d 0 ((s.mySeq.pc + 4).setWidth 64)) compNone).retire
          (opBr h [a] (destRes d)) true (.jump ((s.val [a] 0).setWidth 48) 1) true)
      else .next ((s.noted (opBr h [a] (destRes d))).trapHere 0x12 0 ((s.val [a] 0).setWidth 48).toNat) := by
  change execJr h d a s = _
  rw [execJr, issue_goes g]
  by_cases ht : ((s.val [a] 0).setWidth 48).toNat % 4 = 0
  · simp only [ht, if_true]
  · simp only [ht, if_false]

/-- A 48-bit target has the alignment of the register's whole value. -/
theorem target_mod_four (x : Word64) : (x.setWidth 48).toNat % 4 = x.toNat % 4 := by
  rw [BitVec.toNat_setWidth]
  omega

end Sys2Proof.Machine

namespace Sys2Proof

open Machine

/-- Settles O5: BR ends its issue with a jump, BRL and JR with a jump after their link was put in flight. -/
theorem branches : Obligations.Branches := by
  intro h off d a s
  refine ⟨fun g => ?br, fun g => ?brl, fun g ht => ?jr, fun g ht => ?trap⟩
  case br =>
    have hseq := retire_mySeq s (opBr h [] []) true (.jump (branchTarget s.mySeq.pc off) (branchCost s.curSeq.idx)) false
    refine ⟨_, exec_br g, jumped_of_apply _ hseq rfl rfl, ?_, ?_, ?_, retire_frame ..⟩
    · rw [hseq, jump_pay]; rfl
    · rw [hseq, Next.apply_pend]
    · rw [hseq, jump_p]
  case brl => exact ⟨_, exec_brl g, link_jump ..⟩
  case jr =>
    rw [exec_jr g, if_pos ((target_mod_four _).trans ht)]
    exact ⟨_, rfl, link_jump ..⟩
  case trap =>
    rw [Traps, exec_jr g, if_neg (by rwa [target_mod_four]), BitVec.toNat_setWidth]

end Sys2Proof
end

section
/-! SUPPORT. Special registers (O7): an instruction whose body changes the core and stands past itself, and the map of R62 a
row at a time. -/

namespace Sys2Proof.Machine

/-! ### A change of the core at issue -/

/-- An instruction whose body is what `own` does to the core, and that stands past itself. -/
theorem does_of {i : Instr} {op : Op} {own : Core → Core} {late : Bool} {s : State}
    (h : exec i s = .next ((s.modMe own).retire op true .seq late)) (hseqs : (own s.me).seqs = s.me.seqs)
    (hbanks : (own s.me).banks = s.me.banks) : Does i op own s := by
  have hown : Frame own s (s.modMe own) := frame_of_light (Light.refl _ _) hseqs hbanks
  have hkept : PredsKept s (s.modMe own) := preds_of_light (Light.refl _ _) hseqs
  have hmine : (s.modMe own).mySeq = s.mySeq := by
    simp only [State.mySeq, modMe_me, modMe_curSeq, sq_of_seqs hseqs]
  obtain ⟨hframe, hpreds, hpend, hpc, hh, hlive⟩ := retire_seq (s.modMe own) op late
  rw [hmine] at hpend hpc hh hlive
  exact ⟨_, h, hpend, ⟨hpc, hh, hlive⟩, hown.trans hframe, hkept.trans hpreds (by rw [hmine])⟩

/-! ### MFSR -/

/-- MFSR of a register that the sequencer may read. -/
theorem mfsr_produces {h : Hdr} {r : Fin 32} {srn : BitVec 12} {s : State} {v : Nat}
    (g : Goes (op1 h [] [] (destRes (.reg r))) s) (hv : s.readSr s.curCore s.curSeq.idx srn.toNat = some v) :
    Produces (.mfsr h r srn) (op1 h [] [] (destRes (.reg r))) 2 (destWr (.reg r) 0 (BitVec.ofNat 64 v)) s := by
  refine produces_of ?_
  change execMfsr h r srn s = _
  rw [execMfsr, issue_goes g, hv]
  rfl

/-- MFSR of a register that it may not read. -/
theorem mfsr_traps {h : Hdr} {r : Fin 32} {srn : BitVec 12} {s : State}
    (g : Goes (op1 h [] [] (destRes (.reg r))) s) (hv : s.readSr s.curCore s.curSeq.idx srn.toNat = none) :
    Traps (.mfsr h r srn) (op1 h [] [] (destRes (.reg r))) 0x11 0 0 s := by
  change execMfsr h r srn s = _
  rw [execMfsr, issue_goes g, hv]

/-- The registers that every sequencer reads (R62). -/
def Core.commonSr (c : Core) (q : Fin 4) (qns : Nat) : List (BitVec 12 × Nat) :=
  [(0x000, c.seqid.toNat / 4 * 4 + q.val), (0x001, c.taskid), (0x002, c.gen.toNat), (0x010, c.rgnmax.toNat),
    (0x011, c.rgncnt.toNat), (0x012, c.retrylim.toNat), (0x020, lscap), (0x021, c.qwpart.toNat * 2 ^ 20 + c.share.toNat),
    (0x030, c.clkdivRead), (0x031, c.plevel), (0x070, qns / 16 % 2 ^ 64)]

theorem readSr_common {s : State} {k : CoreId} {q : Fin 4} :
    ∀ e ∈ (s.core k).commonSr q s.qns, s.readSr k q e.1.toNat = some e.2 := by
  simp only [Core.commonSr, List.forall_mem_cons]
  exact ⟨rfl, rfl, rfl, rfl, rfl, rfl, rfl, rfl, rfl, rfl, rfl, List.forall_mem_nil _⟩

theorem readSr_drainpos {s : State} {k : CoreId} {q : Fin 4} (hq : 2 ≤ q.val) :
    s.readSr k q 0x060 = some (s.core k).drainpos.toNat := by
  simp [State.readSr, hq]

/-- A number that is none of those that every sequencer reads, nor DRAINPOS, is read by C alone. -/
theorem readSr_eq_none {s : State} {k : CoreId} {q : Fin 4} {n : Nat}
    (hcommon : n ∉ [0x000, 0x001, 0x002, 0x010, 0x011, 0x012, 0x020, 0x021, 0x030, 0x031, 0x070])
    (hdrain : ¬(2 ≤ q.val ∧ n = 0x060)) (hregs : ¬(q = 2 ∧ 0x040 ≤ n ∧ n ≤ 0x043))
    (hfile : ¬(q = 2 ∧ 0x048 ≤ n ∧ n < 0x060)) : s.readSr k q n = none := by
  simp only [List.mem_cons, List.not_mem_nil, or_false, not_or] at hcommon
  obtain ⟨h0, h1, h2, h3, h4, h5, h6, h7, h8, h9, h10⟩ := hcommon
  unfold State.readSr
  simp only [h0, h1, h2, h3, h4, h5, h6, h7, h8, h9, h10, if_false]
  rw [if_neg (by omega)]
  by_cases hq : q = 2
  · simp only [hq, true_and] at hregs hfile
    rw [if_pos hq, if_neg (by omega), if_neg (by omega), if_neg (by omega), if_neg (by omega), if_neg (by omega),
      if_neg (by omega)]
  · rw [if_neg hq]

/-- The registers of the vector unit that C reads besides its two register files (R62). -/
def Core.vectorSr (c : Core) : List (BitVec 12 × Nat) :=
  [(0x040, c.vl.toNat), (0x041, c.abfttol.toNat), (0x042, c.histp.toNat), (0x043, (c.fmterr ||| c.fmtpend).toNat)]

theorem readSr_vector {s : State} {k : CoreId} : ∀ e ∈ (s.core k).vectorSr, s.readSr k 2 e.1.toNat = some e.2 := by
  simp only [Core.vectorSr, List.forall_mem_cons]
  exact ⟨rfl, rfl, rfl, rfl, List.forall_mem_nil _⟩

/-- The numbers of TSHAPE and FMT entries name their index. -/
theorem tshape_index {n : Nat} {i : Fin 8} (h : n = 0x048 + i.val) : Fin.ofNat 8 n = i := by
  apply Fin.ext
  simp only [Fin.val_ofNat]
  omega

theorem fmt_index {n : Nat} {i : Fin 16} (h : n = 0x050 + i.val) : Fin.ofNat 16 n = i := by
  apply Fin.ext
  simp only [Fin.val_ofNat]
  omega

theorem readSr_tshape {s : State} {k : CoreId} {n : Nat} (i : Fin 8) (hn : n = 0x048 + i.val) :
    s.readSr k 2 n = some ((s.core k).tshape[i]).toNat := by
  have hi := i.isLt
  unfold State.readSr
  simp only [tshape_index hn]
  repeat rw [if_neg (by omega)]
  rw [if_pos trivial]
  repeat rw [if_neg (by omega)]
  rw [if_pos (by omega)]

theorem readSr_fmt {s : State} {k : CoreId} {n : Nat} (i : Fin 16) (hn : n = 0x050 + i.val) :
    s.readSr k 2 n = some ((s.core k).fmt[i]).toNat := by
  have hi := i.isLt
  unfold State.readSr
  simp only [fmt_index hn]
  repeat rw [if_neg (by omega)]
  rw [if_pos trivial]
  repeat rw [if_neg (by omega)]
  rw [if_pos (by omega)]

/-! ### MTSR -/

/-- MTSR of a value that its register takes. -/
theorem mtsr_does {h : Hdr} {r : Fin 32} {srn : BitVec 12} {s : State} {own : Core → Core}
    (g : Goes (op1 h [.reg r] [] []) s)
    (hw : s.me.writeSr s.curSeq.idx srn.toNat (s.val [.reg r] 0).toNat = some (own s.me))
    (hseqs : (own s.me).seqs = s.me.seqs) (hbanks : (own s.me).banks = s.me.banks) :
    Does (.mtsr h r srn) (op1 h [.reg r] [] []) own s := by
  refine does_of (late := true) ?_ hseqs hbanks
  change execMtsr h r srn s = _
  rw [execMtsr, issue_goes g, hw]
  rfl

/-- MTSR of a number that the sequencer may not write, or of a value that its register refuses. -/
theorem mtsr_traps {h : Hdr} {r : Fin 32} {srn : BitVec 12} {s : State} (g : Goes (op1 h [.reg r] [] []) s)
    (hw : s.me.writeSr s.curSeq.idx srn.toNat (s.val [.reg r] 0).toNat = none) :
    Traps (.mtsr h r srn) (op1 h [.reg r] [] []) 0x11 0 0 s := by
  change execMtsr h r srn s = _
  rw [execMtsr, issue_goes g, hw]

theorem writeSr_vl (c : Core) (x : Word64) : c.writeSr 2 0x040 x.toNat =
    if 1 ≤ x.toNat % 128 ∧ x.toNat % 128 ≤ 64 then some { c with vl := x.setWidth 7 } else none := by
  rw [← BitVec.ofNat_toNat]
  rfl
theorem writeSr_abfttol (c : Core) (x : Word64) :
    c.writeSr 2 0x041 x.toNat = some { c with abfttol := x.setWidth 16 } := by
  rw [← BitVec.ofNat_toNat]
  rfl
theorem writeSr_histp (c : Core) (x : Word64) : c.writeSr 2 0x042 x.toNat =
    if 1 ≤ x.toNat % 512 ∧ x.toNat % 512 ≤ 256 then some { c with histp := x.setWidth 9 } else none := by
  rw [← BitVec.ofNat_toNat]
  rfl
theorem writeSr_fmterr (c : Core) (x : Word64) : c.writeSr 2 0x043 x.toNat = some { c with
    fmterr := c.fmterr &&& ~~~(x.setWidth 6), fmtpend := c.fmtpend &&& ~~~(x.setWidth 6) } := by
  rw [← BitVec.ofNat_toNat]
  rfl
theorem writeSr_clkdiv (c : Core) (x : Word64) : c.writeSr 0 0x030 x.toNat =
    some { c with clkdiv := x.setWidth 32 &&& 0x7777#32, clkpend := true } := by
  rw [← BitVec.ofNat_toNat]
  rfl

theorem writeSr_tshape (c : Core) (x : Word64) {n : Nat} (i : Fin 8) (hn : n = 0x048 + i.val) : c.writeSr 2 n x.toNat =
    if tshapeOk x.toNat then some { c with tshape := c.tshape.set i (x.setWidth 32 &&& 0x00FFFFC0#32) } else none := by
  have hi := i.isLt
  unfold Core.writeSr
  simp only [tshape_index hn, BitVec.ofNat_toNat]
  rw [if_neg (by omega), if_pos trivial]
  repeat rw [if_neg (by omega)]
  rw [if_pos (by omega)]
  rfl

theorem writeSr_fmt (c : Core) (x : Word64) {n : Nat} (i : Fin 16) (hn : n = 0x050 + i.val) : c.writeSr 2 n x.toNat =
    if fmtEntryOk x.toNat then some { c with fmt := c.fmt.set i (x.setWidth 32 &&& 0x001FFFFF#32) } else none := by
  have hi := i.isLt
  unfold Core.writeSr
  simp only [fmt_index hn, BitVec.ofNat_toNat]
  rw [if_neg (by omega), if_pos trivial]
  repeat rw [if_neg (by omega)]
  rw [if_pos (by omega)]
  rfl

/-- A number of no register that the sequencer may write. -/
theorem writeSr_eq_none {c : Core} {q : Fin 4} {n x : Nat} (hclkdiv : ¬(q = 0 ∧ n = 0x030))
    (hregs : q = 2 → n ∉ [0x040, 0x041, 0x042, 0x043]) (hfile : ¬(q = 2 ∧ 0x048 ≤ n ∧ n < 0x060)) :
    c.writeSr q n x = none := by
  unfold Core.writeSr
  rw [if_neg (by tauto)]
  by_cases hq : q = 2
  · have hr := hregs hq
    simp only [hq, true_and] at hfile
    simp only [List.mem_cons, List.not_mem_nil, or_false, not_or] at hr
    obtain ⟨h0, h1, h2, h3⟩ := hr
    rw [if_pos hq, if_neg h0, if_neg h1, if_neg h2, if_neg h3, if_neg (by omega), if_neg (by omega)]
  · rw [if_neg hq]

end Sys2Proof.Machine

namespace Sys2Proof

open Machine

/-- R62, R139: what MFSR reads and where it traps. -/
theorem specialRead : Claims.SpecialRead := by
  intro h r s srn v c q op g
  refine ⟨?_, fun hcommon hdrain hregs hfile => mfsr_traps g (readSr_eq_none hcommon hdrain hregs hfile)⟩
  rintro (hv | ⟨hq, hv⟩ | ⟨hq, hv | ⟨i, hn, rfl⟩ | ⟨i, hn, rfl⟩⟩) <;> refine mfsr_produces g ?_
  · exact readSr_common _ hv
  · obtain ⟨rfl, rfl⟩ := Prod.mk.inj hv
    exact readSr_drainpos hq
  all_goals rw [show s.curSeq.idx = 2 from hq]
  · exact readSr_vector _ hv
  · exact readSr_tshape i hn
  · exact readSr_fmt i hn

/-- R62, R139, R140: what MTSR writes and where it traps. -/
theorem specialWrite : Claims.SpecialWrite := by
  intro h r s srn op x q wr g
  have does (own : Core → Core) (hw : s.me.writeSr q srn.toNat x.toNat = some (own s.me))
      (hseqs : (own s.me).seqs = s.me.seqs) (hbanks : (own s.me).banks = s.me.banks) : wr own := mtsr_does g hw hseqs hbanks
  have traps : s.me.writeSr q srn.toNat x.toNat = none → Traps (.mtsr h r srn) op 0x11 0 0 s := mtsr_traps g
  clear_value q
  refine ⟨?vl, ?tol, ?histp, ?fmterr, ?tshape, ?fmt, ?clkdiv, ?unassigned, ?refused⟩
  case vl =>
    rintro rfl rfl h1 h2
    exact does _ ((writeSr_vl ..).trans (if_pos ⟨h1, h2⟩)) rfl rfl
  case tol =>
    rintro rfl rfl
    exact does _ (writeSr_abfttol ..) rfl rfl
  case histp =>
    rintro rfl rfl h1 h2
    exact does _ ((writeSr_histp ..).trans (if_pos ⟨h1, h2⟩)) rfl rfl
  case fmterr =>
    rintro rfl rfl
    exact does _ (writeSr_fmterr ..) rfl rfl
  case tshape =>
    rintro i rfl hn hx
    exact does _ ((writeSr_tshape _ _ i hn).trans (if_pos hx)) rfl rfl
  case fmt =>
    rintro i rfl hn hx
    exact does _ ((writeSr_fmt _ _ i hn).trans (if_pos hx)) rfl rfl
  case clkdiv =>
    rintro rfl rfl
    exact does _ (writeSr_clkdiv ..) rfl rfl
  case unassigned =>
    intro hclkdiv hregs hfile
    refine traps (writeSr_eq_none ?_ hregs hfile)
    rintro ⟨hq, hn⟩
    exact hclkdiv ⟨hq, BitVec.eq_of_toNat_eq hn⟩
  case refused =>
    rintro rfl hx
    refine traps ?_
    rcases hx with ⟨rfl, hx⟩ | ⟨rfl, hx⟩ | ⟨hlo, hhi, hx⟩ | ⟨hlo, hhi, hx⟩
    · exact (writeSr_vl ..).trans (if_neg (by omega))
    · exact (writeSr_histp ..).trans (if_neg (by omega))
    · rw [writeSr_tshape _ _ ⟨srn.toNat - 0x048, by omega⟩ (Nat.add_sub_of_le hlo).symm, hx]
      rfl
    · rw [writeSr_fmt _ _ ⟨srn.toNat - 0x050, by omega⟩ (Nat.add_sub_of_le hlo).symm, hx]
      rfl

/-- Settles O7: MFSR and MTSR answer as the maps `readSr` and `writeSr` do, row by row. -/
theorem specialRegisters : Obligations.SpecialRegisters := ⟨specialRead, specialWrite⟩

end Sys2Proof
end

section
/-! SUPPORT. What every issue does to tokens and queues, what a false guard and a stall leave, and what operands read (O3). -/

namespace Sys2Proof.Machine

/-! ### Tokens, queues and offered signals at the end of an issue -/

/-- The tokens, pops and completion of an issue (R26, R46, R101). -/
def Core.settled (c : Core) (q : Fin 4) (op : Op) (pops arrives late : Bool) : Core :=
  let c := c.doTokens q op.ring (!arrives)
  let c := if pops then c.doPops op.names else c
  if late || arrives then c else c.offer q op.comp

theorem Core.unwait_keeps {α : Type} (g : Core → α) (c : Core) (w : Waiter)
    (hg : ∀ (c : Core) b, g { c with banks := b } = g c) : g (c.unwait w) = g c := by
  rw [unwait_core, hg]

theorem Core.watch_keeps {α : Type} (g : Core → α) (c : Core) (q : Fin 4) (on : Bool) (old : SeqSt)
    (hg : ∀ (c : Core) d, g { c with dbg := d } = g c) : g (c.watch q on old) = g c := by
  have hask : ∀ c : Core, g (c.askStop q) = g c := by
    intro c
    unfold Core.askStop
    split
    · exact hg ..
    · rfl
  unfold Core.watch
  extract_lets tested asked
  have hasked : g asked = g c := by
    simp only [asked]
    split
    · exact hask c
    · rfl
  split
  · rw [hg, hasked]
  · exact hasked

/-- After its tokens, pops and completion an issue changes sequencers, wake lists, counters, the debug stop and notes alone. -/
theorem ended_keeps {α : Type} (g : Core → α) (c : Core) (k : CoreId) (rc : Nat) (q : Fin 4) (op : Op) (pops : Bool) (n : Next)
    (late on : Bool)
    (hg : ∀ (c : Core) x b v o d m, g { c with seqs := x, banks := b, cntval := v, ovfs := o, dbg := d, notes := m } = g c) :
    g (c.ended k rc q op pops n late on) = g (c.settled q op pops n.arrives late) := by
  rw [Core.ended, Core.watch_keeps g _ _ _ _ fun c d => hg c c.seqs c.banks c.cntval c.ovfs d c.notes]
  refine (hg (c.leave k rc q op pops n.arrives late (n.stages op.len (c.sq q))) _ _ _ _ _ _).trans ?_
  refine (hg (((c.settled q op pops n.arrives late).unwait (.seqr k q)).count 0x02 q.val 0 true) _ _ _ _ _ _).trans ?_
  rw [Core.count_keeps g _ _ _ _ _ fun c v o => hg c c.seqs c.banks v o c.dbg c.notes,
    Core.unwait_keeps g _ _ fun c b => hg c c.seqs b c.cntval c.ovfs c.dbg c.notes]

/-- The tokens of an instruction that does not arrive: its signals in, its waits out (R26, R100). -/
theorem settled_tok (c : Core) (q : Fin 4) (op : Op) (pops late : Bool) (x : Fin 8) :
    (c.settled q op pops false late).tok[x] = c.tok[x] + (if x ∈ ringSigs q op.ring then 1 else 0) -
      (if x ∈ ringWaits q op.ring then 1 else 0) := by
  have htok : (c.settled q op pops false late).tok = (c.doTokens q op.ring true).tok := by
    cases pops <;> cases late <;> rfl
  rw [htok]
  simp [Core.doTokens]

theorem settled_q_unpopped (c : Core) (q : Fin 4) (op : Op) (arrives late : Bool) :
    (c.settled q op false arrives late).q = c.q := by
  cases late <;> cases arrives <;> rfl

/-- The queues of an instruction that issues: each popped as often as the operands pop it (R46). -/
theorem settled_q_popped (c : Core) (q : Fin 4) (op : Op) (arrives late : Bool) (x : Fin 8) :
    ((c.settled q op true arrives late).q[x]).ents = (c.q[x]).ents.drop (popsOf x op.names) := by
  have hq : (c.settled q op true arrives late).q = (c.doPops op.names).q := by
    cases late <;> cases arrives <;> rfl
  rw [hq]
  by_cases hx : popsOf x op.names = 0
  · simp [Core.doPops, hx]
  · simp [Core.doPops, hx, QueueSt.pop]

theorem settled_offered (c : Core) (q : Fin 4) (op : Op) (pops late : Bool) :
    (c.settled q op pops false late).offered = c.offered ++ (if late then [] else compSigs q op.comp) := by
  cases late <;> cases pops <;> simp [Core.settled, Core.offer, Core.doPops, Core.doTokens]

section
variable (s : State) (op : Op) (pops late : Bool)

theorem retire_tok (x : Fin 8) : (s.retire op pops .seq late).me.tok[x] =
    s.me.tok[x] + (if x ∈ ringSigs s.curSeq.idx op.ring then 1 else 0) -
      (if x ∈ ringWaits s.curSeq.idx op.ring then 1 else 0) := by
  rw [retire_eq_ended, modMe_me, ended_keeps Core.tok _ _ _ _ _ _ _ _ _ fun _ _ _ _ _ _ _ => rfl]
  exact settled_tok ..

theorem retire_q_unpopped : (s.retire op false .seq late).me.q = s.me.q := by
  rw [retire_eq_ended, modMe_me, ended_keeps Core.q _ _ _ _ _ _ _ _ _ fun _ _ _ _ _ _ _ => rfl]
  exact settled_q_unpopped ..

theorem retire_q_popped (x : Fin 8) :
    ((s.retire op true .seq late).me.q[x]).ents = (s.me.q[x]).ents.drop (popsOf x op.names) := by
  rw [retire_eq_ended, modMe_me, ended_keeps Core.q _ _ _ _ _ _ _ _ _ fun _ _ _ _ _ _ _ => rfl]
  exact settled_q_popped ..

theorem retire_offered : (s.retire op pops .seq late).me.offered =
    s.me.offered ++ (if late then [] else compSigs s.curSeq.idx op.comp) := by
  rw [retire_eq_ended, modMe_me, ended_keeps Core.offered _ _ _ _ _ _ _ _ _ fun _ _ _ _ _ _ _ => rfl]
  exact settled_offered ..

end

/-! ### A false guard -/

/-- An instruction that passes checks 2 and 3 of R99 with its guard false ends its issue at once, popping nothing (R43). -/
theorem issue_false {op : Op} {body : State → Out} {s : State} (tokens : s.me.tokenFail s.curSeq.idx op.ring true = none)
    (queues : s.me.queueFail op.names op.push = none)
    (acquire : s.curSeq.idx = 1 → s.me.loads.any (fun l => l.acq) = false) (known : op.guard.res.any s.mySeq.busy = false)
    (guard : op.guard.never ∨ op.guard.holds s.mySeq = false) (fits : op.len = 2 → s.mySeq.splitsLoop = none) :
    issue op body s = .next (s.retire op false .seq false) := by
  have hfinish : s.finish s op false .seq false = s.retire op false .seq false := by
    unfold State.finish
    by_cases hlen : op.len = 2
    · simp only [hlen, fits hlen, if_true]
    · simp only [hlen, if_false]
  have hacquire : ¬(s.curSeq.idx = 1 ∧ s.me.loads.any (fun l => l.acq) = true) := by
    rintro ⟨hq, hload⟩
    rw [acquire hq] at hload
    exact Bool.false_ne_true hload
  simp only [State.mySeq] at known guard
  unfold issue
  rcases guard with never | fails
  · simp only [never, Bool.not_true, Bool.and_false, Bool.false_and, Bool.not_false, tokens, queues, hacquire, if_false, if_true,
      hfinish]
  · simp only [fails, known, Bool.or_false, Bool.and_false, Bool.not_false, tokens, queues, hacquire, if_false, if_true,
      Bool.false_eq_true, hfinish, ite_self]

/-! ### A stall -/

/-- What `StallChangesNothing` asks of a state that is stalled. -/
def Stalled (s t : State) : Prop :=
  t = { s with cores := t.cores } ∧ (∀ k, k ≠ s.curCore → t.core k = s.core k) ∧
    (∃ n, t.mySeq = { s.mySeq with stall := some n }) ∧
    t.me = { s.me with seqs := t.me.seqs, detected := t.me.detected } ∧
    ∀ j, j ≠ s.curSeq.idx → t.me.sq j = s.me.sq j

theorem stallWith_stalled (s : State) (cls : Nat) : Stalled s (s.stallWith cls) := by
  have hme : (s.stallWith cls).me = s.me.modSeq s.curSeq.idx _ := modMe_me s _
  have hmine := (congrArg (fun c : Core => c.sq s.curSeq.idx) hme).trans (modSeq_sq_same ..)
  refine ⟨rfl, fun k hk => modCore_core_other s _ hk, ⟨_, hmine⟩, ?_, fun j hj => ?_⟩
  · rw [hme]
    rfl
  · rw [hme]
    exact modSeq_sq_other _ _ hj

/-- A stall with the causes that it gives rise to (R34). -/
theorem Stalled.detect {s t : State} (h : Stalled s t) (l : List (Nat × Fin 4)) :
    Stalled s (t.modMe fun c => { c with detected := c.detected ++ l }) := by
  obtain ⟨hout, hothers, ⟨n, hmine⟩, hme, hseqs⟩ := h
  have hk : t.curCore = s.curCore := by rw [hout]
  refine ⟨?_, fun k hn => ?_, ⟨n, ?_⟩, ?_, fun j hj => ?_⟩
  · obtain ⟨cores, rfl⟩ : ∃ cores, t = { s with cores := cores } := ⟨_, hout⟩
    rfl
  · rw [← hothers k hn]
    exact modCore_core_other t _ (hk ▸ hn)
  · rw [← hmine]
    simp only [State.mySeq, modMe_me, modMe_curSeq]
    rfl
  · rw [modMe_me, hme]
  · rw [modMe_me, ← hseqs j hj]
    rfl

theorem Stalled.detectIf {s t : State} (h : Stalled s t) (b : Bool) (l : List (Nat × Fin 4)) :
    Stalled s (if b then t.modMe fun c => { c with detected := c.detected ++ l } else t) := by
  cases b with
  | false => exact h
  | true => exact h.detect l

/-- An instruction that check 2 or 3 of R99 holds back stalls, and nothing issues. -/
theorem issue_stalls {op : Op} {body : State → Out} {s : State}
    (fails : s.me.tokenFail s.curSeq.idx op.ring (!op.arr) ≠ none ∨ s.me.queueFail op.names op.push ≠ none)
    (unguarded : op.arr = false ∨ op.guard = .none) : ∃ t, issue op body s = .next t ∧ Stalled s t := by
  have harriving : (op.arr && !op.guard.never &&
      (op.guard.res.any (s.me.sq s.curSeq.idx).busy || op.guard.holds (s.me.sq s.curSeq.idx))) = op.arr := by
    rcases unguarded with harr | hguard
    · simp [harr]
    · simp [hguard, Guard.never, Guard.holds]
  unfold issue
  simp only [harriving]
  cases htok : s.me.tokenFail s.curSeq.idx op.ring (!op.arr) with
  | some x => exact ⟨_, rfl, (stallWith_stalled ..).detectIf ..⟩
  | none =>
    cases hqueue : s.me.queueFail op.names op.push with
    | some x => exact ⟨_, rfl, (stallWith_stalled ..).detectIf ..⟩
    | none =>
      rw [htok, hqueue] at fails
      simp at fails

/-! ### Operands -/

theorem lanes_getLsbD (c : Core) (h : Hdr) {j : Nat} (hj : j < 64) :
    (c.lanes h).getLsbD j = (decide (j < c.vl.toNat) && ((c.mask h.gp).getLsbD j != h.gn)) := by
  have hbelow : (BitVec.ofNat 64 (2 ^ c.vl.toNat - 1)).getLsbD j = decide (j < c.vl.toNat) := by
    rw [BitVec.getLsbD_ofNat, Nat.testBit_two_pow_sub_one]
    simp [hj]
  rw [Core.lanes, BitVec.getLsbD_and, hbelow, Bool.and_comm]
  cases h.gn <;> simp [hj]

theorem elemOf_testBit (v : VWord) {w n : Nat} (j : Nat) (hn : n < w) : (elemOf v w j).testBit n = v.getLsbD (w * j + n) := by
  rw [elemOf, Nat.testBit_mod_two_pow, Nat.testBit_div_two_pow, decide_eq_true hn, Bool.true_and, Nat.add_comm]
  rfl

/-- The entry that a pop or a peek finds: the one that the pops before it leave at the head (R46). -/
theorem queueVal_eq {c : Core} {names : List Sel} {i : Nat} {q : Fin 8} {v : VWord}
    (h : (c.q[q]).ents[((names.take i).filter fun y => decide (y = .pop q)).length]? = some (.filled v)) :
    c.queueVal names i q = some v := by
  have hpops : popsOf q (before names i) = ((names.take i).filter fun y => decide (y = .pop q)).length := rfl
  rw [Core.queueVal, QueueSt.entry, hpops, h]

theorem scalar_reg {c : Core} {q : Fin 4} {names : List Sel} {i : Nat} {r : Fin 32} (h : names[i]? = some (.reg r)) :
    c.scalar q names i = (c.sq q).sreg r := by
  rw [Core.scalar, h]

theorem scalar_latch {c : Core} {q : Fin 4} {names : List Sel} {i : Nat} {b : Fin 4} (h : names[i]? = some (.latch b)) :
    c.scalar q names i = ((c.sq q).b[b]).setWidth 64 := by
  rw [Core.scalar, h]

theorem vector_reg {c : Core} {names : List Sel} {i : Nat} {r : Fin 32} (h : names[i]? = some (.reg r)) :
    c.vector names i = c.v[r] := by
  rw [Core.vector, h]

theorem vector_latch {c : Core} {names : List Sel} {i : Nat} {b : Fin 4} (h : names[i]? = some (.latch b)) :
    c.vector names i = (c.sq 2).b[b] := by
  rw [Core.vector, h]

/-- An operand that pops or peeks a queue has the entry's value. -/
theorem scalar_vector_queue {c : Core} {q : Fin 4} {names : List Sel} {i : Nat} {x : Fin 8} {v : VWord}
    (h : names[i]? = some (.pop x) ∨ names[i]? = some (.peek x)) (hv : c.queueVal names i x = some v) :
    c.scalar q names i = v.setWidth 64 ∧ c.vector names i = v := by
  rcases h with h | h
  all_goals
    rw [Core.scalar, Core.vector, h]
    simp only [hv, Option.getD_some, and_self]

end Sys2Proof.Machine

namespace Sys2Proof

open Machine

/-- R45 to R47, R123, R165, R168: operands. -/
theorem operandReads : Claims.OperandReads := by
  intro names i h s c at_
  refine ⟨fun hx => ?_, fun r hr hx => ?_, fun b hx => scalar_latch hx, fun r hx => vector_reg hx, fun b hx => vector_latch hx,
    fun q v hx hent => scalar_vector_queue hx (queueVal_eq hent), fun m => rfl, fun j hj => lanes_getLsbD _ _ hj,
    fun v w j n hn => elemOf_testBit v j hn⟩
  · exact (scalar_reg hx).trans (if_pos rfl)
  · exact (scalar_reg hx).trans (if_neg hr)

/-- R26, R46, R100: the end of every issue. -/
theorem issueTokensAndPops : Claims.IssueTokensAndPops := by
  intro op body s s' late g hbody hcore hseq
  refine ⟨s'.retire op true .seq late, by rw [issue_goes g, hbody], ?_⟩
  rw [← hseq]
  exact ⟨retire_tok s' op true late, retire_q_popped s' op late, retire_offered s' op true late⟩

/-- R43, R99: a false guard. -/
theorem falseGuard : Claims.FalseGuard := by
  intro op body s tokens queues acquire known guard fits
  have hmine := retire_mySeq s op false .seq false
  refine ⟨_, issue_false tokens queues acquire known guard fits, ?_, retire_q_unpopped .., ?_, retire_frame ..,
    retire_preds s op false .seq false, retire_tok s op false false⟩
  · rw [hmine, Next.apply_pend]
  · rw [Past, hmine]
    exact advance_live _ _ _ ⟨rfl, rfl, rfl⟩

/-- R99: a stall. -/
theorem stallChangesNothing : Claims.StallChangesNothing :=
  fun _ _ _ fails unguarded => issue_stalls fails unguarded

/-- Settles O3: operands by the definition of each selector, the rest by the branches of `issue`. -/
theorem issueRules : Obligations.IssueRules :=
  ⟨operandReads, issueTokensAndPops, falseGuard, stallChangesNothing⟩

end Sys2Proof
end

section
/-! SUPPORT. Rounding as a function of real numbers (R85, R86): `roundF` of an exact value is `roundReal` of its magnitude, which is
monotone, and which does not see where between two neighbours of a finer grid a number lies. -/

namespace Sys2Proof.Machine

/-! ### Integers near a magnitude (rint of R85) -/

/-- Where a magnitude lies among the integers and the halves between them: 4n at n, 4n + 2 at n + 1/2, odd numbers between. -/
noncomputable def cell (x : ℝ) : Nat := ⌊2 * x⌋₊ + ⌈2 * x⌉₊

/-- The integer that a mode takes for a magnitude, by its cell. -/
def rintCell (mode : RMode) (neg : Bool) (c : Nat) : Nat :=
  match mode with
  | .rne => if c % 4 = 3 ∨ c % 4 = 2 ∧ c / 4 % 2 = 1 then c / 4 + 1 else c / 4
  | .rtz => c / 4
  | .rdn => if neg then (c + 3) / 4 else c / 4
  | .rup => if neg then c / 4 else (c + 3) / 4
  | .rna => (c + 2) / 4

theorem cell_mono {x y : ℝ} (h : x ≤ y) : cell x ≤ cell y := by
  unfold cell
  gcongr

theorem cell_of_eq {x : ℝ} {j : Nat} (h : 2 * x = j) : cell x = 2 * j := by
  rw [cell, h, Nat.floor_natCast, Nat.ceil_natCast, Nat.two_mul]

theorem cell_of_between {x : ℝ} {j : Nat} (h1 : j < 2 * x) (h2 : 2 * x < j + 1) : cell x = 2 * j + 1 := by
  have hf : ⌊2 * x⌋₊ = j := Nat.floor_eq_on_Ico j _ ⟨h1.le, h2⟩
  have hc : ⌈2 * x⌉₊ = j + 1 := (Nat.ceil_eq_iff j.succ_ne_zero).mpr ⟨by simpa using h1, by exact_mod_cast h2.le⟩
  rw [cell, hf, hc]
  omega

theorem cell_natCast (n : Nat) : cell n = 4 * n := by
  rw [cell_of_eq (j := 2 * n) (by push_cast; rfl)]
  omega

theorem rintCell_mono (mode : RMode) (neg : Bool) {c d : Nat} (h : c ≤ d) : rintCell mode neg c ≤ rintCell mode neg d := by
  rcases (Nat.div_le_div_right h : c / 4 ≤ d / 4).eq_or_lt with hq | hq
  all_goals
    cases mode <;> cases neg <;> simp only [rintCell, if_true, Bool.false_eq_true, if_false]
    all_goals (repeat' split) <;> omega

theorem rintCell_four_mul (mode : RMode) (neg : Bool) (n : Nat) : rintCell mode neg (4 * n) = n := by
  cases mode <;> cases neg <;> simp [rintCell] <;> omega

theorem rintCell_le_of_lt (mode : RMode) (neg : Bool) {c n : Nat} (h : c < 4 * n) : rintCell mode neg c ≤ n :=
  (rintCell_mono mode neg h.le).trans_eq (rintCell_four_mul mode neg n)

/-- `rshRound` is rint of the quotient. -/
theorem rshRound_eq (mode : RMode) (neg : Bool) (m k : Nat) :
    rshRound mode neg m k = rintCell mode neg (cell (m / 2 ^ k)) := by
  have hD : 0 < 2 ^ k := Nat.two_pow_pos k
  have hr : m % 2 ^ k < 2 ^ k := Nat.mod_lt m hD
  have hm : m = 2 ^ k * (m / 2 ^ k) + m % 2 ^ k := (Nat.div_add_mod m _).symm
  have hk : k = 0 → 2 ^ k = 1 := fun h => by rw [h, pow_zero]
  have hcast : ((2 ^ k : Nat) : ℝ) = 2 ^ k := by push_cast; rfl
  have hpos : (0 : ℝ) < ((2 ^ k : Nat) : ℝ) := by exact_mod_cast hD
  unfold rshRound
  rw [← hcast]
  generalize 2 ^ k = D at *
  generalize m / D = q at *
  generalize m % D = r at *
  have htwice : 2 * ((m : ℝ) / D) = (2 * q : Nat) + 2 * (r : ℝ) / D := by
    rw [hm]; push_cast; field_simp
  have hcell : cell ((m : ℝ) / D) = 4 * q + if r = 0 then 0 else if 2 * r < D then 1 else if 2 * r = D then 2 else 3 := by
    split
    · next h => rw [cell_of_eq (j := 2 * q) (by rw [htwice, h]; simp)]; omega
    · split
      · next h0 h =>
        rw [cell_of_between (j := 2 * q)]
        · omega
        · rw [htwice]
          have : (0 : ℝ) < r := by exact_mod_cast Nat.pos_of_ne_zero h0
          have := div_pos (mul_pos two_pos this) hpos
          linarith
        · rw [htwice]
          have : 2 * (r : ℝ) / D < 1 := by rw [div_lt_one hpos]; exact_mod_cast h
          linarith
      · split
        · next h =>
          rw [cell_of_eq (j := 2 * q + 1)]
          · omega
          · have : 2 * (r : ℝ) / D = 1 := by rw [div_eq_one_iff_eq hpos.ne']; exact_mod_cast h
            rw [htwice, this]; push_cast; rfl
        · next h1 h2 =>
          rw [cell_of_between (j := 2 * q + 1)]
          · omega
          · have : 1 < 2 * (r : ℝ) / D := by rw [one_lt_div hpos]; exact_mod_cast (by omega : D < 2 * r)
            rw [htwice]; push_cast; linarith
          · have : 2 * (r : ℝ) / D < 2 := by rw [div_lt_iff₀ hpos]; exact_mod_cast (by omega : 2 * r < 2 * D)
            rw [htwice]; push_cast; linarith
  rw [hcell]
  cases mode <;> cases neg <;>
    simp only [rintCell, if_true, Bool.false_eq_true, if_false, ne_eq, true_and, false_and, Bool.not_true, Bool.not_false] <;>
    grind

/-- `scaleRound` is rint of the product. -/
theorem scaleRound_eq (mode : RMode) (neg : Bool) (m : Nat) (d : Int) :
    scaleRound mode neg m d = rintCell mode neg (cell (m * 2 ^ d)) := by
  unfold scaleRound
  split
  · next h =>
    obtain ⟨n, rfl⟩ := Int.eq_ofNat_of_zero_le h
    have hn : (m : ℝ) * 2 ^ (n : Int) = (m * 2 ^ n : Nat) := by push_cast; rfl
    rw [hn, cell_natCast, rintCell_four_mul]
    rfl
  · next h =>
    obtain ⟨n, rfl⟩ : ∃ n : Nat, d = -n := ⟨(-d).toNat, by omega⟩
    rw [rshRound_eq, zpow_neg, zpow_natCast, div_eq_mul_inv, show (- -(n : Int)).toNat = n by omega]

/-! ### The pattern of a magnitude -/

/-- How far the exponent at which a magnitude rounds lies above the least normal one (R85). -/
noncomputable def expAbove (f : Fmt) (x : ℝ) : Nat := (Int.log 2 x - (1 - (fmtBias f : Int))).toNat

/-- The spacing of a format's values at a magnitude (R85's q). -/
noncomputable def spacing (f : Fmt) (x : ℝ) : ℝ := 2 ^ ((expAbove f x : Int) + (1 - (fmtBias f : Int)) - (fmtEM f).2)

/-- The pattern without its sign that a magnitude rounds to, before overflow is looked at: patterns count the values upwards. -/
noncomputable def roundPat (f : Fmt) (mode : RMode) (neg : Bool) (x : ℝ) : Nat :=
  expAbove f x * 2 ^ (fmtEM f).2 + rintCell mode neg (cell (x / spacing f x))

/-- The rounding of a positive real number of a sign (R85, R86). -/
noncomputable def roundReal (f : Fmt) (mode : RMode) (sat neg : Bool) (x : ℝ) : Flagged Nat :=
  if maxFinPat f < roundPat f mode neg x then overflowF f mode sat neg
  else (signPat f neg + roundPat f mode neg x, FFlags.none)

theorem log_eq_of_mem {x : ℝ} {j : Int} (h1 : (2 : ℝ) ^ j ≤ x) (h2 : x < (2 : ℝ) ^ (j + 1)) : Int.log 2 x = j := by
  have hx : 0 < x := (zpow_pos two_pos j).trans_le h1
  have hle : j ≤ Int.log 2 x := (Int.zpow_le_iff_le_log Nat.one_lt_two hx).mp (by exact_mod_cast h1)
  have hlt : Int.log 2 x < j + 1 := (Int.lt_zpow_iff_log_lt Nat.one_lt_two hx).mp (by exact_mod_cast h2)
  omega

/-- Between two neighbouring multiples of a power of two the exponent is that of the lower one. -/
theorem log_of_between {x : ℝ} {n : Nat} {s : Int} (hn : n ≠ 0) (h1 : n * (2 : ℝ) ^ s ≤ x) (h2 : x < (n + 1) * (2 : ℝ) ^ s) :
    Int.log 2 x = Nat.log2 n + s := by
  have hs : (0 : ℝ) < 2 ^ s := zpow_pos two_pos s
  have hlow : ((2 ^ Nat.log2 n : Nat) : ℝ) ≤ n := by exact_mod_cast Nat.log2_self_le hn
  have hhigh : ((n + 1 : Nat) : ℝ) ≤ (2 ^ (Nat.log2 n + 1) : Nat) := by exact_mod_cast Nat.lt_log2_self
  push_cast at hlow hhigh
  refine log_eq_of_mem ?_ ?_
  · rw [zpow_add₀ two_ne_zero, zpow_natCast]
    exact (mul_le_mul_of_nonneg_right hlow hs.le).trans h1
  · rw [show (Nat.log2 n : Int) + s + 1 = ((Nat.log2 n + 1 : Nat) : Int) + s by push_cast; ring, zpow_add₀ two_ne_zero, zpow_natCast]
    exact h2.trans_le (mul_le_mul_of_nonneg_right hhigh hs.le)

theorem log_magnitude {m : Nat} (hm : m ≠ 0) (e : Int) : Int.log 2 (m * (2 : ℝ) ^ e) = Nat.log2 m + e :=
  log_of_between hm le_rfl (by have : (0 : ℝ) < 2 ^ e := zpow_pos two_pos e; linarith)

theorem spacing_pos (f : Fmt) (x : ℝ) : 0 < spacing f x := zpow_pos two_pos _

section
variable (f : Fmt) (mode : RMode) (neg : Bool) {x y : ℝ}

/-- The significand of a magnitude is below two. -/
theorem rint_le (hx : 0 < x) : rintCell mode neg (cell (x / spacing f x)) ≤ 2 ^ ((fmtEM f).2 + 1) := by
  have hlog : Int.log 2 x + 1 ≤ (expAbove f x : Int) + (1 - (fmtBias f : Int)) + 1 := by unfold expAbove; omega
  have hlt : x / spacing f x < (2 ^ ((fmtEM f).2 + 1) : Nat) := by
    rw [div_lt_iff₀ (spacing_pos f x)]
    push_cast
    rw [spacing, ← zpow_natCast, ← zpow_add₀ two_ne_zero]
    refine (Int.lt_zpow_succ_log_self Nat.one_lt_two x).trans_le ?_
    rw [Nat.cast_ofNat]
    exact zpow_le_zpow_right₀ one_le_two (by push_cast; omega)
  refine rintCell_le_of_lt mode neg ?_
  unfold cell
  generalize hN : 2 ^ ((fmtEM f).2 + 1) = N at *
  have h1 : ⌊2 * (x / spacing f x)⌋₊ < 2 * N := by
    rw [Nat.floor_lt (by have := spacing_pos f x; positivity)]
    push_cast
    linarith
  have h2 : ⌈2 * (x / spacing f x)⌉₊ ≤ 2 * N := Nat.ceil_le.mpr (by push_cast; linarith)
  omega

/-- Above the least normal exponent a significand is at least one. -/
theorem le_rint (hx : 0 < x) (hk : 0 < expAbove f x) : 2 ^ (fmtEM f).2 ≤ rintCell mode neg (cell (x / spacing f x)) := by
  have hlog : (expAbove f x : Int) + (1 - (fmtBias f : Int)) = Int.log 2 x := by unfold expAbove at *; omega
  have hle : ((2 ^ (fmtEM f).2 : Nat) : ℝ) ≤ x / spacing f x := by
    rw [le_div_iff₀ (spacing_pos f x)]
    push_cast
    rw [spacing, hlog, ← zpow_natCast, ← zpow_add₀ two_ne_zero, add_sub_cancel]
    exact_mod_cast Int.zpow_log_le_self Nat.one_lt_two hx
  calc 2 ^ (fmtEM f).2 = rintCell mode neg (cell ((2 ^ (fmtEM f).2 : Nat) : ℝ)) := by rw [cell_natCast, rintCell_four_mul]
    _ ≤ _ := rintCell_mono mode neg (cell_mono hle)

/-- A larger magnitude rounds to no smaller pattern. -/
theorem roundPat_mono (hx : 0 < x) (h : x ≤ y) : roundPat f mode neg x ≤ roundPat f mode neg y := by
  have hk : expAbove f x ≤ expAbove f y := by
    have := Int.log_mono_right (b := 2) hx h
    unfold expAbove
    omega
  unfold roundPat
  rcases hk.eq_or_lt with he | hlt
  · have hs : spacing f x = spacing f y := by rw [spacing, spacing, he]
    rw [he, hs]
    exact Nat.add_le_add_left (rintCell_mono _ _ (cell_mono (div_le_div_of_nonneg_right h (spacing_pos f y).le))) _
  · have h1 := rint_le f mode neg hx
    have h2 := le_rint f mode neg (hx.trans_le h) (by omega)
    have h3 : (expAbove f x + 1) * 2 ^ (fmtEM f).2 ≤ expAbove f y * 2 ^ (fmtEM f).2 := Nat.mul_le_mul_right _ hlt
    rw [Nat.pow_succ] at h1
    rw [Nat.add_mul, Nat.one_mul] at h3
    omega

/-- Where a quotient by a power of two lies among the integers does not depend on its numerator's fraction. -/
theorem cell_of_div {z : ℝ} {n t : Nat} (h1 : n < z) (h2 : z < n + 1) : cell (z / 2 ^ (t + 1)) = 2 * (n / 2 ^ t) + 1 := by
  have hp : (0 : ℝ) < 2 ^ t := pow_pos two_pos t
  have hhalf : 2 * (z / 2 ^ (t + 1)) = z / 2 ^ t := by rw [pow_succ]; field_simp
  have hlow : ((n / 2 ^ t * 2 ^ t : Nat) : ℝ) ≤ n := by exact_mod_cast Nat.div_mul_le_self n (2 ^ t)
  have hhigh : ((n + 1 : Nat) : ℝ) ≤ ((n / 2 ^ t + 1) * 2 ^ t : Nat) := by
    exact_mod_cast Nat.lt_mul_of_div_lt (Nat.lt_succ_self _) (Nat.two_pow_pos t)
  push_cast at hlow hhigh
  refine cell_of_between ?_ ?_
  · rw [hhalf, lt_div_iff₀ hp]; linarith
  · rw [hhalf, div_lt_iff₀ hp]; linarith

/-- Two magnitudes between the same neighbours of a grid that is finer than the format's halves round alike. -/
theorem roundPat_eq_of_between {n : Nat} {s : Int} (hn : 2 ^ ((fmtEM f).2 + 1) ≤ n)
    (hx1 : n * (2 : ℝ) ^ s < x) (hx2 : x < (n + 1) * (2 : ℝ) ^ s) (hy1 : n * (2 : ℝ) ^ s < y) (hy2 : y < (n + 1) * (2 : ℝ) ^ s) :
    roundPat f mode neg x = roundPat f mode neg y := by
  have hn0 : n ≠ 0 := by have := Nat.two_pow_pos ((fmtEM f).2 + 1); omega
  have hs : (0 : ℝ) < 2 ^ s := zpow_pos two_pos s
  have hk : expAbove f x = expAbove f y := by
    rw [expAbove, expAbove, log_of_between hn0 hx1.le hx2, log_of_between hn0 hy1.le hy2]
  obtain ⟨t, ht⟩ : ∃ t : Nat, (expAbove f y : Int) + (1 - (fmtBias f : Int)) - (fmtEM f).2 = s + (t + 1 : Nat) := by
    have hlog : (fmtEM f).2 + 1 ≤ Nat.log2 n := (Nat.le_log2 hn0).mpr hn
    have := log_of_between hn0 hy1.le hy2
    refine ⟨((expAbove f y : Int) + (1 - (fmtBias f : Int)) - (fmtEM f).2 - s - 1).toNat, ?_⟩
    unfold expAbove
    omega
  have hcell {z : ℝ} (h1 : n * (2 : ℝ) ^ s < z) (h2 : z < (n + 1) * (2 : ℝ) ^ s) :
      cell (z / 2 ^ (s + (t + 1 : Nat))) = 2 * (n / 2 ^ t) + 1 := by
    rw [zpow_add₀ two_ne_zero, zpow_natCast, ← div_div]
    exact cell_of_div (by rwa [lt_div_iff₀ hs]) (by rwa [div_lt_iff₀ hs])
  unfold roundPat spacing
  rw [hk, ht, hcell hx1 hx2, hcell hy1 hy2]

end

/-! ### `roundF` as a rounding of real numbers -/

/-- The largest finite pattern by its exponent and significand, and the bounds of that significand. -/
theorem maxFinPat_eq (f : Fmt) : ∃ k : Nat, (emaxOf f : Int) = k + (1 - (fmtBias f : Int)) ∧
    maxFinPat f = k * 2 ^ (fmtEM f).2 + maxMant f ∧ 2 ^ (fmtEM f).2 ≤ maxMant f ∧ maxMant f < 2 ^ ((fmtEM f).2 + 1) := by
  refine ⟨emaxOf f + fmtBias f - 1, ?_⟩
  cases f <;> decide

theorem roundF_eq (f : Fmt) (mode : RMode) (sat neg : Bool) {m : Nat} (hm : m ≠ 0) (e : Int) :
    roundF f mode sat (.fin neg m e) = roundReal f mode sat neg (m * 2 ^ e) := by
  have hx : (0 : ℝ) < m * 2 ^ e := mul_pos (by exact_mod_cast Nat.pos_of_ne_zero hm) (zpow_pos two_pos e)
  have hex : max (e + (Nat.log2 m : Int)) (1 - (fmtBias f : Int)) = expAbove f (m * 2 ^ e) + (1 - (fmtBias f : Int)) := by
    rw [expAbove, log_magnitude hm]
    omega
  have hr : scaleRound mode neg m (e - (expAbove f (m * 2 ^ e) + (1 - (fmtBias f : Int)) - (fmtEM f).2)) =
      rintCell mode neg (cell (m * 2 ^ e / spacing f (m * 2 ^ e))) := by
    rw [scaleRound_eq, spacing, zpow_sub₀ two_ne_zero, mul_div_assoc]
  have hle := rint_le f mode neg hx
  have hge := le_rint f mode neg hx
  obtain ⟨k, hk, hmax, hlo, hhi⟩ := maxFinPat_eq f
  unfold roundReal roundPat
  rw [hmax]
  simp only [roundF, hm, if_false, hex, hr]
  generalize rintCell mode neg _ = r at *
  generalize expAbove f _ = a at *
  rw [pow_succ] at *
  generalize 2 ^ (fmtEM f).2 = M at *
  have hover : (a + (1 - (fmtBias f : Int)) > emaxOf f ∨ a + (1 - (fmtBias f : Int)) = emaxOf f ∧ r > maxMant f) ↔
      k * M + maxMant f < a * M + r := by
    rcases lt_trichotomy a k with h | h | h
    · have : (a + 1) * M ≤ k * M := Nat.mul_le_mul_right M h
      rw [Nat.add_mul] at this
      omega
    · subst h; omega
    · have : (k + 1) * M ≤ a * M := Nat.mul_le_mul_right M h
      rw [Nat.add_mul] at this
      omega
  simp only [hover]
  split
  · rfl
  · congr 2
    have hbias : (a + (1 - (fmtBias f : Int)) + fmtBias f).toNat = a + 1 := by omega
    have hbias' : (a + (1 - (fmtBias f : Int)) + 1 + fmtBias f).toNat = a + 2 := by omega
    split
    · next h =>
      have hrM : r = M * 2 := le_antisymm hle h
      subst hrM
      rw [Nat.mul_div_cancel _ two_pos]
      simp only [lt_irrefl, if_false, hbias']
      rw [Nat.add_mul]; omega
    · simp only [hbias]
      split
      · next h =>
        have : a = 0 := by by_contra h0; have := hge (by omega); omega
        simp [this]
      · rw [Nat.add_mul]; omega

/-! ### What a rounding can be -/

section
variable {f : Fmt} (hf : f ∈ [Fmt.fp16, .bf16, .fp32]) (mode : RMode) (neg : Bool)
include hf

/-- An overflow gives the sign with the largest finite pattern or infinity, and OVF alone. -/
theorem overflowF_shape : ∃ v, maxFinPat f ≤ v ∧ v < 2 ^ (fmtWidth f - 1) ∧
    overflowF f mode false neg = (signPat f neg + v, { FFlags.none with ovf := true }) := by
  by_cases h : overflowF f mode false neg = (signPat f neg + infPat f, { FFlags.none with ovf := true })
  · refine ⟨infPat f, ?_, ?_, h⟩ <;> fin_cases hf <;> decide
  · refine ⟨maxFinPat f, le_rfl, ?_, ?_⟩
    · fin_cases hf <;> decide
    · revert h
      fin_cases hf <;> cases mode <;> cases neg <;> decide

theorem signPat_add_mod {v : Nat} (hv : v < 2 ^ (fmtWidth f - 1)) : (signPat f neg + v) % 2 ^ (fmtWidth f - 1) = v := by
  fin_cases hf <;> cases neg <;> simp [signPat, fmtEM, fmtWidth] at * <;> omega

theorem signPat_add_div {v : Nat} (hv : v < 2 ^ (fmtWidth f - 1)) : (signPat f neg + v) / 2 ^ (fmtWidth f - 1) = neg.toNat := by
  fin_cases hf <;> cases neg <;> simp [signPat, fmtEM, fmtWidth] at * <;> omega

/-- The rounding of a real number, compared with those of the finite values below and above it. -/
theorem roundReal_rounds {x : ℝ} (hx : 0 < x) {below above : Nat → Int → Prop}
    (hbelow : ∀ (m : Nat) (e : Int), below m e → (m : ℝ) * 2 ^ e ≤ x)
    (habove : ∀ (m : Nat) (e : Int), above m e → x ≤ (m : ℝ) * 2 ^ e) :
    Claims.Rounds f mode neg below above (roundReal f mode false neg x) := by
  obtain ⟨v, hmax, hv, hover⟩ := overflowF_shape hf mode neg
  have hreal (y : ℝ) : roundReal f mode false neg y = (signPat f neg + if maxFinPat f < roundPat f mode neg y then v
      else roundPat f mode neg y, { FFlags.none with ovf := decide (maxFinPat f < roundPat f mode neg y) }) := by
    unfold roundReal
    split
    · next h => rw [hover]; simp [h]
    · next h => simp [h, FFlags.none]
  have hlt (y : ℝ) : (if maxFinPat f < roundPat f mode neg y then v else roundPat f mode neg y) < 2 ^ (fmtWidth f - 1) := by
    split <;> omega
  have hle {y z : ℝ} (hy : 0 < y) (h : y ≤ z) : (if maxFinPat f < roundPat f mode neg y then v else roundPat f mode neg y) ≤
      (if maxFinPat f < roundPat f mode neg z then v else roundPat f mode neg z) ∧
      (maxFinPat f < roundPat f mode neg y → maxFinPat f < roundPat f mode neg z) := by
    have := roundPat_mono f mode neg hy h
    refine ⟨?_, fun _ => by omega⟩
    split <;> split <;> omega
  refine ⟨by rw [hreal]; exact signPat_add_div hf neg (hlt x), by rw [hreal], fun m e hm => ?_⟩
  have hpos : (0 : ℝ) < m * 2 ^ e := mul_pos (by exact_mod_cast hm) (zpow_pos two_pos e)
  simp only [roundF_eq f mode false neg hm.ne' e, hreal, signPat_add_mod hf neg (hlt _), decide_eq_true_eq]
  exact ⟨fun h => hle hpos (hbelow m e h), fun h => hle hx (habove m e h)⟩

end

/-- The pattern of a rounding fits its format. -/
theorem roundF_lt {f : Fmt} (hf : f ∈ [Fmt.e4m3, .e5m2, .fp16, .bf16, .fp32]) (mode : RMode) (sat : Bool) (v : FVal) :
    (roundF f mode sat v).1 < 2 ^ fmtWidth f := by
  have hover (neg : Bool) : (overflowF f mode sat neg).1 < 2 ^ fmtWidth f := by
    fin_cases hf <;> cases mode <;> cases sat <;> cases neg <;> decide
  cases v with
  | nan => fin_cases hf <;> exact of_decide_eq_true rfl
  | inf neg => fin_cases hf <;> cases sat <;> cases neg <;> exact of_decide_eq_true rfl
  | fin neg m e =>
    have hsign : signPat f neg + maxFinPat f < 2 ^ fmtWidth f := by fin_cases hf <;> cases neg <;> decide
    by_cases hm : m = 0
    · rw [roundF, if_pos hm]
      omega
    · rw [roundF_eq f mode sat neg hm, roundReal]
      split
      · exact hover neg
      · dsimp only; omega

end Sys2Proof.Machine
end

section
/-! SUPPORT. The words of a drain program: arithmetic, precision, lookup and stores (R228 to R233, R236, R237). -/

namespace Sys2Proof.Machine

/-! ### Integers of a width -/

theorem sextN_eq (n x : Nat) : sextN n x = (BitVec.ofNat n x).toInt := by
  rw [sextN, BitVec.toInt, BitVec.toNat_ofNat]
  push_cast
  rfl

theorem wrapN_eq (n : Nat) (x : Int) : wrapN n x = (BitVec.ofInt n x).toNat := by
  rw [wrapN, BitVec.toNat_ofInt]
  push_cast
  rfl

theorem wrapN_lt (n : Nat) (x : Int) : wrapN n x < 2 ^ n := wrapN_eq n x ▸ (BitVec.ofInt n x).isLt

theorem elemOf_lt {n : Nat} (v : BitVec n) (w j : Nat) : elemOf v w j < 2 ^ w := Nat.mod_lt _ (Nat.two_pow_pos w)

/-! ### Drain registers -/

/-- A drain register written with a value that fits. -/
theorem DRun.put_eq (r : DRun) (d : Fin 8) {v : Flagged Nat} (hv : v.1 < 2 ^ 32) :
    (r.put d v).regs = r.regs.set d v.1 ∧ (r.put d v).stores = r.stores ∧ (r.put d v).flags = r.flags.or v.2 :=
  ⟨congrArg (r.regs.set d) (Nat.mod_eq_of_lt hv), rfl, rfl⟩

@[simp] theorem FFlags.or_none (x : FFlags) : x.or FFlags.none = x := by
  cases x; simp [FFlags.or, FFlags.none]

@[simp] theorem FFlags.none_or (x : FFlags) : FFlags.none.or x = x := by
  cases x; simp [FFlags.or, FFlags.none]

/-! ### Results that fit their format -/

theorem roundF_fp32_lt (mode : RMode) (sat : Bool) (v : FVal) : (roundF .fp32 mode sat v).1 < 2 ^ 32 :=
  roundF_lt (by simp) mode sat v

theorem minmaxF_lt {x y : Nat} (mx : Bool) (hx : x < 2 ^ 32) (hy : y < 2 ^ 32) : minmaxF .fp32 mx x y < 2 ^ 32 := by
  have hnan : canonNaN .fp32 < 2 ^ 32 := by decide
  unfold minmaxF
  dsimp only
  repeat' split
  all_goals assumption

theorem roundInt_lt (n : Nat) (mode : RMode) (sat fl : Bool) (v : FVal) : (roundInt n mode sat fl v).1 < 2 ^ n := by
  unfold roundInt
  split
  · exact Nat.two_pow_pos n
  · exact wrapN_lt n _
  · next neg m e =>
    dsimp only
    generalize (if neg = true then -(scaleRound mode neg m e : Int) else scaleRound mode neg m e) = y
    split
    · exact wrapN_lt ..
    · split
      · exact wrapN_lt ..
      · exact wrapN_lt ..

theorem toScale_lt (mode : RMode) (v : FVal) : (toScale mode v).1 < 2 ^ 16 := by
  unfold toScale
  split
  · exact of_decide_eq_true rfl
  · exact of_decide_eq_true rfl
  · next m e =>
    dsimp only
    have hsig (r : Nat) (ex : Int) (hr : r ≤ 8) (h : ¬127 < ex) : (ex + 127).toNat * 4 + (r - 4) < 2 ^ 16 := by omega
    split
    · exact Nat.two_pow_pos 16
    · next hm =>
      have hr : scaleRound mode false m (e - (e + (Nat.log2 m : Int) - 2)) ≤ 8 := by
        have hlt : (m : ℝ) * 2 ^ (e - (e + (Nat.log2 m : Int) - 2)) ≤ (8 : Nat) := by
          have hm2 : (m : ℝ) ≤ 2 ^ (Nat.log2 m + 1) := by exact_mod_cast Nat.lt_log2_self.le
          calc (m : ℝ) * 2 ^ (e - (e + (Nat.log2 m : Int) - 2))
              ≤ 2 ^ (Nat.log2 m + 1) * 2 ^ (e - (e + (Nat.log2 m : Int) - 2)) := by gcongr
            _ = 2 ^ (3 : Int) := by
              rw [← zpow_natCast, ← zpow_add₀ two_ne_zero]
              congr 1
              push_cast
              ring
            _ = (8 : Nat) := by norm_num
        rw [scaleRound_eq]
        exact (rintCell_mono mode false (cell_mono hlt)).trans_eq (by rw [cell_natCast, rintCell_four_mul])
      generalize scaleRound mode false m _ = r at *
      split <;> dsimp only <;> split
      · decide
      · exact hsig _ _ (by omega) ‹_›
      · decide
      · exact hsig _ _ hr ‹_›

/-- A conversion fits its destination (R79: T2 is none). -/
theorem convertFmt_lt (src : Fmt) {dst : Fmt} (hdst : dst ≠ .t2) (mode : RMode) (sat : Bool) (x : Nat) :
    (convertFmt src dst mode sat x).1 < 2 ^ fmtWidth dst := by
  unfold convertFmt
  dsimp only
  split
  · exact roundInt_lt ..
  · next hint =>
    split
    · next h => subst h; exact toScale_lt ..
    · next hscale => exact roundF_lt (by cases dst <;> simp_all [Fmt.isInt]) ..

theorem fmtWidth_le (f : Fmt) : fmtWidth f ≤ 32 := by cases f <;> decide

/-! ### Arithmetic, moves and parameters (R229, R230) -/

section
variable (env : DEnv) (i j : Nat) (sc : Flagged Nat) (r : DRun) (d a b : Fin 8)

/-- A word that puts a value that fits into a drain register. -/
theorem DOp.run_puts {o : DOp} {v w : Flagged Nat} (ho : o.run env i j sc r = r.put d w) (hw : w = v) (hv : v.1 < 2 ^ 32) :
    (o.run env i j sc r).regs = r.regs.set d v.1 ∧ (o.run env i j sc r).stores = r.stores ∧
      (o.run env i j sc r).flags = r.flags.or v.2 := by
  rw [ho, hw]
  exact r.put_eq d hv

/-- Integer arithmetic wraps. -/
theorem dArith_int (x y z : Nat) :
    let int (n : Nat) : Int := (BitVec.ofNat 32 n).toInt
    let wrapped (v : Int) : Flagged Nat := ((BitVec.ofInt 32 v).toNat, FFlags.none)
    dArith .add false x y z = wrapped (int x + int y) ∧ dArith .mul false x y z = wrapped (int x * int y) ∧
      dArith .fma false x y z = wrapped (int x * int y + int z) ∧ dArith .max false x y z = wrapped (max (int x) (int y)) ∧
      dArith .min false x y z = wrapped (min (int x) (int y)) := by
  simp only [dArith, Bool.false_eq_true, if_false, sextN_eq, wrapN_eq, and_self]

end

/-- R226, R228 to R230: the start of an element, arithmetic, moves and parameters. -/
theorem drainArithmetic : Claims.DrainArithmetic := by
  intro env i j sc r d a b start x y z int dec puts whole rounded
  have hput {o : DOp} {v : Flagged Nat} (w : Flagged Nat) (ho : o.run env i j sc r = r.put d w) (hw : w = v) (hv : v.1 < 2 ^ 32) :
      puts o v := DOp.run_puts env i j sc r d ho hw hv
  have hwhole (o : DArith) {v : Int} (h : dArith o false x y z = ((BitVec.ofInt 32 v).toNat, FFlags.none)) : whole o v :=
    hput _ rfl h (BitVec.ofInt 32 v).isLt
  have hround (o : DArith) {v : FVal × Bool} (h : dArith o true x y z = finishF .fp32 .rne v) : rounded o v :=
    hput _ rfl h (roundF_fp32_lt ..)
  obtain ⟨hadd, hmul, hfma, hmax, hmin⟩ := dArith_int x y z
  refine ⟨rfl, rfl, rfl, fun hr => ⟨rfl, hput _ rfl rfl (hr a), hwhole _ hadd, hwhole _ hmul, hwhole _ hfma, hwhole _ hmax,
    hwhole _ hmin, hround _ rfl, hround _ rfl, hround _ rfl, ?_, ?_, fun n v hv => ?_, fun n v hv => ?_, fun n hn => ⟨?_, ?_⟩⟩⟩
  · exact hput _ rfl rfl (minmaxF_lt true (hr a) (hr b))
  · exact hput _ rfl rfl (minmaxF_lt false (hr a) (hr b))
  · exact hput _ rfl (by rw [hv]) (elemOf_lt ..)
  · exact hput _ rfl (by rw [hv]) (elemOf_lt ..)
  · refine hput _ rfl ?_ (roundF_fp32_lt ..)
    rfl
  · exact hput _ rfl (by rw [sextN_eq, wrapN_eq]) (BitVec.isLt _)

end Sys2Proof.Machine
end

section
/-! SUPPORT. The drain words that change precision (R231, R232): integer rounding of quotients by a power of two, and quotients by a
scale. -/

namespace Sys2Proof.Machine

/-! ### Rounded quotients by a power of two -/

theorem scaleRound_neg (mode : RMode) (neg : Bool) (m k : Nat) : scaleRound mode neg m (-(k : Int)) = rshRound mode neg m k := by
  unfold scaleRound
  split
  · next h =>
    have hk : k = 0 := by omega
    subst hk
    cases mode <;> simp [rshRound, Nat.mod_one, Nat.div_one]
  · rw [Int.neg_neg, Int.toNat_natCast]

/-- An integer with its magnitude's quotient by 2^k as a mode rounds it. -/
def shiftRound (mode : RMode) (x : Int) (k : Nat) : Int :=
  if x < 0 then -(rshRound mode true x.natAbs k : Int) else rshRound mode false x.natAbs k

/-- A quotient by a power of two that is to wrap raises nothing. -/
theorem roundInt_wraps (n : Nat) (mode : RMode) (x : Int) (k : Nat) :
    roundInt n mode false false (.fin (decide (x < 0)) x.natAbs (-(k : Int))) = (wrapN n (shiftRound mode x k), FFlags.none) := by
  unfold roundInt shiftRound
  simp only [scaleRound_neg, decide_eq_true_eq, Bool.or_self, Bool.false_eq_true, if_false, ite_self]
  by_cases h : x < 0 <;> simp [h]

/-- What each mode says of the integer it takes for a quotient by 2^k. -/
theorem shiftRound_spec (mode : RMode) (v : Int) (k : Nat) :
    let q := shiftRound mode v k
    let off := 2 * (v - 2 ^ k * q)
    match mode with
    | .rne => |off| ≤ 2 ^ k ∧ (|off| = 2 ^ k → q % 2 = 0)
    | .rtz => 2 ^ k * |q| ≤ |v| ∧ |v| < 2 ^ k * (|q| + 1) ∧ 0 ≤ v * q
    | .rdn => 2 ^ k * q ≤ v ∧ v < 2 ^ k * (q + 1)
    | .rup => 2 ^ k * (q - 1) < v ∧ v ≤ 2 ^ k * q
    | .rna => |off| ≤ 2 ^ k ∧ (|off| = 2 ^ k → |v| < 2 ^ k * |q|) := by
  have hD : 0 < 2 ^ k := Nat.two_pow_pos k
  have hr : v.natAbs % 2 ^ k < 2 ^ k := Nat.mod_lt _ hD
  have hm : v.natAbs = 2 ^ k * (v.natAbs / 2 ^ k) + v.natAbs % 2 ^ k := (Nat.div_add_mod ..).symm
  have hk : k = 0 → 2 ^ k = 1 := fun h => by rw [h, pow_zero]
  have hcast : (2 ^ k : Int) = (2 ^ k : Nat) := by push_cast; rfl
  unfold shiftRound rshRound
  rw [hcast]
  generalize 2 ^ k = D at *
  generalize v.natAbs / D = q at *
  generalize v.natAbs % D = r at *
  have hP : (v.natAbs : Int) = D * q + r := by exact_mod_cast hm
  have habs : |v| = D * q + r := by rw [Int.abs_eq_natAbs, hP]
  have hq : 0 ≤ (D : Int) * q := by positivity
  rcases lt_or_ge v 0 with hv | hv
  · have hsign (n : Nat) : 0 ≤ v * -(n : Int) := mul_nonneg_of_nonpos_of_nonpos hv.le (by omega)
    cases mode <;> simp only [hv, habs, if_true, true_and, Bool.not_true, Bool.false_eq_true, false_and, if_false, abs_neg, Nat.abs_cast,
      hsign, and_true]
    all_goals (repeat' split)
    all_goals push_cast
    all_goals simp only [mul_neg, mul_add, mul_sub, mul_one, neg_add_rev, Int.abs_eq_natAbs]
    all_goals generalize (D : Int) * q = P at *
    all_goals omega
  · have hsign (n : Nat) : 0 ≤ v * (n : Int) := mul_nonneg hv (by omega)
    cases mode <;> simp only [not_lt.mpr hv, habs, true_and, Bool.not_false, Bool.false_eq_true, false_and, if_false, Nat.abs_cast,
      hsign, and_true]
    all_goals (repeat' split)
    all_goals push_cast
    all_goals simp only [mul_add, mul_sub, mul_one, Int.abs_eq_natAbs]
    all_goals generalize (D : Int) * q = P at *
    all_goals omega

/-! ### Quotients by a scale -/

/-- A product with powers of two on both sides, compared. -/
theorem mul_pow_toNat_le (a b : Nat) (t : Int) : a * 2 ^ t.toNat ≤ b * 2 ^ (-t).toNat ↔ (a : ℝ) * 2 ^ t ≤ b := by
  have hpow : (2 : ℝ) ^ t.toNat = 2 ^ t * 2 ^ (-t).toNat := by
    rw [← zpow_natCast, ← zpow_natCast, ← zpow_add₀ two_ne_zero]
    congr 1
    omega
  have hpos : (0 : ℝ) < 2 ^ (-t).toNat := pow_pos two_pos _
  rw [← Nat.cast_le (α := ℝ)]
  push_cast
  rw [hpow, ← mul_assoc, mul_le_mul_iff_left₀ hpos]

theorem le_mul_pow_toNat (a b : Nat) (t : Int) : b * 2 ^ (-t).toNat ≤ a * 2 ^ t.toNat ↔ (b : ℝ) ≤ a * 2 ^ t := by
  have h := mul_pow_toNat_le b a (-t)
  rw [neg_neg] at h
  rw [h, zpow_neg, ← div_eq_mul_inv, div_le_iff₀ (zpow_pos two_pos t)]

/-- A quotient with enough bits and a sticky bit rounds as the real quotient does. -/
theorem roundReal_sticky (f : Fmt) (mode : RMode) (sat neg : Bool) {a p : Nat} (hp : 0 < p) (s : Int)
    (hq : 2 ^ ((fmtEM f).2 + 1) ≤ a / p) :
    roundReal f mode sat neg ((2 * (a / p) + if a % p = 0 then 0 else 1 : Nat) * 2 ^ (s - 1)) =
      roundReal f mode sat neg ((a : ℝ) / p * 2 ^ s) := by
  have hpR : (0 : ℝ) < p := by exact_mod_cast hp
  have hs : (0 : ℝ) < 2 ^ s := zpow_pos two_pos s
  have ha : (a : ℝ) = p * (a / p : Nat) + (a % p : Nat) := by exact_mod_cast (Nat.div_add_mod a p).symm
  have hhalf : (2 : ℝ) ^ (s - 1) = 2 ^ s / 2 := by rw [zpow_sub_one₀ two_ne_zero]; rfl
  rw [hhalf]
  split
  · next h =>
    rw [ha, h]
    congr 1
    push_cast
    field_simp
    ring
  · next h =>
    have h0 : (0 : ℝ) < (a % p : Nat) := by exact_mod_cast Nat.pos_of_ne_zero h
    have h1 : ((a % p : Nat) : ℝ) < p := by exact_mod_cast Nat.mod_lt a hp
    have hlow : ((a / p : Nat) : ℝ) < a / p := by rw [lt_div_iff₀ hpR]; linarith
    have hhigh : (a : ℝ) / p < (a / p : Nat) + 1 := by rw [div_lt_iff₀ hpR]; linarith
    unfold roundReal
    rw [roundPat_eq_of_between f mode neg (s := s) hq (x := (2 * (a / p) + 1 : Nat) * (2 ^ s / 2)) (y := a / p * 2 ^ s)]
    · push_cast; linarith
    · push_cast; linarith
    · exact mul_lt_mul_of_pos_right hlow hs
    · exact mul_lt_mul_of_pos_right hhigh hs

/-- The significand of a scale. -/
theorem decodeScale_sig {x p : Nat} {neg : Bool} {g : Int} (h : decodeScale x = .fin neg p g) : 4 ≤ p ∧ p < 8 := by
  unfold decodeScale at h
  split at h
  · exact absurd h (by simp)
  · obtain ⟨-, rfl, -⟩ := FVal.fin.inj h
    omega

/-- The value of an FP32 pattern (R80). -/
theorem decodeF_fp32 (x : Nat) : decodeF .fp32 x =
    if x / 2 ^ 23 % 2 ^ 8 = 255 then (if x % 2 ^ 23 = 0 then .inf (x / 2 ^ 31 % 2 == 1) else .nan)
    else if x / 2 ^ 23 % 2 ^ 8 = 0 then .fin (x / 2 ^ 31 % 2 == 1) (x % 2 ^ 23) (-149)
    else .fin (x / 2 ^ 31 % 2 == 1) (2 ^ 23 + x % 2 ^ 23) ((x / 2 ^ 23 % 2 ^ 8 : Nat) - 127 - 23) := by
  simp only [decodeF, fmtEM, reduceCtorEq, false_and, if_false, ne_eq, not_false_eq_true, true_and]
  rfl

/-- The sign of an FP32 pattern. -/
theorem signPat_fp32 {x : Nat} (hx : x < 2 ^ 32) : signPat .fp32 (x / 2 ^ 31 % 2 == 1) = x / 2 ^ 31 * 2 ^ 31 := by
  have : x / 2 ^ 31 = 0 ∨ x / 2 ^ 31 = 1 := by omega
  rcases this with h | h <;> rw [h] <;> rfl

/-- The pattern of an infinity is its sign's. -/
theorem eq_of_decodeF_inf {x : Nat} {n : Bool} (hx : x < 2 ^ 32) (h : decodeF .fp32 x = .inf n) :
    signPat .fp32 n + infPat .fp32 = x := by
  have hinf : infPat .fp32 = 255 * 2 ^ 23 := rfl
  rw [decodeF_fp32] at h
  by_cases he : x / 2 ^ 23 % 2 ^ 8 = 255
  · by_cases hm : x % 2 ^ 23 = 0
    · rw [if_pos he, if_pos hm] at h
      rw [← FVal.inf.inj h, signPat_fp32 hx, hinf]
      omega
    · rw [if_pos he, if_neg hm] at h
      cases h
  · rw [if_neg he] at h
    by_cases he0 : x / 2 ^ 23 % 2 ^ 8 = 0
    · rw [if_pos he0] at h; cases h
    · rw [if_neg he0] at h; cases h

/-- The pattern of a zero is its sign's. -/
theorem eq_of_decodeF_zero {x : Nat} {n : Bool} {e : Int} (hx : x < 2 ^ 32) (h : decodeF .fp32 x = .fin n 0 e) :
    signPat .fp32 n = x := by
  rw [decodeF_fp32] at h
  by_cases he : x / 2 ^ 23 % 2 ^ 8 = 255
  · by_cases hm : x % 2 ^ 23 = 0
    · rw [if_pos he, if_pos hm] at h; cases h
    · rw [if_pos he, if_neg hm] at h; cases h
  · rw [if_neg he] at h
    by_cases he0 : x / 2 ^ 23 % 2 ^ 8 = 0
    · rw [if_pos he0] at h
      obtain ⟨hn, hm, -⟩ := FVal.fin.inj h
      rw [← hn, signPat_fp32 hx]
      omega
    · rw [if_neg he0] at h
      obtain ⟨-, hm, -⟩ := FVal.fin.inj h
      omega

theorem dBsc_nan_scale (x : Nat) {y : Nat} (h : decodeScale (y % 2 ^ 16) = .nan) :
    dBsc x y = (0x7FC00000, { FFlags.none with inv := true, sclbad := true }) := by
  rw [dBsc, h, divScale]
  rfl

theorem dBsc_nan {x y p : Nat} {g : Int} (hy : decodeScale (y % 2 ^ 16) = .fin false p g) (hx : decodeF .fp32 x = .nan) :
    dBsc x y = (0x7FC00000, FFlags.ofInv true) := by
  rw [dBsc, hy, hx]
  rfl

theorem dBsc_inf {x y p : Nat} {g : Int} {n : Bool} (hlt : x < 2 ^ 32) (hy : decodeScale (y % 2 ^ 16) = .fin false p g)
    (hx : decodeF .fp32 x = .inf n) : dBsc x y = (x, FFlags.none) := by
  rw [dBsc, hy, hx]
  exact Prod.ext (eq_of_decodeF_inf hlt hx) rfl

theorem dBsc_zero {x y p : Nat} {g e : Int} {n : Bool} (hlt : x < 2 ^ 32) (hy : decodeScale (y % 2 ^ 16) = .fin false p g)
    (hx : decodeF .fp32 x = .fin n 0 e) : dBsc x y = (x, FFlags.none) := by
  rw [dBsc, hy, hx]
  exact Prod.ext (eq_of_decodeF_zero hlt hx) rfl

/-- A number over a scale: a quotient of 64 bits and more, and a sticky bit. -/
theorem divScale_fin {n s : Bool} {m p : Nat} {e g : Int} (hm : m ≠ 0) : divScale (.fin n m e) (.fin s p g) =
    (.fin n (2 * (m * 2 ^ 64 / p) + if m * 2 ^ 64 % p = 0 then 0 else 1) (e - g - 65), FFlags.none) :=
  if_neg hm

theorem dBsc_of_divScale {x y : Nat} {v : FVal} (h : divScale (decodeF .fp32 x) (decodeScale (y % 2 ^ 16)) = (v, FFlags.none)) :
    dBsc x y = roundF .fp32 .rne false v := by
  rw [dBsc, h]
  exact congrArg (Prod.mk _) (FFlags.none_or _)

/-- R232: a number over a scale is rounded once. -/
theorem dBsc_eq {x y p m : Nat} {g e : Int} {n : Bool} (hy : decodeScale (y % 2 ^ 16) = .fin false p g)
    (hx : decodeF .fp32 x = .fin n m e) (hm : m ≠ 0) :
    dBsc x y = roundReal .fp32 .rne false n ((m : ℝ) * 2 ^ e / (p * 2 ^ g)) := by
  obtain ⟨hp4, hp8⟩ := decodeScale_sig hy
  have hq : 2 ^ ((fmtEM .fp32).2 + 1) ≤ m * 2 ^ 64 / p := by
    rw [Nat.le_div_iff_mul_le (by omega)]
    change 2 ^ 24 * p ≤ m * 2 ^ 64
    omega
  have hquot : (m : ℝ) * 2 ^ e / (p * 2 ^ g) = ((m * 2 ^ 64 : Nat) : ℝ) / p * 2 ^ (e - g - 64) := by
    rw [zpow_sub₀ two_ne_zero, zpow_sub₀ two_ne_zero]
    push_cast
    field_simp
    norm_num
  have hp : 0 < p := by omega
  have hround (a : Nat) (hq : 2 ^ ((fmtEM .fp32).2 + 1) ≤ a / p) :
      roundF .fp32 .rne false (.fin n (2 * (a / p) + if a % p = 0 then 0 else 1) (e - g - 65)) =
        roundReal .fp32 .rne false n ((a : ℝ) / p * 2 ^ (e - g - 64)) := by
    have hne : 2 * (a / p) + (if a % p = 0 then 0 else 1) ≠ 0 := by
      have : 0 < 2 ^ ((fmtEM .fp32).2 + 1) := Nat.two_pow_pos _
      omega
    rw [← roundReal_sticky .fp32 .rne false n hp _ hq, roundF_eq .fp32 .rne false n hne, show e - g - 64 - 1 = e - g - 65 by omega]
  have hdiv := divScale_fin (n := n) (s := false) (p := p) (e := e) (g := g) hm
  rw [← hx, ← hy] at hdiv
  rw [hquot, dBsc_of_divScale hdiv]
  exact hround _ hq
/-- R231, R232: the words that change precision. -/
theorem drainPrecision : Claims.DrainPrecision := by
  intro env i j sc r d a b x y v puts hr
  have hput {o : DOp} {v : Flagged Nat} (w : Flagged Nat) (ho : o.run env i j sc r = r.put d w) (hw : w = v) (hv : v.1 < 2 ^ 32) :
      puts o v := DOp.run_puts env i j sc r d ho hw hv
  have hsext : sextN 32 r.regs[a] = v := sextN_eq ..
  refine ⟨fun src dst rm sat hdst => ?_, fun k rm => ⟨shiftRound rm v k, ?_, shiftRound_spec rm v k⟩, fun n hn h32 => ?_,
    dBsc x y, ?_, dBsc_nan_scale x, fun p g hy => ⟨dBsc_nan hy, fun n => dBsc_inf (hr a) hy, fun n e => dBsc_zero (hr a) hy,
      fun n m e hx hm => ?_⟩⟩
  · have hlt := convertFmt_lt src hdst rm sat (x % 2 ^ fmtWidth src)
    refine hput _ rfl (Prod.ext (Nat.mod_eq_of_lt hlt).symm rfl) ?_
    exact (Nat.mod_lt _ (Nat.two_pow_pos _)).trans_le (Nat.pow_le_pow_right two_pos (fmtWidth_le dst))
  · refine hput (roundInt 32 rm false false (.fin (decide (v < 0)) v.natAbs (-(k : Int)))) ?_ ?_ (BitVec.isLt _)
    · rw [← hsext]; rfl
    · rw [roundInt_wraps, wrapN_eq]
  · refine hput (wrapN 32 (clampN true n v), FFlags.ofSatd (v != clampN true n v)) ?_ ?_ (BitVec.isLt _)
    · rw [← hsext]; rfl
    · rw [wrapN_eq, show (v != clampN true n v) = decide (v ≠ clampN true n v) by grind]
      rfl
  · refine hput _ rfl rfl ?_
    rw [show dBsc x y = _ from rfl, dBsc]
    exact roundF_fp32_lt ..
  · have hm0 : 0 < m := Nat.pos_of_ne_zero hm
    obtain ⟨hp, -⟩ := decodeScale_sig hy
    have hpR : (0 : ℝ) < p * 2 ^ g := mul_pos (by exact_mod_cast (by omega : 0 < p)) (zpow_pos two_pos g)
    have hx0 : (0 : ℝ) < m * 2 ^ e / (p * 2 ^ g) :=
      div_pos (mul_pos (by exact_mod_cast hm0) (zpow_pos two_pos e)) hpR
    have hscaled (u : Nat) (h : Int) : ((u * p : Nat) : ℝ) * 2 ^ (h + g - e) = (u * 2 ^ h) * (p * 2 ^ g) / 2 ^ e := by
      rw [zpow_sub₀ two_ne_zero, zpow_add₀ two_ne_zero]
      push_cast
      ring
    rw [dBsc_eq hy hx hm]
    refine roundReal_rounds (by simp) .rne n hx0 (fun u h hle => ?_) fun u h hle => ?_
    · replace hle : u * p * 2 ^ (h + g - e).toNat ≤ m * 2 ^ (e - h - g).toNat := hle
      rw [show e - h - g = -(h + g - e) by ring, mul_pow_toNat_le, hscaled, div_le_iff₀ (zpow_pos two_pos e)] at hle
      rwa [le_div_iff₀ hpR]
    · replace hle : m * 2 ^ (e - h - g).toNat ≤ u * p * 2 ^ (h + g - e).toNat := hle
      rw [show e - h - g = -(h + g - e) by ring, le_mul_pow_toNat, hscaled, le_div_iff₀ (zpow_pos two_pos e)] at hle
      rwa [div_le_iff₀ hpR]

end Sys2Proof.Machine
end

section
/-! SUPPORT. Tables of the drain path (R233): the place of a value among whole numbers, and DLUT. -/

namespace Sys2Proof.Machine

theorem FVal.isNaN_iff (v : FVal) : v.isNaN = true ↔ v = .nan := by
  cases v <;> simp [FVal.isNaN]

/-- A sum that raises INV is no number. -/
theorem addF_nan_of_inv {mode : RMode} {a b : FVal} (h : (addF mode a b).2 = true) : (addF mode a b).1 = .nan := by
  cases a with
  | nan => rfl
  | inf x =>
    cases b with
    | nan => rfl
    | inf y => by_cases hxy : x = y <;> simp_all [addF]
    | fin y n d => cases h
  | fin x m e =>
    cases b with
    | nan => rfl
    | inf y => cases h
    | fin y n d =>
      dsimp only [addF] at h
      split at h <;> cases h

/-- A product that raises INV is no number. -/
theorem mulF_nan_of_inv {a b : FVal} (h : (mulF a b).2 = true) : (mulF a b).1 = .nan := by
  cases a with
  | nan => rfl
  | inf x =>
    cases b with
    | nan => rfl
    | inf y => cases h
    | fin y n d => by_cases hn : n = 0 <;> simp_all [mulF]
  | fin x m e =>
    cases b with
    | nan => rfl
    | inf y => by_cases hm : m = 0 <;> simp_all [mulF]
    | fin y n d => cases h

/-- The whole number k as a value. -/
def wholeVal (k : Nat) : FVal := .fin false k 0

/-- A value that is not negative is below a whole number as its integer part is. -/
theorem ltF_wholeVal (m : Nat) (e : Int) (k : Nat) : ltF (.fin false m e) (wholeVal k) = decide (floorVal (.fin false m e) < k) := by
  unfold wholeVal ltF ltFin alignInt floorVal
  dsimp only
  rw [decide_eq_decide]
  by_cases he : 0 ≤ e
  · rw [min_eq_right he, if_pos he]
    simp only [Bool.false_eq_true, if_false, sub_zero, sub_self, Int.toNat_zero, pow_zero, mul_one]
    exact_mod_cast Iff.rfl
  · rw [min_eq_left (by omega), if_neg he, Nat.div_lt_iff_lt_mul (Nat.two_pow_pos _), zero_sub]
    simp only [Bool.false_eq_true, if_false, sub_self, Int.toNat_zero, pow_zero, mul_one]
    exact_mod_cast Iff.rfl

/-- A value held to 0 to 61 (R233). -/
def heldTo61 (v : FVal) : FVal :=
  if ltF (wholeVal 0) v then (if ltF (wholeVal 61) v then wholeVal 61 else v) else wholeVal 0

/-- A value that is held is a number that is not negative. -/
theorem heldTo61_fin {v : FVal} (hv : v ≠ .nan) : ∃ m e, heldTo61 v = .fin false m e := by
  unfold heldTo61
  split
  · next h0 =>
    split
    · exact ⟨61, 0, rfl⟩
    · next h61 =>
      cases v with
      | nan => exact absurd rfl hv
      | inf n => simp_all [wholeVal, ltF]
      | fin n m e =>
        cases n with
        | false => exact ⟨m, e, rfl⟩
        | true =>
          have : (0 : Int) ≤ m * 2 ^ (e - min 0 e).toNat := by positivity
          simp [wholeVal, ltF, ltFin, alignInt] at h0
          omega
  · exact ⟨0, 0, rfl⟩

/-- The part of a table that a value held to 0 to 61 falls into. -/
def lutCell (v : FVal) : Nat := min (floorVal v) 60

theorem lutCell_spec {v : FVal} (hv : v ≠ .nan) : lutCell (heldTo61 v) ≤ 60 ∧
    ltF (heldTo61 v) (wholeVal (lutCell (heldTo61 v))) = false ∧
    (lutCell (heldTo61 v) < 60 → ltF (heldTo61 v) (wholeVal (lutCell (heldTo61 v) + 1)) = true) := by
  obtain ⟨m, e, h⟩ := heldTo61_fin hv
  rw [h, ltF_wholeVal, ltF_wholeVal, lutCell]
  refine ⟨by omega, decide_eq_false (by omega), fun hk => decide_eq_true (by omega)⟩

/-- The distance from a table's start in steps, rounded (R233's u). -/
def lutPlace (tab : VWord) (a : Nat) : Flagged Nat :=
  let far := addF .rne (decodeF .fp32 a) (negF (decodeF .fp32 (elemOf tab 32 0)))
  let steps := mulF far.1 (decodeF .fp32 (elemOf tab 32 1))
  finishF .fp32 .rne (steps.1, far.2 || steps.2)

theorem dLut_nan {tab : VWord} {a : Nat} (h : decodeF .fp32 (lutPlace tab a).1 = .nan) :
    dLut tab a = (canonNaN .fp32, FFlags.ofInv true) := by
  unfold dLut
  dsimp only
  exact if_pos (.inr (.inr ((FVal.isNaN_iff _).mpr h)))

/-- A distance that is a number raised no INV. -/
theorem lutPlace_number {tab : VWord} {a : Nat} (h : decodeF .fp32 (lutPlace tab a).1 ≠ .nan) :
    let far := addF .rne (decodeF .fp32 a) (negF (decodeF .fp32 (elemOf tab 32 0)))
    far.2 = false ∧ (mulF far.1 (decodeF .fp32 (elemOf tab 32 1))).2 = false := by
  intro far
  have hcanon : decodeF .fp32 (roundF .fp32 .rne false .nan).1 = .nan := by decide
  have hsteps : (mulF far.1 (decodeF .fp32 (elemOf tab 32 1))).1 ≠ .nan := by
    intro hn
    refine h ?_
    change decodeF .fp32 (roundF .fp32 .rne false (mulF far.1 (decodeF .fp32 (elemOf tab 32 1))).1).1 = .nan
    rw [hn, hcanon]
  refine ⟨Bool.eq_false_iff.mpr fun hi => hsteps ?_, Bool.eq_false_iff.mpr fun hi => hsteps (mulF_nan_of_inv hi)⟩
  rw [addF_nan_of_inv hi]
  rfl

/-- R233: a number's place in the table, and the line through its part. -/
theorem dLut_number {tab : VWord} {a : Nat} (h : decodeF .fp32 (lutPlace tab a).1 ≠ .nan) :
    let u := lutPlace tab a
    let held := heldTo61 (decodeF .fp32 u.1)
    let k := lutCell held
    let y (k : Nat) : Nat := elemOf tab 32 (2 + k)
    let rise := finishF .fp32 .rne (addF .rne (decodeF .fp32 (y (k + 1))) (negF (decodeF .fp32 (y k))))
    let part := finishF .fp32 .rne (mulF (addF .rne held (negF (wholeVal k))).1 (decodeF .fp32 rise.1))
    let sum := finishF .fp32 .rne (addF .rne (decodeF .fp32 (y k)) (decodeF .fp32 part.1))
    dLut tab a = (sum.1, ((u.2.or rise.2).or part.2).or sum.2) := by
  obtain ⟨hfar, hsteps⟩ := lutPlace_number h
  have hnum : (decodeF .fp32 (lutPlace tab a).1).isNaN = false := Bool.eq_false_iff.mpr fun hn => h ((FVal.isNaN_iff _).mp hn)
  have hflags : (lutPlace tab a).2 = (roundF .fp32 .rne false
      (mulF (addF .rne (decodeF .fp32 a) (negF (decodeF .fp32 (elemOf tab 32 0)))).1 (decodeF .fp32 (elemOf tab 32 1))).1).2 := by
    unfold lutPlace
    dsimp only [finishF]
    rw [hfar, hsteps]
    exact FFlags.or_none _
  have hheld (v : FVal) : (if !ltF (.fin false 0 0) v then .fin false 0 0 else if ltF (.fin false 61 0) v then .fin false 61 0 else v) =
      heldTo61 v := by
    unfold heldTo61 wholeVal
    cases ltF (.fin false 0 0) v <;> rfl
  have hidx (k : Nat) : 2 + (k + 1) = 3 + k := by omega
  intro u held k y rise part sum
  simp only [sum, part, rise, y, u, hflags, hidx]
  unfold dLut
  dsimp only
  rw [if_neg]
  · simp only [hheld]
    rfl
  · rintro (hi | hi | hi)
    · rw [hfar] at hi; cases hi
    · rw [hsteps] at hi; cases hi
    · exact Bool.false_ne_true (hnum.symm.trans hi)

/-- R233: DLUT. -/
theorem drainLookup : Claims.DrainLookup := by
  intro env i j n sc r d a tab _ htab dec rnd whole far steps u y puts
  have hput {v : Flagged Nat} (hw : dLut tab r.regs[a] = v) (hv : v.1 < 2 ^ 32) : puts v :=
    DOp.run_puts env i j sc r d rfl (by rw [htab]; exact hw) hv
  refine ⟨fun hn => hput (dLut_nan hn) (by decide), fun hn => ?_⟩
  obtain ⟨hk, hlow, hhigh⟩ := lutCell_spec hn
  exact ⟨heldTo61 (dec u.1), lutCell (heldTo61 (dec u.1)), rfl, hk, hlow, hhigh, hput (dLut_number hn) (roundF_fp32_lt ..)⟩

end Sys2Proof.Machine
end

section
/-! SUPPORT. The histogram unit (R96, R234): the k-th smallest exponent, and the quarters of its significands. -/

namespace Sys2Proof.Machine

/-! ### The k-th smallest of a list -/

theorem insertAsc_eq (x : Int) (l : List Int) : insertAsc x l = l.orderedInsert (· ≤ ·) x := by
  induction l with
  | nil => rfl
  | cons y l ih => rw [insertAsc, List.orderedInsert, ih]

/-- The elements of a list, put one after the other into an ascending one. -/
theorem foldl_insertAsc {α : Type} (g : α → Int) (l : List α) (acc : List Int) (h : acc.Pairwise (· ≤ ·)) :
    (l.foldl (fun a x => insertAsc (g x) a) acc).Pairwise (· ≤ ·) ∧
      (l.foldl (fun a x => insertAsc (g x) a) acc).Perm (l.map g ++ acc) := by
  induction l generalizing acc with
  | nil => exact ⟨h, .refl _⟩
  | cons x l ih =>
    rw [List.foldl_cons, insertAsc_eq]
    obtain ⟨hs, hp⟩ := ih _ (h.orderedInsert (g x) acc)
    refine ⟨hs, hp.trans ?_⟩
    rw [List.map_cons, List.cons_append]
    exact ((List.perm_orderedInsert (· ≤ ·) (g x) acc).append_left _).trans List.perm_middle

/-- In an ascending list the place after all smaller elements, and not after all others, has the element. -/
theorem ascending_get {l : List Int} (h : l.Pairwise (· ≤ ·)) {e : Int} {i : Nat}
    (hlt : (l.filter fun y => decide (y < e)).length ≤ i) (hle : i < (l.filter fun y => decide (y ≤ e)).length) : l[i]? = some e := by
  have hi : i < l.length := hle.trans_le (List.length_filter_le ..)
  have hmono {a b : Nat} (ha : a < l.length) (hb : b < l.length) (hab : a ≤ b) : l[a] ≤ l[b] := by
    rcases hab.eq_or_lt with rfl | hab
    · exact le_rfl
    · exact List.pairwise_iff_getElem.mp h a b ha hb hab
  rw [List.getElem?_eq_getElem hi]
  refine congrArg some (le_antisymm ?_ ?_)
  · by_contra hgt
    have hnone : ((l.drop i).filter fun y => decide (y ≤ e)) = [] := by
      rw [List.filter_eq_nil_iff]
      intro y hy
      obtain ⟨n, hn, rfl⟩ := List.getElem_of_mem hy
      rw [List.getElem_drop]
      have := hmono hi (by rw [List.length_drop] at hn; omega) (Nat.le_add_right i n)
      simp only [decide_eq_true_eq]
      omega
    have hlen := congrArg (fun l : List Int => (l.filter fun y => decide (y ≤ e)).length) (List.take_append_drop i l)
    simp only [List.filter_append, hnone, List.append_nil] at hlen
    have := (List.length_filter_le (fun y => decide (y ≤ e)) (l.take i)).trans (List.length_take_le i l)
    omega
  · by_contra hgt
    have hall : ((l.take (i + 1)).filter fun y => decide (y < e)) = l.take (i + 1) := by
      rw [List.filter_eq_self]
      intro y hy
      obtain ⟨n, hn, rfl⟩ := List.getElem_of_mem hy
      rw [List.getElem_take]
      rw [List.length_take] at hn
      have := hmono (by omega) hi (by omega : n ≤ i)
      simp only [decide_eq_true_eq]
      omega
    have hlen := congrArg (fun l : List Int => (l.filter fun y => decide (y < e)).length) (List.take_append_drop (i + 1) l)
    simp only [List.filter_append, hall, List.length_append, List.length_take] at hlen
    omega

/-- The largest of a list's values and a start. -/
theorem foldl_max_eq {α : Type} (g : α → Nat) {l : List α} {a q : Nat} (ha : a ≤ q) (hle : ∀ x ∈ l, g x ≤ q)
    (hq : a < q → ∃ x ∈ l, q ≤ g x) : l.foldl (fun r x => max r (g x)) a = q := by
  induction l generalizing a with
  | nil =>
    rcases ha.eq_or_lt with rfl | h
    · rfl
    · obtain ⟨x, hx, -⟩ := hq h
      cases hx
  | cons x l ih =>
    have hx := hle x List.mem_cons_self
    refine ih (max_le ha hx) (fun y hy => hle y (List.mem_cons_of_mem _ hy)) fun h => ?_
    have hmax : max a (g x) < q := h
    obtain ⟨y, hy, hqy⟩ := hq (by omega)
    rcases List.mem_cons.mp hy with rfl | hy
    · omega
    · exact ⟨y, hy, hqy⟩

/-! ### The scale of a block -/

/-- The significand and the exponent of a value, when it is finite and not zero (R96 step 2). -/
def FVal.leading : FVal → Option (Nat × Int)
  | .fin _ m e => if m = 0 then none else some (m, e + (Nat.log2 m : Int))
  | .nan => none
  | .inf _ => none

/-- Whether a value is not finite (R96 step 3). -/
def FVal.unbounded : FVal → Bool
  | .fin _ _ _ => false
  | .nan => true
  | .inf _ => true

/-- The number of quarters of the power of two below it that a significand does not exceed (R96 step 6). -/
def quarters (m : Nat) : Nat := (4 * m + 2 ^ Nat.log2 m - 1) / 2 ^ Nat.log2 m

/-- The exponents of a block in ascending order (R96 step 5). -/
def ascExps (nz : List (Nat × Int)) : List Int := nz.foldl (fun l x => insertAsc x.2 l) []

/-- The container of a scale of an exponent and a number of quarters (R96 step 7). -/
def scaleOf (emax e : Int) (q : Nat) : Flagged Nat :=
  let (q, e) := if 8 ≤ q then (4, e + 1) else (q, e)
  let x := e - emax + 127
  if x < 0 then (0, FFlags.none) else if 254 < x then (0x03FB, { FFlags.none with ovf := true })
  else (x.toNat * 4 + (q - 4), FFlags.none)

theorem scaleOf_eq (emax e : Int) {q : Nat} (hq : q ≤ 8) : scaleOf emax e q =
    let x := (if q = 8 then e + 1 else e) - emax + 127
    if x < 0 then (0, FFlags.none) else if 254 < x then (0x03FB, { FFlags.none with ovf := true })
    else (x.toNat * 4 + (if q = 8 then 0 else q - 4), FFlags.none) := by
  unfold scaleOf
  by_cases h : q = 8
  · subst h; rfl
  · rw [if_neg (by omega : ¬8 ≤ q), if_neg h, if_neg h]

/-- The histogram unit by its steps (R96). -/
theorem histScale_eq (h : Nat) (emax : Int) (xs : List Nat) : histScale h emax xs =
    let vs := xs.map (decodeF .fp32)
    let nz := vs.filterMap FVal.leading
    let sorted := ascExps nz
    let e := (sorted[max 1 ((h * sorted.length + 255) / 256) - 1]?).getD 0
    if vs.any FVal.unbounded then (0x03FC, FFlags.ofSclbad true)
    else if sorted.length = 0 then (0x01FC, FFlags.none)
    else scaleOf emax e ((nz.filter fun x => x.2 == e).foldl (fun r x => max r (quarters x.1)) 4) :=
  rfl

theorem ascExps_spec (nz : List (Nat × Int)) : (ascExps nz).Pairwise (· ≤ ·) ∧ (ascExps nz).Perm (nz.map Prod.snd) := by
  obtain ⟨hs, hp⟩ := foldl_insertAsc Prod.snd nz [] .nil
  exact ⟨hs, by rwa [List.append_nil] at hp⟩

/-- A significand exceeds a number of quarters when it has more. -/
theorem quarters_le {m q : Nat} : quarters m ≤ q ↔ ¬q * 2 ^ Nat.log2 m < 4 * m := by
  have hP := Nat.two_pow_pos (Nat.log2 m)
  have h : quarters m < q + 1 ↔ _ := Nat.div_lt_iff_lt_mul hP
  rw [Nat.add_mul] at h
  omega

theorem le_quarters {m q : Nat} (hq : 0 < q) : q ≤ quarters m ↔ (q - 1) * 2 ^ Nat.log2 m < 4 * m := by
  have h := quarters_le (m := m) (q := q - 1)
  omega

theorem FVal.leading_eq_some {v : FVal} {m : Nat} {x : Int} :
    v.leading = some (m, x) ↔ m ≠ 0 ∧ ∃ n d, v = .fin n m d ∧ x = d + (Nat.log2 m : Int) := by
  cases v with
  | nan => simp [FVal.leading]
  | inf n => simp [FVal.leading]
  | fin n p d =>
    by_cases hp : p = 0
    · simp only [FVal.leading, hp, if_true, reduceCtorEq, false_iff]
      rintro ⟨hm, n', d', hv, -⟩
      exact hm (FVal.fin.inj hv).2.1.symm
    · simp only [FVal.leading, hp, if_false, Option.some.injEq, Prod.mk.injEq, FVal.fin.injEq]
      constructor
      · rintro ⟨rfl, rfl⟩
        exact ⟨hp, n, d, ⟨rfl, rfl, rfl⟩, rfl⟩
      · rintro ⟨-, n', d', ⟨-, rfl, rfl⟩, rfl⟩
        exact ⟨rfl, rfl⟩

theorem FVal.unbounded_eq_false {v : FVal} : v.unbounded = false ↔ ∃ n m d, v = .fin n m d := by
  cases v <;> simp [FVal.unbounded]

/-- The values of a block that are not zero (R96 step 2). -/
def nonzeros (xs : List Nat) : List (Nat × Int) := (xs.map (decodeF .fp32)).filterMap FVal.leading

theorem mem_nonzeros {xs : List Nat} {m : Nat} {e : Int} : (m, e) ∈ nonzeros xs ↔
    ∃ x ∈ xs, m ≠ 0 ∧ ∃ n d, decodeF .fp32 x = .fin n m d ∧ e = d + (Nat.log2 m : Int) := by
  simp only [nonzeros, List.mem_filterMap, List.mem_map, exists_exists_and_eq_and, FVal.leading_eq_some]

section
variable {h : Nat} {emax : Int} {xs : List Nat}

/-- A block with a value that is not finite (R96 step 3). -/
theorem histScale_unbounded (hx : ∃ x ∈ xs, ¬∃ n m d, decodeF .fp32 x = .fin n m d) :
    histScale h emax xs = (0x03FC, FFlags.ofSclbad true) := by
  obtain ⟨x, hx, hfin⟩ := hx
  rw [histScale_eq]
  refine if_pos (List.any_eq_true.mpr ⟨_, List.mem_map_of_mem hx, ?_⟩)
  rwa [← FVal.unbounded_eq_false, Bool.not_eq_false] at hfin

variable (hfin : ∀ x ∈ xs, ∃ n m d, decodeF .fp32 x = .fin n m d)
include hfin

theorem histScale_finite : histScale h emax xs =
    let sorted := ascExps (nonzeros xs)
    let e := (sorted[max 1 ((h * sorted.length + 255) / 256) - 1]?).getD 0
    if sorted.length = 0 then (0x01FC, FFlags.none)
    else scaleOf emax e (((nonzeros xs).filter fun x => x.2 == e).foldl (fun r x => max r (quarters x.1)) 4) := by
  rw [histScale_eq]
  refine if_neg (Bool.not_eq_true _ ▸ List.any_eq_false.mpr fun v hv => ?_)
  obtain ⟨x, hx, rfl⟩ := List.mem_map.mp hv
  rw [FVal.unbounded_eq_false.mpr (hfin x hx)]
  exact Bool.false_ne_true

/-- A block of zeros (R96 step 4). -/
theorem histScale_zeros (hz : nonzeros xs = []) : histScale h emax xs = (0x01FC, FFlags.none) := by
  rw [histScale_finite hfin, hz]
  rfl

/-- The exponent of a block, and the quarters of its significand (R96 steps 5 to 7). -/
theorem histScale_number {e : Int} {q : Nat} (he : e ∈ (nonzeros xs).map Prod.snd)
    (hlt : (((nonzeros xs).map Prod.snd).filter fun y => decide (y < e)).length <
      max 1 ((h * ((nonzeros xs).map Prod.snd).length + 255) / 256))
    (hle : max 1 ((h * ((nonzeros xs).map Prod.snd).length + 255) / 256) ≤
      (((nonzeros xs).map Prod.snd).filter fun y => decide (y ≤ e)).length)
    (h4 : 4 ≤ q) (hmax : ∀ m, (m, e) ∈ nonzeros xs → quarters m ≤ q)
    (hq : 4 < q → ∃ m, (m, e) ∈ nonzeros xs ∧ q ≤ quarters m) :
    histScale h emax xs = scaleOf emax e q := by
  obtain ⟨hasc, hperm⟩ := ascExps_spec (nonzeros xs)
  rw [histScale_finite hfin]
  dsimp only
  rw [hperm.length_eq, ascending_get hasc (e := e), if_neg (List.length_pos_of_mem he).ne', Option.getD_some, foldl_max_eq _ h4]
  · intro x hx
    obtain ⟨hx, hxe⟩ := List.mem_filter.mp hx
    exact hmax x.1 (eq_of_beq hxe ▸ hx)
  · intro h4q
    obtain ⟨m, hm, hqm⟩ := hq h4q
    exact ⟨(m, e), List.mem_filter.mpr ⟨hm, beq_self_eq_true e⟩, hqm⟩
  · rw [(hperm.filter _).length_eq]
    omega
  · rw [(hperm.filter _).length_eq]
    omega

end

/-- The block that a program's histogram word sees (R234). -/
theorem blockScale_hist (env : DEnv) (i j : Nat) {pre : List DOp} (post : List DOp) (d a : Fin 8) (hpre : ∀ o ∈ pre, o.isHist = false) :
    blockScale (pre ++ .hist d a :: post) env i j = histScale env.hist env.emax ((List.range 32).map fun c =>
      (pre.foldl (fun r o => o.run env i (j / 32 * 32 + c) (0, FFlags.none) r) (env.start i (j / 32 * 32 + c))).regs[a]) := by
  have htake : (pre ++ .hist d a :: post).takeWhile (fun o => !o.isHist) = pre := by
    rw [List.takeWhile_append_of_pos fun o ho => by rw [hpre o ho]; rfl, List.takeWhile_cons_of_neg (by simp [DOp.isHist]), List.append_nil]
  have hfind : (pre ++ .hist d a :: post).find? DOp.isHist = some (.hist d a) := by
    rw [List.find?_append, List.find?_eq_none.mpr fun o ho => by simp [hpre o ho]]
    rfl
  have hany : (pre ++ .hist d a :: post).any DOp.isHist = true := List.any_eq_true.mpr ⟨.hist d a, by simp, rfl⟩
  rw [blockScale, if_pos hany]
  simp only [contribution, htake, hfind]

/-- R96, R234: the scale of a histogram block. -/
theorem histogramScale : Claims.HistogramScale := by
  constructor
  · intro env i j r d a pre post os scale held hpre
    exact ⟨blockScale_hist env i j post d a hpre, rfl, rfl, rfl⟩
  intro h emax xs r exOf finite es
  have hexOf (x : Nat) : exOf x = (decodeF .fp32 x).leading.map Prod.snd := by
    simp only [exOf, FVal.leading]
    cases decodeF .fp32 x with
    | nan => rfl
    | inf n => rfl
    | fin n m d => dsimp only; split <;> rfl
  have hes : es = (nonzeros xs).map Prod.snd := by
    rw [nonzeros, List.map_filterMap, List.filterMap_map]
    exact List.filterMap_congr fun x _ => hexOf x
  refine ⟨histScale_unbounded, fun hfin hz => histScale_zeros hfin (List.map_eq_nil_iff.mp (hes ▸ hz)), ?_⟩
  intro hfin e q he k exceeds hlt hle h4 h8 hmax hq at_
  have hexceeds (t : Nat) : (∃ x ∈ xs, exceeds x t) ↔ ∃ m, (m, e) ∈ nonzeros xs ∧ t * 2 ^ Nat.log2 m < 4 * m := by
    simp only [exceeds, hexOf, mem_nonzeros]
    constructor
    · rintro ⟨x, hx, n, m, d, hdec, hlead, ht⟩
      rw [hdec] at hlead
      obtain ⟨⟨m', e'⟩, hsome, hsnd⟩ := Option.map_eq_some_iff.mp hlead
      obtain ⟨hm, n', d', hval, hexp⟩ := FVal.leading_eq_some.mp hsome
      obtain ⟨rfl, rfl, rfl⟩ := FVal.fin.inj hval
      exact ⟨m, ⟨x, hx, hm, n, d, hdec, hsnd.symm.trans hexp⟩, ht⟩
    · rintro ⟨m, ⟨x, hx, hm, n, d, hdec, rfl⟩, ht⟩
      refine ⟨x, hx, n, m, d, hdec, ?_, ht⟩
      rw [FVal.leading_eq_some.mpr ⟨hm, n, d, hdec, rfl⟩]
      rfl
  refine Eq.trans ?_ (scaleOf_eq emax e h8)
  simp only [hes, k] at he hlt hle
  refine histScale_number hfin he hlt hle h4 (fun m hm => quarters_le.mpr fun ht => ?_) fun h4q => ?_
  · obtain ⟨x, hx, hex⟩ := (hexceeds q).mpr ⟨m, hm, ht⟩
    exact hmax x hx hex
  · obtain ⟨m, hm, ht⟩ := (hexceeds (q - 1)).mp (hq h4q)
    exact ⟨m, hm, (le_quarters (by omega)).mpr ht⟩

end Sys2Proof.Machine
end

section
/-! SUPPORT. The start of a drain, the places of its stores, and its elements (R236 to R239). -/

namespace Sys2Proof.Machine

/-! ### The start of a drain -/

/-- A core changed twice. -/
theorem State.modCore_modCore (s : State) (k : CoreId) (f g : Core → Core) :
    (s.modCore k f).modCore k g = s.setCore k (g (f (s.core k))) := by
  rw [State.modCore, modCore_core_same, State.modCore, State.setCore_setCore]

/-- The only drain of a core, replaced. -/
theorem Core.setDrain_one {c : Core} {d e : DrainSt} (hd : c.drains = [d]) (he : e.id = d.id) :
    c.setDrain e = { c with drains := [e] } := by
  rw [Core.setDrain, hd, List.map_singleton, if_pos he.symm]

/-- A core whose only drain waits has a free path and that drain to start. -/
theorem Core.waitingDrain {c : Core} {d : DrainSt} (hd : c.drains = [d]) (hrun : d.running = false) :
    c.runningDrain = none ∧ (c.drains.find? fun d => !d.running) = some d := by
  rw [Core.runningDrain, hd]
  simp [hrun]

theorem lutTables_none {os : List DOp} (h : ∀ o ∈ os, o.isLut = false) : lutTables os = [] := by
  rw [lutTables, List.filterMap_eq_nil_iff.mpr]
  · rfl
  · intro o ho
    have hlut := h o ho
    cases o with
    | lut => cases hlut
    | _ => rfl

/-- A drain of a program that names no table, as it starts on a core. -/
def DrainSt.begun (d : DrainSt) (c : Core) (os : List DOp) : DrainSt :=
  let again := bvf c.drainpos 63 1 == 1 && bvf c.drainpos 61 2 == d.acc.val && bvf c.drainpos 55 6 == d.prog.val &&
    bvf c.drainpos 53 2 == d.winNo.val
  { d with
    running := true, waiting := false, first := (c.clk .matrix).cyc, rows := (c.acc[d.acc]).rc, words := c.drainWords d.prog
    vset := stvSet os (c.acc[d.acc]).rc, histH := c.histp.toNat, tables := [], restart := again
    skip := if again then bvf c.drainpos 32 13 else 0 }

section
variable {k : CoreId} {s : State} {d : DrainSt} (hd : (s.core k).drains = [d]) (hrun : d.running = false)
  (hedge : ((s.core k).clk .matrix).edge = true) (hmmas : (s.core k).mmas = [])
include hd hrun hedge hmmas

/-- A waiting drain starts on a free path when its program names no table. -/
theorem execDrainStart_starts {os : List DOp} (hdec : decodeProg ((s.core k).drainWords d.prog) = some os)
    (hlut : ∀ o ∈ os, o.isLut = false) :
    execDrainStart k s = .next (s.setCore k { (s.core k).noteRun s.rc d with drains := [d.begun (s.core k) os] }) := by
  obtain ⟨hfree, hwait⟩ := Core.waitingDrain hd hrun
  have hstart : ((s.core k).noteRun s.rc d).setDrain (d.begun (s.core k) os) =
      { (s.core k).noteRun s.rc d with drains := [d.begun (s.core k) os] } := Core.setDrain_one hd rfl
  rw [execDrainStart, hfree, hedge, hwait, hmmas]
  dsimp only
  rw [hdec]
  dsimp only
  rw [lutTables_none hlut, if_neg (by decide), if_neg (by simp)]
  rw [← hstart]
  exact congrArg Host.Outcome.next (State.modCore_modCore s k ..)

/-- A program that does not decode is a trap. -/
theorem execDrainStart_undecodable (hdec : decodeProg ((s.core k).drainWords d.prog) = none) :
    execDrainStart k s = .next ((s.modCore k fun c => c.noteRun s.rc d).stopDrain k d 3 0x13 0 0 0 0) := by
  obtain ⟨hfree, hwait⟩ := Core.waitingDrain hd hrun
  rw [execDrainStart, hfree, hedge, hwait, hmmas]
  dsimp only
  rw [hdec]
  rfl

end

/-- R239, R227, R228, R241: the start of a drain. -/
theorem drainStarts : Claims.DrainStarts := by
  intro k s d y c hd hrun hedge hmmas
  refine ⟨fun os hdec hlut => ⟨_, d.begun c os, execDrainStart_starts hd hrun hedge hmmas hdec hlut, ?_⟩, fun hdec hy hr =>
    ⟨_, execDrainStart_undecodable hd hrun hedge hmmas hdec, ?_⟩⟩
  · rw [State.core_setCore_same]
    exact ⟨rfl, rfl, rfl, rfl, rfl, rfl, rfl, rfl, rfl, rfl, rfl, rfl⟩
  · obtain ⟨b, m, a, p, h⟩ := State.takeTrap_core_eq (k := k) (y := y)
      (s := (s.modCore k fun c => c.noteRun s.rc d).modCore k fun c => { c with drainpos := drainPos d.acc d.prog d.winNo 3 0 0 })
      (r := ⟨0x0D, 0x13, some 2, 0, 0, d.pc.toNat, (((s.modCore k fun c => c.noteRun s.rc d).core k).wordsAt 2 d.pc).1,
        (((s.modCore k fun c => c.noteRun s.rc d).core k).wordsAt 2 d.pc).2, 0, 0⟩)
      (by rw [modCore_core_same, modCore_core_same]; exact hy) (by rw [modCore_core_same, modCore_core_same]; exact hr)
    rw [State.stopDrain, h, modCore_core_same]
    exact ⟨rfl, rfl, rfl⟩

/-- R236, R237: the stores of an element, and the places of those to a window. -/
theorem drainPlaces : Claims.DrainPlaces := by
  intro env i j n sc r a q f w lists
  refine ⟨rfl, rfl, rfl, fun hf => if_neg hf, fun hf => ⟨fun hj => ?_, fun hj => ?_⟩⟩
  · rw [dstwOff, if_pos hf, if_pos hj]
  · rw [dstwOff, if_pos hf, if_neg hj]

end Sys2Proof.Machine
end

section
/-! SUPPORT. The elements of a running drain and their stores (R236 to R238). -/

namespace Sys2Proof.Machine

/-! ### An element's turn -/

theorem State.cmdHere_core (s : State) (k j : CoreId) (unit kind sub : Nat) : (s.cmdHere k unit kind sub).core j = s.core j := by
  refine State.core_of_cores ?_ j
  unfold State.cmdHere
  split
  · exact State.tansy_cores ..
  · rfl

theorem Core.setDrain_drains {c : Core} {d e : DrainSt} (hd : c.drains = [d]) (he : e.id = d.id) : (c.setDrain e).drains = [e] := by
  rw [Core.setDrain_one hd he]

/-- Whether a store waits for a queue entry (R236). -/
def Core.storeWaits (c : Core) (e : Nat) : DStore → Bool
  | .stq q _ => decide (e % 64 = 0) && !(c.q[q]).room
  | .stv _ _ => false
  | .stw _ _ => false

/-- A core as the element at a drain's cursor is taken: the cursor moves on. -/
def Core.elementTaken (c : Core) (k : CoreId) (d : DrainSt) (l : List DStore) : Core :=
  let c1 := (c.unwait (.drain k)).works 5
  (if d.skip ≤ d.done ∨ l.any DStore.pushes then c1.count 0x09 0 0 true else c1).setDrain { d with
    done := d.done + 1
    slip := (c1.clk .matrix).cyc - (d.first + d.done / 16 + d.lat) }

/-- A core once an element has stored: its flags, and the drain's end after the last element. -/
def Core.elementEnded (c : Core) (rc id : Nat) (flags : FFlags) (last : Prop) [Decidable last] : Core :=
  if last then (c.fmterrRaise flags.bits).finishDrain rc id else c.fmterrRaise flags.bits

/-- Taking an element changes wake lists, counters and the drain alone. -/
theorem Core.elementTaken_keeps {α : Type} (g : Core → α) (c : Core) (k : CoreId) (d : DrainSt) (l : List DStore)
    (hg : ∀ (c : Core) b w v o ds, g { c with banks := b, worked := w, cntval := v, ovfs := o, drains := ds } = g c) :
    g (c.elementTaken k d l) = g c := by
  have hworks : g ((c.unwait (.drain k)).works 5) = g c :=
    (hg _ (c.unwait (.drain k)).banks _ (c.unwait (.drain k)).cntval (c.unwait (.drain k)).ovfs (c.unwait (.drain k)).drains).trans
      (Core.unwait_keeps g c _ fun c b => hg c b c.worked c.cntval c.ovfs c.drains)
  unfold Core.elementTaken
  dsimp only
  refine (hg _ _ _ _ _ _).trans ?_
  split
  · exact (Core.count_keeps g _ _ _ _ _ fun c v o => hg c c.banks c.worked v o c.drains).trans hworks
  · exact hworks

theorem Core.elementTaken_drains {c : Core} {d : DrainSt} (hd : c.drains = [d]) (k : CoreId) (l : List DStore) :
    ∃ slip, (c.elementTaken k d l).drains = [{ d with done := d.done + 1, slip := slip }] := by
  have hworks : ((c.unwait (.drain k)).works 5).drains = [d] := (Core.unwait_keeps Core.drains c _ fun _ _ => rfl).trans hd
  unfold Core.elementTaken
  dsimp only
  refine ⟨_, Core.setDrain_drains (d := d) ?_ rfl⟩
  split
  · exact (Core.count_keeps Core.drains ..).trans hworks
  · exact hworks

/-- An element's end sets its drain's mark and the pending flags, and leaves registers, store and queues. -/
theorem Core.elementEnded_spec {c : Core} {g : DrainSt} (hg : c.drains = [g]) (rc : Nat) (flags : FFlags) (last : Prop)
    [Decidable last] (hfin : g.finished = false) :
    let u := c.elementEnded rc g.id flags last
    u.drains = [{ g with finished := decide last }] ∧ u.v = c.v ∧ u.mem = c.mem ∧ u.q = c.q ∧
      u.fmtpend = c.fmtpend ||| flags.bits := by
  unfold Core.elementEnded
  have hfind : (c.fmterrRaise flags.bits).drains.find? (fun d => decide (d.id = g.id)) = some g := by
    rw [show (c.fmterrRaise flags.bits).drains = [g] from hg, List.find?_singleton, if_pos (decide_eq_true rfl)]
  split
  · next h =>
    rw [decide_eq_true h, Core.finishDrain, hfind]
    exact ⟨Core.setDrain_drains (d := g) hg rfl, rfl, rfl, rfl, rfl⟩
  · next h =>
    rw [decide_eq_false h]
    exact ⟨hg.trans (by rw [← hfin]), rfl, rfl, rfl, rfl⟩

section
variable {k : CoreId} {s : State} {d : DrainSt} {x : DStore} {bs : List Nat} (hd : (s.core k).drains = [d]) (hrun : d.running = true)
  (hfin : d.finished = false) (he : d.done < 96 * d.rows) (hdue : s.elemDue k d = true)
  (hx : (runElem (progOf d.words) ((s.core k).drainEnv d) (d.done / 96) (d.done % 96)).stores = [x])
  (hcheck : (s.core k).storeCheck k d (d.done / 96) (d.done % 96) [x] = .ok bs)
  (hfull : ∀ b ∈ bs, ((s.core k).bank b).state = .full) (hroom : (s.core k).storeWaits d.done x = false)
include hd hrun hfin he hdue hx hcheck hfull hroom

/-- An element that is due, with one store that can be performed, is stored. -/
theorem execDrainElement_stores : let r := runElem (progOf d.words) ((s.core k).drainEnv d) (d.done / 96) (d.done % 96)
    execDrainElement k s = .next ((if d.done + 1 = 96 * d.rows then s.cmdHere k 5 6 d.acc.val else s).modCore k fun c =>
      ((c.elementTaken k d [x]).drainStore d.id (d.done / 96) (d.done % 96) x).elementEnded s.rc d.id r.flags
        (d.done + 1 = 96 * d.rows)) := by
  intro r
  have hrunning : (s.core k).runningDrain = some d := by rw [Core.runningDrain, hd]; simp [hrun, hfin]
  have hrows : ¬d.rows = 0 := by omega
  have hbanks : ¬(bs.any fun b => ((s.core k).bank b).state != .full) = true := by
    rw [List.any_eq_true]
    rintro ⟨b, hb, hne⟩
    rw [hfull b hb] at hne
    cases hne
  rw [execDrainElement, hrunning]
  dsimp only
  rw [if_neg hrows, hdue, if_neg (by decide), hx, hcheck]
  dsimp only
  rw [if_neg hbanks]
  refine (if_neg fun hwait => ?_).trans rfl
  have hw : ((s.core k).storeWaits d.done x || false) = true := hwait
  rw [hroom] at hw
  cases hw

/-- What such an element leaves, from what its store makes of a core whose drain has moved on. -/
theorem exec_drainElement : ∃ (t : State) (c1 : Core) (slip : Nat), exec (.drainElement k) s = .next t ∧
    c1.drains = [{ d with done := d.done + 1, slip := slip }] ∧ c1.v = (s.core k).v ∧ c1.mem = (s.core k).mem ∧ c1.q = (s.core k).q ∧
    c1.fmtpend = (s.core k).fmtpend ∧
    ∀ g, (c1.drainStore d.id (d.done / 96) (d.done % 96) x).drains = [g] → g.id = d.id → g.finished = false →
      let c2 := c1.drainStore d.id (d.done / 96) (d.done % 96) x
      (t.core k).drains = [{ g with finished := decide (d.done + 1 = 96 * d.rows) }] ∧ (t.core k).v = c2.v ∧ (t.core k).mem = c2.mem ∧
        (t.core k).q = c2.q ∧ (t.core k).fmtpend = c2.fmtpend |||
          (runElem (progOf d.words) ((s.core k).drainEnv d) (d.done / 96) (d.done % 96)).flags.bits := by
  obtain ⟨slip, hslip⟩ := Core.elementTaken_drains hd k [x]
  refine ⟨_, (s.core k).elementTaken k d [x], slip,
    execDrainElement_stores hd hrun hfin he hdue hx hcheck hfull hroom, hslip,
    Core.elementTaken_keeps Core.v _ _ _ _ fun _ _ _ _ _ _ => rfl, Core.elementTaken_keeps Core.mem _ _ _ _ fun _ _ _ _ _ _ => rfl,
    Core.elementTaken_keeps Core.q _ _ _ _ fun _ _ _ _ _ _ => rfl, Core.elementTaken_keeps Core.fmtpend _ _ _ _ fun _ _ _ _ _ _ => rfl,
    fun g hg hid hgf => ?_⟩
  have hcore : (if d.done + 1 = 96 * d.rows then s.cmdHere k 5 6 d.acc.val else s).core k = s.core k := by
    split
    · exact State.cmdHere_core ..
    · rfl
  rw [modCore_core_same, hcore, ← hid]
  exact Core.elementEnded_spec (hid ▸ hg) s.rc _ _ hgf

end

/-! ### What the stores of an element do -/

/-- An entry of a queue filled. -/
theorem QueueSt.fill_ents {y : QueueSt} {place : Nat} (h : y.popped ≤ place) (w : VWord) :
    (y.fill place w).ents = y.ents.set (place - y.popped) (.filled w) := by
  rw [QueueSt.fill, if_pos h]
  refine List.ext_getElem (by simp) fun n h1 h2 => ?_
  simp only [List.getElem_mapIdx, List.getElem_set, eq_comm]

theorem elemOf_zero (n w j : Nat) : elemOf (0 : BitVec n) w j = 0 := by
  simp [elemOf]

/-- A lane of a wide value after one of its lanes is written. -/
theorem elemOf_bvSet (w : VWord) {a l : Nat} (ha : a < 64) (hl : l < 64) (v : Nat) :
    elemOf (bvSet w (32 * a) 32 v) 32 l = if l = a then v % 2 ^ 32 else elemOf w 32 l := by
  split
  · next h => subst h; exact bvf_bvSet_same w v (by omega)
  · next h =>
    rcases Nat.lt_or_gt_of_ne h with hlt | hgt
    · exact bvf_bvSet_below w v (by omega) (by omega)
    · exact bvf_bvSet_above w v (by omega) (by omega)

theorem find_drain {c : Core} {g : DrainSt} (hg : c.drains = [g]) : (c.drains.find? fun d => decide (d.id = g.id)) = some g := by
  rw [hg, List.find?_singleton, if_pos (decide_eq_true rfl)]

section
variable {c : Core} {g : DrainSt} (hg : c.drains = [g]) {i j : Nat}
include hg

/-- DSTW writes the low bytes of its value at the offset of its element. -/
theorem Core.drainStore_stw (hskip : g.skip = 0) {f : Fmt} {v o : Nat} {w : WinSt} (hwin : g.win = some w)
    (hoff : dstwOff w f i j = some (o : Int)) : c.drainStore g.id i j (.stw f v) = { c.keepOld (w.base + o) (fmtWidth f / 8) with
      mem := c.mem.writeLE (w.base + o) (fmtWidth f / 8) (v % 2 ^ fmtWidth f) } := by
  rw [Core.drainStore, find_drain hg]
  dsimp only
  rw [hwin]
  dsimp only
  rw [hoff]
  dsimp only
  rw [if_neg (by omega), Int.toNat_natCast]

/-- DSTV writes a lane of the register of its element. -/
theorem Core.drainStore_stv (hskip : g.skip = 0) {e n : Nat} (he : 96 * i + j = e) {r : Fin 32} (hr : r.val = n + e / 64) (v : Nat) :
    let u := c.drainStore g.id i j (.stv n v)
    u.drains = c.drains ∧ u.mem = c.mem ∧ u.v = c.v.set r (bvSet c.v[r] (32 * (e % 64)) 32 v) := by
  have hr' : Fin.ofNat 32 (n + e / 64) = r := Fin.ext ((Nat.mod_eq_of_lt (by omega)).trans hr.symm)
  subst he
  subst hr'
  rw [Core.drainStore, find_drain hg]
  dsimp only
  rw [if_neg (by omega)]
  exact ⟨rfl, rfl, rfl⟩

/-- DSTQ at an element that is not its entry's last: the entry is reserved at its first lane, and the lanes so far are kept. -/
theorem Core.drainStore_stq_open {e place : Nat} (he : 96 * i + j = e) {q : Fin 8} (v : Nat)
    (hfirst : e % 64 = 0 → place = (c.q[q]).popped + (c.q[q]).ents.length) (hlater : e % 64 ≠ 0 → g.qplace = some place)
    (hlast : ¬(e % 64 = 63 ∨ e + 1 = 96 * g.rows)) :
    let u := c.drainStore g.id i j (.stq q v)
    u.v = c.v ∧ u.mem = c.mem ∧ u.q = (if e % 64 = 0 then c.q.set q (c.q[q]).reserve.1 else c.q) ∧
      u.drains = [{ g with
        qfill := bvSet (if e % 64 = 0 then 0 else g.qfill) (32 * (e % 64)) 32 v
        qplace := some place }] := by
  subst he
  rw [Core.drainStore, find_drain hg]
  dsimp only
  by_cases h0 : (96 * i + j) % 64 = 0
  · rw [if_pos h0, if_pos h0, if_neg hlast, if_pos h0, hfirst h0]
    exact ⟨rfl, rfl, rfl, Core.setDrain_drains (d := g) hg rfl⟩
  · rw [if_neg h0, if_neg h0, if_neg hlast, if_neg h0, hlater h0]
    exact ⟨rfl, rfl, rfl, Core.setDrain_drains (d := g) hg rfl⟩

/-- DSTQ at its entry's last element fills the entry. -/
theorem Core.drainStore_stq_last {e place : Nat} (he : 96 * i + j = e) {q : Fin 8} (v : Nat) (hlater : g.qplace = some place)
    (h0 : e % 64 ≠ 0) (hlast : e % 64 = 63 ∨ e + 1 = 96 * g.rows) :
    let u := c.drainStore g.id i j (.stq q v)
    u.v = c.v ∧ u.mem = c.mem ∧ u.q = c.q.set q ((c.q[q]).fill place (bvSet g.qfill (32 * (e % 64)) 32 v)) ∧
      u.drains = [{ g with qfill := 0, qplace := none }] := by
  subst he
  rw [Core.drainStore, find_drain hg]
  dsimp only
  rw [if_neg h0, if_pos hlast, hlater]
  exact ⟨rfl, rfl, rfl, Core.setDrain_drains (d := g) hg rfl⟩

end

section
variable {k : CoreId} {s : State} {d : DrainSt} (hd : (s.core k).drains = [d]) (hrun : d.running = true)
  (hfin : d.finished = false) (he : d.done < 96 * d.rows) (hdue : s.elemDue k d = true)
include hd hrun hfin he hdue

/-- R237: an element's word of the drain window. -/
theorem element_window (hskip : d.skip = 0) (hwf : (s.core k).mem.wf = true) {f : Fmt} {v : Nat} {w : WinSt} {o : Nat} :
    let r := runElem (progOf d.words) ((s.core k).drainEnv d) (d.done / 96) (d.done % 96)
    let n := fmtWidth f / 8
    r.stores = [.stw f v] → d.win = some w → dstwOff w f (d.done / 96) (d.done % 96) = some (o : Int) → 0 < n → o + n ≤ w.len →
    (∀ b, (w.base + o) / 131072 ≤ b → b ≤ (w.base + o + n - 1) / 131072 → ((s.core k).bank b).state = .full) →
    ∃ (t : State) (g : DrainSt), exec (.drainElement k) s = .next t ∧ (t.core k).drains = [g] ∧ g.done = d.done + 1 ∧
      g.finished = decide (d.done + 1 = 96 * d.rows) ∧ (t.core k).v = (s.core k).v ∧
      (t.core k).fmtpend = (s.core k).fmtpend ||| r.flags.bits ∧
      ∀ a, (t.core k).mem.read a = if w.base + o ≤ a ∧ a < w.base + o + n then
        BitVec.ofNat 8 (v % 2 ^ fmtWidth f / 256 ^ (a - (w.base + o))) else (s.core k).mem.read a := by
  intro r n hx hwin hoff hn hlen hfull
  have hbanks : ∀ b ∈ banksOf (w.base + o) n, ((s.core k).bank b).state = .full := by
    intro b hb
    obtain ⟨i, hi, rfl⟩ := List.mem_map.mp hb
    have := List.mem_range.mp hi
    exact hfull _ (Nat.le_add_right _ _) (by omega)
  have hcheck : (s.core k).storeCheck k d (d.done / 96) (d.done % 96) [.stw f v] = .ok (banksOf (w.base + o) n) := by
    have hoffBank : ((banksOf (w.base + o) n).find? fun b => ((s.core k).bank b).state == .off) = none := by
      rw [List.find?_eq_none]
      intro b hb
      rw [hbanks b hb]
      decide
    rw [Core.storeCheck, List.foldl_cons, List.foldl_nil]
    dsimp only
    rw [hwin]
    dsimp only
    rw [hoff]
    dsimp only
    rw [if_neg (by omega), if_neg (by omega), Int.toNat_natCast, hoffBank]
    rfl
  obtain ⟨t, c1, slip, ht, hc1, hv, hmem, -, hpend, hleft⟩ :=
    exec_drainElement hd hrun hfin he hdue hx hcheck hbanks rfl
  have hstore := Core.drainStore_stw (v := v) hc1 hskip hwin hoff
  obtain ⟨hdrains, htv, htmem, -, htpend⟩ := hleft { d with done := d.done + 1, slip := slip }
    ((congrArg Core.drains hstore).trans hc1) rfl hfin
  refine ⟨t, _, ht, hdrains, rfl, rfl, ?_, ?_, fun a => ?_⟩
  · rw [htv]; exact (congrArg Core.v hstore).trans hv
  · rw [htpend]; exact congrArg (· ||| r.flags.bits) ((congrArg Core.fmtpend hstore).trans hpend)
  · rw [htmem]
    refine (congrArg (fun c : Core => c.mem.read a) hstore).trans ?_
    dsimp only
    rw [hmem, Mem.writeLE]
    have hbytes := leBytes_length n (v % 2 ^ fmtWidth f)
    split
    · next h =>
      obtain ⟨i, rfl⟩ := Nat.exists_eq_add_of_le h.1
      rw [Mem.read_writeN_in _ _ _ hwf (by rw [hbytes]; omega), leBytes_getElem, Nat.add_sub_cancel_left]
    · exact Mem.read_writeN_out _ _ _ hwf (by rw [hbytes]; omega)

/-- R236: an element's lane of a vector register. -/
theorem element_vector (hskip : d.skip = 0) {n v : Nat} :
    (runElem (progOf d.words) ((s.core k).drainEnv d) (d.done / 96) (d.done % 96)).stores = [.stv n v] → n + d.done / 64 < 32 →
    ((s.core k).bank (256 + (n + d.done / 64) / 8)).state = .full →
    ∃ (t : State) (g : DrainSt), exec (.drainElement k) s = .next t ∧ (t.core k).drains = [g] ∧ g.done = d.done + 1 ∧
      (t.core k).mem = (s.core k).mem ∧ ∀ (x : Fin 32) (l : Nat), l < 64 → elemOf ((t.core k).v[x]) 32 l =
        if x.val = n + d.done / 64 ∧ l = d.done % 64 then v % 2 ^ 32 else elemOf ((s.core k).v[x]) 32 l := by
  intro hx hn hfull
  have hcur : 96 * (d.done / 96) + d.done % 96 = d.done := Nat.div_add_mod ..
  have hcheck : (s.core k).storeCheck k d (d.done / 96) (d.done % 96) [.stv n v] = .ok [256 + (n + d.done / 64) / 8] := by
    rw [Core.storeCheck, List.foldl_cons, List.foldl_nil]
    dsimp only
    rw [hcur, if_neg (by omega), if_neg (by omega), hfull, if_neg (by decide)]
    rfl
  obtain ⟨t, c1, slip, ht, hc1, hv, hmem, -, -, hleft⟩ :=
    exec_drainElement hd hrun hfin he hdue hx hcheck (fun b hb => by rw [List.mem_singleton.mp hb, hfull]) rfl
  obtain ⟨hsd, hsm, hsv⟩ := Core.drainStore_stv hc1 hskip hcur (r := ⟨n + d.done / 64, hn⟩) rfl v
  obtain ⟨hdrains, htv, htmem, -, -⟩ := hleft { d with done := d.done + 1, slip := slip } (hsd.trans hc1) rfl hfin
  refine ⟨t, _, ht, hdrains, rfl, htmem.trans (hsm.trans hmem), fun x l hl => ?_⟩
  rw [htv.trans hsv, hv]
  by_cases hxr : x.val = n + d.done / 64
  · obtain rfl : x = ⟨n + d.done / 64, hn⟩ := Fin.ext hxr
    simp only [Fin.getElem_fin, Vector.getElem_set_self, true_and]
    exact elemOf_bvSet _ (Nat.mod_lt _ (by omega)) hl v
  · rw [if_neg fun h => hxr h.1]
    congr 1
    simp only [Fin.getElem_fin]
    exact Vector.getElem_set_ne _ _ fun h => hxr h.symm

/-- R236: an element's lane of a queue entry, reserved at its first lane and filled after its last. -/
theorem element_queue {q : Fin 8} {v place : Nat} :
    (runElem (progOf d.words) ((s.core k).drainEnv d) (d.done / 96) (d.done % 96)).stores = [.stq q v] →
    let old := (s.core k).q[q]
    (d.done % 64 = 0 → old.room = true ∧ place = old.popped + old.ents.length) → (d.done % 64 ≠ 0 → d.qplace = some place) →
    ∃ (t : State) (g : DrainSt), exec (.drainElement k) s = .next t ∧ (t.core k).drains = [g] ∧ g.done = d.done + 1 ∧
      (t.core k).mem = (s.core k).mem ∧ (t.core k).v = (s.core k).v ∧ (∀ x : Fin 8, x ≠ q → (t.core k).q[x] = (s.core k).q[x]) ∧
      let lane (l : Nat) : Nat := if l = d.done % 64 then v % 2 ^ 32 else if d.done % 64 = 0 then 0 else elemOf d.qfill 32 l
      let last := d.done % 64 = 63 ∨ d.done + 1 = 96 * d.rows
      (¬last → ((t.core k).q[q]).ents = old.ents ++ (if d.done % 64 = 0 then [QEnt.reserved] else []) ∧ g.qplace = some place ∧
        ∀ l, l < 64 → elemOf g.qfill 32 l = lane l) ∧
      (last → old.popped ≤ place → place < old.popped + old.ents.length →
        ∃ w, ((t.core k).q[q]).ents = old.ents.set (place - old.popped) (.filled w) ∧ ∀ l, l < 64 → elemOf w 32 l = lane l) := by
  intro hx old hfirst hlater
  have hcur : 96 * (d.done / 96) + d.done % 96 = d.done := Nat.div_add_mod ..
  have hroom : (s.core k).storeWaits d.done (.stq q v) = false := by
    by_cases h0 : d.done % 64 = 0
    · rw [Core.storeWaits, (hfirst h0).1]
      exact Bool.and_false _
    · rw [Core.storeWaits, decide_eq_false h0]
      exact Bool.false_and _
  obtain ⟨t, c1, slip, ht, hc1, hv, hmem, hq, -, hleft⟩ :=
    exec_drainElement hd hrun hfin he hdue hx (bs := []) rfl (fun b hb => by cases hb) hroom
  have hother {u : QueueSt} (x : Fin 8) (hxq : x ≠ q) : ((s.core k).q.set q u)[x] = (s.core k).q[x] :=
    Vector.getElem_set_ne _ _ fun h => hxq (Fin.ext h.symm)
  have hsame (u : QueueSt) : ((s.core k).q.set q u)[q] = u := Vector.getElem_set_self ..
  have hlane (w : VWord) (l : Nat) (hl : l < 64) : elemOf (bvSet w (32 * (d.done % 64)) 32 v) 32 l =
      if l = d.done % 64 then v % 2 ^ 32 else elemOf w 32 l := elemOf_bvSet w (Nat.mod_lt _ (by omega)) hl v
  by_cases hlast : d.done % 64 = 63 ∨ d.done + 1 = 96 * d.rows
  · have h0 : d.done % 64 ≠ 0 := by omega
    obtain ⟨hsv, hsm, hsq, hsd⟩ := Core.drainStore_stq_last hc1 hcur v (q := q) (hlater h0) h0 hlast
    obtain ⟨hdrains, htv, htmem, htq, -⟩ := hleft _ hsd rfl hfin
    rw [hq] at hsq
    refine ⟨t, _, ht, hdrains, rfl, htmem.trans (hsm.trans hmem), htv.trans (hsv.trans hv), fun x hxq => ?_,
      fun h => absurd hlast h, fun _ hle _ => ⟨bvSet d.qfill (32 * (d.done % 64)) 32 v, ?_, fun l hl => ?_⟩⟩
    · rw [htq.trans hsq]
      exact hother x hxq
    · rw [htq.trans hsq, hsame]
      exact QueueSt.fill_ents hle _
    · rw [hlane _ l hl]
      dsimp only
      rw [if_neg h0]
  · obtain ⟨hsv, hsm, hsq, hsd⟩ := Core.drainStore_stq_open hc1 hcur (q := q) (place := place) v
      (fun h => by rw [hq]; exact (hfirst h).2) hlater hlast
    obtain ⟨hdrains, htv, htmem, htq, -⟩ := hleft _ hsd rfl hfin
    rw [hq] at hsq
    refine ⟨t, _, ht, hdrains, rfl, htmem.trans (hsm.trans hmem), htv.trans (hsv.trans hv), fun x hxq => ?_,
      fun _ => ⟨?_, rfl, fun l hl => ?_⟩, fun h => absurd h hlast⟩
    · rw [htq.trans hsq]
      split
      · exact hother x hxq
      · rfl
    · rw [htq.trans hsq]
      split
      · rw [hsame]; rfl
      · exact (List.append_nil _).symm
    · rw [hlane _ l hl]
      dsimp only
      by_cases h0 : d.done % 64 = 0
      · rw [if_pos h0, if_pos h0, elemOf_zero]
      · rw [if_neg h0, if_neg h0]

end

/-- R226, R236 to R238: the element at a running drain's cursor. -/
theorem drainElements : Claims.DrainElements := by
  intro k s d c e i j r hd hrun hfin hskip _ he hdue hwf
  exact ⟨fun f v w o => element_window hd hrun hfin he hdue hskip hwf, fun n v => element_vector hd hrun hfin he hdue hskip,
    fun q v place => element_queue hd hrun hfin he hdue⟩

end Sys2Proof.Machine

namespace Sys2Proof

open Machine

/-- Settles O36: the start of a drain, each of its words, and the places of its elements' stores. In DrainPrecision a NaN scale sets
INV besides SCLBAD, which is the model's reading (log 30). -/
theorem drains : Obligations.Drains :=
  ⟨drainStarts, drainArithmetic, drainPrecision, drainLookup, histogramScale, drainPlaces, drainElements⟩

end Sys2Proof
end

section
/-! SUPPORT. NOP, BRK and the hardware loops (O4, O6): what an issue that leaves the core light comes to, the debug stop at the end
of an issue, and the end tests of R106. -/

namespace Sys2Proof.Machine

/-! ### NOP and BRK -/

theorem exec_nop {h : Hdr} {s : State} (g : Goes (op1 h [] [] []) s) :
    exec (.nop h) s = .next (s.retire (op1 h [] [] []) true .seq false) := by
  change execNop h s = _
  rw [execNop, issue_goes g]

/-- BRK asks for a debug stop under the partition's permission (R102, R390). -/
def Core.breakpoint (on : Bool) (q : Fin 4) (c : Core) : Core := if on then c.askStop q else c

theorem exec_brk {h : Hdr} {s : State} (g : Goes (op1 h [] [] []) s) : exec (.brk h) s =
    .next ((s.modMe (Core.breakpoint (bvf (s.die (dieOf s.curCore)).dbgperm s.me.part.val 1 == 1) s.curSeq.idx)).retire
      (op1 h [] [] []) true .seq false) := by
  change execBrk h s = _
  rw [execBrk, issue_goes g]
  by_cases hon : bvf (s.die (dieOf s.curCore)).dbgperm s.me.part.val 1 = 1
  · simp only [hon, if_true, beq_self_eq_true]
    rfl
  · have hsame : s.modMe (Core.breakpoint false s.curSeq.idx) = s := State.setCore_self s s.curCore
    simp only [hon, if_false, beq_eq_false_iff_ne.mpr hon, hsame]

theorem light_breakpoint (on : Bool) (q' q : Fin 4) (c : Core) : Light q' c (c.breakpoint on q) := by
  unfold Core.breakpoint
  split
  · exact light_askStop ..
  · exact Light.refl ..

@[simp] theorem breakpoint_seqs (on : Bool) (q : Fin 4) (c : Core) : (c.breakpoint on q).seqs = c.seqs := by
  unfold Core.breakpoint
  split
  · exact askStop_seqs ..
  · rfl

@[simp] theorem breakpoint_tok (on : Bool) (q : Fin 4) (c : Core) : (c.breakpoint on q).tok = c.tok := by
  unfold Core.breakpoint Core.askStop
  split
  · split <;> rfl
  · rfl

@[simp] theorem breakpoint_part (on : Bool) (q : Fin 4) (c : Core) : (c.breakpoint on q).part = c.part := by
  unfold Core.breakpoint Core.askStop
  split
  · split <;> rfl
  · rfl

/-- An instruction whose body changes of the core only what the end of an issue may, and that stands past itself. -/
theorem does_of_light {i : Instr} {op : Op} {f : Core → Core} {late : Bool} {s : State}
    (h : exec i s = .next ((s.modMe f).retire op true .seq late)) (hf : Light s.curSeq.idx s.me (f s.me))
    (hseqs : (f s.me).seqs = s.me.seqs) : Does i op id s := by
  have hbody : Frame id s (s.modMe f) := frame_of_light hf rfl rfl
  have hkept : PredsKept s (s.modMe f) := preds_of_light (own := id) hf rfl
  have hmine : (s.modMe f).mySeq = s.mySeq := by
    simp only [State.mySeq, modMe_me, modMe_curSeq, sq_of_seqs hseqs]
  obtain ⟨hframe, hpreds, hpend, hpc, hh, hlive⟩ := retire_seq (s.modMe f) op late
  rw [hmine] at hpend hpc hh hlive
  exact ⟨_, h, hpend, ⟨hpc, hh, hlive⟩, hbody.trans hframe, hkept.trans hpreds (by rw [hmine])⟩

/-- An instruction whose body changes nothing and that stands past itself. -/
theorem does_of_retire {i : Instr} {op : Op} {late : Bool} {s : State} (h : exec i s = .next (s.retire op true .seq late)) :
    Does i op id s := by
  obtain ⟨hframe, hpreds, hpend, hpast⟩ := retire_seq s op late
  exact ⟨_, h, hpend, hpast, hframe, hpreds⟩

/-- The end of an issue looks at the debug stop only after the sequencer has moved (R391). -/
theorem ended_dbg (c : Core) (k : CoreId) (rc : Nat) (q : Fin 4) (op : Op) (pops : Bool) (n : Next) (late on : Bool) :
    ∃ d : Core, d.dbg = c.dbg ∧ c.ended k rc q op pops n late on = d.watch q on (c.sq q) := by
  refine ⟨_, ?_, rfl⟩
  have hsettled : (c.settled q op pops n.arrives late).dbg = c.dbg := by
    unfold Core.settled
    cases pops <;> cases late <;> cases n.arrives <;> rfl
  rw [← hsettled]
  refine (Core.count_keeps Core.dbg ((c.settled q op pops n.arrives late).unwait (.seqr k q)) 0x02 q.val 0 true).trans ?_
  exact Core.unwait_keeps Core.dbg _ _ fun _ _ => rfl

/-- A pending stop stays pending or falls due. -/
theorem watch_dbg_of_pending {c : Core} {q : Fin 4} (on : Bool) (old : SeqSt) (h : c.dbg = .pending q) :
    (c.watch q on old).dbg = .pending q ∨ (c.watch q on old).dbg = .due q := by
  have hask : c.askStop q = c := by rw [Core.askStop, h, if_neg (by simp)]
  unfold Core.watch
  simp only [hask, ite_self]
  split
  · exact .inr rfl
  · exact .inl h

/-- Without the partition's permission a running core runs on. -/
theorem watch_dbg_of_off {c : Core} (q : Fin 4) (old : SeqSt) (h : c.dbg = .running) : (c.watch q false old).dbg = .running := by
  unfold Core.watch
  simp [h]

section
variable {s : State} {op : Op} {pops late : Bool} {n : Next}

theorem retire_dbg_of_pending (h : s.me.dbg = .pending s.curSeq.idx) :
    (s.retire op pops n late).me.dbg = .pending s.curSeq.idx ∨ (s.retire op pops n late).me.dbg = .due s.curSeq.idx := by
  obtain ⟨d, hd, he⟩ := ended_dbg s.me s.curCore s.rc s.curSeq.idx op pops n late
    (bvf (s.die (dieOf s.curCore)).dbgperm s.me.part.val 1 == 1)
  rw [retire_eq_ended, modMe_me, he]
  exact watch_dbg_of_pending _ _ (hd.trans h)

theorem retire_dbg_of_off (h : s.me.dbg = .running) (hoff : bvf (s.die (dieOf s.curCore)).dbgperm s.me.part.val 1 = 0) :
    (s.retire op pops n late).me.dbg = .running := by
  obtain ⟨d, hd, he⟩ := ended_dbg s.me s.curCore s.rc s.curSeq.idx op pops n late
    (bvf (s.die (dieOf s.curCore)).dbgperm s.me.part.val 1 == 1)
  rw [retire_eq_ended, modMe_me, he, hoff]
  exact watch_dbg_of_off _ _ (hd.trans h)

end

/-! ### LOOP (R105) -/

/-- The issue data of LOOP. -/
def opLoop (h : Hdr) (swp : Bool) (n : LoopCount) (c : Comp) : Op :=
  { op2 h c (loopNames n) [] (if swp then [.pred 4, .pred 5, .pred 6, .pred 7] else []) with lock := true }

/-- The loop that a LOOP sets up. -/
def SeqSt.newLoop (q : SeqSt) (swp : Bool) (k : Nat) (lid : BitVec 8) (len : BitVec 18) : LoopSt :=
  ⟨BitVec.ofNat 32 k, lid, 0, q.pc + 8, q.pc + 8 + 4 * len.setWidth 48, swp⟩

/-- A sequencer with a loop set up and started. -/
def SeqSt.startLoop (q : SeqSt) (x : Fin 4) (l : LoopSt) : SeqSt := { q with h := q.h.set x l, live := x :: q.live }.stage

theorem loopBad_iff {q : SeqSt} {x : Fin 4} {swp : Bool} {n : Nat} {start stop : BitVec 48} :
    q.loopBad x swp n start stop = true ↔ x ∈ q.live ∨ 2 ^ 32 ≤ n ∨ (swp = true ∧ (2 ^ 32 - 4 < n ∨ q.swpLoop ≠ none)) ∨
      ∃ i ∈ q.live, ¬((q.h[i]).start ≤ start ∧ stop ≤ (q.h[i]).stop) := by
  simp only [SeqSt.loopBad, Bool.or_eq_true, Bool.and_eq_true, List.contains_iff_mem, decide_eq_true_eq, List.any_eq_true,
    Bool.not_eq_true', decide_eq_false_iff_not, Option.isSome_iff_ne_none, or_assoc]

section
variable {h : Hdr} {x : Fin 4} {swp : Bool} {n : LoopCount} {lid : BitVec 8} {len : BitVec 18} {c : Comp} {s : State}

/-- A LOOP that may not set up its loop. -/
theorem exec_loop_bad (g : Goes (opLoop h swp n c) s)
    (hbad : s.mySeq.loopBad x swp (loopValue n s) (s.mySeq.pc + 8) (s.mySeq.pc + 8 + 4 * len.setWidth 48) = true) :
    Traps (.loop h x swp n lid len c) (opLoop h swp n c) 0x14 (x.val * 256 + lid.toNat) 0 s := by
  change execLoop h x swp n lid len c s = _
  unfold execLoop
  dsimp only
  rw [← opLoop, issue_goes g]
  simp only [hbad, if_true]

end

/-- A change of the current sequencer that keeps its registers and latches. -/
theorem frame_modMySeq {s : State} {f : SeqSt → SeqSt} (hs : (f s.mySeq).s = s.mySeq.s) (hb : (f s.mySeq).b = s.mySeq.b) :
    Frame id s (s.modMySeq f) := by
  refine frame_modMe rfl (fun _ => rfl) (fun j hj => modSeq_sq_other _ _ hj) ?_ ?_
  · rw [modSeq_sq_same]
    exact hs
  · rw [modSeq_sq_same]
    exact hb

@[simp] theorem modMySeq_mySeq (s : State) (f : SeqSt → SeqSt) : (s.modMySeq f).mySeq = f s.mySeq := by
  simp only [State.mySeq, State.modMySeq, modMe_me, modMe_curSeq, modSeq_sq_same]

/-- The end of a LOOP: its sequencer as the LOOP set it up, at the address that it gives. -/
theorem retire_loop {s : State} {x : SeqSt} (op : Op) (t : BitVec 48) (hs : x.s = s.mySeq.s) (hb : x.b = s.mySeq.b) :
    let u := (s.modMySeq fun _ => x).retire op true (.loop t) false
    Frame id s u ∧ u.mySeq = { x with stall := none, fresh := false, pc := t } := by
  intro u
  refine ⟨(frame_modMySeq hs hb).trans (retire_frame ..), ?_⟩
  rw [retire_mySeq, modMySeq_mySeq]
  rfl

/-! ### Stage predicates -/

/-- p4 to p7 follow the iteration of the active SWP loop (R107). -/
theorem stage_p_of_swpLoop {x : SeqSt} {i : Fin 4} (h : x.swpLoop = some i) {p : Fin 8} (hp : 4 ≤ p.val) :
    x.stage.p[p] = decide (p.val - 4 ≤ (x.h[i]).iter.toNat ∧ (x.h[i]).iter.toNat < (x.h[i]).count.toNat + (p.val - 4)) := by
  simp [SeqSt.stage, h, hp]

theorem swpLoop_cons {x : SeqSt} {i : Fin 4} {rest : List (Fin 4)} (hl : x.live = i :: rest) (hi : (x.h[i]).swp = true) :
    x.swpLoop = some i := by
  rw [SeqSt.swpLoop, hl]
  exact List.find?_cons_of_pos (p := fun j : Fin 4 => (x.h[j]).swp) hi

/-- A loop that is not SWP changes nothing about which SWP loop is active. -/
theorem swpLoop_started {q : SeqSt} {x : Fin 4} {l : LoopSt} (hx : x ∉ q.live) (hl : l.swp = false) :
    ({ q with h := q.h.set x l, live := x :: q.live } : SeqSt).swpLoop = q.swpLoop := by
  have hnew : ¬((q.h.set x l)[x]).swp = true := by simp [hl]
  refine (List.find?_cons_of_neg (p := fun i : Fin 4 => ((q.h.set x l)[i]).swp) hnew).trans ?_
  refine List.find?_congr fun i hi => ?_
  have hne : x.val ≠ i.val := fun e => hx (Fin.ext e ▸ hi)
  simp [hne]

section
variable {q : SeqSt} {x : Fin 4} {l : LoopSt}

@[simp] theorem startLoop_s : (q.startLoop x l).s = q.s := stage_s _
@[simp] theorem startLoop_b : (q.startLoop x l).b = q.b := stage_b _
@[simp] theorem startLoop_pend : (q.startLoop x l).pend = q.pend := stage_pend _
@[simp] theorem startLoop_h : (q.startLoop x l).h = q.h.set x l := stage_h _
@[simp] theorem startLoop_live : (q.startLoop x l).live = x :: q.live := stage_live _

theorem startLoop_p_kept {p : Fin 8} (hx : x ∉ q.live) (h : p.val < 4 ∨ l.swp = false ∧ q.swpLoop = none) :
    (q.startLoop x l).p[p] = q.p[p] :=
  stage_p _ p (h.imp_right fun ⟨hl, hq⟩ => (swpLoop_started hx hl).trans hq)

/-- An SWP loop begins with p4 alone. -/
theorem startLoop_p_swp {p : Fin 8} (hl : l.swp = true) (hp : 4 ≤ p.val) (hi : l.iter = 0) (hc : 0 < l.count.toNat) :
    (q.startLoop x l).p[p] = decide (p.val = 4) := by
  have hswp : ({ q with h := q.h.set x l, live := x :: q.live } : SeqSt).swpLoop = some x :=
    swpLoop_cons rfl (by simp [hl])
  rw [SeqSt.startLoop, stage_p_of_swpLoop hswp hp]
  simp only [Fin.getElem_fin, Vector.getElem_set_self, hi, decide_eq_decide, show (0 : BitVec 32).toNat = 0 from rfl]
  omega

end

section
variable {h : Hdr} {x : Fin 4} {swp : Bool} {n : LoopCount} {lid : BitVec 8} {len : BitVec 18} {c : Comp} {s : State}
  (g : Goes (opLoop h swp n c) s)
  (hgood : s.mySeq.loopBad x swp (loopValue n s) (s.mySeq.pc + 8) (s.mySeq.pc + 8 + 4 * len.setWidth 48) = false)
include g hgood

/-- A LOOP of no iterations stands past its body. -/
theorem exec_loop_skip (hk : loopValue n s = 0) : ∃ t : State, exec (.loop h x swp n lid len c) s = .next t ∧ Frame id s t ∧
    t.mySeq = { s.mySeq with
      h := s.mySeq.h.set x (s.mySeq.newLoop swp (loopValue n s) lid len), stall := none, fresh := false
      pc := s.mySeq.pc + 8 + 4 * len.setWidth 48 } := by
  refine ⟨_, ?_, retire_loop (opLoop h swp n c) _ (x := { s.mySeq with
    h := s.mySeq.h.set x (s.mySeq.newLoop swp (loopValue n s) lid len) }) rfl rfl⟩
  change execLoop h x swp n lid len c s = _
  unfold execLoop
  dsimp only
  rw [← opLoop, issue_goes g]
  simp only [hgood, Bool.false_eq_true, if_false]
  rw [if_pos hk]
  rfl

/-- A LOOP of some iterations stands at its body's start. -/
theorem exec_loop_start (hk : loopValue n s ≠ 0) : ∃ t : State, exec (.loop h x swp n lid len c) s = .next t ∧ Frame id s t ∧
    t.mySeq = { s.mySeq.startLoop x (s.mySeq.newLoop swp (loopValue n s) lid len) with
      stall := none, fresh := false, pc := s.mySeq.pc + 8 } := by
  refine ⟨_, ?_, retire_loop (opLoop h swp n c) _ (x := s.mySeq.startLoop x (s.mySeq.newLoop swp (loopValue n s) lid len))
    startLoop_s startLoop_b⟩
  change execLoop h x swp n lid len c s = _
  unfold execLoop
  dsimp only
  rw [← opLoop, issue_goes g]
  simp only [hgood, Bool.false_eq_true, if_false]
  rw [if_neg hk]
  rfl

end

/-! ### The end of a body (R106) -/

section
variable {lw : BitVec 48} {h : Vector LoopSt 4} {i : Fin 4} {rest : List (Fin 4)}

theorem endTests_back (hstop : (h[i]).stop = lw + 4) (hmore : (h[i]).iter.toNat + 1 < (h[i]).total) :
    endTests lw h (i :: rest) = (h.set i { h[i] with iter := (h[i]).iter + 1 }, i :: rest, (h[i]).start, true) := by
  rw [endTests, if_pos hstop, if_pos hmore]

theorem endTests_last (hstop : (h[i]).stop = lw + 4) (hdone : (h[i]).total ≤ (h[i]).iter.toNat + 1) :
    endTests lw h [i] = (h.set i { h[i] with iter := (h[i]).iter + 1 }, [], lw + 4, true) := by
  rw [endTests, if_pos hstop, if_neg (Nat.not_lt.mpr hdone)]
  rfl

theorem endTests_elsewhere {live : List (Fin 4)} (hstop : ∀ i ∈ live, (h[i]).stop ≠ lw + 4) :
    endTests lw h live = (h, live, lw + 4, false) := by
  induction live with
  | nil => rfl
  | cons i rest ih =>
    rw [endTests, if_neg (hstop i List.mem_cons_self), ih fun j hj => hstop j (List.mem_cons_of_mem _ hj)]

end

/-- Where a one-word instruction that issues in order leaves its sequencer, by its end tests. -/
theorem retire_endTests {s : State} {op : Op} {late : Bool} {h : Vector LoopSt 4} {live : List (Fin 4)} {pc : BitVec 48} {b : Bool}
    (hlen : op.len = 1) (he : endTests s.mySeq.pc s.mySeq.h s.mySeq.live = (h, live, pc, b)) :
    (s.retire op true .seq late).mySeq =
      ({ s.mySeq with h := h, live := live, pc := pc, stall := none, fresh := false } : SeqSt).stage := by
  have hlw : s.mySeq.pc + BitVec.ofNat 48 (4 * (op.len - 1)) = s.mySeq.pc := by
    rw [hlen]
    exact BitVec.add_zero _
  rw [retire_mySeq]
  simp only [Next.apply, SeqSt.advance, hlw, he]

end Sys2Proof.Machine

namespace Sys2Proof

open Machine

/-- Settles O4: both end their issue in order, and the words decode by `decMisc`. -/
theorem nopAndBreak : Obligations.NopAndBreak := by
  intro h s g
  have hbrk := exec_brk g
  refine ⟨does_of_retire (exec_nop g), does_of_light hbrk (light_breakpoint ..) (breakpoint_seqs ..), ?tokens,
    fun q w2 => ⟨decode_eq_decMap rfl rfl w2, decode_eq_decMap rfl rfl w2⟩, fun q w w2 hm _ hz => ?illegal, ?stop⟩
  case tokens =>
    rintro t (ht | ht) x
    · rw [exec_nop g] at ht
      exact Host.Outcome.next.inj ht ▸ retire_tok ..
    · rw [hbrk] at ht
      obtain rfl := Host.Outcome.next.inj ht
      rw [retire_tok, modMe_me, breakpoint_tok]
      rfl
  case illegal =>
    rw [decode_eq_decMap hm rfl]
    exact decMisc_error (.inl hz)
  case stop =>
    intro hrun t ht
    rw [hbrk] at ht
    obtain rfl := Host.Outcome.next.inj ht
    refine ⟨fun hon => retire_dbg_of_pending ?_, fun hoff => retire_dbg_of_off ?_ ?_⟩
    · rw [modMe_me, hon]
      simp [Core.breakpoint, Core.askStop, hrun]
    · rw [modMe_me, hoff]
      exact hrun
    · rw [modMe_me, breakpoint_part]
      exact hoff

/-- R105, R107: LOOP sets up its loop. -/
theorem loopSetup : Claims.LoopSetup := by
  intro h x swp n lid len c s op k start stop g hx hk hswp hin
  have hgood : s.mySeq.loopBad x swp k start stop = false := by
    rw [Bool.eq_false_iff, Ne, loopBad_iff]
    rintro (hlive | hbig | ⟨hs, hbig | hactive⟩ | ⟨i, hi, hout⟩)
    · exact hx hlive
    · omega
    · have := (hswp hs).1
      omega
    · exact hactive (hswp hs).2
    · exact hout (hin i hi)
  have hval : loopValue n s = k := rfl
  by_cases hzero : k = 0
  · obtain ⟨t, ht, hframe, hseq⟩ := exec_loop_skip (lid := lid) g hgood hzero
    refine ⟨t, ht, ?_⟩
    rw [hseq, hval, if_pos hzero, if_pos hzero]
    exact ⟨rfl, hframe, rfl, rfl, rfl, fun _ _ => rfl, fun _ hk => absurd hzero hk⟩
  · obtain ⟨t, ht, hframe, hseq⟩ := exec_loop_start (lid := lid) g hgood hzero
    refine ⟨t, ht, ?_⟩
    rw [hseq, hval, if_neg hzero, if_neg hzero]
    refine ⟨startLoop_pend, hframe, startLoop_h, startLoop_live, rfl, fun p hp => ?_, fun hs _ p hp => ?_⟩
    · exact startLoop_p_kept hx (hp.imp_right fun hp => hp.resolve_left hzero)
    · refine startLoop_p_swp hs hp rfl ?_
      rw [SeqSt.newLoop, BitVec.toNat_ofNat, Nat.mod_eq_of_lt hk]
      omega

/-- R105, R109: the loop fault of LOOP. -/
theorem loopFault : Claims.LoopFault := fun _ _ _ _ _ _ _ _ g hbad => exec_loop_bad g (loopBad_iff.mpr hbad)

/-- R106, R107: the end test at the last word of a body. -/
theorem loopEnd : Claims.LoopEnd := by
  intro h s g
  refine ⟨fun i rest hlive hstop => ⟨fun hmore => ?back, fun hdone hrest => ?last⟩, fun haway => ?away⟩
  case back =>
    have hseq := retire_endTests (op := op1 h [] [] []) (late := false) rfl
      ((congrArg _ hlive).trans (endTests_back hstop hmore))
    refine ⟨_, exec_nop g, ?_⟩
    rw [hseq, stage_pc, stage_h, stage_live]
    refine ⟨rfl, hlive.symm, by simp, fun j hj => ?_, fun hs k => ?_⟩
    · simp [Fin.val_ne_of_ne hj.symm]
    · rw [stage_p_of_swpLoop (i := i) (swpLoop_cons rfl (by simpa using hs)) (by simp)]
      simp
  case last =>
    subst hrest
    have hseq := retire_endTests (op := op1 h [] [] []) (late := false) rfl
      ((congrArg _ hlive).trans (endTests_last hstop hdone))
    refine ⟨_, exec_nop g, ?_⟩
    rw [hseq]
    exact ⟨rfl, rfl, by simp, rfl⟩
  case away =>
    have hseq := retire_endTests (op := op1 h [] [] []) (late := false) rfl (endTests_elsewhere haway)
    refine ⟨_, exec_nop g, ?_⟩
    rw [hseq, stage_pc, stage_h, stage_live]
    exact ⟨rfl, rfl, rfl⟩

/-- Settles O6: a LOOP that may set up its loop, a LOOP that may not, and the end test at a NOP. -/
theorem loops : Obligations.Loops := ⟨loopSetup, loopFault, loopEnd⟩

end Sys2Proof
end

section
/-! SUPPORT. What no program sees (`Quiet`): states that differ in nothing a program can see, and the arrivals of K's and the other
sequencers' rendezvous (O16). -/

namespace Sys2Proof.Machine

/-! ### What a program sees of a core -/

/-- What a program sees of a sequencer, with the loops that say whether p4 to p7 follow one. -/
def SeqSt.seen (x : SeqSt) := (x.s, x.b, x.p, x.h, x.live)

/-- What a program sees of a core, as `SameCore` lists it. -/
def Core.seen (c : Core) := (fun j => (c.sq j).seen, (c.v, c.m),
  (c.seqid, c.gen, c.rgnmax, c.rgncnt, c.retrylim, c.share, c.qwpart, c.clkdiv, c.vl, c.abfttol, c.histp, c.fmterr, c.tshape, c.fmt,
    c.drainpos), (c.acc, c.tiles, c.dmem, c.wins), (c.cut, c.task, c.pts), c.mem)

theorem SameCore.refl (c : Core) : SameCore c c := by constructor <;> intros <;> simp

/-- What is the same as a core is the same as every core that looks like it. -/
theorem SameCore.of_seen {c d e : Core} (h : d.seen = c.seen) (g : SameCore d e) : SameCore c e := by
  simp only [Core.seen, Prod.mk.injEq] at h
  obtain ⟨hseqs, ⟨hv, hm⟩, ⟨h1, h2, h3, h4, h5, h6, h7, h8, h9, h10, h11, h12, h13, h14, h15⟩, ⟨hacc, htiles, hdmem, hwins⟩,
    ⟨hcut, htask, hpts⟩, hmem⟩ := h
  have hsq (j : Fin 4) := congrFun hseqs j
  simp only [SeqSt.seen, Prod.mk.injEq] at hsq
  obtain ⟨scalars, preds, vectors, special, matrix, context, store⟩ := g
  constructor
  · intro j
    rw [← (hsq j).1, ← (hsq j).2.1]
    exact scalars j
  · intro j p hp
    obtain ⟨-, -, hpred, hh, hlive⟩ := hsq j
    rw [← hpred]
    exact preds j p (hp.imp_right fun hn => by rw [SeqSt.swpLoop, hh, hlive]; exact hn)
  · rw [← hv, ← hm]
    exact vectors
  · rw [← h1, ← h2, ← h3, ← h4, ← h5, ← h6, ← h7, ← h8, ← h9, ← h10, ← h11, ← h12, ← h13, ← h14, ← h15]
    exact special
  · rw [← hacc, ← htiles, ← hdmem, ← hwins]
    exact matrix
  · rw [← hcut, ← htask, ← hpts]
    exact context
  · rw [← hmem]
    exact store

/-- The place in time and the memory of the package, and what decides whether Feldspar carries a request. -/
def State.around (s : State) := (s.curCore, s.curSeq, s.rc, s.mem, s.linkDown)

/-- The states differ in nothing that a program sees. -/
structure Unseen (s t : State) : Prop where
  around : t.around = s.around
  cores : ∀ k, (t.core k).seen = (s.core k).seen

theorem Unseen.trans {s t u : State} (h : Unseen s t) (g : Unseen t u) : Unseen s u :=
  ⟨g.around.trans h.around, fun k => (g.cores k).trans (h.cores k)⟩

theorem State.curCore_of_around {s t : State} (h : t.around = s.around) : t.curCore = s.curCore := congrArg Prod.fst h
theorem State.curSeq_of_around {s t : State} (h : t.around = s.around) : t.curSeq = s.curSeq := congrArg (fun x => x.2.1) h
theorem State.rc_of_around {s t : State} (h : t.around = s.around) : t.rc = s.rc := congrArg (fun x => x.2.2.1) h
theorem State.mem_of_around {s t : State} (h : t.around = s.around) : t.mem = s.mem := congrArg (fun x => x.2.2.2.1) h
theorem State.linkDown_of_around {s t : State} (h : t.around = s.around) : t.linkDown = s.linkDown :=
  congrArg (fun x => x.2.2.2.2) h

theorem Quiet.refl (s : State) : Quiet s s := ⟨⟨rfl, rfl, rfl⟩, fun _ => .refl _, fun _ => rfl⟩

theorem Quiet.of_unseen {s t u : State} (h : Unseen s t) (g : Quiet t u) : Quiet s u := by
  obtain ⟨⟨hcore, hseq, hrc⟩, cores, memory⟩ := g
  have ha := h.around
  refine ⟨⟨hcore.trans (State.curCore_of_around ha), hseq.trans (State.curSeq_of_around ha), hrc.trans (State.rc_of_around ha)⟩,
    fun k => (cores k).of_seen (h.cores k), fun a => (memory a).trans ?_⟩
  rw [State.mem_of_around ha]

theorem Unseen.quiet {s t : State} (h : Unseen s t) : Quiet s t := (Quiet.refl t).of_unseen h

/-- A frame of nothing of its own, with the predicates kept, shows a program nothing. -/
theorem Frame.quiet {s t : State} (h : Frame id s t) (hp : PredsKept s t) : Quiet s t := by
  have hout := h.outside
  refine ⟨⟨by rw [hout], by rw [hout], by rw [hout]⟩, fun k => ?_, h.memory⟩
  by_cases hk : k = s.curCore
  · subst hk
    have hcur : t.core s.curCore = t.me := by rw [State.me, show t.curCore = s.curCore by rw [hout]]
    have hmine : t.mySeq = t.me.sq s.curSeq.idx := by rw [State.mySeq, show t.curSeq = s.curSeq by rw [hout]]
    have hcore := h.core
    refine ⟨fun j => ?_, fun j p hj => ?_, ?_, ?_, ?_, ?_, fun a => by rw [h.stores, if_pos rfl]; rfl⟩
    · rw [hcur]
      by_cases hj : j = s.curSeq.idx
      · subst hj
        rw [← hmine]
        exact ⟨h.scalars, h.latches⟩
      · rw [h.seqs j hj]
        exact ⟨rfl, rfl⟩
    · rw [hcur]
      by_cases hq : j = s.curSeq.idx
      · subst hq
        rw [← hmine]
        exact hp p hj
      · rw [h.seqs j hq]
        rfl
    all_goals
      rw [hcur, hcore]
      simp [State.me]
  · rw [h.others k hk]
    exact .refl _

/-- The end of an issue shows a program nothing. -/
theorem retire_quiet (s : State) (op : Op) (pops : Bool) (n : Next) (late : Bool) : Quiet s (s.retire op pops n late) :=
  (retire_frame ..).quiet (retire_preds s op pops n late)

/-- A core changed in nothing that a program sees. -/
theorem State.unseen_modCore {s : State} {k : CoreId} {f : Core → Core} (h : (f (s.core k)).seen = (s.core k).seen) :
    Unseen s (s.modCore k f) := by
  refine ⟨rfl, fun j => ?_⟩
  by_cases hj : j = k
  · subst hj
    rw [modCore_core_same, h]
  · rw [modCore_core_other s f hj]

/-! ### Arrivals -/

/-- The tokens of an instruction that arrives: its waits out, and its signals later (R100, R111). -/
theorem settled_tok_arriving (c : Core) (q : Fin 4) (op : Op) (pops late : Bool) (x : Fin 8) :
    (c.settled q op pops true late).tok[x] = c.tok[x] - (if x ∈ ringWaits q op.ring then 1 else 0) := by
  have htok : (c.settled q op pops true late).tok = (c.doTokens q op.ring false).tok := by
    cases pops <;> cases late <;> rfl
  rw [htok]
  simp [Core.doTokens]

theorem settled_offered_arriving (c : Core) (q : Fin 4) (op : Op) (pops late : Bool) :
    (c.settled q op pops true late).offered = c.offered := by
  cases late <;> cases pops <;> rfl

/-- What O16 asks of an instruction that arrives. -/
def Arrives (op : Op) (x : Arrival) (s t : State) : Prop :=
  t.mySeq.arrival = some x ∧ t.mySeq.apc = s.mySeq.pc ∧ t.mySeq.pend = s.mySeq.pend ∧ Past 1 s t ∧ t.me.offered = s.me.offered ∧
    ∀ y : Fin 8, t.me.tok[y] = s.me.tok[y] - (if y ∈ ringWaits s.curSeq.idx op.ring then 1 else 0)

theorem retire_arrives (s : State) {op : Op} (hlen : op.len = 1) (x : Arrival) (late : Bool) :
    Arrives op x s (s.retire op true (.arrive x) late) := by
  have hseq := retire_mySeq s op true (.arrive x) late
  refine ⟨?_, ?_, ?_, ?_, ?_, fun y => ?_⟩
  · rw [hseq]; rfl
  · rw [hseq]; rfl
  · rw [hseq, Next.apply_pend]
  · rw [Past, hseq, ← hlen]
    exact advance_live _ _ _ ⟨rfl, rfl, rfl⟩
  · rw [retire_eq_ended, modMe_me, ended_keeps Core.offered _ _ _ _ _ _ _ _ _ fun _ _ _ _ _ _ _ => rfl]
    exact settled_offered_arriving ..
  · rw [retire_eq_ended, modMe_me, ended_keeps Core.tok _ _ _ _ _ _ _ _ _ fun _ _ _ _ _ _ _ => rfl]
    exact settled_tok_arriving ..

theorem exec_commit {r : Ring} {p : Bool} {drop : BitVec 4} {tag : BitVec 8} {s : State} (g : Goes (opArrive r) s) :
    exec (.commit r p drop tag) s =
      .next (s.retire (opArrive r) true (.arrive ⟨.commit, tag, p, drop, r, compNone⟩) false) := by
  change execCommit r p drop tag s = _
  rw [execCommit, issue_goes g]

theorem exec_halt {r : Ring} {p : Bool} {drop : BitVec 4} {tag : BitVec 8} {s : State} (g : Goes (opArrive r) s) :
    exec (.halt r p drop tag) s = .next (s.retire (opArrive r) true (.arrive ⟨.halt, tag, p, drop, r, compNone⟩) false) := by
  change execHalt r p drop tag s = _
  rw [execHalt, issue_goes g]

/-- The arrival at a barrier of a team that the task is a member of (R340). -/
theorem barrier_member {h : Hdr} {d : Dest} {a : Sel} {status : Bool} {s : State} {m : Nat × Fin 16}
    (g : Goes { op1 h [a] [] (destRes d) with arr := true } s) (hteam : (s.val [a] 0).toNat < 256)
    (hm : (s.me.members.find? fun x => x.1 == (s.val [a] 0).toNat) = some m) :
    barrier h d a status s = .next (s.retire { op1 h [a] [] (destRes d) with arr := true } true
      (.arrive ⟨.bar (s.val [a] 0).toNat status d, 0, false, 0, h.ring, compNone⟩) true) := by
  rw [barrier, issue_goes g, withTeam]
  simp only [hm, Nat.not_lt.mpr (Nat.le_of_lt_succ hteam), if_false]

/-! ### SWPT -/

theorem Core.icLine_congr {c : Core} {q : Fin 4} {p : PartId} {a b : Nat} (h : a / 64 = b / 64) :
    c.icLine q p a = c.icLine q p b := by
  simp only [Core.icLine, icSet, h]

/-- A word whose line the I-cache holds (R115). -/
theorem State.fetchWord_hit {s : State} {k : CoreId} {q : Fin 4} {va : Nat} {l : ICLine} (spec : Bool)
    (h : (s.core k).icLine q (s.core k).part va = some l) : s.fetchWord k q va spec =
      .words (BitVec.ofNat 32 (l.data.toNat / 2 ^ (8 * (va % 64)))) 0 (s.modCore k fun c => c.icPut q l) := by
  unfold State.fetchWord
  dsimp only
  rw [h]

section
variable {va : Nat} {l0 l1 : ICLine} (hva : va % 128 = 0)
include hva

/-- The two lines of a switch table stand in different sets. -/
theorem icSet_table : icSet (va + 64) ≠ icSet va := by
  intro e
  have e := congrArg Fin.val e
  simp only [icSet, Fin.val_ofNat] at e
  omega

/-- Both lines stay in the cache when each in turn moves to the front of its set. -/
theorem Core.icLine_table {c : Core} (h0 : c.icLine 0 c.part va = some l0) (h1 : c.icLine 0 c.part (va + 64) = some l1) :
    (c.icPut 0 l0).icLine 0 c.part (va + 64) = some l1 ∧
      ((c.icPut 0 l0).icPut 0 l1).icLine 0 c.part va = some l0 ∧
      ((c.icPut 0 l0).icPut 0 l1).icLine 0 c.part (va + 64) = some l1 := by
  have h1' : (c.icPut 0 l0).icLine 0 c.part (va + 64) = some l1 := (Core.icLine_icPut h0 (.inr (icSet_table hva))).trans h1
  have h0' : (c.icPut 0 l0).icLine 0 c.part va = some l0 := (Core.icLine_icPut h0 (.inl rfl)).trans h0
  exact ⟨h1', (Core.icLine_icPut h1' (.inr (icSet_table hva).symm)).trans h0', (Core.icLine_icPut h1' (.inl rfl)).trans h1'⟩

/-- The two lines of K's table fetched (R377). -/
theorem State.fetchTable_hit {s : State} (h0 : s.me.icLine 0 s.me.part va = some l0)
    (h1 : s.me.icLine 0 s.me.part (va + 64) = some l1) :
    ∃ w, s.fetchTable va = .words w 0 (s.modMe fun c => (c.icPut 0 l0).icPut 0 l1) := by
  have hcore : (s.modCore s.curCore fun c => c.icPut 0 l0).core s.curCore = s.me.icPut 0 l0 := modCore_core_same ..
  have h1' : ((s.modCore s.curCore fun c => c.icPut 0 l0).core s.curCore).icLine 0
      ((s.modCore s.curCore fun c => c.icPut 0 l0).core s.curCore).part (va + 64) = some l1 :=
    hcore ▸ (Core.icLine_table hva h0 h1).1
  refine ⟨BitVec.ofNat 32 (l1.data.toNat / 2 ^ (8 * ((va + 64) % 64))), ?_⟩
  rw [State.fetchTable, State.fetchWord_hit false h0]
  dsimp only
  rw [modCore_curCore, State.fetchWord_hit false h1', State.modCore, hcore, State.modCore, State.setCore_setCore]
  rfl

/-- A counter of the table stands in the line of its half (R376). -/
theorem Core.tableWord_of_lines {c : Core} {i : Nat} (hi : i < 16) (h0 : c.icLine 0 c.part va = some l0)
    (h1 : c.icLine 0 c.part (va + 64) = some l1) :
    c.tableWord (va + 8 * i) = (if i < 8 then l0 else l1).data.toNat / 2 ^ (64 * (i % 8)) % 2 ^ 48 := by
  have hoff : 8 * ((va + 8 * i) % 64) = 64 * (i % 8) := by omega
  have hline : c.icLine 0 c.part (va + 8 * i) = some (if i < 8 then l0 else l1) := by
    by_cases h8 : i < 8
    · rw [if_pos h8, ← h0]
      exact Core.icLine_congr (by omega)
    · rw [if_neg h8, ← h1]
      exact Core.icLine_congr (by omega)
  rw [Core.tableWord, hline, hoff]

end

/-- The counters of a switch table by its two lines. -/
def tableOf (l0 l1 : ICLine) : List Nat :=
  (List.range 16).map fun i => (if i < 8 then l0 else l1).data.toNat / 2 ^ (64 * (i % 8)) % 2 ^ 48

/-- The arrival of an SWPT whose table stands in K's I-cache, word aligned (R377). -/
theorem exec_swpt {h : Hdr} {a : Sel} {s : State} {va : Nat} {l0 l1 : ICLine}
    (g : Goes { op1 h [a] [] [] with arr := true } s) (hval : va = (s.val [a] 0).toNat % 2 ^ 48) (hva : va % 128 = 0)
    (h0 : s.me.icLine 0 s.me.part va = some l0) (h1 : s.me.icLine 0 s.me.part (va + 64) = some l1)
    (hwords : ∀ x ∈ tableOf l0 l1, x % 4 = 0) :
    exec (.swpt h a) s = .next ((s.modMe fun c => (c.icPut 0 l0).icPut 0 l1).retire { op1 h [a] [] [] with arr := true } true
      (.arrive ⟨.swpt ((tableOf l0 l1).map (BitVec.ofNat 48)), 0, false, 0, h.ring, compNone⟩) true) := by
  obtain ⟨w, hfetch⟩ := State.fetchTable_hit hva h0 h1
  obtain ⟨-, h0', h1'⟩ := Core.icLine_table hva h0 h1
  have htable : ((List.range 16).map fun i => (s.modMe fun c => (c.icPut 0 l0).icPut 0 l1).me.tableWord (va + 8 * i)) =
      tableOf l0 l1 := by
    rw [modMe_me]
    exact List.map_congr_left fun i hi => Core.tableWord_of_lines hva (List.mem_range.mp hi) h0' h1'
  have hfind : (tableOf l0 l1).find? (fun x => x % 4 != 0) = none :=
    List.find?_eq_none.mpr fun x hx => by simp [hwords x hx]
  change execSwpt h a s = _
  rw [execSwpt, issue_goes g]
  simp only [← hval, hva, hfetch, htable, hfind, ne_eq, not_true_eq_false, if_false]

end Sys2Proof.Machine

namespace Sys2Proof

open Machine

/-- Settles O16: each arrival by the end of its issue. -/
theorem arrivals : Obligations.Arrivals := by
  intro h r p drop tag d a s arrives
  have arrives_of {i : Instr} {op op' : Op} {x : Arrival} {own : State → Prop} {t : State} (ht : exec i s = .next t)
      (harr : Arrives op' x s t) (hring : op'.ring = op.ring) (hown : own t) : arrives i op x own := by
    obtain ⟨h1, h2, h3, h4, h5, h6⟩ := harr
    exact ⟨t, ht, h1, h2, h3, h4, h5, hown, hring ▸ h6⟩
  refine ⟨fun g => ⟨?_, ?_⟩, fun team m ht hlt hm => ⟨fun g => ?_, fun g => ?_⟩, fun va l0 l1 hval hva h0 h1 hwords g => ?_⟩
  · exact arrives_of (exec_commit g) (retire_arrives s rfl _ _) rfl (retire_frame ..)
  · exact arrives_of (exec_halt g) (retire_arrives s rfl _ _) rfl (retire_frame ..)
  · subst ht
    exact arrives_of (barrier_member g hlt hm) (retire_arrives s rfl _ _) rfl (retire_frame ..)
  · subst ht
    exact arrives_of (barrier_member g hlt hm) (retire_arrives s rfl _ _) rfl (retire_frame ..)
  · have hunseen : Unseen s (s.modMe fun c => (c.icPut 0 l0).icPut 0 l1) := State.unseen_modCore rfl
    have hseq : (s.modMe fun c => (c.icPut 0 l0).icPut 0 l1).mySeq = s.mySeq := by
      simp only [State.mySeq, modMe_me, modMe_curSeq]
      rfl
    refine arrives_of (exec_swpt g hval hva h0 h1 hwords) ?_ rfl ((retire_quiet ..).of_unseen hunseen)
    have harr := retire_arrives (s.modMe fun c => (c.icPut 0 l0).icPut 0 l1) (op := { op1 h [a] [] [] with arr := true }) rfl
      ⟨.swpt ((tableOf l0 l1).map (BitVec.ofNat 48)), 0, false, 0, h.ring, compNone⟩ true
    rw [Arrives, Past, hseq, modMe_me] at harr
    exact harr

end Sys2Proof
end

section
/-! SUPPORT. YIELD.N (O21): the node boundary at which a pending pre-emption is taken. -/

namespace Sys2Proof.Machine

/-! ### The core and the sequencer in turn, past a rollback -/

theorem State.rollback_curCore (s : State) (k : CoreId) (keep : Bool) : (s.rollback k keep).curCore = s.curCore := by
  have hrefetch (t : State) : (t.refetch k).curCore = t.curCore := by
    unfold State.refetch
    split
    · split
      · split <;> rfl
      · rfl
    · rfl
  have hwaits (t : State) (hit : Waiter → Bool) : (t.dropWaits hit).curCore = t.curCore := by
    unfold State.dropWaits
    split <;> rfl
  unfold State.rollback
  extract_lets c busy c1 c2 u v
  have hu : u.curCore = s.curCore := by
    simp only [u]
    split <;> rfl
  have hv : v.curCore = s.curCore := ((hrefetch _).trans (hwaits ..)).trans hu
  split
  · exact hv
  · exact hv

/-! ### YIELD.N (R114) -/

/-- Whether a YIELD.N takes a pending pre-emption (R114). -/
def State.atNode (s : State) : Prop :=
  s.me.preempt ≠ none ∧ s.me.stopped = false ∧ s.mySeq.fresh = true ∧ ∀ q : Fin 4, (s.me.sq q).live = []

/-- The state that a pre-emption taken at a node boundary leaves. -/
def State.yieldNode (s : State) : State :=
  ((s.rollback s.curCore false).modCore s.curCore fun c =>
    { c with cut := { c.cut with pcs := c.cut.pcs.set 0 (s.mySeq.pc + 4) } }).beginSave s.curCore 1

theorem State.atNode_iff (s : State) : s.atNode ↔ (s.me.preempt.isSome && !s.me.stopped && s.mySeq.fresh &&
    ([0, 1, 2, 3] : List (Fin 4)).all fun q => (s.me.sq q).live.isEmpty) = true := by
  have hlive : (∀ q : Fin 4, (s.me.sq q).live = []) ↔
      ([0, 1, 2, 3] : List (Fin 4)).all (fun q => (s.me.sq q).live.isEmpty) = true := by
    simp [Fin.forall_fin_succ]
  rw [State.atNode, hlive]
  simp only [Bool.and_eq_true, Bool.not_eq_true', Option.isSome_iff_ne_none, and_assoc]

section
variable {h : Hdr} {s : State} (g : Goes (op1 h [] [] []) s)
include g

theorem exec_yieldN_on (hnode : ¬s.atNode) : exec (.yieldN h) s = .next (s.retire (op1 h [] [] []) true .seq false) := by
  rw [State.atNode_iff, Bool.not_eq_true] at hnode
  change execYieldN h s = _
  rw [execYieldN, issue_goes g]
  simp only [hnode, Bool.false_eq_true, if_false]

theorem exec_yieldN_taken (hnode : s.atNode) : exec (.yieldN h) s = .next s.yieldNode := by
  rw [State.atNode_iff] at hnode
  change execYieldN h s = _
  rw [execYieldN, issue_goes g]
  simp only [hnode, if_true]
  rfl

end

/-- The core of a node boundary: rolled back, K's program counter in its cut past the YIELD.N, and saving at node depth. -/
theorem State.yieldNode_me (s : State) : ∃ e b m a p, s.rc < e ∧ s.yieldNode.me =
    { ({ s.me.rollback s.curCore with
        banks := b, mid := m, acc := a, pinned := p
        cut := { s.me.cut with pcs := s.me.cut.pcs.set 0 (s.mySeq.pc + 4) } } : Core).retainPending with
      task := s.me.task.map fun t => { t with phase := .saving e 1 }, preempt := none, spec := none } := by
  obtain ⟨b, m, a, hback⟩ := State.rollback_core s s.curCore false
  obtain ⟨e, he, hsave⟩ := State.beginSave_core ((s.rollback s.curCore false).modCore s.curCore fun c =>
    { c with cut := { c.cut with pcs := c.cut.pcs.set 0 (s.mySeq.pc + 4) } }) s.curCore 1
  rw [modCore_core_same, hback] at hsave
  have hrc : (s.rollback s.curCore false).rc = s.rc := State.rc_eq (State.rollback_scene ..)
  have hcur : s.yieldNode.curCore = s.curCore := State.rollback_curCore ..
  refine ⟨e, b, m, a, (s.me.rollback s.curCore).pinned && false, hrc ▸ he, ?_⟩
  rw [State.me, hcur]
  exact hsave

end Sys2Proof.Machine

namespace Sys2Proof

open Machine

/-- R114, R32: YIELD.N. -/
theorem yieldNode : Claims.YieldNode := by
  intro h s g taken
  refine ⟨fun hnode => does_of_retire (exec_yieldN_on g hnode), fun hnode y hy => ?_⟩
  obtain ⟨e, b, m, a, p, he, hme⟩ := s.yieldNode_me
  have hsq (q : Fin 4) : s.yieldNode.me.sq q = (s.me.rollback s.curCore).sq q := (congrArg (fun c : Core => c.sq q) hme).trans rfl
  refine ⟨s.yieldNode, e, exec_yieldN_taken g hnode, ?_⟩
  generalize s.yieldNode.me = c at hme hsq ⊢
  subst hme
  refine ⟨congrArg (Option.map fun t : TaskSt => { t with phase := .saving e 1 }) hy, he, rfl, rfl, rfl, fun q => ?_, rfl,
    fun x => ?_, rfl, rfl, rfl, rfl, fun x => Vector.getElem_ofFn _, fun _ => rfl⟩
  · obtain ⟨p, hq⟩ := Core.rollback_sq s.me s.curCore q
    rw [hsq, hq]
    exact ⟨rfl, rfl, rfl, rfl, rfl, rfl, rfl⟩
  · exact congrArg QueueSt.ents (Vector.getElem_replicate _)

end Sys2Proof
end

section
/-! SUPPORT. Translation and the requests of lines, as a program sees them: what each leaves of the cores and of the package, and the
entry that a hit gives (O21). -/

namespace Sys2Proof.Machine

/-! ### What translation changes of a core -/

/-- The cores differ only in what translations, prefetches and counted requests change. -/
def Core.Xlated (c d : Core) : Prop := d = { c with
  tlb := d.tlb, stlb := d.stlb, walks := d.walks, prefs := d.prefs, xres := d.xres, touched := d.touched, used := d.used
  nextId := d.nextId, cntval := d.cntval, ovfs := d.ovfs }

theorem Core.Xlated.refl (c : Core) : c.Xlated c := rfl

theorem Core.Xlated.trans {c d e : Core} (h : c.Xlated d) (g : d.Xlated e) : c.Xlated e := by
  unfold Core.Xlated at *
  generalize d = d' at *
  rw [g, h]

theorem Core.Xlated.seen {c d : Core} (h : c.Xlated d) : d.seen = c.seen := (congrArg Core.seen h).trans rfl
theorem Core.Xlated.seqs {c d : Core} (h : c.Xlated d) : d.seqs = c.seqs := (congrArg Core.seqs h).trans rfl
theorem Core.Xlated.fills {c d : Core} (h : c.Xlated d) : d.fills = c.fills := (congrArg Core.fills h).trans rfl
theorem Core.Xlated.ic {c d : Core} (h : c.Xlated d) : d.ic = c.ic := (congrArg Core.ic h).trans rfl
theorem Core.Xlated.cb {c d : Core} (h : c.Xlated d) : d.cb = c.cb := (congrArg Core.cb h).trans rfl
theorem Core.Xlated.changing {c d : Core} (h : c.Xlated d) : d.changing = c.changing := (congrArg Core.changing h).trans rfl

/-- A counted event changes the counters alone. -/
theorem Core.xlated_countFor (c : Core) (own : Option PartId) (event unit arg : Nat) (x : Bool) :
    c.Xlated (c.countFor own event unit arg x) := by
  unfold Core.Xlated
  rw [countFor_core]

/-- The states differ only in what translations, prefetches and counted requests change. -/
structure State.Xlated (s t : State) : Prop where
  around : t.around = s.around
  cores : ∀ j, (s.core j).Xlated (t.core j)

theorem State.Xlated.refl (s : State) : s.Xlated s := ⟨rfl, fun _ => rfl⟩

theorem State.Xlated.trans {s t u : State} (h : s.Xlated t) (g : t.Xlated u) : s.Xlated u :=
  ⟨g.around.trans h.around, fun j => (h.cores j).trans (g.cores j)⟩

theorem State.Xlated.unseen {s t : State} (h : s.Xlated t) : Unseen s t := ⟨h.around, fun j => (h.cores j).seen⟩

theorem State.Xlated.curCore {s t : State} (h : s.Xlated t) : t.curCore = s.curCore := State.curCore_of_around h.around

theorem State.Xlated.mySeq {s t : State} (h : s.Xlated t) : t.mySeq = s.mySeq := by
  rw [State.mySeq, State.mySeq, State.me, State.me, h.curCore, State.curSeq_of_around h.around, sq_of_seqs (h.cores _).seqs]

theorem State.Xlated.farHeld {s t : State} (h : s.Xlated t) (k : CoreId) (pa : Nat) : t.farHeld k pa = s.farHeld k pa := by
  rw [State.farHeld, State.farHeld, (h.cores k).changing, State.linkDown_of_around h.around]

theorem State.xlated_modCore {s : State} {k : CoreId} {f : Core → Core} (h : (s.core k).Xlated (f (s.core k))) :
    s.Xlated (s.modCore k f) := by
  refine ⟨rfl, fun j => ?_⟩
  by_cases hj : j = k
  · subst hj
    rw [modCore_core_same]
    exact h
  · rw [modCore_core_other s f hj]
    exact .refl _

section
variable (s : State) (k : CoreId) (p : PartId)

theorem State.xlated_pumpWalks (x : Option (Fin 4)) : s.Xlated (s.pumpWalks k x) := by
  unfold State.pumpWalks
  dsimp only
  split
  · split
    · have hdraw : s.Xlated s.drawDelay.2 := ⟨rfl, fun _ => rfl⟩
      exact hdraw.trans (State.xlated_modCore (by exact rfl))
    · exact .refl s
  · exact .refl s

/-! ### Counted requests -/

/-- Whether Feldspar carries nothing on account of a die. -/
def Die.severed (d : Die) : Bool := d.retrain.isSome || bvf d.flstat 31 1 == 1 || bvf d.flstat 0 4 == 0 || bvf d.flstat 4 4 == 0

theorem State.linkDown_eq : s.linkDown = ((s.die 0).severed || (s.die 1).severed) := by
  have hdies : s.dies.toList = [s.die 0, s.die 1] := by
    refine List.ext_getElem (by simp) fun i hi _ => ?_
    have hi : i < 2 := by simpa using hi
    interval_cases i <;> simp [State.die]
  rw [State.linkDown, hdies]
  simp only [List.any_cons, List.any_nil, Bool.or_false]
  rfl

theorem State.linkDown_modDie {d : Fin 2} {f : Die → Die} (h : ∀ x, (f x).severed = x.severed) :
    (s.modDie d f).linkDown = s.linkDown := by
  have hdie (e : Fin 2) : ((s.modDie d f).die e).severed = (s.die e).severed := by
    by_cases he : e = d
    · rw [he, State.die_modDie_same, h]
    · rw [State.die_modDie_other s f he]
  rw [State.linkDown_eq, State.linkDown_eq, hdie, hdie]

/-- Migration counts changed. -/
theorem State.xlated_modDie {d : Fin 2} {f : Die → Die} (h : ∀ x, (f x).severed = x.severed) : s.Xlated (s.modDie d f) := by
  refine ⟨?_, fun _ => rfl⟩
  rw [State.around, State.linkDown_modDie s h]
  rfl

theorem State.xlated_migCount (pa : Nat) (nomig : Bool) : s.Xlated (s.migCount k p pa nomig) := by
  unfold State.migCount
  extract_lets s1
  have h1 : s.Xlated s1 := by
    simp only [s1]
    split
    · exact .refl s
    · have hdraw : s.Xlated s.drawPick.2 := ⟨rfl, fun _ => rfl⟩
      exact hdraw.trans (State.xlated_modCore (Core.xlated_countFor ..))
  split
  · exact h1
  · exact h1.trans (State.xlated_modDie s1 fun _ => rfl)

theorem State.xlated_prefLine (pa : Nat) (nomig : Bool) : s.Xlated (s.prefLine k p pa nomig) := by
  unfold State.prefLine
  split
  · exact State.xlated_modCore (by exact rfl)
  · exact State.xlated_migCount ..

/-! ### Translations -/

/-- The state that a translation leaves, whatever it answers. -/
def Xl.after : Xl → State
  | .hit _ _ s => s
  | .wait s => s
  | .fault _ s => s

variable (va : Nat) (kind : AccKind) (scope : Scope) (prefetch want : Bool)

theorem State.xlated_translate : s.Xlated (s.translate k p none va kind scope prefetch want).after := by
  unfold State.translate
  dsimp only
  split
  · rename_i e _
    have htouch : s.Xlated (s.modCore k fun c => c.setTlb none (tlbTouch (c.tlbOf none) e (tlbCap none))) :=
      State.xlated_modCore (by exact rfl)
    split
    · exact htouch
    · dsimp only [Xl.after]
      exact htouch.trans (State.xlated_modCore (by exact rfl))
  · split
    · dsimp only [Xl.after]
      exact State.xlated_modCore (by exact rfl)
    · split
      · exact .refl s
      · refine State.Xlated.trans (State.xlated_modCore ?_) (State.xlated_pumpWalks ..)
        refine Core.Xlated.trans ?_ rfl
        split
        · exact Core.xlated_countFor ..
        · exact .refl _

/-- A translation whose entry stands in the TLB and permits the access (R259). -/
theorem State.translate_hit {e : TlbEnt} (he : (s.core k).tlb.find? (fun e => e.covers p va) = some e)
    (hok : permits kind e.r e.w e.x = true) (hscope : scopeOk kind scope (e.pbase + va % e.size) = true) :
    ∃ touched used, s.translate k p none va kind scope prefetch want = .hit (e.pbase + va % e.size) e (s.setCore k
      { s.core k with tlb := tlbTouch (s.core k).tlb e 64, touched := touched, used := used }) := by
  unfold State.translate
  dsimp only
  rw [show ((s.core k).tlbOf none).find? (fun e => e.covers p va) = some e from he]
  simp only [hok, hscope, Bool.not_true, Bool.false_eq_true, or_self, if_false]
  rw [State.modCore_modCore]
  exact ⟨_, _, rfl⟩

end

end Sys2Proof.Machine
end

section
/-! SUPPORT. LAUNCH (O21): the record read through translation, and what the launch buffer takes. -/

namespace Sys2Proof.Machine

/-! ### Instructions whose body shows a program nothing -/

/-- The end in order of an instruction whose body shows a program nothing and leaves its sequencer's place. -/
theorem retire_unseen {s u : State} {op : Op} {late : Bool} (hu : Unseen s u) {l : List Pend}
    (hmine : u.mySeq = { s.mySeq with pend := l }) : (u.retire op true .seq late).mySeq.pend = l ∧
      Past op.len s (u.retire op true .seq late) ∧ Quiet s (u.retire op true .seq late) := by
  have hseq := retire_mySeq u op true .seq late
  refine ⟨?_, ?_, (retire_quiet ..).of_unseen hu⟩
  · rw [hseq, Next.apply_pend, hmine]
  · rw [Past, hseq, hmine]
    exact advance_live _ _ _ ⟨rfl, rfl, rfl⟩

/-! ### A read of bytes that the core has not buffered -/

theorem Mem.readN_eq_map (m : Mem) (a n : Nat) : m.readN a n = (List.range n).map fun i => m.read (a + i) := by
  induction n generalizing a with
  | zero => rfl
  | succ n ih =>
    rw [Mem.readN, ih, List.range_succ_eq_map, List.map_cons, List.map_map]
    refine congrArg _ (List.map_congr_left fun i _ => ?_)
    rw [Function.comp_apply, Nat.add_assoc, Nat.add_comm 1]

section
variable {s : State} {k : CoreId} {p : Piece}

theorem Core.cbByte_of_nil {c : Core} (h : c.cb = []) (home : Home) (a : Nat) : c.cbByte home a = none := by
  rw [Core.cbByte, h]
  rfl

theorem Core.forwarded_of_nil {c : Core} (h : c.cb = []) (hlen : p.len ≠ 0) : (c.forwarded p).1 = true := by
  obtain ⟨n, hn⟩ := Nat.exists_eq_succ_of_ne_zero hlen
  rw [Core.forwarded, hn, List.range_succ, List.foldl_append]
  simp only [List.foldl_cons, List.foldl_nil, Core.cbByte_of_nil h]

theorem State.homeBytes_of_nil (h : (s.core k).cb = []) (a n : Nat) : s.homeBytes k .hbm a n = s.mem.readN a n := by
  rw [State.homeBytes, Mem.readN_eq_map]
  simp only [Core.cbByte_of_nil h]
  rfl

/-- The first read of a granule gives its pair to the read set (R293). -/
theorem State.readPiece_of_nil {g : Gran} (hcb : (s.core k).cb = []) (hreads : (s.core k).reads = []) (hlen : p.len ≠ 0)
    (hg : granOf p.home p.addr = some g) :
    ∃ x r, s.readPiece k p = some ((s.setGran g x).modCore k fun c => { c with reads := r }) := by
  unfold State.readPiece
  simp only [hg, Core.forwarded_of_nil hcb hlen, if_true, hreads, addPair, List.find?_nil]
  exact ⟨_, _, rfl⟩

theorem State.unseen_setGran (s : State) (g : Gran) (x : GranSt) : Unseen s (s.setGran g x) := by
  refine ⟨?_, fun j => by rw [State.core, State.setGran_cores]; rfl⟩
  unfold State.setGran
  split <;> rfl

theorem State.poisoned_of_nil (h : s.poison = []) : s.poisoned k p = false := by
  simp [State.poisoned, h]

/-- No released region stands half performed on a granule whose claimant has released nothing. -/
theorem State.halfSeen_of_current {g : Gran} (hg : granOf p.home p.addr = some g)
    (h : ∀ x, (s.gran g).claim = some x → ∀ y ∈ (s.core x.1).cb, y.cur = true) : s.halfSeen p = false := by
  rw [State.halfSeen, hg]
  dsimp only
  split
  · rfl
  · rename_i hclaim
    refine List.any_eq_false.mpr fun y hy => ?_
    rw [h _ hclaim y hy]
    simp

theorem State.pinClaims_of_unpinned (h : (s.core k).pinned = false) (l : List Piece) : s.pinClaims k l = some s := by
  rw [State.pinClaims, h]
  rfl

end

/-- A counted request changes of its core the event counters alone. -/
theorem State.migCount_core (s : State) (k : CoreId) (p : PartId) (pa : Nat) (nomig : Bool) :
    ∃ v o, (s.migCount k p pa nomig).core k = { s.core k with cntval := v, ovfs := o } := by
  unfold State.migCount
  extract_lets s1
  have h1 : ∃ v o, s1.core k = { s.core k with cntval := v, ovfs := o } := by
    simp only [s1]
    split
    · exact ⟨_, _, rfl⟩
    · exact ⟨_, _, (modCore_core_same ..).trans (countFor_core ..)⟩
  split
  · exact h1
  · exact h1

theorem State.migCount_poison (s : State) (k : CoreId) (p : PartId) (pa : Nat) (nomig : Bool) :
    (s.migCount k p pa nomig).poison = s.poison := by
  unfold State.migCount
  extract_lets s1
  have h1 : s1.poison = s.poison := by
    simp only [s1]
    split <;> rfl
  split
  · exact h1
  · exact h1

/-! ### The launch buffer (R328) -/

/-- A core whose launch buffer has taken a record's bytes, for its task. -/
def Core.launched (c : Core) (y : TaskSt) (home : Fin 2) (r : List (BitVec 8)) : Core :=
  { c with lbuf := c.lbuf ++ [⟨c.nextId, launchOf c.part r, home, y.gang, y.idx, c.gen, true⟩], nextId := c.nextId + 1 }

section
variable {s : State} {pa va : Nat} {nomig : Bool} {y : TaskSt} (hpin : s.me.pinned = false) (hpoison : s.poison = [])
  (hcb : s.me.cb = []) (hreads : s.me.reads = []) (htask : s.me.task = some y)
  (hclaim : ∀ x, (s.gran (.line (pa / 64))).claim = some x → ∀ y ∈ (s.core x.1).cb, y.cur = true)
include hpin hpoison hcb hreads htask hclaim

/-- The read of a launch record that nothing holds: its bytes are those in memory (R328, log 10). -/
theorem launchRead_eq : ∃ u : State, Unseen s u ∧ (∃ v o r, u.me = { s.me with cntval := v, ovfs := o, reads := r }) ∧
    launchRead pa va nomig s = if launchOk (s.mem.readN pa 64)
      then .done (u.modMe fun c => c.launched y (hbmDie pa) (s.mem.readN pa 64)) .seq false else .trap 0x61 0 va u := by
  obtain ⟨v, o, hcount⟩ := State.migCount_core s s.curCore s.me.part pa nomig
  have hx := State.xlated_migCount s s.curCore s.me.part pa nomig
  have hpoison' := (State.migCount_poison s s.curCore s.me.part pa nomig).trans hpoison
  generalize hu1 : s.migCount s.curCore s.me.part pa nomig = u1 at hcount hx hpoison'
  obtain ⟨x, r, hread⟩ := State.readPiece_of_nil (s := u1) (k := s.curCore) (p := ⟨.hbm, pa, 0, 64, none⟩)
    (by rw [hcount]; exact hcb) (by rw [hcount]; exact hreads) (Nat.succ_ne_zero 63) rfl
  have hcore : ((u1.setGran (.line (pa / 64)) x).modCore s.curCore fun c => { c with reads := r }).core s.curCore =
      { s.me with cntval := v, ovfs := o, reads := r } := by
    rw [modCore_core_same, State.core_of_cores (State.setGran_cores ..), hcount]
    rfl
  have hunseen : Unseen s ((u1.setGran (.line (pa / 64)) x).modCore s.curCore fun c => { c with reads := r }) :=
    (hx.unseen.trans (State.unseen_setGran ..)).trans (State.unseen_modCore rfl)
  generalize hu : (u1.setGran (.line (pa / 64)) x).modCore s.curCore (fun c => { c with reads := r }) = u at hread hcore hunseen
  have hbytes : u.pieceBytes s.curCore ⟨.hbm, pa, 0, 64, none⟩ = s.mem.readN pa 64 := by
    rw [← State.mem_of_around hunseen.around]
    exact State.homeBytes_of_nil (by rw [hcore]; exact hcb) pa 64
  refine ⟨u, hunseen, ⟨v, o, r, ?_⟩, ?_⟩
  · rw [State.me, State.curCore_of_around hunseen.around]
    exact hcore
  · unfold launchRead
    simp only [State.halfSeen_of_current (p := ⟨.hbm, pa, 0, 64, none⟩) rfl hclaim, Bool.false_eq_true, if_false,
      State.pinClaims_of_unpinned hpin, hu1, State.poisoned_of_nil hpoison', hread, hbytes, htask]
    cases launchOk (s.mem.readN pa 64) <;> rfl

end

/-- The body of LAUNCH once its record is translated (R327, R328). -/
theorem exec_launch {h : Hdr} {a : Sel} {c : Comp} {s : State} {va pa : Nat} {y : TaskSt} (g : Goes (op2 h c [a] [] []) s)
    (hva : va = (s.val [a] 0).toNat % 2 ^ 48) (halign : va % 64 = 0) (hx : Translated s va .load .dev pa)
    (hroom : s.me.lbuf.length < 4) (hfar : s.farHeld s.curCore pa = false) (hpin : s.me.pinned = false) (hpoison : s.poison = [])
    (hcb : s.me.cb = []) (hreads : s.me.reads = []) (htask : s.me.task = some y)
    (hclaim : ∀ x, (s.gran (.line (pa / 64))).claim = some x → ∀ y ∈ (s.core x.1).cb, y.cur = true) :
    ∃ u : State, Unseen s u ∧ (∃ tlb touched used v o r, u.me = { s.me with
        tlb := tlb, touched := touched, used := used, cntval := v, ovfs := o, reads := r }) ∧
      exec (.launch h a c) s = .next (if launchOk (s.mem.readN pa 64) then
          (u.modMe fun c => c.launched y (hbmDie pa) (s.mem.readN pa 64)).retire (op2 h c [a] [] []) true .seq false
        else (u.noted (op2 h c [a] [] [])).trapHere 0x61 0 va) := by
  obtain ⟨e, he, hperm, rfl, hscope⟩ := hx
  obtain ⟨touched, used, hhit⟩ := State.translate_hit s s.curCore s.me.part va .load .dev false true he hperm hscope
  generalize hw : s.setCore s.curCore _ = w at hhit
  have hxl : s.Xlated w := by
    have hx := State.xlated_translate s s.curCore s.me.part va .load .dev false true
    rwa [hhit] at hx
  have hme : w.me = { s.me with tlb := tlbTouch s.me.tlb e 64, touched := touched, used := used } := by
    rw [State.me, hxl.curCore, ← hw, State.core_setCore_same]
    rfl
  obtain ⟨u, hunseen, ⟨v, o, r, hume⟩, hread⟩ := launchRead_eq (s := w) (pa := e.pbase + va % e.size) (va := va) (nomig := e.nomig)
    (y := y) (by rw [hme]; exact hpin) (by rw [← hw]; exact hpoison) (by rw [hme]; exact hcb) (by rw [hme]; exact hreads)
    (by rw [hme]; exact htask) (fun x hx z hz => hclaim x (by rw [← hx, ← hw]; rfl) z (Core.Xlated.cb (hxl.cores x.1) ▸ hz))
  refine ⟨u, hxl.unseen.trans hunseen, ⟨_, _, _, v, o, r, by rw [hume, hme]⟩, ?_⟩
  rw [State.mem_of_around hxl.around] at hread
  have hroom' : ¬4 ≤ w.me.lbuf.length := by
    rw [hme]
    exact Nat.not_le.mpr hroom
  have hfar' : w.farHeld w.curCore (e.pbase + va % e.size) = false := by
    rw [hxl.farHeld, hxl.curCore]
    exact hfar
  change execLaunch h a c s = _
  rw [execLaunch, issue_goes g]
  simp only [← hva, halign, ne_eq, not_true_eq_false, if_false, State.storeXlate, hhit, hroom', hfar', Bool.false_eq_true, hread]
  cases launchOk (s.mem.readN (e.pbase + va % e.size) 64) <;> rfl

end Sys2Proof.Machine

namespace Sys2Proof

open Machine

/-- R327, R328: LAUNCH. -/
theorem launchBuffered : Claims.LaunchBuffered := by
  intro h a c s va pa y g hva halign hx hroom hfar hpin hpoison hcb hreads htask hclaim r
  obtain ⟨u, hunseen, ⟨tlb, touched, used, v, o, rd, hme⟩, hexec⟩ :=
    exec_launch g hva halign hx hroom hfar hpin hpoison hcb hreads htask hclaim
  refine ⟨fun hok => ?_, fun hbad => ⟨u, ?_, hunseen.quiet⟩⟩
  · rw [if_pos hok] at hexec
    generalize hw : u.modMe (fun c => c.launched y (hbmDie pa) r) = w at hexec
    have hlaunched : w.me = u.me.launched y (hbmDie pa) r := by rw [← hw, modMe_me]
    rw [hme] at hlaunched
    have hseen : Unseen s w := hw ▸ hunseen.trans (State.unseen_modCore rfl)
    have hmine : w.mySeq = s.mySeq := by
      rw [State.mySeq, hlaunched, State.curSeq_of_around hseen.around]
      rfl
    have hpart : s.me.part = y.part := by rw [Core.part, htask]
    obtain ⟨hpend, hpast, hquiet⟩ := retire_unseen (op := op2 h c [a] [] []) (late := false) hseen hmine
    refine ⟨_, ⟨s.me.nextId, launchOf y.part r, hbmDie pa, y.gang, y.idx, s.me.gen, true⟩, hexec, ?_, rfl, rfl, rfl, rfl, rfl, rfl,
      hpend, hpast, hquiet⟩
    refine (congrArg Core.lbuf (retire_frame w (op2 h c [a] [] []) true .seq false).core).trans ?_
    refine (congrArg Core.lbuf hlaunched).trans ?_
    rw [← hpart]
    rfl
  · rw [hexec, if_neg (by rw [hbad]; decide)]

end Sys2Proof
end

section
/-! SUPPORT. PREF and PREFI (O21): the request of a line, and the fills that a PREFI names, each asked for in its turn. -/

namespace Sys2Proof.Machine

/-! ### PREF (R271) -/

theorem exec_pref {h : Hdr} {a : Sel} {scope : Scope} {off : BitVec 24} {c : Comp} {s : State} (g : Goes (op2 h c [a] [] []) s) :
    ∃ u : State, s.Xlated u ∧ exec (.pref h a scope off c) s = .next (u.retire (op2 h c [a] [] []) true .seq false) := by
  change ∃ u : State, s.Xlated u ∧ execPref h a scope off c s = _
  rw [execPref, issue_goes g]
  dsimp only
  have hx := State.xlated_translate s s.curCore s.me.part ((addOff (s.val [a] 0) off).toNat % 2 ^ 48) .load scope true false
  generalize s.translate s.curCore s.me.part none ((addOff (s.val [a] 0) off).toNat % 2 ^ 48) .load scope true false = r at hx
  cases r with
  | hit pa e u => exact ⟨_, hx.trans (State.xlated_prefLine ..), rfl⟩
  | wait u => exact ⟨_, hx.trans (State.xlated_modCore (by exact rfl)), rfl⟩
  | fault f u => exact ⟨u, hx, rfl⟩

/-! ### The fills that a PREFI names (R118) -/

/-- The fill of a line that a PREFI asks for, before its translation. -/
def Core.prefiFill (c : Core) (x : Fin 4) (id line : Nat) : Fill := ⟨x, c.part, line, none, 0, some id, 65536⟩

theorem foldl_addFill (x : Fin 4) (id : Nat) (line : Nat → Nat) (l : List Nat) (c : Core) :
    l.foldl (fun k i => k.addFill x (line i) (some id)) c = { c with fills := c.fills ++ (l.map line).map (c.prefiFill x id) } := by
  induction l generalizing c with
  | nil => simp
  | cons i l ih =>
    rw [List.foldl_cons, ih, List.map_cons, List.map_cons, Core.addFill, List.append_assoc]
    rfl

/-- A core that waits for the lines of a PREFI. -/
def Core.prefiAsked (c : Core) (q x : Fin 4) (lines : List Nat) (comp : Comp) : Core :=
  { ({ c with fills := c.fills ++ lines.map (c.prefiFill x c.nextId) } : Core).modSeq q fun q =>
      { q with pend := q.pend ++ [⟨c.nextId, .onReturn, [], comp⟩] } with
    nextId := c.nextId + 1 }

section
variable (c : Core) (q x : Fin 4) (lines : List Nat) (comp : Comp)

theorem prefiAsked_sq_same : (c.prefiAsked q x lines comp).sq q =
    { c.sq q with pend := (c.sq q).pend ++ [⟨c.nextId, .onReturn, [], comp⟩] } := by
  simp [Core.prefiAsked, Core.modSeq, Core.sq]

theorem prefiAsked_sq_other {j : Fin 4} (h : j ≠ q) : (c.prefiAsked q x lines comp).sq j = c.sq j := by
  simp [Core.prefiAsked, Core.modSeq, Core.sq, Fin.val_ne_of_ne h.symm]

theorem prefiAsked_seen : (c.prefiAsked q x lines comp).seen = c.seen := by
  refine congrArg (·, _) (funext fun j => ?_)
  by_cases hj : j = q
  · subst hj
    exact (congrArg SeqSt.seen (prefiAsked_sq_same c j x lines comp)).trans rfl
  · exact congrArg SeqSt.seen (prefiAsked_sq_other _ _ _ _ _ hj)

end

section
variable {h : Hdr} {x : Fin 4} {a : Sel} {nl : Fin 16} {off : BitVec 24} {c : Comp} {s : State} (g : Goes (op2 h c [a] [] []) s)
include g

theorem exec_prefi_unaligned (hva : (addOff (s.val [a] 0) off).toNat % 2 ^ 48 % 4 ≠ 0) :
    Traps (.prefi h x a nl off c) (op2 h c [a] [] []) 0x12 0 ((addOff (s.val [a] 0) off).toNat % 2 ^ 48) s := by
  change execPrefi h x a nl off c s = _
  unfold execPrefi
  dsimp only
  rw [issue_goes g]
  simp only [hva, ne_eq, not_false_eq_true, if_true]

theorem exec_prefi {va : Nat} (heq : va = (addOff (s.val [a] 0) off).toNat % 2 ^ 48) (hva : va % 4 = 0) :
    exec (.prefi h x a nl off c) s = .next (((s.modMe fun k => k.prefiAsked s.curSeq.idx x
      ((List.range (nl.val + 1)).map fun i => (va / 64 * 64 + 64 * i) % 2 ^ 48) c).pumpFills s.curCore).retire
        (op2 h c [a] [] []) true .seq true) := by
  change execPrefi h x a nl off c s = _
  unfold execPrefi
  dsimp only
  rw [issue_goes g]
  simp only [← heq, hva, ne_eq, not_true_eq_false, if_false, foldl_addFill]
  rfl

end

/-! ### The TLB past a translation -/

/-- The TLBs hold the same entries, and no more than a TLB holds. -/
def Core.SameTlb (c d : Core) : Prop := c.tlb.length ≤ 64 → d.tlb.length ≤ 64 ∧ ∀ e, e ∈ d.tlb ↔ e ∈ c.tlb

theorem Core.SameTlb.of_eq {c d : Core} (h : d.tlb = c.tlb) : c.SameTlb d := fun hc => ⟨h.symm ▸ hc, fun _ => h ▸ .rfl⟩

theorem Core.SameTlb.trans {c d e : Core} (h : c.SameTlb d) (g : d.SameTlb e) : c.SameTlb e := fun hc =>
  ⟨(g (h hc).1).1, fun x => ((g (h hc).1).2 x).trans ((h hc).2 x)⟩

/-- An entry used moves to the front of a TLB that it stands in (R259). -/
theorem tlbTouch_same {l : List TlbEnt} {e : TlbEnt} {n : Nat} (he : e ∈ l) (hl : l.length ≤ n) :
    (tlbTouch l e n).length ≤ n ∧ ∀ x, x ∈ tlbTouch l e n ↔ x ∈ l := by
  have hshort : (l.filter fun x => x != e).length < l.length :=
    List.length_filter_lt_length_iff_exists.mpr ⟨e, he, by simp⟩
  have hall : tlbTouch l e n = e :: l.filter fun x => x != e := List.take_of_length_le (by rw [List.length_cons]; omega)
  refine ⟨List.length_take_le .., fun x => ?_⟩
  rw [hall, List.mem_cons, List.mem_filter]
  by_cases hx : x = e
  · simp [hx, he]
  · simp [hx]

theorem State.pumpWalks_tlb (s : State) (k : CoreId) : ((s.pumpWalks k none).core k).tlb = (s.core k).tlb := by
  unfold State.pumpWalks
  dsimp only
  split
  · split
    · rw [modCore_core_same]
      rfl
    · rfl
  · rfl

theorem State.translate_sameTlb (s : State) (k : CoreId) (p : PartId) (va : Nat) (kind : AccKind) (scope : Scope)
    (prefetch want : Bool) : (s.core k).SameTlb ((s.translate k p none va kind scope prefetch want).after.core k) := by
  unfold State.translate
  dsimp only
  split
  · rename_i e he
    have htouch : (s.core k).SameTlb ((s.modCore k fun c => c.setTlb none (tlbTouch (c.tlbOf none) e (tlbCap none))).core k) := by
      rw [modCore_core_same]
      exact tlbTouch_same (List.mem_of_find?_eq_some he)
    split
    · exact htouch
    · dsimp only [Xl.after]
      refine htouch.trans (.of_eq ?_)
      rw [modCore_core_same]
  · split
    · dsimp only [Xl.after]
      refine .of_eq ?_
      rw [modCore_core_same]
    · split
      · exact .of_eq rfl
      · refine .of_eq ((State.pumpWalks_tlb ..).trans ?_)
        rw [modCore_core_same]
        split
        · rw [countFor_core]
        · rfl

/-! ### One fill in its turn -/

/-- A fill dropped. -/
def Core.dropFill (f : Fill) (c : Core) : Core := { c with fills := c.fills.filter fun g => g != f }

/-- A fill that has become another. -/
def Core.setFill (f f' : Fill) (c : Core) : Core := { c with fills := c.fills.map fun g => if g = f then f' else g }

/-- What a core does in its turn for a fill that waits for its translation (R118). -/
def State.pumpFill (k : CoreId) (s : State) (f : Fill) : State :=
  match s.translate k f.part none f.line .fetch .dev true true with
  | .wait u => u
  | .fault _ u => u.modCore k (Core.dropFill f)
  | .hit pa e u =>
    match (u.core k).icLine f.tgt f.part f.line with
    | some l => (u.modCore k (Core.dropFill f)).modCore k fun c => c.icPut f.tgt l
    | none =>
      if u.farHeld k pa then u
      else
        let v := (u.migCount k f.part pa e.nomig).drawDelay
        v.2.modCore k (Core.setFill f { f with pa := some pa, at_ := v.2.rc + 1 + v.1, size := e.size })

theorem State.pumpFills_eq_foldl (s : State) (k : CoreId) :
    s.pumpFills k = ((s.core k).fills.filter fun f => f.pa.isNone).foldl (State.pumpFill k) s := rfl

/-- What a fill is for. -/
def Fill.key (f : Fill) := (f.tgt, f.part, f.line, f.prefi)

/-- What a fill's turn can do: nothing but a translation; drop the fill; use a line that the cache holds; ask for the line. -/
theorem State.pumpFill_cases (k : CoreId) (s : State) (f : Fill) : ∃ u : State, s.Xlated u ∧ (s.core k).SameTlb (u.core k) ∧
    (s.pumpFill k f = u ∨ s.pumpFill k f = u.modCore k (Core.dropFill f) ∨
      (∃ l, (u.core k).icLine f.tgt f.part f.line = some l ∧
        s.pumpFill k f = (u.modCore k (Core.dropFill f)).modCore k fun c => c.icPut f.tgt l) ∨
      ∃ f' : Fill, f'.key = f.key ∧ f'.pa ≠ none ∧ s.pumpFill k f = u.modCore k (Core.setFill f f')) := by
  have hx := State.xlated_translate s k f.part f.line .fetch .dev true true
  have htlb := State.translate_sameTlb s k f.part f.line .fetch .dev true true
  unfold State.pumpFill
  generalize s.translate k f.part none f.line .fetch .dev true true = r at hx htlb
  cases r with
  | wait u => exact ⟨u, hx, htlb, .inl rfl⟩
  | fault e u => exact ⟨u, hx, htlb, .inr (.inl rfl)⟩
  | hit pa e u =>
    dsimp only [Xl.after] at hx htlb ⊢
    cases hl : (u.core k).icLine f.tgt f.part f.line with
    | some l => exact ⟨u, hx, htlb, .inr (.inr (.inl ⟨l, hl, rfl⟩))⟩
    | none =>
      dsimp only
      split
      · exact ⟨u, hx, htlb, .inl rfl⟩
      · have hcount := hx.trans (State.xlated_migCount u k f.part pa e.nomig)
        obtain ⟨v, o, hv⟩ := State.migCount_core u k f.part pa e.nomig
        have hsame : ((u.migCount k f.part pa e.nomig).core k).tlb = (u.core k).tlb := by rw [hv]
        refine ⟨(u.migCount k f.part pa e.nomig).drawDelay.2, ⟨hcount.around, hcount.cores⟩, htlb.trans (.of_eq hsame),
          .inr (.inr (.inr ⟨_, ?_, ?_, rfl⟩))⟩
        · rfl
        · exact Option.some_ne_none pa

/-! ### What the turns of fills leave -/

/-- The states differ only in what translations and fills change, and no sequencer is touched. -/
structure State.Supplied (s t : State) : Prop where
  unseen : Unseen s t
  seqs : ∀ j, (t.core j).seqs = (s.core j).seqs
  changing : ∀ j, (t.core j).changing = (s.core j).changing

theorem State.Supplied.refl (s : State) : s.Supplied s := ⟨⟨rfl, fun _ => rfl⟩, fun _ => rfl, fun _ => rfl⟩

theorem State.Supplied.trans {s t u : State} (h : s.Supplied t) (g : t.Supplied u) : s.Supplied u :=
  ⟨h.unseen.trans g.unseen, fun j => (g.seqs j).trans (h.seqs j), fun j => (g.changing j).trans (h.changing j)⟩

theorem State.Xlated.supplied {s t : State} (h : s.Xlated t) : s.Supplied t :=
  ⟨h.unseen, fun j => (h.cores j).seqs, fun j => (h.cores j).changing⟩

theorem State.Supplied.mySeq {s t : State} (h : s.Supplied t) : t.mySeq = s.mySeq := by
  rw [State.mySeq, State.mySeq, State.me, State.me, State.curCore_of_around h.unseen.around,
    State.curSeq_of_around h.unseen.around, sq_of_seqs (h.seqs _)]

theorem State.Supplied.farHeld {s t : State} (h : s.Supplied t) (k : CoreId) (pa : Nat) : t.farHeld k pa = s.farHeld k pa := by
  rw [State.farHeld, State.farHeld, h.changing, State.linkDown_of_around h.unseen.around]

theorem State.modCore_keeps {α : Type} (g : Core → α) {s : State} {k : CoreId} {f : Core → Core}
    (h : g (f (s.core k)) = g (s.core k)) (j : CoreId) : g ((s.modCore k f).core j) = g (s.core j) := by
  by_cases hj : j = k
  · subst hj
    rw [modCore_core_same, h]
  · rw [modCore_core_other s f hj]

/-- A change of a core's fills and I-cache. -/
theorem State.supplied_modCore {s : State} {k : CoreId} {f : Core → Core}
    (h : f (s.core k) = { s.core k with fills := (f (s.core k)).fills, ic := (f (s.core k)).ic }) : s.Supplied (s.modCore k f) := by
  exact ⟨State.unseen_modCore ((congrArg Core.seen h).trans rfl), State.modCore_keeps Core.seqs ((congrArg Core.seqs h).trans rfl),
    State.modCore_keeps Core.changing ((congrArg Core.changing h).trans rfl)⟩

theorem State.pumpFill_supplied (k : CoreId) (s : State) (f : Fill) : s.Supplied (s.pumpFill k f) := by
  obtain ⟨u, hx, -, h | h | ⟨l, -, h⟩ | ⟨f', -, -, h⟩⟩ := State.pumpFill_cases k s f
  · rw [h]
    exact hx.supplied
  · rw [h]
    exact hx.supplied.trans (State.supplied_modCore rfl)
  · rw [h]
    exact (hx.supplied.trans (State.supplied_modCore rfl)).trans (State.supplied_modCore rfl)
  · rw [h]
    exact hx.supplied.trans (State.supplied_modCore rfl)

theorem State.pumpFills_supplied (s : State) (k : CoreId) : s.Supplied (s.pumpFills k) :=
  State.foldl_keeps (P := fun t => s.Supplied t) (fun t f h => h.trans (State.pumpFill_supplied k t f)) _ (.refl s)

/-- A fill stays for what it was named for. -/
theorem State.pumpFill_keys (k : CoreId) (s : State) (f : Fill) :
    ∀ g ∈ ((s.pumpFill k f).core k).fills, ∃ g0 ∈ (s.core k).fills, g0.key = g.key := by
  obtain ⟨u, hx, -, h | h | ⟨l, -, h⟩ | ⟨f', hkey, -, h⟩⟩ := State.pumpFill_cases k s f
  all_goals
    rw [← (hx.cores k).fills, h]
    intro g hg
  · exact ⟨g, hg, rfl⟩
  · rw [modCore_core_same] at hg
    exact ⟨g, List.mem_of_mem_filter hg, rfl⟩
  · rw [modCore_core_same, modCore_core_same] at hg
    exact ⟨g, List.mem_of_mem_filter hg, rfl⟩
  · rw [modCore_core_same] at hg
    obtain ⟨g0, hg0, rfl⟩ := List.mem_map.mp hg
    refine ⟨g0, hg0, ?_⟩
    split
    · rename_i e
      rw [hkey, e]
    · rfl

theorem State.pumpFills_keys (s : State) (k : CoreId) :
    ∀ g ∈ ((s.pumpFills k).core k).fills, ∃ g0 ∈ (s.core k).fills, g0.key = g.key := by
  refine State.foldl_keeps (P := fun t => ∀ g ∈ (t.core k).fills, ∃ g0 ∈ (s.core k).fills, g0.key = g.key)
    (fun t f h g hg => ?_) _ fun g hg => ⟨g, hg, rfl⟩
  obtain ⟨g1, hg1, e1⟩ := State.pumpFill_keys k t f g hg
  obtain ⟨g0, hg0, e0⟩ := h g1 hg1
  exact ⟨g0, hg0, e0.trans e1⟩

/-- Another fill's turn leaves a fill standing. -/
theorem State.pumpFill_mem {k : CoreId} {s : State} {f g : Fill} (hg : g ∈ (s.core k).fills) (hne : g ≠ f) :
    g ∈ ((s.pumpFill k f).core k).fills := by
  obtain ⟨u, hx, -, h⟩ := State.pumpFill_cases k s f
  rw [← (hx.cores k).fills] at hg
  have hdrop : g ∈ ((u.core k).dropFill f).fills := List.mem_filter.mpr ⟨hg, by simpa using hne⟩
  rcases h with h | h | ⟨l, -, h⟩ | ⟨f', -, -, h⟩
  · rwa [h]
  · rw [h, modCore_core_same]
    exact hdrop
  · rw [h, modCore_core_same, modCore_core_same]
    exact hdrop
  · rw [h, modCore_core_same]
    exact List.mem_map.mpr ⟨g, hg, if_neg hne⟩

/-- A line used in the cache brings no other line there. -/
theorem Core.icLine_icPut_none {c : Core} {q q' : Fin 4} {p p' : PartId} {a b : Nat} {l : ICLine} (h : c.icLine q p a = some l)
    (hb : c.icLine q' p' b = none) : (c.icPut q l).icLine q' p' b = none := by
  obtain ⟨-, haddr⟩ := Core.icLine_eq_some h
  have hset : icSet l.addr = icSet a := by rw [haddr, icSet_line]
  have hmem : ∀ i, icSet a = i → l ∈ (c.ic[q])[i] := by
    rintro _ rfl
    exact List.mem_of_find?_eq_some h
  refine List.find?_eq_none.mpr fun y hy => List.find?_eq_none.mp hb y ?_
  by_cases hq : q = q'
  · subst hq
    by_cases hs : icSet l.addr = icSet b
    · simp only [Core.icPut, Fin.getElem_fin, Vector.getElem_set_self, hs] at hy
      rcases List.mem_cons.mp (List.mem_of_mem_take hy) with rfl | hy
      · exact hmem _ (hset.symm.trans hs)
      · exact List.mem_of_mem_filter hy
    · simpa [Core.icPut, Vector.getElem_set_ne, Fin.val_ne_of_ne hs] using hy
  · simpa [Core.icPut, Vector.getElem_set_ne, Fin.val_ne_of_ne hq] using hy

/-! ### A line asked for in its fill's turn -/

/-- A fill waits whose line is to be asked for: its translation stands in the TLB, alone of its page, the I-cache lacks the line, and
nothing holds the request. -/
structure State.Awaits (s : State) (k : CoreId) (f : Fill) (pa : Nat) : Prop where
  waiting : f ∈ (s.core k).fills
  small : (s.core k).tlb.length ≤ 64
  entry : ∃ e ∈ (s.core k).tlb, e.covers f.part f.line = true ∧ permits .fetch e.r e.w e.x = true ∧
    pa = e.pbase + f.line % e.size ∧ scopeOk .fetch .dev pa = true
  alone : ∀ e ∈ (s.core k).tlb, ∀ e' ∈ (s.core k).tlb, e.covers f.part f.line = true → e'.covers f.part f.line = true → e = e'
  absent : (s.core k).icLine f.tgt f.part f.line = none
  near : s.farHeld k pa = false

section
variable {k : CoreId} {s : State} {f g : Fill} {pa : Nat}

theorem State.Awaits.pumpFill_other (h : s.Awaits k f pa) (hne : f ≠ g) : (s.pumpFill k g).Awaits k f pa := by
  have hsup := State.pumpFill_supplied k s g
  have hmem := State.pumpFill_mem h.waiting hne
  obtain ⟨u, hx, htlb, hcase⟩ := State.pumpFill_cases k s g
  obtain ⟨hsmall, hsame⟩ := htlb h.small
  have habsent : (u.core k).icLine f.tgt f.part f.line = none := by
    rw [Core.icLine, (hx.cores k).ic]
    exact h.absent
  have hcore : ((s.pumpFill k g).core k).tlb = (u.core k).tlb ∧ ((s.pumpFill k g).core k).icLine f.tgt f.part f.line = none := by
    rcases hcase with e | e | ⟨l, hl, e⟩ | ⟨f', -, -, e⟩
    · rw [e]
      exact ⟨rfl, habsent⟩
    · rw [e, modCore_core_same]
      exact ⟨rfl, habsent⟩
    · rw [e, modCore_core_same, modCore_core_same]
      exact ⟨rfl, Core.icLine_icPut_none (c := (u.core k).dropFill g) hl habsent⟩
    · rw [e, modCore_core_same]
      exact ⟨rfl, habsent⟩
  obtain ⟨htlbs, habs⟩ := hcore
  obtain ⟨e, he, hcov⟩ := h.entry
  refine ⟨hmem, htlbs ▸ hsmall, ⟨e, ?_, hcov⟩, fun e1 h1 e2 h2 => ?_, habs, (hsup.farHeld k pa).trans h.near⟩
  · rw [htlbs]
    exact (hsame e).mpr he
  · rw [htlbs] at h1 h2
    exact h.alone e1 ((hsame e1).mp h1) e2 ((hsame e2).mp h2)

/-- The turn of such a fill asks for its line (R118). -/
theorem State.Awaits.pumpFill_same (h : s.Awaits k f pa) : ∃ f' ∈ ((s.pumpFill k f).core k).fills,
    f'.key = f.key ∧ f'.pa = some pa ∧ s.rc < f'.at_ := by
  obtain ⟨e, he, hcov, hperm, rfl, hscope⟩ := h.entry
  have hfind : (s.core k).tlb.find? (fun e => e.covers f.part f.line) = some e := by
    cases hf : (s.core k).tlb.find? (fun e => e.covers f.part f.line) with
    | none => exact absurd hcov (List.find?_eq_none.mp hf e he)
    | some e' => rw [h.alone e' (List.mem_of_find?_eq_some hf) e he (by simpa using List.find?_some hf) hcov]
  obtain ⟨touched, used, hhit⟩ := State.translate_hit s k f.part f.line .fetch .dev true true hfind hperm hscope
  have hx := State.xlated_translate s k f.part f.line .fetch .dev true true
  rw [hhit] at hx
  generalize s.setCore k _ = u at hhit hx
  dsimp only [Xl.after] at hx
  have habsent : (u.core k).icLine f.tgt f.part f.line = none := by
    rw [Core.icLine, (hx.cores k).ic]
    exact h.absent
  have hnear : u.farHeld k (e.pbase + f.line % e.size) = false := (hx.farHeld k _).trans h.near
  have hcount := hx.trans (State.xlated_migCount u k f.part (e.pbase + f.line % e.size) e.nomig)
  unfold State.pumpFill
  rw [hhit]
  simp only [habsent, hnear, Bool.false_eq_true, if_false]
  rw [modCore_core_same]
  have hwaiting : f ∈ ((u.migCount k f.part (e.pbase + f.line % e.size) e.nomig).core k).fills :=
    (hcount.cores k).fills.symm ▸ h.waiting
  have hrc : (u.migCount k f.part (e.pbase + f.line % e.size) e.nomig).rc = s.rc := State.rc_of_around hcount.around
  refine ⟨_, List.mem_map.mpr ⟨f, hwaiting, if_pos rfl⟩, rfl, rfl, ?_⟩
  exact Nat.lt_of_lt_of_le (Nat.lt_succ_of_le hrc.ge) (Nat.le_add_right ..)

/-- A line that has been asked for stays asked for in the turns of waiting fills. -/
theorem State.foldl_pumpFill_mem (l : List Fill) (hl : ∀ g ∈ l, g.pa = none) (hf : f.pa ≠ none) (h : f ∈ (s.core k).fills) :
    f ∈ ((l.foldl (State.pumpFill k) s).core k).fills := by
  induction l generalizing s with
  | nil => exact h
  | cons g l ih =>
    refine ih (fun g hg => hl g (List.mem_cons_of_mem _ hg)) (State.pumpFill_mem h ?_)
    rintro rfl
    exact hf (hl f List.mem_cons_self)

/-- A line asked for in the turns of a list of waiting fills. -/
theorem State.Awaits.foldl (l : List Fill) (hl : ∀ g ∈ l, g.pa = none) (hf : f ∈ l) (h : s.Awaits k f pa) :
    ∃ f' ∈ ((l.foldl (State.pumpFill k) s).core k).fills, f'.key = f.key ∧ f'.pa = some pa ∧ s.rc < f'.at_ := by
  induction l generalizing s with
  | nil => cases hf
  | cons g l ih =>
    have hrest : ∀ g ∈ l, g.pa = none := fun g hg => hl g (List.mem_cons_of_mem _ hg)
    rw [List.foldl_cons]
    by_cases hg : f = g
    · subst hg
      obtain ⟨f', hmem, hkey, hpa, hrc⟩ := h.pumpFill_same
      refine ⟨f', ?_, hkey, hpa, hrc⟩
      exact State.foldl_pumpFill_mem l hrest (by simp [hpa]) hmem
    · obtain ⟨f', hmem, hkey, hpa, hrc⟩ := ih hrest ((List.mem_cons.mp hf).resolve_left hg) (h.pumpFill_other hg)
      exact ⟨f', hmem, hkey, hpa, (State.rc_of_around (State.pumpFill_supplied k s g).unseen.around) ▸ hrc⟩

end

end Sys2Proof.Machine

namespace Sys2Proof

open Machine

/-- R118, R271: PREF and PREFI. -/
theorem prefetches : Claims.Prefetches := by
  intro h x a scope nl off c s g va lines
  refine ⟨?pref, fun hva hfresh => ?prefi, fun hva => exec_prefi_unaligned g hva⟩
  case pref =>
    obtain ⟨u, hx, hexec⟩ := exec_pref (scope := scope) (off := off) g
    exact ⟨_, hexec, retire_unseen hx.unseen hx.mySeq⟩
  case prefi =>
    have hexec : exec (.prefi h x a nl off c) s = .next (((s.modMe fun k => k.prefiAsked s.curSeq.idx x lines c).pumpFills
        s.curCore).retire (op2 h c [a] [] []) true .seq true) := exec_prefi g rfl hva
    generalize hs0 : s.modMe (fun k => k.prefiAsked s.curSeq.idx x lines c) = s0 at hexec
    have hme : s0.core s.curCore = s.me.prefiAsked s.curSeq.idx x lines c := by rw [← hs0]; exact modMe_me ..
    have hseen : Unseen s s0 := hs0 ▸ State.unseen_modCore (prefiAsked_seen ..)
    have hsup := s0.pumpFills_supplied s.curCore
    have hmine : (s0.pumpFills s.curCore).mySeq =
        { s.mySeq with pend := s.mySeq.pend ++ [⟨s.me.nextId, .onReturn, [], c⟩] } := by
      rw [hsup.mySeq, State.mySeq, State.me, State.curCore_of_around hseen.around, State.curSeq_of_around hseen.around, hme]
      exact prefiAsked_sq_same ..
    obtain ⟨hpend, hpast, hquiet⟩ := retire_unseen (op := op2 h c [a] [] []) (late := true) (hseen.trans hsup.unseen) hmine
    have hcur : (s0.pumpFills s.curCore).curCore = s.curCore := State.curCore_of_around (hseen.trans hsup.unseen).around
    have hfills : ((s0.pumpFills s.curCore).retire (op2 h c [a] [] []) true .seq true).me.fills =
        ((s0.pumpFills s.curCore).core s.curCore).fills := by
      refine (congrArg Core.fills (retire_frame ..).core).trans ?_
      rw [State.me, hcur]
      rfl
    have hasked : (s0.core s.curCore).fills = s.me.fills ++ lines.map (s.me.prefiFill x s.me.nextId) := congrArg Core.fills hme
    refine ⟨_, hexec, hpast, hquiet, hpend, ?named, ?asked⟩
    case named =>
      rw [hfills]
      intro f hf hid
      obtain ⟨f0, hf0, hkey⟩ := State.pumpFills_keys s0 s.curCore f hf
      simp only [Fill.key, Prod.mk.injEq] at hkey
      obtain ⟨htgt, hpart, hline, hprefi⟩ := hkey
      rw [hasked] at hf0
      rcases List.mem_append.mp hf0 with hold | hnew
      · exact absurd (hprefi.trans hid) (hfresh f0 hold)
      · obtain ⟨y, hy, rfl⟩ := List.mem_map.mp hnew
        exact ⟨htgt.symm, hpart.symm, hline ▸ hy⟩
    case asked =>
      rw [hfills, State.pumpFills_eq_foldl]
      intro y hy pa hx habsent hnear hsmall halone
      obtain ⟨e, he, hperm, hpa, hscope⟩ := hx
      have htlb : (s0.core s.curCore).tlb = s.me.tlb := (congrArg Core.tlb hme).trans rfl
      have hcovers : e.covers s.me.part y = true := by simpa using List.find?_some he
      have hnamed : s.me.prefiFill x s.me.nextId y ∈ (s0.core s.curCore).fills :=
        hasked ▸ List.mem_append_right _ (List.mem_map_of_mem hy)
      have hawaits : s0.Awaits s.curCore (s.me.prefiFill x s.me.nextId y) pa := by
        refine ⟨hnamed, htlb ▸ hsmall, ⟨e, htlb ▸ List.mem_of_find?_eq_some he, hcovers, hperm, hpa, hscope⟩,
          htlb ▸ halone, ?_, ?_⟩
        · rw [hme]
          exact habsent
        · rw [State.farHeld, hme, State.linkDown_of_around hseen.around]
          exact hnear
      obtain ⟨f', hmem, hkey, hat, hrc⟩ := hawaits.foldl ((s0.core s.curCore).fills.filter fun f => f.pa.isNone)
        (fun f hf => Option.isNone_iff_eq_none.mp (List.mem_filter.mp hf).2) (List.mem_filter.mpr ⟨hnamed, rfl⟩)
      simp only [Fill.key, Prod.mk.injEq] at hkey
      obtain ⟨htgt, -, hline, hprefi⟩ := hkey
      exact ⟨f', hmem, hprefi, htgt, hline, hat, State.rc_of_around hseen.around ▸ hrc⟩

/-- Settles O21: YIELD.N by its cut or its light form, LAUNCH by what the record's read leaves, and a PREFI by the turns of the fills
that it names. -/
theorem nodesLaunchesPrefetches : Obligations.NodesLaunchesPrefetches := ⟨yieldNode, launchBuffered, prefetches⟩

end Sys2Proof
end
